-- ==== Sys2Proof/Word.lean ====
section
/-! DEFINITION. The plain words of the K16: bytes, 64-bit words, and reading a field of a number (R7: bit 0 is the
least significant bit). -/

namespace Sys2Proof

abbrev Byte := BitVec 8
abbrev Word := BitVec 64
abbrev F32 := BitVec 32
abbrev BF16 := BitVec 16
abbrev F16 := BitVec 16

/-- Field `[lo + len - 1 : lo]` of a number read as a row of bits (R7). -/
def fieldOf (n lo len : Nat) : Nat := (n / 2 ^ lo) % 2 ^ len

/-- Field `[lo + len - 1 : lo]` of a 64-bit word. -/
def Word.field (w : Word) (lo len : Nat) : Nat := fieldOf w.toNat lo len

/-- Bit `i` of a number. -/
def bitOf (n i : Nat) : Bool := (n / 2 ^ i) % 2 == 1

/-- The bit as a number. -/
def b2n (b : Bool) : Nat := if b then 1 else 0

/-- `⌈a ÷ b⌉`. -/
def ceilDiv (a b : Nat) : Nat := (a + b - 1) / b

end Sys2Proof
end

