-- ==== Sys2Proof/Syntax.lean ====
section
/-! DEFINITION. The commands of the block: one constructor per row of spec/opcode_table.json, with the row's operands.
Job commands name the queue whose next job they are: their parameter words travel in the submission entry (R363).
Rows that the clock brings about carry `now`, the ELAPSED_NS value at which they occur; rows that bring in something
from outside (a frame, a sensor reading, an ECC decode result) carry it. -/

namespace Sys2Proof

abbrev QueueId := Fin 64
abbrev CtxId := Fin 64
abbrev SlotId := Fin 8
abbrev PortId := Fin 16
abbrev ClusterId := Fin 16
abbrev RegionId := Fin 8
abbrev EngineId := Fin 4
abbrev VeId := Fin 32

/-- Pooling modes, coded 0 to 4 (R111, R122). -/
inductive Pool where
  | none | sum | wsum | mean | max
  deriving DecidableEq, Repr

/-- Decode result of one 32-byte half of a granule as its controller reports it: one symbol in error, or more (R241). -/
inductive Ecc where
  | corrected
  | uncorrectable
  deriving DecidableEq, Repr

/-- Errors that have struck device memory before a command: (a DPA in the half, what its next read decodes to). A granule that
the command does not read keeps its own for whoever reads it next. -/
abbrev EccList := List (Nat × Ecc)

/-- What a port's decoder has corrected since the last frame: codewords, and symbols by lane (R287, R292). -/
structure FecSeen where
  codewords : Nat := 0
  lanes : List Nat := []
  deriving DecidableEq, Repr

/-- What a port met with a frame that it discards (R281, R287). -/
structure ForeignSeen where
  ce : Bool
  fec : FecSeen := {}
  deriving DecidableEq, Repr

/-- The transport header of a received frame (R271), with the port it arrived on and its ECN mark (R282). The
checks of R272 before these fields (FCS, addresses, lengths) are those of FOREIGN_FRAME. -/
structure Frame where
  port : PortId
  domain : Nat
  srcDev : Nat
  dstDev : Nat
  srcInc : Nat
  dstInc : Nat
  /-- CLASS: true for UPDATE, false for SERVE -/
  update : Bool
  seq : Nat
  ackValid : Bool
  ackUpdate : Bool
  ackSeq : Nat
  sack : BitVec 64
  rwin : Nat
  ece : Bool
  cePort : PortId
  ce : Bool
  fec : FecSeen := {}
  deriving DecidableEq, Repr

/-- One entry of a request message (R111). -/
structure ReqEntry where
  row : Nat
  sample : Nat
  weight : F32
  deriving DecidableEq, Repr

/-- A request message (R111). -/
structure ReqMsg where
  stepSeq : Nat
  slot : SlotId
  reissue : Bool
  fill : Bool
  table : Nat
  pool : Pool
  version : Nat
  reqId : Nat
  entries : List ReqEntry
  deriving DecidableEq, Repr

/-- One entry of a reply message (R117). A ROW body is the row header, the codes and the appended side entries. -/
inductive RepEntry where
  | row (row : Nat) (body : List Byte)
  | partialSum (sample : Nat) (count : Nat) (rowVersion : Nat) (vals : List F32)
  | notHeld (row : Nat)
  deriving DecidableEq, Repr

/-- A reply message (R117). -/
structure RepMsg where
  stepSeq : Nat
  slot : SlotId
  skew : Bool
  final : Bool
  table : Nat
  version : Nat
  reqId : Nat
  entries : List RepEntry
  deriving DecidableEq, Repr

/-- An update record (R135). The payload holds the raw values, 16 or 32 bits each by `fp32`. -/
structure UpdRec where
  table : Nat
  replace : Bool
  fp32 : Bool
  mapped : Bool
  contrib : Nat
  epoch : Nat
  index : Nat
  seq : Nat
  payload : List Nat
  deriving DecidableEq, Repr

/-- A close marker (R143). -/
structure Marker where
  epoch : Nat
  contrib : Nat
  records : Nat
  digest : Nat
  deriving DecidableEq, Repr

/-- The body of a REFLECTION_PUSH (R273): table, row, the owner's lit version and seam, and the ROW body. -/
structure Push where
  table : Nat
  row : Nat
  version : Nat
  seam : Nat
  body : List Byte
  deriving DecidableEq, Repr

/-- The body of a GLINT (R274). -/
structure GlintBody where
  device : Nat
  state : Nat
  dim : Bool
  cause : Nat
  ports : BitVec 16
  seam : Nat
  interval : Nat
  deriving DecidableEq, Repr

/-- Why a received frame is foreign or dropped by the first three checks of R272. -/
inductive ForeignKind where
  /-- order 1: FCS wrong; the MAC counts it -/
  | fcs
  /-- order 2: not a transport frame, a pause, PFC or tagged frame -/
  | notTransport
  /-- order 3: address, checksum, version, domain, device, length or reserved field; or a reserved KIND -/
  | check
  /-- the port's receive buffer is full (R14) -/
  | noBuffer
  deriving DecidableEq, Repr

/-- Answer to an ATS Translation Request (R348 to R350). -/
inductive AtsAnswer where
  /-- translated: host physical address of the translation's first byte and its size, 4 KiB or more -/
  | ok (hpa : Nat) (size : Nat)
  | denied
  | error
  deriving DecidableEq, Repr

/-- Response codes of a page request group (R350). -/
inductive PriAnswer where
  | success | invalidRequest | responseFailure
  deriving DecidableEq, Repr

/-- Registers of configuration space that the spec names (R313, R316, R347, R351, R355, R491, R495). -/
inductive CfgReg where
  | vendorPart | bar0 | bar2 | bar4 | atsEnable | pasidEnable | priEnable | priAllocation
  | priCapacity | invalidateQueueDepth | flrCapable | cxlResetCapable | hdmBase | hdmCommit | viralEnable | memInfoValid | memActive | aerStatus
  deriving DecidableEq, Repr

/-- The three memory windows (R315). -/
inductive Bar where
  | control | boot | component
  deriving DecidableEq, Repr

/-- What a host CXL.mem read asks for (R318). -/
inductive HostWant where
  | none | shared | exclusive
  deriving DecidableEq, Repr

/-- A word that the checkers of RUN_TRAFFIC_TEST report (R254, R256): the iteration, its DPA, and what was read there, before the
controller's correction. -/
structure TestFinding where
  iter : Nat
  wordAddr : Nat
  observed : Word
  deriving DecidableEq, Repr

/-- What the cells of one traffic test gave (R254, R256). -/
structure TrafficResult where
  /-- words read, those that are not reported being as the pattern put them -/
  reads : List TestFinding
  /-- iteration, DPA and symbols of each corrected 32-byte half -/
  corrected : List (Nat × Nat × Nat)
  /-- iteration and DPA of each uncorrectable granule -/
  uncorrectable : List (Nat × Nat)
  /-- run time in units of 10 µs -/
  time : Nat
  deriving DecidableEq, Repr

/-- What LINK_TEST saw on one port (R291). -/
structure LinkResult where
  sent : Nat
  good : Nat
  bad : Nat
  fecCorrected : Nat
  fecUncorrectable : Nat
  laneErrors : List Nat
  laneLock : BitVec 8
  deriving DecidableEq, Repr

/-- I3C transfers and SETDASA, each with the address that it names (R517). -/
structure I3cWrite where
  target : BitVec 7
  byte : Byte
  deriving DecidableEq, Repr

structure I3cRead where
  target : BitVec 7
  count : Nat
  deriving DecidableEq, Repr

structure I3cAssign where
  static : BitVec 7
  dyn : BitVec 7
  deriving DecidableEq, Repr

/-- What the writes of an operator key and its selector met (R469, check 7 and after it). -/
structure AuthWorld where
  keyWriteOk : Bool
  /-- the write of selector copy B, after check 7 -/
  copyBOk : Bool
  deriving DecidableEq, Repr

/-- One run of a queue's READ_MONITORS: how many words it reads (R414). -/
structure MonitorsRun where
  q : QueueId
  words : Nat
  deriving DecidableEq, Repr

/-- Data that the host gives back, with their poison indication: a modified line (R319, R322), or what a read of host memory asked for
(R313: poison travels on CXL.mem and CXL.cache). -/
structure LineBack where
  data : List Byte
  poison : Bool := false
  deriving DecidableEq, Repr

/-- What a power cycle brings with it: the numbers that the security engine draws (R275), and which of the recorder's MRAM writes will
fail their read-back (R444). -/
structure CycleWorld where
  draws : List (BitVec 32)
  badWrites : List Nat := []
  deriving DecidableEq, Repr

/-- What the MRAM writes of one ATTEST met (R461, order 2). -/
structure LeafWorld where
  readBackA : Bool
  readBackB : Bool
  deriving DecidableEq, Repr

/-- One constructor per row of spec/opcode_table.json. -/
inductive Instr where
  -- job commands: the queue whose next job it is (R363, R370)
  | nop (q : QueueId)
  | openContext (q : QueueId)
  | closeContext (q : QueueId)
  | loadModel (q : QueueId)
  | unloadModel (q : QueueId)
  | swapDenseSet (q : QueueId)
  | defineTable (q : QueueId)
  | mapShards (q : QueueId)
  | fillTable (q : QueueId)
  | beginShadow (q : QueueId)
  | swapVersion (q : QueueId)
  | releaseVersion (q : QueueId)
  | setReflections (q : QueueId)
  | runStep (q : QueueId)
  | recordSequence (q : QueueId)
  | runSequence (q : QueueId)
  | updateRows (q : QueueId)
  | closeEpochDeclare (q : QueueId)
  | closeEpochMark (q : QueueId)
  | closeEpochForce (q : QueueId)
  | closeEpochAwait (q : QueueId)
  | fenceSignal (q : QueueId)
  | fenceWait (q : QueueId)
  | dmaCopy (q : QueueId)
  | lendMemory (q : QueueId)
  | borrowMemory (q : QueueId)
  | returnMemory (q : QueueId)
  | returnMemoryRevoke (q : QueueId)
  | setBrim (q : QueueId)
  | setRegionLimits (q : QueueId)
  | setPortConfig (q : QueueId)
  | setDim (q : QueueId)
  | setGrid (q : QueueId)
  | readMonitors (run : MonitorsRun)
  | readRecorder (q : QueueId)
  | clearRecorder (q : QueueId) (w : AuthWorld)
  | attest (q : QueueId) (w : LeafWorld)
  | getCertificate (q : QueueId)
  | retirePages (q : QueueId)
  | runTrafficTest (q : QueueId) (r : TrafficResult)
  | linkTest (q : QueueId)
  | abortQueue (q : QueueId)
  -- front end and window registers
  | qdbTail (q : QueueId) (value : BitVec 32)
  | entryFetch (q : QueueId) (ecc : EccList)
  | staleReread (q : QueueId) (now : Nat)
  | idleCommit (q : QueueId)
  | fqBaseWrite (value : Word)
  | fqHeadWrite (value : BitVec 32)
  | adminRootWrite (value : Word)
  | registerWrite (bar : Bar) (offset : Nat) (size : Nat) (value : Word)
  | bootChunk
  | bootFinish
  | bootDiscard
  | firmwareVerified (now linked : Nat)
  -- seams and steps
  | seam (now : Nat)
  | idleStep (now : Nat)
  | prefetchDone (slot : SlotId)
  | roundRelease (slot : SlotId)
  | lookupDone (slot : SlotId)
  | denseDone (slot : SlotId)
  | clusterRelease (c : ClusterId)
  | statusRecordWrite (q : QueueId)
  | qcmpSeqAdvance (q : QueueId)
  | discardDone (slot : SlotId)
  | lookupBudgetExpiry (now : Nat) (slot : SlotId)
  | deadlinePass (now : Nat) (slot : SlotId)
  | hedgeThreshold (now : Nat) (slot : SlotId) (entry : Nat)
  -- received messages
  | lookupRequest (f : Frame) (m : ReqMsg) (ecc : EccList)
  | lookupReply (f : Frame) (m : RepMsg)
  | pooledReply (f : Frame) (m : RepMsg)
  | updateRecord (f : Frame) (rs : List UpdRec)
  | epochClose (f : Frame) (m : Marker)
  | reflectionPush (f : Frame) (p : Push)
  | pushRelease (table row : Nat)
  | lentRead (f : Frame) (lease page tag : Nat)
  | lentWrite (f : Frame) (lease page tag : Nat) (sectors : BitVec 64) (data : List Byte)
  | lentResponse (f : Frame) (lease result : Nat) (tag : Nat) (data : Option (List Byte))
  | lentClaim (f : Frame) (lease tag : Nat)
  | lentReturn (f : Frame) (lease tag : Nat)
  | glint (f : Frame) (g : GlintBody)
  | linkTestFrame (f : Frame) (payloadOk : Bool)
  | ack (f : Frame)
  -- transport timers
  | retransmitTimer (now dev : Nat) (update : Bool) (seq : Nat)
  | ackTimer (now dev : Nat) (update : Bool)
  | windowProbe (now dev : Nat) (update : Bool)
  | glintInterval (now : Nat)
  | livenessCheck (now : Nat)
  -- updates
  | epochReady (epoch : Nat)
  | epochWriteBack (epoch : Nat)
  | catchUpDone (table : Nat)
  -- ports and temperatures
  | laserPowerReading (now : Nat) (p : PortId) (centiDbm : Int)
  | portTrainingDone (now : Nat) (p : PortId) (ok : Bool)
  | laneFault (now : Nat) (p : PortId) (lanes : BitVec 8)
  | uncorrectableCodeword (now : Nat) (p : PortId)
  | degradedTimer (now : Nat) (p : PortId)
  | retrainTimer (now : Nat) (p : PortId)
  | oeTempReading (now : Nat) (e : EngineId) (reading : Option Int)
  | hbmTempReading (now : Nat) (r : RegionId) (reading : Option Int)
  -- host
  | hostMemRead (hpa : Nat) (want : HostWant) (ecc : EccList)
  | hostMemWrite (hpa : Nat) (data : List Byte) (poison : Bool)
  | bisnpResponse (line : Nat) (modified : Option LineBack)
  | hostSnoop (hpa : Nat)
  | p2pRequest (isWrite : Bool)
  | configRequest (reg : CfgReg) (write : Option Word)
  | linkRecovery (now : Nat) (width rate : Nat)
  | linkLost (now : Nat)
  | atsCompletion (id : Nat) (a : AtsAnswer)
  | pageResponse (id : Nat) (a : PriAnswer)
  | priTimeout (now : Nat) (id : Nat)
  | invalidateRequest (now : Nat) (pasid : Option Nat) (iova len : Nat)
  | invalidateDrained (now : Nat)
  | invalidateTimeout (now : Nat)
  | stallThreshold (now : Nat) (wait : Nat)
  | tierStallLimit (now : Nat) (wait : Nat)
  | borrowTimeout (now : Nat) (q : QueueId)
  | fenceWaitExpiry (now : Nat) (q : QueueId)
  -- clusters
  | clusterBarrier (c : ClusterId)
  | clusterHung (now : Nat) (c : ClusterId)
  | recoveryCheckDone (c : ClusterId) (result : Nat)
  -- errors
  | errorHandling
  | fatalSequence (now : Nat)
  | cpLivenessTimeout (now : Nat)
  | securityEngineFailure
  | bridgeUncorrectable
  | regionSupply (now : Nat) (r : RegionId) (vmon0 vmon1 : Nat)
  -- power and temperature
  | controlLoop (now : Nat) (r : RegionId) (paceMre paceGe current : Nat) (limit : Option Nat)
  | tempSensorReading (now : Nat) (r : RegionId) (sensor : Fin 4) (reading : Option Int)
  | paceSample (now : Nat) (r : RegionId)
  | regionIdle (now : Nat) (r : RegionId)
  | regionWake (now : Nat) (r : RegionId)
  | hoursTick (now : Nat)
  -- reset and bring-up
  | perstAssert
  | perstRelease (cycle : CycleWorld) (straps : BitVec 4)
  | powerLoss
  | linkTrained (now : Nat) (width rate : Nat)
  | stackTrainingDone (now : Nat) (failed : Bool)
  | selfCheckDone (now : Nat) (badPages : List Nat) (pcOverLimit : Bool)
  -- engines: the unit takes the next word of its instruction stream
  | matmul (c : ClusterId)
  | readAcc (c : ClusterId)
  | add (u : VeId)
  | sub (u : VeId)
  | mul (u : VeId)
  | fma (u : VeId)
  | max (u : VeId)
  | min (u : VeId)
  | relu (u : VeId)
  | exp (u : VeId)
  | sigmoid (u : VeId)
  | tanh (u : VeId)
  | recip (u : VeId)
  | rsqrt (u : VeId)
  | bcastAdd (u : VeId)
  | bcastMul (u : VeId)
  | scale (u : VeId)
  | convert (u : VeId)
  | quantise (u : VeId)
  | dequant (u : VeId)
  | rotate (u : VeId)
  | cmp (u : VeId)
  | select (u : VeId)
  | mload (u : VeId)
  | mstore (u : VeId)
  | move (u : VeId)
  | take (u : VeId)
  | reduce (u : VeId)
  | tileReduce (u : VeId)
  | ruReduce (c : ClusterId)
  | dmaSet (c : ClusterId)
  | dmaRead (c : ClusterId) (ecc : EccList)
  | dmaWrite (c : ClusterId)
  | dmaGather (c : ClusterId)
  -- sideband
  | i3cPrivateWrite (w : I3cWrite)
  | i3cPrivateRead (r : I3cRead)
  | setdasa (a : I3cAssign)
  | entdaa (addr : BitVec 7)
  | rstdaa
  -- test access port: a data register scan with `din` shifted in and `lands` at the lands
  | tapReset
  | extest (din lands : BitVec 43)
  | samplePreload (din lands : BitVec 43)
  | idcode
  | extestPulse (din lands : BitVec 43)
  | extestTrain (din lands : BitVec 43)
  | highz (din : Bool)
  | clamp (din : Bool)
  | bypass (code : Byte) (din : Bool)
  -- the last rows of the table
  | foreignFrame (p : PortId) (k : ForeignKind) (seen : ForeignSeen)
  | linkTestEnd (now : Nat) (results : List LinkResult)
  | mrOwnerMapComputed
  | powerUp
  | vBaseFound (r : RegionId) (vBase proc0 proc1 : Nat)
  | hostReadCompletion (now : Nat) (id : Nat) (back : LineBack)
  | globalObservation (id : Nat)
  deriving DecidableEq, Repr

end Sys2Proof
end

