-- ==== Sys2Proof/Decode.lean ====
section
/-! DEFINITION. The command that a word spells by the table's bits. spec/opcode_table.json gives no row any bits (every
row's `fields` is empty): the commands are steps and events of the part, not words, so no word spells one. The 128-byte
entries that the front end fetches are decoded in Machine/Queues.lean (R363, R389), the words of instruction streams by
the engines. -/

namespace Sys2Proof

/-- No row of the table has bits: no word spells a command. -/
def decodeTableWord (_nbits _w : Nat) : Option Instr := none

end Sys2Proof
end

