-- ==== Sys2Proof/Config.lean ====
section
/-! DEFINITION. What one K16 fixes: counts, sizes and limits of the manual, the default grids, the lands, and the free
values (opaque constants: nothing in Lean can evaluate one). -/

namespace Sys2Proof.Config

/-! Free values (assumption 4). -/

/-- Sign and low payload of a NaN that fp32 arithmetic produces, from the operation and its operands: IEEE 754 leaves
them open (R192, R202). -/
opaque nanBits : Nat → List F32 → BitVec 23

/-- The grid index that the quantise operation gives a NaN in B8 or B4: R180 states it for I8 and I4 only. -/
opaque nanGridIndex : Nat → F32 → Nat

/-- GiB of a lease as its borrower learns it, by lender and lease id: R340 has the borrower record the size, and no
message or parameter carries it. -/
opaque leaseGib : Nat → Nat → Nat

/-- Which of several grid points at equal distance and equal parity is taken (R172: "ties going to the even i" leaves
it open for a host grid that repeats an entry). -/
opaque pickTied : List Nat → Nat

/-- SCALE (low half) and OFFSET of a re-coded row whose elements are all escapes, by 4-bit and bell formats: R172 defines
both over the remaining elements, and none remains. -/
opaque emptyRowHeader : Bool → Bool → BitVec 32

/-- DETAIL of a status record to which no rule gives a content, by status (R371: "As the opcode gives"). -/
opaque openDetail : Nat → BitVec 32

/-- COUNTS of a status record whose opcode gives it no content, by opcode and status (R371). -/
opaque openCounts : Nat → Nat → BitVec 64

/-- Value and CRC of an MRAM copy whose write did not read back or was cut off (R461, R469, R488), by copy (2: the selector's B) and the
value written. -/
opaque badCopy : Nat → Nat → Nat × Nat

/-- Leaves remaining as ATTEST reports them when the leaf index cannot be read (R412). -/
opaque leavesUnknown : Nat

/-- What a traffic test reads of a word whose errors the checkers report without it, by iteration and DPA (R256). -/
opaque testRead : Nat → Nat → Word

/-- What a page of the reservation serves as, modulo 3: 0 a spare, 1 the update buffer, 2 the frame store (R248, R393). -/
opaque pageUse : Nat → Nat

/-- The page of the reservation on which a frame lies, by lender, lease and page (R222, R248: the K16 places it). -/
opaque framePage : Nat → Nat → Nat → Nat

/-- The granule of the update buffer where a record, by epoch, contributor and sequence, or an overlay row, by table, version and row,
begins (R148, R248: the K16 places them). -/
opaque recGran : Nat → Nat → Nat → Nat
opaque overlayGran : Nat → Nat → Nat → Nat

/-- Time until HBM acknowledges a sector's write-back, from an instant and by granule (R221 has later accesses wait; no rule gives
its length). -/
opaque writeBackTime : Nat → Nat → Nat

/-- Whether a granule lies in a victim row of a HAMMER test, by the range's base, its length and granule: R254's victims rest on the
stack's bank and row layout, which the manual does not give. -/
opaque victim : Nat → Nat → Nat → Bool

/-- Bytes of an identity-key signature by leaf over a message (R461, R466): XMSS is NIST SP 800-208's. -/
opaque xmssSign : Nat → List Byte → List Byte

/-- Whether destination line `i` of the job with start number `n` was written before its transfer was abandoned
(R353: "Which bytes were written before the abandon is not defined"). -/
opaque abandonedLine : Nat → Nat → Bool

/-- Energy that a regulator (a region's, or 8: the package's) draws from an instant on over a time, the package regulator's current,
VIN_CORE and the input power of the last millisecond, as the monitors read them at an instant (R484, R517): analogue readings that no
row carries. -/
opaque energyStep : Nat → Nat → Nat → Nat
opaque packageCurrent : Nat → Nat
opaque vinReading : Nat → Nat
opaque inputPower : Nat → Nat

/-- The 40 bits of an accumulator entry of a lane that holds no row, by cluster, the MATMUL before which its MRE last changed (instant
and place in the stream), vector and lane: R183 zeroes only the entries that a MATMUL uses. -/
opaque idleAcc : Nat → Nat × Nat → Nat → Nat → BitVec 40

/-- What the rotation takes for an element of its block that is masked, or that cannot be read, by time and element: R179
and R200 give it no value. -/
opaque absentInput : Nat → Nat → F32

/-- STEP_SEQ and SLOT of a reflection's fill request, by REQ_ID: R111 gives them for the request of a step, and a fill
(R129) has none. -/
opaque fillSeq : Nat → Nat
opaque fillSlot : Nat → Nat

/-- Owner's seam that a fill's answer stands for: R127's tag holds one and R117's reply carries none, by REQ_ID. -/
opaque fillSeam : Nat → Nat

/-- Time that the clearing of a scratch takes, from an instant and by cluster (R233 counts it; no rule gives its length). -/
opaque clearTime : Nat → Nat → Nat

/-- An element of a row of an everywhere table whose directory names no block table (R84 says that it must; R99 reads the
row locally all the same), by table, row and element. -/
opaque missingStored : Nat → Nat → Nat → BitVec 32

/-- SAMPLE of a fill's entry, and the WEIGHT field of an entry whose POOL is not WSUM, by REQ_ID: R111 gives the first
for a step's bag and uses the second "only when POOL is WSUM". -/
opaque fillSample : Nat → Nat
opaque unusedWeight : Nat → BitVec 32

/-- VERSION in the reply about a table that is not defined here (R116 answers NOT_HELD; R117 has a VERSION served). -/
opaque noVersion : Nat → Nat

/-- A byte that a lender sends from a poisoned granule of a lent page, by TAG and byte: R244's table has no row for a lender's
read. -/
opaque poisonedPage : Nat → Nat → Byte

/-- A byte that a job of a context under a host error writes, by time and address: R5 leaves its results, statuses and
device memory unpredictable. A byte of cluster `c`'s scratch or tiles has an address above `2 ^ 64 + c`. -/
opaque upsetByte : Nat → Nat → Byte

/-- Indices of a bag whose ends break R126, by the two ends: R126 leaves the step's results open. -/
opaque brokenBag : Nat → Nat → Nat

/-- TAIL that a queue takes from a doorbell beyond its size (R366, R5), by queue and value. -/
opaque upsetTail : Nat → Nat → Nat

/-- A byte of a recorder slot whose write failed its read-back, or was cut off by a loss of power, by slot and byte (R444,
R453). -/
opaque tornByte : Nat → Nat → Byte

/-- Whether the loss of power at an ELAPSED_NS value cuts off the recorder's last write (R453). -/
opaque cutOff : Nat → Bool

/-- How far the engine's writes of the leaf index have come when power is lost at an ELAPSED_NS value (R488): not begun, copy A cut off,
copy A written, copy B cut off. -/
opaque cutLeaf : Nat → Fin 4

/-! Sizes and limits. -/

/-- Bytes of one stack (R11). -/
def stackBytes : Nat := 0x1800000000
/-- Bytes of device memory (R11). -/
def memBytes : Nat := 0xC000000000
/-- Bytes of a cluster's scratch (R20). -/
def t0Bytes : Nat := 12582912
/-- Bytes of a region's staging-cache slice (09). -/
def sliceBytes : Nat := 64 * 2 ^ 20
/-- Pages the retired-page list and the bring-up report hold (R246, R257). -/
def maxRetired : Nat := 16384
/-- Bytes that a throttled stack admits in 10 µs: 75 % and 50 % of 3.28 TB/s (R250, R251). -/
def share75 : Nat := 24600000
def share50 : Nat := 16400000
/-- Snoop filter entries per region (R318). -/
def filterEntries : Nat := 524288
/-- Fault queue entries (R381). -/
def fqEntries : Nat := 1024
/-- DEV_ID (R357). -/
def devId : Nat := 0x000000B000167A61
/-- Default UDP destination port (R267). -/
def udpPort : Nat := 0x6A16
/-- JTAG IDCODE (R516). -/
def idcode : BitVec 32 := 0x10016AC3
/-- Quotes per power cycle (R462). -/
def quotesPerCycle : Nat := 16
/-- Leaves of the identity key (R460). -/
def leaves : Nat := 2 ^ 20
/-- Quote length (R466), certificate length (R463). -/
def quoteBytes : Nat := 3044
def certBytes : Nat := 10029
/-- Recorder slots, and where ordinary events stop (R452). -/
def recSlots : Nat := 65536
def recOrdinary : Nat := 65520
/-- OIDs of the signature parameter sets (SP 800-208's registry; PRESUMED, assumption 9). -/
def oidXmssMt40_4 : Nat := 0x0000002C
def oidXmss10 : Nat := 0x00000010
def oidXmss16 : Nat := 0x00000011
def oidXmss20 : Nat := 0x00000012
/-- Interval of one millisecond, and of the other timers, in ELAPSED_NS units of 10 ns. -/
def ms : Nat := 100000
def us : Nat := 100
/-- Deduplication keys per gather region and step (R102). -/
def dedupKeys : Nat := 1048576
/-- The order in which clusters are taken (R428). -/
def clusterOrder : List Nat := [0, 8, 4, 12, 2, 10, 6, 14, 1, 9, 5, 13, 3, 11, 7, 15]

/-! The default grids (R165, R166), as 12-bit two's complement, upper halves; `G[N - 1 - i] = -G[i]`. -/

def halfB8a : List Int :=
  [3, 8, 13, 18, 23, 28, 33, 38, 43, 48, 53, 58, 63, 68, 73, 78, 83, 88, 93, 98, 103, 109, 114, 119, 124, 129, 134,
   140, 145, 150, 155, 161, 166, 171, 176, 182, 187, 192, 198, 203, 209, 214, 220, 225, 231, 236, 242, 247, 253, 259,
   264, 270, 276, 282, 288, 294, 299, 305, 311, 318, 324, 330, 336, 342]
def halfB8b : List Int :=
  [348, 355, 361, 368, 374, 381, 387, 394, 401, 408, 415, 422, 429, 436, 443, 451, 458, 465, 473, 481, 489, 497, 505,
   513, 521, 530, 538, 547, 556, 565, 575, 584, 594, 604, 614, 624, 635, 646, 657, 669, 681, 693, 706, 719, 733, 747,
   762, 777, 794, 811, 829, 848, 868, 890, 914, 940, 968, 1000, 1036, 1079, 1130, 1196, 1290, 1477]
def halfB4 : List Int := [40, 121, 206, 297, 398, 517, 675, 954]

/-- A default grid from its upper half (R165). -/
def fromHalf (h : List Int) : List (BitVec 12) := (h.reverse.map fun g => BitVec.ofInt 12 (-g)) ++ h.map (BitVec.ofInt 12)

def gridB8 : List (BitVec 12) := fromHalf (halfB8a ++ halfB8b)
def gridB4 : List (BitVec 12) := fromHalf halfB4

/-! Numbering and wiring (R10). -/

def regionOfCluster (c : Nat) : Nat := c / 2
def dieOfRegion (r : Nat) : Nat := r / 2
def baseDieOfDie (d : Nat) : Nat := d / 2
def clusterOfVe (u : Nat) : Nat := u / 2
def engineOfPort (p : Nat) : Nat := p / 4
/-- GE `8c` to `8c + 7` belong to cluster `c`; the first GE of region `r` is `16r` (R10). -/
def firstGeOfRegion (r : Nat) : Nat := 16 * r
def firstUeOfRegion (r : Nat) : Nat := 4 * r

/-- The region that owns a DPA (R11). -/
def regionOf (dpa : Nat) : Nat := dpa / stackBytes

/-- Pseudo-channel of a DPA, and its position in it (R239). -/
def pseudoChannel (dpa : Nat) : Nat :=
  let block := (dpa % stackBytes) / 256
  (fieldOf block 0 6) ^^^ (fieldOf block 6 6) ^^^ (fieldOf block 12 6) ^^^ (fieldOf block 18 6) ^^^ (fieldOf block 24 6)
def channel (dpa : Nat) : Nat := pseudoChannel dpa / 2
def pcPosition (dpa : Nat) : Nat := (dpa % stackBytes) / 256 / 64 * 256 + dpa % 256

/-! Currents and power (R16): each region regulator 30 A, the package regulator 20 A, in units of 10 mA. -/
def regionCurrentMax : Nat := 3000
def packageCurrentMax : Nat := 2000

/-! Event rates (R194, R215): events per µs, nominal and floor (R2, R3). -/
def paceNominal : Nat := 625
def paceFloor : Nat := 500

/-! Lands (R505 to R509). -/

/-- The two wires of a differential pair. -/
inductive Wire where
  | p | n
  deriving DecidableEq, Repr

/-- The signals at the lands (R508, R510). -/
inductive Signal where
  | cxlTx (lane : Nat) (w : Wire) | cxlRx (lane : Nat) (w : Wire) | refclk (w : Wire)
  | perstN | faultN | ready | thermtripN | i3cScl | i3cSda
  | strapAddr (n : Nat) | strapTest | trstN | tck | tms | tdi | tdo
  | vinCoreSense (w : Wire) | hbmVddSense (w : Wire) | oeVddSense (w : Wire)
  deriving DecidableEq, Repr

inductive Direction where
  | input | output | bidirectional
  deriving DecidableEq, Repr

/-- Types of signal lands (R510). -/
inductive PadType where
  | cxl | refclk | cmos | schmitt | openDrain | pushPull | i3c | triState | sense
  deriving DecidableEq, Repr

/-- Direction and type of a signal (R510). -/
def Signal.pad : Signal → Direction × PadType
  | .cxlTx _ _ => (.output, .cxl)
  | .cxlRx _ _ => (.input, .cxl)
  | .refclk _ => (.input, .refclk)
  | .perstN => (.input, .schmitt)
  | .faultN | .thermtripN => (.output, .openDrain)
  | .ready => (.output, .pushPull)
  | .i3cScl => (.input, .i3c)
  | .i3cSda => (.bidirectional, .i3c)
  | .strapAddr _ | .strapTest | .trstN | .tck | .tms | .tdi => (.input, .cmos)
  | .tdo => (.output, .triState)
  | .vinCoreSense _ | .hbmVddSense _ | .oeVddSense _ => (.output, .sense)

/-- Whether an unpowered land of the signal is released, high impedance otherwise; the sense lands are not said (R510). -/
def Signal.released (x : Signal) : Bool := x.pad.1 = .output && (x.pad.2 = .openDrain || x.pad.2 = .pushPull || x.pad.2 = .triState)

/-- What a land carries. -/
inductive Land where
  | void | gnd | vinCore | hbmVdd | hbmVddq | hbmVpp | oeVdd | oeVdd33 | cxlVdda | cxlVddh | vaux | signal (x : Signal) | reserved
  deriving DecidableEq, Repr

/-- The rail of the zone that a position outside the signal block lies in (R507). -/
def zone (i j : Nat) : Land :=
  if i ≤ 21 ∨ 84 ≤ i then
    if j ≤ 20 ∨ 85 ≤ j then .oeVdd else if j ≤ 24 ∨ 81 ≤ j then .oeVdd33 else .vinCore
  else if j ≤ 24 then
    if 11 ≤ j then .hbmVdd else if 7 ≤ j then .hbmVddq
    else if i ≤ 45 then .hbmVpp else if i ≤ 61 then .cxlVdda else if i ≤ 71 then .cxlVddh else .vaux
  else if j ≤ 96 then .hbmVdd else if j ≤ 102 then .hbmVddq
  else if i ≤ 45 then .hbmVpp else .hbmVddq

/-- A pair's wire by column. -/
def wire (j : Nat) : Wire := if j % 2 = 1 then .p else .n

/-- The signals of a row of four lands, from column `j` on. -/
def signalOf (xs : List Signal) (j : Nat) : Land :=
  match xs[j - 1]? with
  | some x => .signal x
  | none => .reserved

/-- The signal block, rows 22 to 83 and columns 1 to 4: CXL lanes (R508), the other signals (R510), the reserved
lands, and ground. Rows CU, CW, CY, DA, DB, DD, DF are 73, 75, 76, 77, 78, 80, 82 (R505). -/
def signalLand (i j : Nat) : Land :=
  if i = 22 ∨ i = 23 then .reserved
  else if 24 ≤ i ∧ i ≤ 69 ∧ (i - 24) % 3 = 0 ∧ j ≤ 2 then .signal (.cxlTx ((i - 24) / 3) (wire j))
  else if 25 ≤ i ∧ i ≤ 70 ∧ (i - 25) % 3 = 0 ∧ 3 ≤ j then .signal (.cxlRx ((i - 25) / 3) (wire j))
  else if i = 73 ∧ j ≤ 2 then .signal (.refclk (wire j))
  else if i = 75 then signalOf [.perstN, .faultN, .ready, .thermtripN] j
  else if i = 76 then signalOf [.i3cScl, .i3cSda, .strapAddr 0, .strapAddr 1] j
  else if i = 77 then signalOf [.strapAddr 2, .strapTest, .trstN, .tck] j
  else if i = 78 then signalOf [.tms, .tdi, .tdo] j
  else if i = 80 then .signal (if j ≤ 2 then .vinCoreSense (wire j) else .hbmVddSense (wire j))
  else if i = 82 then signalOf [.oeVddSense .p, .oeVddSense .n] j
  else .gnd

/-- The land at row index `i`, column `j`, both from 1 to 104 (R506, R507). -/
def land (i j : Nat) : Land :=
  if 22 ≤ i ∧ i ≤ 83 ∧ 25 ≤ j ∧ j ≤ 80 then .void
  else if 22 ≤ i ∧ i ≤ 83 ∧ j ≤ 4 then signalLand i j
  else if (i + j) % 2 = 0 then .gnd else zone i j

/-- How many lands of rows `i` to `i + n - 1` and columns 1 to `w` carry what `p` says (R509). -/
def landCount (i n w : Nat) (p : Land → Bool) : Nat :=
  ((List.range n).map fun k => ((List.range w).filter fun j => p (land (i + k) (j + 1))).length).sum

/-! Rails (R486, R513): name order, nominal and operating range in millivolts. -/
structure Rail where
  order : Nat
  nominal : Nat
  low : Nat
  high : Nat
  maxAmps : Nat
  deriving DecidableEq, Repr

def rails : List Rail :=
  [⟨1, 1800, 1746, 1854, 3⟩, ⟨2, 1800, 1746, 1854, 10⟩, ⟨3, 1100, 1067, 1133, 170⟩, ⟨4, 750, 728, 772, 85⟩,
   ⟨5, 1200, 1164, 1236, 3⟩, ⟨6, 750, 728, 772, 8⟩, ⟨7, 3300, 3201, 3399, 8⟩, ⟨8, 900, 873, 927, 100⟩,
   ⟨9, 1800, 1746, 1854, 260⟩]

/-- Fields of a transport header that have no meaning in a frame: acknowledgement fields while ACK_VALID is 0, and DST_INC
towards a device whose incarnation has not been learned (R271, assumption 33). -/
opaque idleField : Nat → Nat → Nat

/-- The payload of the n-th frame that a port sends in a LINK_TEST in FRAME mode (R273, R290; assumption 32). -/
opaque testBody : Nat → Nat → List Byte

end Sys2Proof.Config
end

