-- ==== Sys2Proof/Machine/Float.lean ====
section
/-! DEFINITION. Number formats of chapter 06: fp32, BF16 and fp16 over exact dyadic numbers, every rounding to nearest
even (R180), and the correctly rounded functions of R204. -/

namespace Sys2Proof.Machine

/-- The value of a float: a NaN, an infinity, or (-1)^neg × m × 2^e. -/
inductive FV where
  | nan
  | inf (neg : Bool)
  | fin (neg : Bool) (m : Nat) (e : Int)
  deriving DecidableEq, Repr

/-- A binary format: precision, quantum of the least subnormal, exponent field width. -/
structure Fmt where
  p : Nat
  qmin : Int
  ebits : Nat
  deriving DecidableEq, Repr

def fmt32 : Fmt := ⟨24, -149, 8⟩
def fmtBf16 : Fmt := ⟨8, -133, 8⟩
def fmt16 : Fmt := ⟨11, -24, 5⟩

/-- Decode a bit pattern of a format. -/
def Fmt.decode (f : Fmt) (x : Nat) : FV :=
  let frac := x % 2 ^ (f.p - 1)
  let ex := x / 2 ^ (f.p - 1) % 2 ^ f.ebits
  let neg := bitOf x (f.p - 1 + f.ebits)
  if ex = 2 ^ f.ebits - 1 then (if frac = 0 then .inf neg else .nan)
  else if ex = 0 then .fin neg frac f.qmin
  else .fin neg (2 ^ (f.p - 1) + frac) (f.qmin + ex - 1)

/-- Bit length of a number. -/
def bitLen (m : Nat) : Nat := if m = 0 then 0 else Nat.log2 m + 1

/-- Round `m × 2^e` (plus a positive part below one unit of `m` when `sticky`) to `p` bits and quantum at least
`qmin`, to nearest even: the rounded integer and its quantum. -/
def roundMag (p : Nat) (qmin : Int) (m : Nat) (e : Int) (sticky : Bool) : Nat × Int :=
  let q0 : Int := e + bitLen m - p
  let q := if q0 < qmin then qmin else q0
  if q ≤ e then (m * 2 ^ (e - q).toNat, q)
  else
    let sh := (q - e).toNat
    let a := m / 2 ^ sh
    let r := m % 2 ^ sh
    let half := 2 ^ (sh - 1)
    let up := half < r || (r == half && (sticky || a % 2 == 1))
    let a := if up then a + 1 else a
    if a = 2 ^ p then (2 ^ (p - 1), q + 1) else (a, q)

/-- Encode a rounded magnitude. `sat` chooses the overflow result: the largest finite value, or infinity. -/
def Fmt.encode (f : Fmt) (sat : Bool) (neg : Bool) (m : Nat) (e : Int) (sticky : Bool) : Nat :=
  let sign := b2n neg * 2 ^ (f.p - 1 + f.ebits)
  let (a, q) := roundMag f.p f.qmin m e sticky
  let emax := 2 ^ f.ebits - 1
  if a < 2 ^ (f.p - 1) then sign + a
  else
    let ex := (q - f.qmin + 1).toNat
    if emax ≤ ex then sign + (if sat then emax * 2 ^ (f.p - 1) - 1 else emax * 2 ^ (f.p - 1))
    else sign + ex * 2 ^ (f.p - 1) + (a - 2 ^ (f.p - 1))

/-- The infinity of a format. -/
def Fmt.infBits (f : Fmt) (neg : Bool) : Nat :=
  b2n neg * 2 ^ (f.p - 1 + f.ebits) + (2 ^ f.ebits - 1) * 2 ^ (f.p - 1)

def f32Val (x : F32) : FV := fmt32.decode x.toNat

def f32Round (neg : Bool) (m : Nat) (e : Int) (sticky : Bool) : F32 :=
  BitVec.ofNat 32 (fmt32.encode false neg m e sticky)

def f32Inf (neg : Bool) : F32 := BitVec.ofNat 32 (fmt32.infBits neg)
def f32Zero : F32 := 0
def f32One : F32 := 0x3F800000
/-- The quiet NaN that MAX, MIN and RELU give (R204, R124, R211). -/
def f32QNan : F32 := 0x7FC00000

/-- A NaN of an arithmetic operation: quiet, its sign and payload a free value (assumption 4). -/
def nanResult (op : Nat) (xs : List F32) : F32 :=
  let b := Config.nanBits op xs
  BitVec.ofNat 32 (b2n (b.getLsbD 22) * 2 ^ 31 + 0x7FC00000 + b.toNat % 2 ^ 22)

def f32IsNan (x : F32) : Bool := match f32Val x with | .nan => true | _ => false
def f32IsFinite (x : F32) : Bool := match f32Val x with | .fin .. => true | _ => false

/-- Exact sum of two dyadics: sign, magnitude, exponent (sign meaningless when the magnitude is 0). -/
def dyAdd (n1 : Bool) (m1 : Nat) (e1 : Int) (n2 : Bool) (m2 : Nat) (e2 : Int) : Bool × Nat × Int :=
  let e := if e1 ≤ e2 then e1 else e2
  let a := m1 * 2 ^ (e1 - e).toNat
  let b := m2 * 2 ^ (e2 - e).toNat
  if n1 = n2 then (n1, a + b, e)
  else if b ≤ a then (n1, a - b, e) else (n2, b - a, e)

/-- fp32 addition. -/
def f32Add (x y : F32) : F32 :=
  match f32Val x, f32Val y with
  | .nan, _ | _, .nan => nanResult 1 [x, y]
  | .inf a, .inf b => if a = b then f32Inf a else nanResult 1 [x, y]
  | .inf a, _ | _, .inf a => f32Inf a
  | .fin n1 m1 e1, .fin n2 m2 e2 =>
    let (n, m, e) := dyAdd n1 m1 e1 n2 m2 e2
    if m = 0 then (if n1 && n2 then 0x80000000 else 0) else f32Round n m e false

def f32Neg (x : F32) : F32 := x ^^^ 0x80000000
def f32Abs (x : F32) : F32 := x &&& 0x7FFFFFFF
def f32Sub (x y : F32) : F32 := if f32IsNan x || f32IsNan y then nanResult 2 [x, y] else f32Add x (f32Neg y)

/-- fp32 multiplication. -/
def f32Mul (x y : F32) : F32 :=
  match f32Val x, f32Val y with
  | .nan, _ | _, .nan => nanResult 3 [x, y]
  | .inf a, .inf b => f32Inf (a != b)
  | .inf a, .fin b m _ | .fin b m _, .inf a => if m = 0 then nanResult 3 [x, y] else f32Inf (a != b)
  | .fin n1 m1 e1, .fin n2 m2 e2 => f32Round (n1 != n2) (m1 * m2) (e1 + e2) false

/-- x × y + z, rounded once (FMA and SCALE, R204). -/
def f32Fma (x y z : F32) : F32 :=
  match f32Val x, f32Val y, f32Val z with
  | .fin n1 m1 e1, .fin n2 m2 e2, .fin n3 m3 e3 =>
    let np := n1 != n2
    let (n, m, e) := dyAdd np (m1 * m2) (e1 + e2) n3 m3 e3
    if m = 0 then (if np && n3 then 0x80000000 else 0) else f32Round n m e false
  | .fin .., .fin .., .inf a => f32Inf a
  | .nan, _, _ | _, .nan, _ | _, _, .nan => nanResult 4 [x, y, z]
  | _, _, .inf a => if f32Mul x y = f32Inf a then f32Inf a else nanResult 4 [x, y, z]
  | _, _, .fin .. => if f32IsNan (f32Mul x y) then nanResult 4 [x, y, z] else f32Mul x y

/-- Quotient of magnitudes with 64 extra bits: value, exponent, sticky. -/
def divMag (m1 : Nat) (e1 : Int) (m2 : Nat) (e2 : Int) : Nat × Int × Bool :=
  (m1 * 2 ^ 96 / m2, e1 - e2 - 96, m1 * 2 ^ 96 % m2 != 0)

/-- fp32 division, correctly rounded. -/
def f32Div (x y : F32) : F32 :=
  match f32Val x, f32Val y with
  | .nan, _ | _, .nan => nanResult 5 [x, y]
  | .inf _, .inf _ => nanResult 5 [x, y]
  | .inf a, .fin b _ _ => f32Inf (a != b)
  | .fin a _ _, .inf b => if a != b then 0x80000000 else 0
  | .fin n1 m1 e1, .fin n2 m2 e2 =>
    if m2 = 0 then (if m1 = 0 then nanResult 5 [x, y] else f32Inf (n1 != n2))
    else
      let (m, e, st) := divMag m1 e1 m2 e2
      if m1 = 0 then (if n1 != n2 then 0x80000000 else 0) else f32Round (n1 != n2) m e st

/-- Integer square root by bits: the largest `r` with `r² ≤ n`, found from bit `k` downward. -/
def isqrtAux (n : Nat) : Nat → Nat → Nat
  | 0, r => r
  | k + 1, r => let r' := r + 2 ^ k; isqrtAux n k (if r' * r' ≤ n then r' else r)
def isqrt (n : Nat) : Nat := isqrtAux n (bitLen n / 2 + 1) 0

/-- fp32 square root, correctly rounded (R171). -/
def f32Sqrt (x : F32) : F32 :=
  match f32Val x with
  | .nan => nanResult 6 [x]
  | .inf false => x
  | .inf true => nanResult 6 [x]
  | .fin n m e =>
    if m = 0 then x else if n then nanResult 6 [x]
    else
      let (m, e) := if e % 2 = 0 then (m, e) else (2 * m, e - 1)
      let s := m * 2 ^ 80
      let r := isqrt s
      f32Round false r (e / 2 - 40) (r * r != s)

/-- 1 ÷ √x, correctly rounded (RSQRT, R204, R205). -/
def f32Rsqrt (x : F32) : F32 :=
  match f32Val x with
  | .nan => nanResult 7 [x]
  | .inf false => 0
  | .inf true => nanResult 7 [x]
  | .fin n m e =>
    if m = 0 then f32Inf n else if n then nanResult 7 [x]
    else
      let (m, e) := if e % 2 = 0 then (m, e) else (2 * m, e - 1)
      let r := isqrt (2 ^ 200 / m)
      f32Round false r (-100 - e / 2) (r * r * m != 2 ^ 200)

/-! EXP, SIGMOID and TANH: fixed point with 256 fractional bits. The exact value is irrational for every non-zero
operand, so the truncated value with a sticky bit rounds correctly unless 230 bits beyond the rounding place agree
(assumption 10). -/

def fixBits : Nat := 256

/-- Taylor sum of e^y, `y` in fixed point, `n` terms, from term `k` with value `t`. -/
def expTaylor (y : Nat) : Nat → Nat → Nat → Nat
  | 0, _, _ => 0
  | n + 1, k, t => t + expTaylor y n (k + 1) (t * y / 2 ^ fixBits / (k + 1))

/-- Square a fixed-point number `n` times. -/
def squareTimes : Nat → Nat → Nat
  | 0, v => v
  | n + 1, v => squareTimes n (v * v / 2 ^ fixBits)

/-- e^(m × 2^e) in fixed point, for a magnitude below 256. -/
def expFix (m : Nat) (e : Int) : Nat :=
  let y := if 0 ≤ e + fixBits - 9 then m * 2 ^ (e + fixBits - 9).toNat else m / 2 ^ (-(e + fixBits - 9)).toNat
  squareTimes 9 (expTaylor y 64 0 (2 ^ fixBits))

/-- Whether the magnitude `m × 2^e` is at least `n`. -/
def magGe (m : Nat) (e : Int) (n : Nat) : Bool :=
  if 0 ≤ e then n ≤ m * 2 ^ e.toNat else n * 2 ^ (-e).toNat ≤ m

/-- e^x (R204, R205). -/
def f32Exp (x : F32) : F32 :=
  match f32Val x with
  | .nan => nanResult 8 [x]
  | .inf n => if n then 0 else x
  | .fin n m e =>
    if m = 0 then f32One
    else if magGe m e 110 then (if n then 0 else f32Inf false)
    else
      let v := expFix m e
      if n then f32Round false (2 ^ (2 * fixBits + 256) / v) (-(fixBits : Int) - 256) true
      else f32Round false v (-(fixBits : Int)) true

/-- 1 ÷ (1 + e^−x). -/
def f32Sigmoid (x : F32) : F32 :=
  match f32Val x with
  | .nan => nanResult 9 [x]
  | .inf n => if n then 0 else f32One
  | .fin n m e =>
    if m = 0 then 0x3F000000
    else if magGe m e 110 then (if n then 0 else f32One)
    else
      let v := expFix m e
      let num := if n then 2 ^ fixBits else v
      f32Round false (num * 2 ^ (fixBits + 256) / (v + 2 ^ fixBits)) (-(fixBits : Int) - 256) true

/-- tanh x. -/
def f32Tanh (x : F32) : F32 :=
  match f32Val x with
  | .nan => nanResult 10 [x]
  | .inf n => if n then 0xBF800000 else f32One
  | .fin n m e =>
    if m = 0 then x
    else if magGe m e 50 then (if n then 0xBF800000 else f32One)
    else
      let v := expFix m (e + 1)
      f32Round n ((v - 2 ^ fixBits) * 2 ^ (fixBits + 256) / (v + 2 ^ fixBits)) (-(fixBits : Int) - 256) true

def f32Recip (x : F32) : F32 := if f32IsNan x then nanResult 11 [x] else f32Div f32One x

/-! Order. -/

/-- A key that orders non-NaN fp32 values, with −0.0 just below +0.0. -/
def f32Key (x : F32) : Int :=
  if x.getLsbD 31 then -((x &&& 0x7FFFFFFF).toNat : Int) - 1 else (x.toNat : Int)

/-- IEEE 754 `<` on non-NaN values: −0.0 equals +0.0. -/
def f32Num (x : F32) : Int := if (x &&& 0x7FFFFFFF) = 0 then 0 else f32Key x
def f32Lt (x y : F32) : Bool := !f32IsNan x && !f32IsNan y && f32Num x < f32Num y
def f32Eq (x y : F32) : Bool := !f32IsNan x && !f32IsNan y && f32Num x == f32Num y

/-- Maximum and minimum of R204 and R124: 0x7FC0_0000 for any NaN, +0.0 above −0.0. -/
def f32Max (x y : F32) : F32 := if f32IsNan x || f32IsNan y then f32QNan else if f32Key x < f32Key y then y else x
def f32Min (x y : F32) : F32 := if f32IsNan x || f32IsNan y then f32QNan else if f32Key y < f32Key x then y else x
def f32Relu (x : F32) : F32 := if f32IsNan x then f32QNan else if 0 < f32Num x then x else 0

/-! Conversions (R180). -/

def bf16ToF32 (x : BF16) : F32 := BitVec.ofNat 32 (x.toNat * 2 ^ 16)

def f32ToBf16 (x : F32) : BF16 :=
  match f32Val x with
  | .nan => if x.getLsbD 31 then 0xFFC0 else 0x7FC0
  | .inf n => BitVec.ofNat 16 (fmtBf16.infBits n)
  | .fin n m e => BitVec.ofNat 16 (fmtBf16.encode true n m e false)

def f16ToF32 (x : F16) : F32 :=
  match fmt16.decode x.toNat with
  | .nan => BitVec.ofNat 32 (b2n (x.getLsbD 15) * 2 ^ 31 + 0x7F800000 + (x.toNat % 2 ^ 10) * 2 ^ 13)
  | .inf n => f32Inf n
  | .fin n m e => f32Round n m e false

/-- fp32 to fp16 (SCALE, OFFSET): saturates, infinities included. A NaN is not reached (R180). -/
def f32ToF16 (x : F32) : F16 :=
  match f32Val x with
  | .nan => 0
  | .inf n => if n then 0xFBFF else 0x7BFF
  | .fin n m e => BitVec.ofNat 16 (fmt16.encode true n m e false)

/-- Round a finite value to the nearest integer, ties to even. -/
def roundInt (n : Bool) (m : Nat) (e : Int) : Int :=
  let a : Nat :=
    if 0 ≤ e then m * 2 ^ e.toNat
    else
      let sh := (-e).toNat
      let a := m / 2 ^ sh
      let r := m % 2 ^ sh
      let half := 2 ^ (sh - 1)
      if half < r || (r == half && a % 2 == 1) then a + 1 else a
  if n then -(a : Int) else a

def clampInt (x lo hi : Int) : Int := if x < lo then lo else if hi < x then hi else x

/-- `v × 2^−point` to the nearest integer, ties to even (R178). -/
def roundShift (v : Int) (point : Nat) : Int := roundInt (v < 0) v.natAbs (-(point : Int))

/-- `v × 2^−point` rounded once to fp32, and to BF16 (R178, R180). -/
def intToF32 (v : Int) (point : Nat) : F32 := if v = 0 then 0 else f32Round (v < 0) v.natAbs (-(point : Int)) false
def intToBf16 (v : Int) (point : Nat) : BF16 :=
  if v = 0 then 0 else BitVec.ofNat 16 (fmtBf16.encode true (v < 0) v.natAbs (-(point : Int)) false)

/-- fp32 to an integer code before the zero point (R180, VE quantise table): NaN as 0, infinity to the end of range. -/
def f32ToCode (x : F32) (z lo hi : Int) : Int :=
  match f32Val x with
  | .nan => clampInt z lo hi
  | .inf n => if n then lo else hi
  | .fin n m e => clampInt (roundInt n m e + z) lo hi

/-! Grids (R163, R167). -/

/-- `G[i] × 2⁻⁹` as fp32, exact. -/
def gridF32 (g : BitVec 12) : F32 := intToF32 g.toInt 9

/-- Of the indices with the least distance, the even one (R172); a free value where that leaves several. -/
def pickIndex (best : List Nat) : Nat :=
  let ev := best.filter (· % 2 == 0)
  match ev with
  | [i] => i
  | [] => (match best with | [i] => i | l => l.getD (Config.pickTied l % l.length) 0)
  | l => l.getD (Config.pickTied l % l.length) 0

/-- Indices of `pts` (index, point) at the least fp32 distance from `x`. -/
def nearestOf (x : F32) (pts : List (Nat × F32)) : List Nat :=
  let ds := pts.map fun (i, p) => (i, f32Key (f32Abs (f32Sub x p)))
  match ds with
  | [] => []
  | d :: r =>
    let m := r.foldl (fun a b => if b.2 < a then b.2 else a) d.2
    (ds.filter fun d => d.2 == m).map (·.1)

/-- Grid points scaled by `s`, from index `lo` (R172; `s` = 1 for the VE's quantise). -/
def scaledPts (s : F32) (lo : Nat) (g : List (BitVec 12)) : List (Nat × F32) :=
  ((List.range g.length).zip g).filterMap fun (i, v) => if i < lo then none else some (i, f32Mul s (gridF32 v))

end Sys2Proof.Machine
end

