-- ==== Sys2Proof/Machine/Hash.lean ====
section
/-! DEFINITION. SHAKE256 (19: D(x); 05 R140) and the CRC-32 of the Ethernet FCS (18 R449, 19 R460). The manual names
both standards and gives no text of them: the algorithms below are PRESUMED from FIPS 202 and IEEE 802.3
(assumption 9). -/

namespace Sys2Proof.Machine

/-- The bytes of a number, little-endian, `n` of them (R7). -/
def leBytes (n v : Nat) : List Byte := (List.range n).map fun i => BitVec.ofNat 8 (v / 256 ^ i)

/-- The bytes of a number in network order, the most significant first (R271). -/
def beBytes (n v : Nat) : List Byte := (leBytes n v).reverse

/-- The number that bytes spell, little-endian (R7). -/
def leNat : List Byte → Nat
  | [] => 0
  | b :: bs => b.toNat + 256 * leNat bs

/-- Lane `i` of a Keccak state. -/
def lane (a : List Word) (i : Nat) : Word := a.getD i 0

/-- The bits that step iota spreads over the round constants: an 8-bit shift register with feedback 0x71, from 1, one bit a
step (FIPS 202, rc). -/
def iotaBits : Nat → Nat → List Bool
  | 0, _ => []
  | n + 1, r => bitOf r 0 :: iotaBits n (if r < 128 then 2 * r else (2 * r ^^^ 0x71) % 256)

/-- A round's constant from its seven bits: bit `j` stands at position `2^j - 1` of the lane. -/
def iotaWord (bs : List Bool) : Word :=
  BitVec.ofNat 64 (((List.range bs.length).map fun j => if bs.getD j false then 2 ^ (2 ^ j - 1) else 0).sum)

/-- The round constants of `n` rounds. -/
def iotaWords : Nat → List Bool → List Word
  | 0, _ => []
  | n + 1, bs => iotaWord (bs.take 7) :: iotaWords n (bs.drop 7)

/-- Steps rho and pi move the lanes but the first along one cycle of 24 positions (x, y) → (y, 2x + 3y): for each move the lane
taken, the place it comes to and the bits it turns by, which are the triangular numbers. -/
def rhoPi : Nat → Nat → Nat → List (Nat × Nat × Nat)
  | 0, _, _ => []
  | n + 1, x, y =>
    let k := 24 - n
    let y' := (2 * x + 3 * y) % 5
    (x + 5 * y, y + 5 * y', k * (k + 1) / 2 % 64) :: rhoPi n y y'

/-- The lane that stands at position `i` after rho and pi. -/
def movedLane (moves : List (Nat × Nat × Nat)) (a : List Word) (i : Nat) : Word :=
  match moves.find? fun m => m.2.1 == i with
  | some (src, _, turn) => (lane a src).rotateLeft turn
  | none => lane a i

/-- Theta: each lane takes up the parities of the columns to its left and, turned by one bit, to its right. -/
def theta (a : List Word) : List Word :=
  let parity (x : Nat) : Word := (List.range 5).foldl (fun p y => p ^^^ lane a (x % 5 + 5 * y)) 0
  let mix := (List.range 5).map fun x => parity (x + 4) ^^^ (parity (x + 1)).rotateLeft 1
  (List.range 25).map fun i => lane a i ^^^ lane mix (i % 5)

/-- Chi on a row of five lanes. -/
def chiRow (r : List Word) : List Word :=
  (List.range 5).map fun x => lane r x ^^^ (~~~ lane r ((x + 1) % 5) &&& lane r ((x + 2) % 5))

/-- One round with the constant `rc`. -/
def keccakRound (a : List Word) (rc : Word) : List Word :=
  let t := theta a
  let moved := (List.range 25).map (movedLane (rhoPi 24 1 0) t)
  match (List.range 5).flatMap fun y => chiRow ((moved.drop (5 * y)).take 5) with
  | [] => []
  | h :: r => (h ^^^ rc) :: r

/-- The permutation: 24 rounds. -/
def keccakF (a : List Word) : List Word := (iotaWords 24 (iotaBits 168 1)).foldl keccakRound a

/-- XOR one block of 136 bytes into the state. -/
def absorbBlock (a : List Word) (block : List Byte) : List Word :=
  (List.range 25).map fun i =>
    if i < 17 then lane a i ^^^ BitVec.ofNat 64 (leNat ((block.drop (8 * i)).take 8)) else lane a i

/-- Absorb `n` blocks. -/
def absorb : Nat → List Word → List Byte → List Word
  | 0, a, _ => a
  | n + 1, a, bs => absorb n (keccakF (absorbBlock a (bs.take 136))) (bs.drop 136)

/-- SHAKE padding to a whole number of 136-byte blocks. -/
def shakePad (bs : List Byte) : List Byte :=
  let z := 136 - (bs.length + 1) % 136
  if z = 136 then bs ++ [0x9F]
  else bs ++ [0x1F] ++ List.replicate (z - 1) 0 ++ [0x80]

/-- The first 136 bytes of SHAKE256 output. -/
def shake256 (bs : List Byte) : List Byte :=
  let p := shakePad bs
  (absorb (p.length / 136) (List.replicate 25 0) p).take 17 |>.flatMap fun w => leBytes 8 w.toNat

/-- D(x): the first 32 bytes of SHAKE256 output (19). -/
def digest (bs : List Byte) : List Byte := (shake256 bs).take 32

/-- The declaration digest: the first 8 bytes, little-endian (R140). -/
def digest64 (bs : List Byte) : Nat := leNat ((shake256 bs).take 8)

/-- One bit of the CRC. -/
def crcStep (c : BitVec 32) : BitVec 32 :=
  if c.getLsbD 0 then (c >>> 1) ^^^ 0xEDB88320 else c >>> 1

/-- One byte of the CRC. -/
def crcByte (c : BitVec 32) (b : Byte) : BitVec 32 :=
  (List.range 8).foldl (fun c _ => crcStep c) (c ^^^ b.setWidth 32)

/-- CRC-32 with the Ethernet FCS polynomial (R449, R460). -/
def crc32 (bs : List Byte) : Nat := (~~~ (bs.foldl crcByte 0xFFFFFFFF)).toNat

end Sys2Proof.Machine
end

