-- ==== Sys2Proof/Machine/State.lean ====
section
/-! DEFINITION. The state of one K16 package: plain data, one structure for each part of the package, as INVENTORY.md
lists it. Where a register only reports another field, that field is its one home (Machine/Boot.lean, State.regValue, reads it). -/

namespace Sys2Proof.Machine

/-- The three scopes of a host error (R5). -/
inductive Scope where
  | context | device | system
  deriving DecidableEq, Repr

/-- Why the machine stops with a fault: no command does. A command that the manual calls unpredictable (R5) goes on, and leaves free
what its scope leaves open. -/
inductive Fault where
  deriving DecidableEq, Repr

/-- Why a command has no meaning. -/
inductive Refusal where
  /-- Raised by an arm of `exec` whose command is not modelled yet. Safe: nothing is claimed about it. -/
  | notModelled (mnemonic : String)
  deriving DecidableEq, Repr

/-! ## Outputs: what the block has sent outside. -/

/-- A frame of the transport (R270, R271): header fields and the message body as bytes. -/
structure TxFrame where
  dst : Nat
  kind : Nat
  update : Bool
  seq : Nat
  retx : Bool
  body : List Byte
  deriving DecidableEq, Repr

inductive Output where
  /-- CXL.mem read completion, with its poison indication and viral (R317, R446) -/
  | memData (hpa : Nat) (data : List Byte) (poison viral : Bool)
  /-- Unsupported Request (R315, R326) -/
  | unsupported
  /-- BISnpInv or BISnpData (R319, R320, R329) -/
  | bisnp (line : Nat) (inv : Bool)
  /-- RspIHitI (R321) -/
  | rspIHitI (hpa : Nat)
  /-- ATS Translation Request (R348, R349) -/
  | atsRequest (id pasid iova : Nat)
  /-- Page Request (R350) -/
  | pageRequest (id pasid iova : Nat) (write : Bool)
  /-- Invalidate Completion (R353) -/
  | invalidateDone
  /-- host memory read on CXL.io, or RdCurr on CXL.cache; length 0 is the zero-length read of R329 -/
  | hostRead (id pasid hpa len : Nat)
  /-- host memory write on CXL.io, or on CXL.cache with the id of its global observation and its poison indication (R313): no unit writes
  bytes that it has read as poison (R244), so that no write carries it -/
  | hostWrite (id : Option Nat) (pasid hpa : Nat) (data : List Byte) (poison : Bool := false)
  /-- configuration read completion -/
  | cfgData (value : Nat)
  /-- first transmission or retransmission of a frame on a port (R285), and the bytes that it consists of (R270) -/
  | frame (port : Nat) (bytes : List Byte) (f : TxFrame)
  /-- acknowledgement fields that a frame's header carries (R279): device, space, ACK_SEQ, SACK, RWIN, ECE, CE_PORT -/
  | ackSent (dev : Nat) (update : Bool) (ackSeq sack rwin : Nat) (ece : Bool) (cePort : Nat)
  /-- bytes read over I3C (R517) -/
  | i3cBytes (bytes : List Byte)
  /-- bits shifted out of TDO in one data register scan, first bit least significant (R516) -/
  | tdo (bits : Nat) (width : Nat)
  /-- levels driven on the signals of the boundary update register (R516) -/
  | boundary (levels : BitVec 43)
  deriving DecidableEq, Repr

/-! ## Records of faults and events (18) -/

/-- A fault record (R383), field by field. -/
structure FaultRec where
  cause : Nat := 0
  cls : Nat := 0
  ctx : Nat := 0
  unitKind : Nat := 0
  unit : Nat := 0
  queue : Nat := 0
  noJob : Bool := true
  jobSeq : Nat := 0
  stepSeq : Nat := 0
  slot : Nat := 0
  isStep : Bool := false
  instr : Nat := 0
  operand : Nat := 0
  elem0 : Nat := 0
  elem1 : Nat := 0
  address : Nat := 0
  pasid : Nat := 0
  level : Nat := 0
  region : Nat := 0
  channel : Nat := 0
  pseudo : Nat := 0
  elapsed : Nat := 0
  deriving DecidableEq, Repr

/-- An event record (R449), field by field, with the CHECK it was written with. -/
structure EventRec where
  code : Nat
  cls : Nat
  ctx : Nat
  repeats : Nat
  hours : Nat
  cycle : Nat
  elapsed : Nat
  seam : Nat
  lastElapsed : Nat
  device : Nat
  deviceValid : Bool
  inc : Nat
  payload : List Byte
  check : Nat
  deriving DecidableEq, Repr

/-- An event to be recorded: code, class, context, payload bytes from byte 64 (R450). -/
structure Event where
  code : Nat
  cls : Nat := 0
  ctx : Nat := 0
  payload : List Byte := []
  /-- ELAPSED_NS and SEAM_COUNT at its detection, where that lies before its recording (R449) -/
  at' : Option (Nat × Nat) := none
  deriving DecidableEq, Repr

/-- A job by its queue and sequence number. -/
structure JobRef where
  q : Nat
  seq : Nat
  deriving DecidableEq, Repr

/-- An error detected and not yet handled (R436, R439). `cls`: 0 corrected, 1 step, 2 context. -/
structure Detected where
  cls : Nat
  frec : Option FaultRec := none
  event : Option Event := none
  job : Option JobRef := none
  slot : Option Nat := none
  ctx : Nat := 0
  status : Nat := 0
  detail : Nat := 0
  /-- a later touch of poison: no fault record is written (R243) -/
  quiet : Bool := false
  /-- a cluster whose share alone is discarded (CLUSTER_HUNG, R438) -/
  share : Option Nat := none
  /-- ELAPSED_NS and SEAM_COUNT at its detection (R449) -/
  at' : Nat × Nat := (0, 0)
  deriving DecidableEq, Repr

/-- The actions of an error's handling (R439, R422). -/
inductive Action where
  /-- write the fault record -/
  | record
  /-- write the event record of the cause, and for a teardown CONTEXT_TORN_DOWN -/
  | event
  /-- abandon the failed access or transfer -/
  | abandon
  /-- the step's slot goes to DISCARD, or the share of a hung cluster is discarded -/
  | discard
  /-- the job ends with the error's status -/
  | finish
  /-- the context is LOST and its queues stop -/
  | lose
  /-- the job whose fault caused the teardown completes -/
  | causing
  /-- every other job of the context ends -/
  | others
  /-- every step of the context goes to DISCARD -/
  | steps
  /-- the staged grid table is discarded -/
  | grid
  deriving DecidableEq, Repr

/-- An error in handling, and the actions still to be done. -/
structure Handling where
  err : Detected
  left : List Action
  deriving DecidableEq, Repr

structure Errors where
  pending : List Detected := []
  /-- the error in handling, then those whose handling it has suspended (R441) -/
  handling : List Handling := []
  /-- package-fatal cause detected and its ADMIN_CONTEXT fault record; the sequence not yet run -/
  fatal : Option (Nat × Option FaultRec) := none
  /-- ELAPSED_NS and SEAM_COUNT at the detection of the package-fatal error (R449) -/
  fatalAt : Nat × Nat := (0, 0)
  /-- the failed state's cause; `none` while the package has not failed -/
  failed : Option Nat := none
  causesSeen : Nat := 0
  /-- index of the PACKAGE_FATAL record -/
  fatalRecord : Option Nat := none
  deriving DecidableEq, Repr

/-! ## Package, pins, boot, MRAM, security -/

inductive Drive where
  | released | low | high
  deriving DecidableEq, Repr

inductive CxlTx where
  | highZ | idle | active
  deriving DecidableEq, Repr

/-- Stages of bring-up (R493, R496): in reset; boot ROM with its link still training; boot window exposed; stacks
training; self-check; first port training; service. -/
inductive Stage where
  | off | rom | linked | hbmTraining | selfCheck | ports | service
  deriving DecidableEq, Repr

/-- DEV_STATE codes (R357). -/
inductive DevState where
  | boot | loading | ready | dim | draining | failed
  deriving DecidableEq, Repr

structure Package where
  powered : Bool := false
  perstN : Bool := false
  faultN : Drive := .released
  thermtripN : Drive := .released
  readyPin : Drive := .released
  cxlTx : CxlTx := .highZ
  tripped : Bool := false
  /-- STRAP_TEST and the three numbered straps, as sampled (R512) -/
  straps : BitVec 4 := 0
  elapsed : Nat := 0
  seamCount : Nat := 0
  stage : Stage := .off
  /-- the resident model is being loaded (DEV_STATE LOADING) -/
  loading : Bool := false
  /-- a load or unload waits for contexts to close (DEV_STATE DRAINING, R309) -/
  draining : Bool := false
  memInfoValid : Bool := false
  memActive : Bool := false
  ruReserved : Bool := true
  incarnation : Nat := 0
  /-- BRINGUP_COMPLETE has been written this power cycle -/
  broughtUp : Bool := false
  /-- a host error of device or system scope has befallen the package: what may then be wrong stays free (R5) -/
  astray : Option Scope := none
  /-- ELAPSED_NS at which the command processors were last seen to make progress (R444) -/
  cpAt : Nat := 0
  deriving DecidableEq, Repr

/-- BOOT_STATUS states (R358). -/
inductive BootState where
  | waiting | busy | chunkTaken | verifying | verified | rejected
  deriving DecidableEq, Repr

structure Boot where
  state : BootState := .waiting
  reason : Nat := 0
  imageAddr : Nat := 0
  imageLen : Nat := 0
  latchedLen : Nat := 0
  chunkBuf : List Host.Cell := []
  image : List Host.Cell := []
  received : List Nat := []
  rejected : Nat := 0
  lastReason : Nat := 0
  fwVersion : Nat := 0
  tVerified : Nat := 0
  tLink : Nat := 0
  tStacks : Nat := 0
  tSelfCheck : Nat := 0
  deriving DecidableEq, Repr

structure Recorder where
  records : List EventRec
  hours : Nat := 0
  powerCycles : Nat := 0
  clearCount : Nat := 0
  refused : Nat := 0
  /-- (port, old, new, index of the last PORT_STATE record), this power cycle (R451) -/
  kept : List (Nat × Nat × Nat × Nat) := []
  hoursMark : Nat := 0
  /-- the CHECK of the last record held has been checked in this power cycle (R453) -/
  checked : Bool := false
  /-- MRAM writes of the recorder in this power cycle, and those of them that fail their read-back (R444) -/
  writes : Nat := 0
  badWrites : List Nat := []
  /-- ELAPSED_NS at which the last record was written, until another MRAM write of the recorder follows it (R453, R488) -/
  wroteAt : Option Nat := none
  deriving DecidableEq, Repr

/-- A copy of a value with its CRC-32, as the MRAM holds it (R460, R469). -/
structure Copy where
  value : Nat
  seq : Nat
  crc : Nat
  deriving DecidableEq, Repr

structure Mram where
  leafA : Copy
  leafB : Copy
  opKey0 : List Byte
  opKey1 : List Byte
  /-- selector copies: value 0 or 1 names the key slot, 2 none -/
  selA : Copy
  selB : Copy
  lastIncarnation : Nat := 0
  /-- both copies of the leaf index were found invalid: every signature is refused from then on (R460) -/
  leafLost : Bool := false
  deriving DecidableEq, Repr

/-- What manufacture writes once (19): fuses, identity certificate fields. -/
structure Fuses where
  fwKeyHash : List Byte
  serial : List Byte
  issuerId : List Byte
  identityKey : List Byte
  certSignature : List Byte
  /-- the coefficients that convert the delay lines' speed to 70 °C, by region (R472, R492); that they are two numbers, and what they are,
  is a DESIGN CHOICE (assumption 75) -/
  vCoeffs : List (Nat × Nat)
  deriving DecidableEq, Repr

structure Security where
  mrFirmware : List Byte
  mrProgram : List Byte
  mrTables : List Byte
  mrOwnerMap : List Byte
  mapPending : Option (List Byte) := none
  quotesLeft : Nat := 16
  deriving DecidableEq, Repr

/-! ## Control window, link, host memory -/

structure Regs where
  adminRoot : Nat := 0
  fqBase : Word := 0
  fqHead : Nat := 0
  fqTail : Nat := 0
  fqOverflow : Nat := 0
  fqDropped : List Nat := []
  fences : Vector Nat 256 := Vector.replicate 256 0
  deriving DecidableEq, Repr

/-- One snoop filter entry: line address, shared or exclusive (R318). -/
structure FilterEntry where
  line : Nat
  excl : Bool
  deriving DecidableEq, Repr

structure CxlCounters where
  linkRecoveries : Nat := 0
  biInvSent : Nat := 0
  biDataSent : Nat := 0
  sfEvictions : Nat := 0
  hostPoisonWrites : Nat := 0
  hostPoisonReads : Nat := 0
  p2pRejected : Nat := 0
  d2hReadLines : Nat := 0
  d2hWriteLines : Nat := 0
  deriving DecidableEq, Repr

structure Cxl where
  linkUp : Bool := false
  width : Nat := 0
  /-- 0 none, 1 64 GT/s, 2 128 GT/s (R333) -/
  rate : Nat := 0
  hdmBase : Nat := 0
  hdmCommitted : Bool := false
  atsEnable : Bool := false
  pasidEnable : Bool := false
  priEnable : Bool := false
  priAlloc : Nat := 0
  viralEnable : Bool := false
  /-- Unsupported Request Error Status of Advanced Error Reporting (R313) -/
  aerUnsupported : Bool := false
  bar0 : Nat := 0
  bar2 : Nat := 0
  bar4 : Nat := 0
  /-- oldest first -/
  filter : List FilterEntry := []
  /-- snoops outstanding: line, BISnpInv or BISnpData -/
  snoops : List (Nat × Bool) := []
  ctr : CxlCounters := {}
  deriving DecidableEq, Repr

/-- Who owns a host-memory request. -/
inductive Owner where
  | job (j : JobRef)
  | dma (cluster : Nat)
  /-- a cluster's DMA engine that writes a step's outputs to host memory: it outlasts the step's hold on the cluster -/
  | push (cluster : Nat) (j : JobRef)
  deriving DecidableEq, Repr

inductive ReqKind where
  | ats | page | read | write | zero
  deriving DecidableEq, Repr

/-- A request to the host that is outstanding. -/
structure HostReq where
  id : Nat
  kind : ReqKind
  owner : Owner
  pasid : Nat
  iova : Nat
  len : Nat
  hpa : Nat
  isWrite : Bool
  since : Nat
  /-- the range of the translation that it uses: first IOVA and bytes -/
  range : Nat × Nat := (0, 0)
  /-- the translation it uses was withdrawn while it was in flight (R353) -/
  withdrawn : Bool := false
  /-- abandoned with its job: its completion data are discarded -/
  abandoned : Bool := false
  /-- abandoned at 1 ms after an Invalidate Request, or a page request without an answer for 100 ms: nothing waits for it any more
  (R350, R353) -/
  forsaken : Bool := false
  /-- an interactive-class read (R321) -/
  inter : Bool := false
  deriving DecidableEq, Repr

/-- A host translation: held-page table or ATC entry (R348, R349). -/
structure Translation where
  owner : Option JobRef
  pasid : Nat
  iova : Nat
  size : Nat
  hpa : Nat
  withdrawn : Bool := false
  /-- its job has ended: it is released once the job's last transfer has drained (R348) -/
  leaving : Bool := false
  deriving DecidableEq, Repr

structure Invalidate where
  pasid : Option Nat
  iova : Nat
  len : Nat
  arrived : Nat
  delayed : Bool
  deriving DecidableEq, Repr

/-- A device TLB entry (R345). -/
structure TlbEntry where
  ctx : Nat
  base : Nat
  size : Nat
  run : Nat
  dpa : Nat
  write : Bool
  deriving DecidableEq, Repr

structure XlatCounters where
  tlbMisses : Nat := 0
  walkReads : Nat := 0
  dvaFaults : Nat := 0
  atsRequests : Nat := 0
  atcMisses : Nat := 0
  heldWaits : Nat := 0
  priRequests : Nat := 0
  priUnresolved : Nat := 0
  invalidations : Nat := 0
  invalidationsDelayed : Nat := 0
  withdrawals : Nat := 0
  invalidateHoldTime : Nat := 0
  deriving DecidableEq, Repr

structure Xlat where
  reqs : List HostReq := []
  nextReq : Nat := 0
  held : List Translation := []
  atc : List Translation := []
  priFailed : Bool := false
  invs : List Invalidate := []
  tlbCp : List TlbEntry := []
  tlbCl : Vector (List TlbEntry) 16 := Vector.replicate 16 []
  ctr : XlatCounters := {}
  deriving DecidableEq, Repr

/-! ## Queues, jobs, contexts -/

/-- QSTATE.STATE (R360). -/
inductive QState where
  | unbound | stopped | running | idle
  deriving DecidableEq, Repr

/-- Where a job stands: fetched and not started; started and not ended; ended with its status fixed; status record
written (R370 to R373). -/
inductive Phase where
  | fetched | running | done | written
  deriving DecidableEq, Repr

/-- The transfer of a job between host memory and the package (R321, R348). -/
structure Bulk where
  write : Bool
  pasid : Nat
  /-- next IOVA to translate, and bytes not yet translated; what lies between `next` and it has been translated and waits for its
  transfer to begin -/
  iova : Nat
  len : Nat
  next : Nat
  /-- entries taken in this window, and entries of the held-page table set aside for the rest of it -/
  window : Nat := 0
  room : Nat := 0
  /-- the request (ATS or page) outstanding -/
  req : Option Nat := none
  /-- Success responses seen for the page now being translated (R350) -/
  granted : Bool := false
  /-- the window's wait for free held-page entries has been counted (R348) -/
  heldWait : Bool := false
  /-- the request outstanding translates again a part of the window whose translation was withdrawn (R354) -/
  redo : Bool := false
  /-- interactive class: translated on use through the ATC (R321, R349) -/
  inter : Bool := false
  /-- reads in flight and reads whose data wait for those of an earlier one, in the order of their addresses -/
  flights : List (Nat × Option (List Byte)) := []
  /-- bytes read so far, or bytes still to be written -/
  data : List Byte := []
  finished : Bool := false
  deriving DecidableEq, Repr

structure Job where
  seq : Nat
  opcode : Nat
  barrier : Bool
  ctx : Nat
  tag : Nat
  params : List Word
  phase : Phase := .fetched
  status : Nat := 0
  detail : Nat := 0
  counts : Nat := 0
  /-- class of the error that fixed the status: 0 none, 1 step, 2 context (R440) -/
  cls : Nat := 0
  /-- 64-byte lines of device memory written by the job (R330) -/
  lines : List Nat := []
  /-- host writes whose global observation is awaited (R329) -/
  observe : List Nat := []
  /-- last bulk-class host address written, to be followed by a zero-length read (R329) -/
  lastWrite : Option Nat := none
  zeroRead : Option Nat := none
  /-- the job is an entry of the RUN_SEQUENCE with this sequence number -/
  parent : Option Nat := none
  /-- an entry that the front end has not taken: its copied words, and its patch slots as word and DVA (R376) -/
  take : Option (List Word × List (Nat × Nat)) := none
  /-- package-wide order of starting -/
  start : Nat := 0
  since : Nat := 0
  aux : List Nat := []
  data : List Byte := []
  bulk : Option Bulk := none
  /-- what it has read of structures and sources on the package, each once: how (0 by the command processor, 1 by its DMA engines), address
  and length, bytes (R387) -/
  reads : List ((Nat × Nat × Nat) × List Byte) := []
  /-- an error of the job waits for handling: it makes no progress (R439) -/
  halted : Bool := false
  deriving DecidableEq, Repr

structure Queue where
  st : QState := .unbound
  cause : Nat := 0
  gen : Nat := 0
  fetch : Nat := 0
  ctx : Nat := 0
  /-- ring registers -/
  qbase : Nat := 0
  qsize : Nat := 0
  qcmpBase : Nat := 0
  /-- values latched at the last fresh start -/
  base : Nat := 0
  size : Nat := 0
  cmp : Nat := 0
  dirty : Bool := true
  tail : Nat := 0
  nextSeq : Nat := 1
  cmpSeq : Nat := 0
  /-- entries of a command whose continuation is not yet fetched: (first slot, its generation, words) -/
  part : Option (Nat × Nat × List Word) := none
  /-- stale slot: re-reads made, and when the next is due (R367) -/
  backoff : Option (Nat × Nat) := none
  /-- a RUN_SEQUENCE fetched and not yet expanded (R376) -/
  expand : Option Job := none
  jobs : List Job := []
  deriving DecidableEq, Repr

inductive CtxState where
  | closed | opened | lost
  deriving DecidableEq, Repr

/-- A context's grid table: 256 B8 points and 16 B4 points (R167). -/
structure Grid where
  b8 : List (BitVec 12)
  b4 : List (BitVec 12)
  deriving DecidableEq, Repr

structure Ctx where
  st : CtxState := .closed
  pasid : Nat := 0
  root : Nat := 0
  grid : Grid
  gridStaged : Option Grid := none
  submitted : Nat := 0
  completed : Nat := 0
  faulted : Nat := 0
  /-- a host error of context scope has befallen it: what its jobs write is unpredictable (R5) -/
  upset : Bool := false
  deriving DecidableEq, Repr

/-- A recorded sequence (R374): body words of each entry, and patch slots (entry, word, DVA). -/
structure RecSeq where
  id : Nat
  ctx : Nat
  body : List (List Word)
  patches : List (Nat × Nat)
  bodyDva : Nat
  deriving DecidableEq, Repr

/-! ## Model, tables, updates -/

/-- A lookup declaration (R396). -/
structure LookupDecl where
  table : Nat
  pool : Nat
  fp32 : Bool
  resultT0 : Nat
  indexOff : Nat
  bagOff : Nat
  weightOff : Nat
  deriving DecidableEq, Repr

/-- A step program (R396): streams are lists of 128-bit words. -/
structure Program where
  id : Nat
  /-- its section in the resident image: DVA and length -/
  dva : Nat
  bytes : Nat
  share : Nat
  lookups : List LookupDecl
  mre : List (BitVec 128)
  ve0 : List (BitVec 128)
  ve1 : List (BitVec 128)
  ru : List (BitVec 128)
  dma : List (BitVec 128)
  denseInOff : Nat
  denseInBytes : Nat
  denseInT0 : Nat
  outT0 : Nat
  outBytes : Nat
  deriving DecidableEq, Repr

structure Resident where
  modelTag : Nat
  setSlots : Nat
  setBytes : Nat
  programs : List Program
  image : Nat
  length : Nat
  reserve : Nat
  deriving DecidableEq, Repr

structure Model where
  res : Option Resident := none
  setLive : Nat := 0
  setStaged : Option Nat := none
  /-- bytes of the update buffer, and frames of the frame store, now -/
  bufBytes : Nat := 0
  frameCap : Nat := 0
  /-- spare pages left, by region -/
  spares : List Nat := []
  /-- pages withdrawn from the reservation, each with the spare page that has taken its place (R248) -/
  moved : List (Nat × Nat) := []
  deriving DecidableEq, Repr

/-- Table formats, kinds and placements (R76). -/
inductive Format where
  | i8 | i4 | b8 | b4
  deriving DecidableEq, Repr
inductive Kind where
  | coded | hashed | composed
  deriving DecidableEq, Repr
inductive Placement where
  | everywhere | range | hash
  deriving DecidableEq, Repr

/-- A table descriptor (R76). -/
structure Desc where
  id : Nat
  format : Format
  kind : Kind
  placement : Placement
  index64 : Bool
  tolerant : Bool
  defaultZero : Bool
  multiply : Bool
  dim : Nat
  shardsM1 : Nat
  rows : Nat
  geom : Nat
  mixA : Nat
  mixB : Nat
  quot : Nat
  rem : Nat
  hedgeUs : Nat
  shardMult : Nat
  defaultDva : Nat
  directory : Nat
  deriving DecidableEq, Repr

/-- One version of a table: its number, shard directory, and the seams of applied epochs, newest first (R104). -/
structure Version where
  num : Nat
  dir : Nat
  stamps : List Nat := []
  deriving DecidableEq, Repr

structure Shadow where
  ver : Version
  baseEpoch : Nat
  tracking : Bool := false
  deriving DecidableEq, Repr

inductive Swap where
  | none
  /-- waits for fills and catch-up: the job -/
  | waiting (j : JobRef)
  | staged
  deriving DecidableEq, Repr

structure Table where
  desc : Desc
  defaultRow : List BF16
  lit : Version
  shadow : Option Shadow := none
  retired : Option Version := none
  /-- retired versions released while a step still binds them (R71) -/
  dying : List Version := []
  releaseStaged : Bool := false
  swap : Swap := .none
  highest : Nat := 1
  /-- an admitted step has bound the first version (R86) -/
  bound : Bool := false
  deriving DecidableEq, Repr

/-- Owner map section (R94): table, and per shard the member list. -/
structure MapSection where
  table : Nat
  shards : List (List Nat)
  deriving DecidableEq, Repr

/-- The tag of one slot of a reflection (R127): version and owner's seam; the row itself stands in device memory. -/
structure ReflSlot where
  version : Nat
  seam : Nat
  deriving DecidableEq, Repr

/-- A held reflection: table, row, DVA of its two slots, which slot is live, whether the other was written and waits for
a seam. -/
structure Reflection where
  table : Nat
  row : Nat
  dva : Nat
  /-- the live slot's number -/
  live : Option Nat := none
  slot0 : Option ReflSlot := none
  slot1 : Option ReflSlot := none
  /-- the other slot holds a push or an answer that becomes live at the next seam -/
  written : Bool := false
  /-- the fill outstanding: its REQ_ID, the member asked and those that follow it in the order (R129) -/
  fill : Option (Nat × List Nat) := none
  deriving DecidableEq, Repr

structure ReflSet where
  dva : Nat
  held : List Reflection
  /-- (table, row, group) -/
  push : List (Nat × Nat × Nat)
  groups : List (List Nat)
  deriving DecidableEq, Repr

/-- An answer that may still come for an entry of a step that has left its slot or is being torn down: the request, the entry's row and
sample, and whether a default row took its place (R60, R297). -/
structure LateReq where
  reqId : Nat
  row : Nat
  sample : Nat
  dflt : Bool
  deriving DecidableEq, Repr

structure Tables where
  tables : List Table := []
  escOverrun : List (Nat × Nat) := []
  mapLive : List MapSection := []
  mapStaged : List MapSection := []
  mapTagLive : Nat := 0
  mapTagStaged : Option Nat := none
  refl : Option ReflSet := none
  reflStaged : Option ReflSet := none
  /-- pushes held until steps leave LOOKUP (R131): (table, row, tag, ROW body) -/
  heldPushes : List (Nat × Nat × ReflSlot × List Byte) := []
  /-- rows that wait for the host to give up lines of the slot that they go to (R319): whether a fill's answer, table, row, tag, ROW
  body -/
  slotWrites : List (Bool × Nat × Nat × ReflSlot × List Byte) := []
  /-- request messages received and not yet answered: the requester and the message, in order of arrival (R112) -/
  serve : List (Nat × ReqMsg) := []
  /-- pushes to be sent (R130): table, row, the owner's version and seam, members -/
  pushOut : List (Nat × Nat × Nat × Nat × List Nat) := []
  /-- answers still to come for requests of steps whose slot is free or in DISCARD -/
  late : List LateReq := []
  deriving DecidableEq, Repr

structure LookupCounters where
  indices : Nat := 0
  defaultReads : Nat := 0
  dedupMerged : Nat := 0
  dedupOverflow : Nat := 0
  prefetchReused : Nat := 0
  prefetchSkipped : Nat := 0
  reflectionReads : Nat := 0
  remoteEntries : Nat := 0
  entriesServed : Nat := 0
  partialsSent : Nat := 0
  partialsDiscarded : Nat := 0
  notHeldSent : Nat := 0
  pushesHeld : Nat := 0
  pushesStale : Nat := 0
  deriving DecidableEq, Repr

structure StragglerCounters where
  hedgesThreshold : Nat := 0
  hedgesNotHeld : Nat := 0
  hedgesLost : Nat := 0
  entriesExhausted : Nat := 0
  answersRedundant : Nat := 0
  lateReplies : Nat := 0
  rowsDefaulted : Nat := 0
  stepsWithDefaults : Nat := 0
  skewAnswers : Nat := 0
  stepsWithSkew : Nat := 0
  strictStalls : Nat := 0
  strictStallTime : Nat := 0
  strictUnreachable : Nat := 0
  peersLost : Nat := 0
  dimEntries : Nat := 0
  dimTime : Nat := 0
  deriving DecidableEq, Repr

/-- An update record kept in the buffer (R138): fp32 payload. -/
structure Kept where
  upd : UpdRec
  forLit : Bool
  forShadow : Bool
  /-- its epoch has been written back to lit; it stays for the shadow (R158) -/
  retained : Bool := false
  deriving DecidableEq, Repr

structure Epoch where
  num : Nat
  contribs : List Nat
  parts : List Nat
  digest : Nat
  /-- markers arrived: contributor, RECORDS -/
  markers : List (Nat × Nat) := []
  /-- records received: contributor, count -/
  received : List (Nat × Nat) := []
  closed : Bool := false
  forced : Bool := false
  ready : Bool := false
  deriving DecidableEq, Repr

/-- An overlay row (R153): header, codes and side entries as one byte list; `seam` none until applied. -/
structure Overlay where
  table : Nat
  version : Nat
  row : Nat
  epoch : Nat
  bytes : List Byte
  seam : Option Nat := none
  deriving DecidableEq, Repr

structure UpdCounters where
  recordsTaken : Nat := 0
  recordsReceived : Nat := 0
  recordsInvalid : Nat := 0
  recordsNotHeld : Nat := 0
  recordsLate : Nat := 0
  recordsAfterMark : Nat := 0
  recordsUndeclared : Nat := 0
  bufferFullHolds : Nat := 0
  epochsApplied : Nat := 0
  epochsForced : Nat := 0
  rowsApplied : Nat := 0
  declMismatch : Nat := 0
  escLimited : Nat := 0
  deriving DecidableEq, Repr

structure Updates where
  epochs : List Epoch := []
  recs : List Kept := []
  /-- records of epochs undeclared here, held before routing (R137) -/
  heldRecs : List UpdRec := []
  /-- markers and records that arrived before the declaration (R141) -/
  earlyMarks : List Marker := []
  earlyRecs : List UpdRec := []
  /-- records received whose shard directory lies in a line that the host holds: they wait to be kept (R319) -/
  parked : List UpdRec := []
  overlays : List Overlay := []
  lastApplied : Nat := 0
  appliedSeams : List (Nat × Nat) := []
  /-- epochs that this package has marked, with the start number of the MARK (R142) -/
  marked : List (Nat × Nat) := []
  /-- declarations of epochs that have been applied here -/
  past : List Epoch := []
  /-- records sent: epoch, participant, count -/
  sent : List (Nat × Nat × Nat) := []
  ctr : UpdCounters := {}
  deriving DecidableEq, Repr

/-! ## Steps -/

inductive SlotPhase where
  | free | admitted | prefetch | lookup | dense | emit | discard
  deriving DecidableEq, Repr

/-- An accepted answer of a request entry (R119, R120). -/
inductive Answer where
  | row (version : Nat) (vals : List F32)
  /-- covered by a PARTIAL; the group's first entry carries its sum -/
  | covered (lead : Bool) (version : Nat) (vals : List F32)
  | dflt
  deriving DecidableEq, Repr

/-- The tag of a row line (R104). A line of a reflection says besides from which slot it was read, by its DVA: 0 for a stored row (DESIGN
CHOICE, assumption 41). -/
structure LineTag where
  table : Nat
  version : Nat
  row : Nat
  stamp : Nat
  slot : Nat := 0
  deriving DecidableEq, Repr

/-- A request entry of a step (R101, R293 to R297). -/
structure Entry where
  table : Nat
  row : Nat
  sample : Nat
  weight : F32
  pool : Pool
  /-- replica order, and how many of it have been asked -/
  order : List Nat
  asked : List Nat := []
  /-- members asked that answered NOT_HELD or were presumed lost (R296) -/
  dead : List Nat := []
  answer : Option Answer := none
  /-- REQ_ID of every request that carried it, newest first -/
  reqs : List Nat := []
  /-- those of them whose answer for this entry has come -/
  done : List Nat := []
  /-- when the message carrying it was handed to the transport -/
  sentAt : Option Nat := none
  exhausted : Bool := false
  /-- the gather region that decodes its answer (R98) -/
  region : Nat := 0
  deriving DecidableEq, Repr

/-- Where a storage row of an occurrence comes from (R99). A row that this package reads is read and decoded once in each gather
region (R100), and once more for every occurrence past the region's limit of keys: `copy` is 0 for the read that occurrences share, and
the number of the occurrence otherwise (R102). `free` stands for a composed row whose part is not defined (R89). -/
inductive Src where
  | dflt
  | stored (region table row copy : Nat)
  | refl (region table row copy : Nat)
  | free (table row : Nat)
  | entry (i : Nat)
  deriving DecidableEq, Repr

/-- One index occurrence: declaration, sample, weight, and its source or two. -/
structure Occ where
  decl : Nat
  sample : Nat
  weight : F32
  srcs : List Src
  /-- replaced by the default row in the penumbra -/
  missing : Bool := false
  deriving DecidableEq, Repr

structure Step where
  job : JobRef
  samples : Nat
  program : Program
  deadline : Nat
  budget : Nat
  input : Nat
  output : Nat
  missing : Nat
  push : Nat
  tAdm : Nat
  /-- bound settings (R48): version number and directory by table -/
  versions : List (Nat × Version)
  map : List MapSection
  grid : Grid
  set : Nat
  refl : Option ReflSet
  /-- clusters taken, share by share -/
  clusters : List Nat
  occs : List Occ := []
  entries : List Entry := []
  missingCounts : List Nat := []
  defaulted : Nat := 0
  skewed : Nat := 0
  hedges : Nat := 0
  deadlineMissed : Bool := false
  strictWaited : Bool := false
  peerLost : Bool := false
  expired : Bool := false
  strictSince : Option Nat := none
  /-- STRICT entries counted as unreachable -/
  unreach : List Nat := []
  /-- row lines whose use it holds -/
  uses : List LineTag := []
  /-- shares whose outputs have been copied; shares discarded for CLUSTER_HUNG -/
  emitted : List Nat := []
  /-- pieces of its outputs that each share has written to PUSH (R404) -/
  pushed : List (Nat × Nat) := []
  hung : List Nat := []
  /-- the discard of a hung share has been handled: it fixes the step-class status (R440) -/
  hungFirst : Bool := false
  /-- an error of the step waits for handling: its units stay stopped (R439) -/
  halted : Bool := false
  deriving DecidableEq, Repr

structure Slot where
  phase : SlotPhase := .free
  rt : Bool := false
  penumbra : Bool := false
  strictWait : Bool := false
  deadlinePast : Bool := false
  ctx : Nat := 0
  stepSeq : Nat := 0
  step : Option Step := none
  deriving DecidableEq, Repr

/-! ## Clusters -/

inductive ClOwner where
  | free
  | step (slot : Nat)
  | check
  | withdrawn
  deriving DecidableEq, Repr

/-- An accumulator entry (R183). -/
inductive MreAcc where
  | int (v : Int)
  | flt (v : F32)
  deriving DecidableEq, Repr

/-- A chain that an MRE holds (R189): M, N, the lanes of its last instruction, its path, the accumulators of (m, j) row by
row, S_a for each m (R177), and the T0 ranges of its operands (R188). -/
structure MreChain where
  m : Nat
  n : Nat
  lanes : Nat
  bf : Bool
  accs : List MreAcc
  sums : List Int
  ranges : List (Nat × Nat)
  /-- ELAPSED_NS of its last MATMUL and that word's place in the stream, which tell the chain's states apart -/
  stamp : Nat × Nat := (0, 0)
  deriving DecidableEq, Repr

structure Mre where
  stream : List (BitVec 128) := []
  pos : Nat := 0
  /-- a fault stops the unit at the faulting element -/
  faulted : Bool := false
  chain : Option MreChain := none
  deriving DecidableEq, Repr

structure Ve where
  stream : List (BitVec 128) := []
  pos : Nat := 0
  faulted : Bool := false
  /-- 32 tile registers as sparse bytes: (register × 32,768 + byte) -/
  tiles : List Host.Cell := []
  /-- masks M0 to M7 of 8,192 bits, as numbers; M0 is never written and reads as all ones (R199) -/
  masks : Vector Nat 8 := Vector.replicate 8 0
  deriving DecidableEq, Repr

structure Ru where
  stream : List (BitVec 128) := []
  pos : Nat := 0
  faulted : Bool := false
  deriving DecidableEq, Repr

structure Dma where
  stream : List (BitVec 128) := []
  pos : Nat := 0
  faulted : Bool := false
  deriving DecidableEq, Repr

structure Cluster where
  owner : ClOwner := .free
  /-- context whose data the scratch holds (R20) -/
  scratchCtx : Option Nat := none
  t0 : List Host.Cell := []
  mre : Mre := {}
  ve0 : Ve := {}
  ve1 : Ve := {}
  ru : Ru := {}
  dma : Dma := {}
  /-- barriers completed -/
  barriers : Nat := 0
  /-- ELAPSED_NS of the latest completion of one of its internal handshakes (R24) -/
  progress : Nat := 0
  /-- the line that its work met held by the host, and waits for until the host has given it up (R24, R319) -/
  asked : Option Nat := none
  deriving DecidableEq, Repr

/-! ## Memory tiers and HBM -/

inductive Hint where
  | stream | keep
  | last (uses : Nat)
  deriving DecidableEq, Repr

/-- One entry of the shared pool (R219, R222): a T1 address line, a row line, or a frame. The pool lists entries in
age order, oldest first. -/
inductive PoolEntry where
  /-- 256-byte block number (DPA ÷ 256), valid and dirty sectors, data -/
  | line (block : Nat) (valid dirty : BitVec 4) (data : List Byte) (hint : Hint)
  /-- row line: region, tag, bytes, uses -/
  | row (region : Nat) (tag : LineTag) (bytes : List Byte) (uses : Nat)
  /-- frame: lender, lease, page, dirty sectors, data, hint; `busy` while it is fetched or written back under the
  given tag -/
  | frame (lender lease page : Nat) (dirty : BitVec 64) (data : List Byte) (hint : Hint) (busy : Option Nat)
  deriving DecidableEq, Repr

structure Lent where
  id : Nat
  base : Nat
  size : Nat
  borrower : Nat
  /-- claimant's device and incarnation -/
  claimant : Option (Nat × Nat) := none
  /-- its borrower was presumed lost (R237) -/
  borrowerLost : Bool := false
  deriving DecidableEq, Repr

structure Borrowed where
  lender : Nat
  lease : Nat
  ctx : Nat
  base : Nat
  /-- 0 until the claim is accepted -/
  size : Nat
  poisoned : Bool := false
  /-- poisoned single pages (R244, dirty frame) -/
  badPages : List Nat := []
  /-- it is being returned: steps admitted at or before this seam must end first (R230) -/
  returning : Option Nat := none
  /-- dirty sectors lost with the lender while it was being returned -/
  lostDirty : Nat := 0
  deriving DecidableEq, Repr

/-- An access that waits on a tier (R233). -/
structure TierWait where
  id : Nat
  tier : Nat
  since : Nat
  owner : Owner
  addr : Nat
  pasid : Nat := 0
  counted : Bool := false
  /-- since when a page request has been outstanding, whose time does not count (R351) -/
  paused : Option Nat := none
  /-- the borrowed page that it waits for: lender, lease, page -/
  page : Option (Nat × Nat × Nat) := none
  /-- bytes that a write to that page is to leave there, from the access's address -/
  data : List Byte := []
  deriving DecidableEq, Repr

/-- An access of a DMA engine that has done a part of its range: bytes done, and what a read has read so far. -/
structure Partial where
  owner : Owner
  write : Bool
  dva : Nat
  len : Nat
  done : Nat
  data : List Byte
  deriving DecidableEq, Repr

structure Tiers where
  pool : List PoolEntry := []
  lent : List Lent := []
  borrowed : List Borrowed := []
  waits : List TierWait := []
  nextWait : Nat := 0
  /-- accesses that have done the pages before the one that they wait for (R229) -/
  partials : List Partial := []
  /-- TAGs of the write-backs of frames that make room -/
  evicting : List Nat := []
  /-- bytes that an abandoned write leaves to a page under fetch: lender, lease, page, offset, bytes (R234) -/
  lateWrites : List (Nat × Nat × Nat × Nat × List Byte) := []
  /-- sectors under write-back, with the instant at which HBM acknowledges (R221) -/
  writing : List (Nat × Nat) := []
  stalls : Vector Nat 5 := Vector.replicate 5 0
  stallTime : Vector Nat 5 := Vector.replicate 5 0
  evictions : Nat := 0
  writebackSectors : Nat := 0
  discardedDirty : Nat := 0
  poisonedPages : Nat := 0
  stallLimits : Nat := 0
  leaseRefused : Nat := 0
  deriving DecidableEq, Repr

/-- Traffic levels (R250). -/
inductive Level where
  | full | l75 | l50 | stop
  deriving DecidableEq, Repr

structure Stack where
  corrected : Nat := 0
  uncorrectable : Nat := 0
  poisonTouches : Nat := 0
  temp : Int := 0
  level : Level := .full
  sensorFault : Bool := false
  badReads : Nat := 0
  timeL75 : Nat := 0
  timeL50 : Nat := 0
  servePoisoned : Nat := 0
  pagesWeak : Nat := 0
  trained : Bool := false
  /-- traffic admitted at L75 or L50 within the last 10 µs: instant, bytes (R251) -/
  traffic : List (Nat × Nat) := []
  /-- ELAPSED_NS of its last temperature report (R250) -/
  readAt : Nat := 0
  deriving DecidableEq, Repr

structure Hbm where
  mem : List Host.Cell := []
  /-- poisoned granules (DPA ÷ 64), rising -/
  poison : List Nat := []
  /-- retired pages (DPA ÷ 4,096), in the order they were added -/
  retired : List Nat := []
  report : List Nat := []
  /-- decode results that halves of granules show at their next read (R241): a DPA in the half, result -/
  latent : EccList := []
  /-- corrected errors by page this power cycle -/
  weak : List (Nat × Nat) := []
  stk : Vector Stack 8 := Vector.replicate 8 {}
  updatePoisoned : Nat := 0
  deriving DecidableEq, Repr

/-! ## Fabric -/

structure PortCfg where
  device : Nat
  domain : Nat
  udpPort : Nat
  dscp : Nat
  pfx : Nat
  enable : BitVec 16
  macs : List (Nat × Nat)
  word0 : Nat
  deriving DecidableEq, Repr

/-- Port states, coded as in R292. -/
inductive PortState where
  | disabled | training | up | degraded | down
  deriving DecidableEq, Repr

/-- A frame queued on a port (R285): class of R285, line time left when it has started. -/
structure TxEntry where
  prio : Nat
  frame : TxFrame
  deriving DecidableEq, Repr

structure Port where
  st : PortState := .disabled
  laneFault : BitVec 8 := 0
  laserLow : Bool := false
  oeDark : Bool := false
  fecCorrected : Nat := 0
  fecUncorrectable : Nat := 0
  downEvents : Nat := 0
  laneSymbols : List Nat := [0, 0, 0, 0, 0, 0, 0, 0]
  txq : List TxEntry := []
  /-- line time still to run of the frame in flight, in bytes -/
  busy : Nat := 0
  since : Nat := 0
  /-- LINK_TEST holds the port -/
  testing : Bool := false
  /-- the port has left its first training -/
  trained : Bool := false
  /-- ELAPSED_NS of the last reading of its laser input (R261) -/
  laserAt : Nat := 0
  deriving DecidableEq, Repr

/-- A sequenced message not yet acknowledged, or waiting to be sent. -/
structure TxMsg where
  seq : Nat
  kind : Nat
  body : List Byte
  /-- last transmission: time, port, timer; `none` while it has not been transmitted -/
  sentAt : Option Nat := none
  port : Nat := 0
  timer : Nat := 5000
  /-- higher messages newly acknowledged since its last transmission -/
  higher : Nat := 0
  /-- when it began to wait -/
  queuedAt : Nat := 0
  /-- the frame of its next transmission waits on a port -/
  queued : Bool := false
  /-- its timer has expired since its last transmission (R281, R283) -/
  expired : Bool := false
  /-- a retransmission of it waits for a common working port (R281, R288) -/
  again : Bool := false
  /-- a request message that a round released: unsent until its first transmission starts (R109) -/
  round : Bool := false
  /-- the MARK whose close marker it carries (R142) -/
  mark : Option JobRef := none
  deriving DecidableEq, Repr

structure TxSpace where
  next : Nat := 1
  ackSeq : Nat := 1
  rwin : Nat := 64
  cwnd : Nat := 16
  lastCut : Option Nat := none
  acked : Nat := 0
  unacked : List TxMsg := []
  zeroSince : Option Nat := none
  lastProbe : Option Nat := none
  deriving DecidableEq, Repr

structure RxSpace where
  ackSeq : Nat := 1
  received : List Nat := []
  owedSince : Option Nat := none
  ece : Option Nat := none
  deriving DecidableEq, Repr

structure Peer where
  dev : Nat
  inc : Nat
  lost : Bool := false
  lastGlint : Nat
  interval : Nat
  dim : Bool := false
  state : Nat := 0
  ports : BitVec 16 := 0
  glintPtr : Nat := 0
  sprayPtr : Nat := 0
  /-- last CE echo by port -/
  ce : List (Nat × Nat) := []
  txS : TxSpace := {}
  txU : TxSpace := {}
  rxS : RxSpace := {}
  rxU : RxSpace := {}
  deriving DecidableEq, Repr

structure LinkTest where
  job : JobRef
  ports : BitVec 16
  mode : Nat
  prbs13 : Bool
  peer : Nat
  start : Nat
  duration : Nat
  results : Nat
  /-- by port, the frames sent in FRAME mode, and those that came back right or wrong -/
  sent : List (Nat × Nat) := []
  good : List (Nat × Nat) := []
  bad : List (Nat × Nat) := []
  deriving DecidableEq, Repr

structure FabCounters where
  messagesSent : Nat := 0
  messagesDelivered : Nat := 0
  retransmits : Nat := 0
  duplicates : Nat := 0
  framesForeign : Nat := 0
  framesDroppedCheck : Nat := 0
  framesStaleInc : Nat := 0
  rxDropped : Nat := 0
  ceReceived : Nat := 0
  windowReductions : Nat := 0
  messagesAbandoned : Nat := 0
  deriving DecidableEq, Repr

/-- A sequenced message for a device from which no glint has been recorded yet (R276). -/
structure EarlyMsg where
  dev : Nat
  update : Bool
  kind : Nat
  body : List Byte
  round : Bool := false
  mark : Option JobRef := none
  deriving DecidableEq, Repr

structure Fabric where
  cfgLive : Option PortCfg := none
  cfgStaged : Option PortCfg := none
  ports : Vector Port 16 := Vector.replicate 16 {}
  peers : List Peer := []
  /-- devices on the live peer list, with the instant each last joined it -/
  listed : List (Nat × Nat) := []
  early : List EarlyMsg := []
  /-- messages to the own device number on their way inside the package (R277): kind, body -/
  own : List (Nat × List Byte) := []
  test : Option LinkTest := none
  nextReqId : Nat := 0
  nextTag : Nat := 0
  lastGlints : Nat := 0
  ctr : FabCounters := {}
  deriving DecidableEq, Repr

/-! ## Dim, power, sideband -/

structure Dim where
  cfgLive : Word := 0
  cfgStaged : Option Word := none
  paceLive : Bool := false
  paceStaged : Option Bool := none
  drainLive : Bool := false
  drainStaged : Option Bool := none
  low : List Nat := [0, 0, 0, 0, 0, 0, 0, 0]
  good : Nat := 0
  /-- regions sampled in the millisecond that is not yet complete, and whether one of them was low -/
  sampled : List Nat := []
  lowNow : Bool := false
  deriving DecidableEq, Repr

inductive RegState where
  | normal | derate | over
  deriving DecidableEq, Repr

structure Region where
  setpoint : Nat := 750
  /-- the regulator's output, in tenths of a millivolt, and the time since its last step (R471) -/
  output : Nat := 0
  ramp : Nat := 0
  vmon0 : Nat := 0
  vmon1 : Nat := 0
  ceilLive : Nat := 850
  ceilStaged : Option Nat := none
  shadeLive : Nat := 10
  shadeStaged : Option Nat := none
  temps : List Int := [0, 0, 0, 0]
  bad : List Nat := [0, 0, 0, 0]
  faulted : List Bool := [false, false, false, false]
  hot : List Nat := [0, 0, 0, 0]
  temp : Int := 0
  tempMax : Int := 0
  state : RegState := .normal
  idle : Bool := false
  /-- the loop has resumed after idle and no whole interval has passed since (R482) -/
  resumed : Bool := true
  limiting : Bool := false
  /-- the output to which the current limit has lowered the regulator, in tenths of a millivolt, while it limits (R475) -/
  limitTo : Nat := 0
  searching : Bool := false
  vBase : Nat := 0
  proc0 : Nat := 0
  proc1 : Nat := 0
  current : Nat := 0
  energy : Nat := 0
  timeHot : Nat := 0
  timeLimiting : Nat := 0
  /-- 10 µs measurements not yet sampled: the instant of each, MRE and GE pace (R482) -/
  meas : List (Nat × Nat × Nat) := []
  paceMre : Nat := 0
  paceGe : Nat := 0
  /-- ELAPSED_NS of its last control loop, its last pace sample, and the last reading of each sensor (R473, R478, R482) -/
  loopAt : Nat := 0
  sampleAt : Nat := 0
  readAt : List Nat := [0, 0, 0, 0]
  /-- ELAPSED_NS of the last work of its clusters, gather and update engines and memory controller (R474) -/
  workAt : Nat := 0
  /-- since when each supply monitor has read outside its window (R483) -/
  outside : List (Option Nat) := [none, none]
  deriving DecidableEq, Repr

structure OptEngine where
  temp : Int := 0
  tempMax : Int := 0
  hot : Bool := false
  fault : Bool := false
  bad : Nat := 0
  /-- ELAPSED_NS of its last reading (R481) -/
  readAt : Nat := 0
  deriving DecidableEq, Repr

structure Tap where
  ir : BitVec 8
  update : BitVec 43 := 0
  inReset : Bool := true
  deriving DecidableEq, Repr

structure I3c where
  dyn : Option (BitVec 7) := none
  offset : Nat := 0
  /-- status bytes frozen when the package failed -/
  frozen : Option (List Byte) := none
  deriving DecidableEq, Repr

/-- Power counters of the package (R484). -/
structure Power where
  pkgEnergy : Nat := 0
  pkgCurrent : Nat := 0
  vinMv : Nat := 0
  deriving DecidableEq, Repr

/-- What can wait for a seam (R42): a staged value of R67's table, an epoch ready for application, a received reflection push. -/
inductive WaitItem where
  | ports | dim | pace | drain | brim | map | set | reflections
  | limits (region : Nat)
  | grid (ctx : Nat)
  | swap (table : Nat)
  | release (table : Nat)
  | push (table row : Nat)
  | epoch (num : Nat)
  deriving DecidableEq, Repr

/-- A RUN_STEP selected at a seam that has passed, and not yet bound (R47): its class, its job, and the slot that was FREE when
the seam began. -/
structure Binding where
  rt : Bool
  job : JobRef
  slot : Nat
  deriving DecidableEq, Repr

/-- The scheduler's own state (R42, R426). -/
structure Sched where
  rtPtr : Nat := 1
  normPtr : Nat := 9
  rtPick : Option JobRef := none
  normPick : Option JobRef := none
  brimLive : Nat := 0
  brimStaged : Option Nat := none
  /-- what waits for a seam, with the instant of its arrival (R42) -/
  arrivals : List (WaitItem × Nat) := []
  /-- which command has staged each setting last, by its order of starting; of a map, for each table (R66, R370) -/
  stagers : List ((WaitItem × Nat) × Nat) := []
  /-- the admission in progress: staging is closed while there is one (R63) -/
  binding : Option Binding := none
  lastSeamAt : Nat := 0
  nextStart : Nat := 0
  deriving DecidableEq, Repr

/-- The whole package. `pending` is the queue of commands that wait, first in first out; `out` is what the block has
sent outside, newest first. -/
structure State where
  pkg : Package
  boot : Boot
  recorder : Recorder
  mram : Mram
  fuses : Fuses
  sec : Security
  regs : Regs
  cxl : Cxl
  xlat : Xlat
  queues : Vector Queue 64
  ctxs : Vector Ctx 64
  seqs : List RecSeq
  model : Model
  tabs : Tables
  lookups : LookupCounters
  strag : StragglerCounters
  upd : Updates
  slots : Vector Slot 8
  cls : Vector Cluster 16
  tiers : Tiers
  hbm : Hbm
  fab : Fabric
  dim : Dim
  err : Errors
  regions : Vector Region 8
  oes : Vector OptEngine 4
  power : Power
  sched : Sched
  tap : Tap
  i3c : I3c
  out : List Output
  pending : List Instr
  deriving DecidableEq, Repr

end Sys2Proof.Machine

/-- What a package under a host error of device or system scope has become of a state (R5: "Any state of the package, including other
contexts, staged settings and the fabric traffic it sends"); `none` where it stays as it was. A free value. -/
opaque Sys2Proof.Config.strayState : Sys2Proof.Machine.State → Option Sys2Proof.Machine.State

namespace Sys2Proof.Machine

/-! ## Reset -/

/-- The default grid table (R165, R167). -/
def Grid.default : Grid := ⟨Config.gridB8, Config.gridB4⟩

/-- A queue bound and not yet started (R359, R390; STOP_CAUSE 5, DEDUCED for queue 0, assumption 12). -/
def Queue.fresh (ctx : Nat) (q : Queue) : Queue :=
  { q with st := .stopped, cause := 5, ctx := ctx, dirty := true, part := none, backoff := none }

/-- The copy of a value as the MRAM holds it: the value, its sequence number, the CRC-32 of both (R460, R469). -/
def Copy.of (value seq : Nat) : Copy := ⟨value, seq, crc32 (leBytes 4 value ++ leBytes 4 seq)⟩

/-- A copy of the leaf index: the value and the CRC-32 of its four bytes (R460). -/
def Copy.leaf (value : Nat) : Copy := ⟨value, 0, crc32 (leBytes 4 value)⟩

/-- The RECORDER_CLEARED record of manufacture (R455): all zero but for CODE; its CHECK is the CRC-32 of its bytes. -/
def EventRec.manufacture : EventRec where
  code := 1
  cls := 0
  ctx := 0
  repeats := 0
  hours := 0
  cycle := 0
  elapsed := 0
  seam := 0
  lastElapsed := 0
  device := 0
  deviceValid := false
  inc := 0
  payload := List.replicate 188 0
  check := 0xA59AA192

/-- The OID of a public key as RFC 8391 writes it: four bytes, the most significant first. -/
def oidBytes (n : Nat) : List Byte := (leBytes 4 n).reverse

/-- The verification key that a model package is made with: parameter set XMSSMT-SHAKE_40/4_256 and 64 zero bytes
(DESIGN CHOICE, assumption 6). -/
def Fuses.key : List Byte := oidBytes Config.oidXmssMt40_4 ++ List.replicate 64 0

/-- The MRAM as manufactured (R455, R460, R469; values the manual does not state: assumption 6). -/
def Mram.manufacture : Mram where
  leafA := Copy.leaf 0
  leafB := Copy.leaf 0
  opKey0 := List.replicate 68 0
  opKey1 := List.replicate 68 0
  selA := Copy.of 2 0
  selB := Copy.of 2 0

def Security.reset : Security where
  mrFirmware := List.replicate 32 0
  mrProgram := List.replicate 32 0
  mrTables := List.replicate 32 0
  mrOwnerMap := List.replicate 32 0

/-- A context at reset: closed, default grids (R418). -/
def Ctx.reset : Ctx := { grid := Grid.default }

/-- Contexts at reset: context 0 is OPEN (R419). -/
def Ctx.resetAll : Vector Ctx 64 := (Vector.replicate 64 Ctx.reset).set 0 { Ctx.reset with st := .opened }

/-- Queues at reset: queue 0 is bound to context 0 (R359). -/
def Queue.resetAll : Vector Queue 64 := (Vector.replicate 64 {}).set 0 (Queue.fresh 0 {})

/-- The machine right after reset, rails down, as manufactured. -/
def State.reset : State where
  pkg := {}
  boot := {}
  recorder := { records := [EventRec.manufacture] }
  mram := Mram.manufacture
  fuses := { fwKeyHash := digest Fuses.key, serial := List.replicate 8 0, issuerId := List.replicate 32 0,
             identityKey := oidBytes Config.oidXmss20 ++ List.replicate 64 0, certSignature := List.replicate 9893 0,
             vCoeffs := List.replicate 8 (0, 0) }
  sec := Security.reset
  regs := {}
  cxl := {}
  xlat := {}
  queues := Queue.resetAll
  ctxs := Ctx.resetAll
  seqs := []
  model := {}
  tabs := {}
  lookups := {}
  strag := {}
  upd := {}
  slots := Vector.replicate 8 {}
  cls := Vector.replicate 16 {}
  tiers := {}
  hbm := {}
  fab := {}
  dim := {}
  err := {}
  regions := Vector.replicate 8 {}
  oes := Vector.replicate 4 {}
  power := {}
  sched := {}
  tap := { ir := 0x02 }
  i3c := {}
  out := []
  pending := []

end Sys2Proof.Machine
end

