-- ==== Sys2Proof/Machine/Flags.lean ====
section
/-! DEFINITION. Status codes and details (R386, R416), opcodes (R389), and the status words that registers report. -/

namespace Sys2Proof.Machine

/-- An integer as a two's complement field of `n` bits. -/
def twos (n : Nat) (v : Int) : Nat := (v % 2 ^ n).toNat

/-- A quotient to the nearest whole number, ties to even (R180). -/
def nearest (a b : Nat) : Nat :=
  let q := a / b
  let r := a % b
  if 2 * r < b then q else if b < 2 * r then q + 1 else q + q % 2

/-! Status codes (R416). -/
def stOk : Nat := 0x0000
def stOkDefaults : Nat := 0x0001
def stOkSkew : Nat := 0x0002
def stWaitExpired : Nat := 0x0010
def stWithdrawn : Nat := 0x0011
def stPageFault : Nat := 0x0012
def stStallLimit : Nat := 0x0013
def stContextLost : Nat := 0x0020
def stStaleEntry : Nat := 0x0021
def stAborted : Nat := 0x0022
def stVersionBusy : Nat := 0x0030
def stEpochForced : Nat := 0x0031
def stPoisoned : Nat := 0x0040
def stAuthFailed : Nat := 0x0050
def stExhausted : Nat := 0x0051

/-! Details of ABORTED (R386). -/
def dtOpcode : Nat := 0xFFFF0001
def dtContext : Nat := 0xFFFF0002
def dtCount : Nat := 0xFFFF0003
def dtQueue : Nat := 0xFFFF0004
def dtNoModel : Nat := 0xFFFF0010
def dtBadParam : Nat := 0xFFFF0011
def dtWrongState : Nat := 0xFFFF0012
def dtNoResource : Nat := 0xFFFF0013
def dtEndedByHost : Nat := 0xFFFF0014
def dtBadContainer : Nat := 0xFFFF0020
def dtClusterHung : Nat := 0x00000060

/-- Error class of a record's status (R416, R435): whether FAULTED counts it. `cls` is the class of the error that fixed
the status: POISONED without one carries no class. -/
def statusFaulted (status detail cls : Nat) : Bool :=
  status == stWithdrawn || status == stPageFault || status == stStallLimit || status == stContextLost ||
  (status == stAborted && detail == dtClusterHung) || (status == stPoisoned && cls != 0)

/-- One opcode of R389: code, whether queue 0 is required, its PCOUNT. -/
structure OpRow where
  code : Nat
  queue0 : Bool
  pcount : Nat
  deriving DecidableEq, Repr

/-- The opcodes (R389). -/
def opTable : List OpRow :=
  [⟨0x0001, false, 0⟩, ⟨0x0002, true, 3⟩, ⟨0x0003, true, 1⟩, ⟨0x0010, true, 4⟩, ⟨0x0011, true, 0⟩, ⟨0x0012, true, 3⟩,
   ⟨0x0020, true, 1⟩, ⟨0x0021, true, 1⟩, ⟨0x0022, true, 5⟩, ⟨0x0023, true, 3⟩, ⟨0x0024, true, 1⟩, ⟨0x0025, true, 1⟩,
   ⟨0x0026, true, 1⟩, ⟨0x0030, false, 6⟩, ⟨0x0031, false, 3⟩, ⟨0x0032, false, 1⟩, ⟨0x0038, false, 2⟩,
   ⟨0x0039, false, 2⟩, ⟨0x0040, false, 2⟩, ⟨0x0041, false, 2⟩] ++
  [⟨0x0050, false, 3⟩, ⟨0x0058, true, 2⟩, ⟨0x0059, true, 2⟩, ⟨0x005A, true, 1⟩, ⟨0x0060, true, 1⟩, ⟨0x0061, true, 9⟩,
   ⟨0x0062, true, 1⟩, ⟨0x0063, true, 2⟩, ⟨0x0064, false, 1⟩, ⟨0x0070, false, 3⟩, ⟨0x0071, false, 2⟩, ⟨0x0072, true, 2⟩,
   ⟨0x0078, false, 3⟩, ⟨0x0079, false, 3⟩, ⟨0x007A, true, 2⟩, ⟨0x007C, true, 2⟩, ⟨0x007D, true, 3⟩, ⟨0x007F, false, 1⟩]

def opRow (code : Nat) : Option OpRow := opTable.find? (·.code == code)

/-! Codes of register fields. -/

/-- QSTATE.STATE (R360). -/
def QState.code : QState → Nat
  | .unbound => 0 | .stopped => 1 | .running => 2 | .idle => 3

/-- STEP_SLOT PHASE (R45). -/
def SlotPhase.code : SlotPhase → Nat
  | .free => 0 | .admitted => 1 | .prefetch => 2 | .lookup => 3 | .dense => 4 | .emit => 5 | .discard => 6

/-- DEV_STATE (R357). -/
def DevState.code : DevState → Nat
  | .boot => 0 | .loading => 1 | .ready => 2 | .dim => 3 | .draining => 4 | .failed => 5

/-- BOOT_STATUS.STATE (R358). -/
def BootState.code : BootState → Nat
  | .waiting => 0 | .busy => 1 | .chunkTaken => 2 | .verifying => 3 | .verified => 4 | .rejected => 5

/-- Port states (R292). -/
def PortState.code : PortState → Nat
  | .disabled => 0 | .training => 1 | .up => 2 | .degraded => 3 | .down => 4

/-- Traffic levels (R259). -/
def Level.code : Level → Nat
  | .full => 0 | .l75 => 1 | .l50 => 2 | .stop => 3

end Sys2Proof.Machine
end

