-- ==== Sys2Proof/Machine/Records.lean ====
section
/-! DEFINITION. Fault records and event records as bytes (R383, R449, R450), packing of fields, and status records
(R371). -/

namespace Sys2Proof.Machine

/-- Pack values into fields of the given widths, the first at bit 0. -/
def packFields : List (Nat × Nat) → Nat
  | [] => 0
  | (v, w) :: fs => v % 2 ^ w + 2 ^ w * packFields fs

/-- Read fields of the given widths, the first at bit 0. -/
def unpackFields : List Nat → Nat → List Nat
  | [], _ => []
  | w :: ws, n => n % 2 ^ w :: unpackFields ws (n / 2 ^ w)

/-- Word `i` of a fault record (R383). -/
def FaultRec.words (r : FaultRec) : List Nat :=
  [packFields [(r.cause, 8), (r.cls, 2), (0, 6), (r.ctx, 6), (0, 2), (r.unitKind, 4), (r.unit, 7), (0, 13), (r.queue, 6),
     (b2n r.noJob, 1), (0, 9)],
   r.jobSeq % 2 ^ 64,
   packFields [(r.stepSeq, 48), (r.slot, 3), (b2n r.isStep, 1), (0, 12)],
   packFields [(r.instr, 32), (r.operand, 2), (0, 30)],
   packFields [(r.elem0, 32), (r.elem1, 32)],
   r.address % 2 ^ 64,
   packFields [(r.pasid, 20), (r.level, 2), (0, 2), (r.region, 3), (r.channel, 5), (r.pseudo, 1), (0, 31)],
   r.elapsed % 2 ^ 64]

def FaultRec.bytes (r : FaultRec) : List Byte := r.words.flatMap (leBytes 8)

/-- Pad or cut to `n` bytes. -/
def padTo (n : Nat) (bs : List Byte) : List Byte := bs.take n ++ List.replicate (n - bs.length) 0

/-- Bytes 0 to 251 of an event record (R449). -/
def EventRec.body (r : EventRec) : List Byte :=
  ([packFields [(r.code, 16), (r.cls, 2), (0, 6), (r.ctx, 6), (0, 2), (r.repeats, 16), (0, 16)],
    packFields [(r.hours, 32), (r.cycle, 32)], r.elapsed % 2 ^ 64, r.seam % 2 ^ 64, r.lastElapsed % 2 ^ 64,
    packFields [(r.device, 14), (b2n r.deviceValid, 1), (0, 17), (r.inc, 32)], 0, 0]).flatMap (leBytes 8)
  ++ padTo 188 r.payload

/-- The record's 256 bytes, its CHECK last. -/
def EventRec.bytes (r : EventRec) : List Byte := r.body ++ leBytes 4 r.check

/-- The record with the CHECK of its bytes. -/
def EventRec.sealed (r : EventRec) : EventRec := { r with check := crc32 r.body }

/-- Whether the CHECK is the CRC-32 of the record's bytes (R453). -/
def EventRec.ok (r : EventRec) : Bool := r.check == crc32 r.body

/-- The record that 256 bytes spell. -/
def EventRec.ofBytes (bs : List Byte) : EventRec :=
  let w (i : Nat) : Nat := leNat ((bs.drop (8 * i)).take 8)
  { code := fieldOf (w 0) 0 16, cls := fieldOf (w 0) 16 2, ctx := fieldOf (w 0) 24 6, repeats := fieldOf (w 0) 32 16
    hours := fieldOf (w 1) 0 32, cycle := fieldOf (w 1) 32 32, elapsed := w 2, seam := w 3, lastElapsed := w 4
    device := fieldOf (w 5) 0 14, deviceValid := bitOf (w 5) 14, inc := fieldOf (w 5) 32 32
    payload := (bs.drop 64).take 188, check := leNat ((bs.drop 252).take 4) }

/-- What a slot holds whose write did not come to its end, or did not read back: free bytes. -/
def EventRec.torn (i : Nat) : EventRec := EventRec.ofBytes ((List.range 256).map (Config.tornByte i))

/-- Records held (HELD, R447). -/
def Recorder.held (r : Recorder) : Nat := r.records.length

/-- Stamp an event with the header, the time and the seam of its detection, and the device (R449). -/
def State.stamp (s : State) (e : Event) : EventRec :=
  let (t, n) := e.at'.getD (s.pkg.elapsed, s.pkg.seamCount)
  EventRec.sealed
    { code := e.code, cls := e.cls, ctx := e.ctx, repeats := 0, hours := s.recorder.hours, cycle := s.recorder.powerCycles,
      elapsed := t, seam := n, lastElapsed := t,
      device := (s.fab.cfgLive.map (·.device)).getD 0, deviceValid := s.fab.cfgLive.isSome, inc := s.pkg.incarnation,
      payload := padTo 188 e.payload, check := 0 }

/-- Whether an event of this code is written while HELD records are held (R452). -/
def Recorder.takes (r : Recorder) (code : Nat) : Bool :=
  r.held < Config.recOrdinary || (code == 0xF0 && r.held < Config.recSlots)

/-- A package-fatal error is detected: the first fixes the cause, a later one adds to CAUSES_SEEN (R445). Its bits are
collected from detection on; the fatal controller's sequence is FATAL_SEQUENCE. -/
def State.raiseFatal (s : State) (cause : Nat) (frec : Option FaultRec) : State :=
  match s.err.failed, s.err.fatal with
  | none, none =>
    { s with err := { s.err with fatal := some (cause, frec), fatalAt := (s.pkg.elapsed, s.pkg.seamCount), causesSeen := 2 ^ cause } }
  | _, _ =>
    let seen := if bitOf s.err.causesSeen cause then s.err.causesSeen else s.err.causesSeen + 2 ^ cause
    let mask (r : EventRec) : EventRec :=
      EventRec.sealed { r with payload := r.payload.take 8 ++ leBytes 8 seen ++ r.payload.drop 16 }
    let recs := match s.err.fatalRecord with
      | some i => s.recorder.records.modify i mask
      | none => s.recorder.records
    { s with err := { s.err with causesSeen := seen }, recorder := { s.recorder with records := recs } }

/-- An MRAM write of the recorder: one that fails its read-back is package-fatal (R444). -/
def State.recorderWrite (s : State) (f : Recorder → Recorder) : State :=
  let n := s.recorder.writes
  let t := { s with recorder := { f { s.recorder with wroteAt := none } with writes := n + 1 } }
  if s.recorder.badWrites.contains n then t.raiseFatal 9 none else t

/-- Write a record into slot `i`: what fails its read-back leaves free bytes there. -/
def Recorder.put (i : Nat) (e : EventRec) (r : Recorder) : Recorder :=
  let e := if r.badWrites.contains r.writes then EventRec.torn i else e
  { r with records := r.records.take i ++ e :: r.records.drop (i + 1) }

/-- Write a record into slot `i` now; power that goes in the same instant may cut off the last one (R453, R488). -/
def State.writeSlotAt (s : State) (i : Nat) (e : EventRec) : State :=
  s.recorderWrite fun r =>
    let r := r.put i e
    { r with wroteAt := if i + 1 = r.held then some s.pkg.elapsed else none }

/-- Before any event of a power cycle is written, a last record whose CHECK fails is rewritten as RECORD_TORN (R453). -/
def State.checkTorn (s : State) : State :=
  if s.recorder.checked then s
  else
    let s := { s with recorder := { s.recorder with checked := true } }
    match s.recorder.records.getLast? with
    | none => s
    | some r =>
      if r.ok then s
      else
        let i := s.recorder.held - 1
        let e := s.stamp { code := 2, payload := leBytes 4 i ++ leBytes 4 r.check }
        s.writeSlotAt i e

/-- Whether the firmware runs: until then the recorder is not written (R493). -/
def State.firmwareRuns (s : State) : Bool := s.pkg.stage ≠ .off && s.pkg.stage ≠ .rom && s.pkg.stage ≠ .linked

/-- Write an event to the recorder, or count it as refused (R452). Before the firmware runs, the fatal controller alone writes
(R445). -/
def State.recordEvent (s : State) (e : Event) : State :=
  if !s.firmwareRuns && e.code ≠ 0xF0 then s
  else
  let s := s.checkTorn
  if s.recorder.takes e.code then s.writeSlotAt s.recorder.held (s.stamp e)
  else s.recorderWrite fun r => { r with refused := (r.refused + 1) % 2 ^ 64 }

/-- The index of the record that a PORT_STATE event of this port and transition merges into (R451). -/
def State.mergeIndex (s : State) (port old new : Nat) : Option Nat :=
  match s.recorder.kept.find? fun k => k.1 == port && k.2.1 == old && k.2.2.1 == new with
  | none => none
  | some k =>
    match s.recorder.records[k.2.2.2]? with
    | none => none
    | some r =>
      if r.cycle = s.recorder.powerCycles ∧ s.pkg.elapsed - r.lastElapsed < 100000000 then some k.2.2.2 else none

/-- Record a PORT_STATE event: merge it, or write a new record and keep its index (R451). -/
def State.recordPort (s : State) (port old new lanes : Nat) : State :=
  match s.mergeIndex port old new with
  | some i =>
    let upd (r : EventRec) : EventRec :=
      EventRec.sealed { r with repeats := min 0xFFFF (r.repeats + 1), lastElapsed := s.pkg.elapsed }
    match s.recorder.records[i]? with
    | some r => s.writeSlotAt i (upd r)
    | none => s
  | none =>
    let e : Event := { code := 0x30, payload := leBytes 4 (packFields [(port, 4), (0, 4), (old, 3), (0, 1), (new, 3),
      (0, 1), (lanes, 8), (0, 8)]) }
    let kept := (port, old, new, s.recorder.held) ::
      s.recorder.kept.filter fun k => !(k.1 == port && k.2.1 == old && k.2.2.1 == new)
    let s' := s.recordEvent e
    if s.recorder.takes 0x30 then { s' with recorder := { s'.recorder with kept := kept } } else s'

/-- A status record (R371). -/
def statusRecord (seq status opcode detail tag counts : Nat) : List Byte :=
  [seq % 2 ^ 64, packFields [(status, 16), (opcode, 16), (detail, 32)], tag % 2 ^ 64, counts % 2 ^ 64].flatMap (leBytes 8)

end Sys2Proof.Machine
end

