-- ==== Sys2Proof/Machine/Ops.lean ====
section
/-! DEFINITION. Named operations that the meanings share: indexing, outputs, jobs, detection of errors, memory behind
the coherence point of a region (staging cache, ECC, poison), and translation of device addresses. -/

namespace Sys2Proof.Machine

/-! ## Indexing -/

/-- Replace element `i` of a vector by its image. -/
def vmod {α : Type} {n : Nat} (v : Vector α n) (i : Fin n) (f : α → α) : Vector α n := v.set i.val (f v[i]) i.isLt

/-- The index that a number names, reduced to the range. -/
def ix (n : Nat) [NeZero n] (i : Nat) : Fin n := Fin.ofNat n i

def State.queue (s : State) (q : Nat) : Queue := s.queues[ix 64 q]
def State.ctx (s : State) (c : Nat) : Ctx := s.ctxs[ix 64 c]
def State.slot (s : State) (i : Nat) : Slot := s.slots[ix 8 i]
def State.cl (s : State) (c : Nat) : Cluster := s.cls[ix 16 c]
def State.setQueue (s : State) (q : Nat) (f : Queue → Queue) : State := { s with queues := vmod s.queues (ix 64 q) f }
def State.setCtx (s : State) (c : Nat) (f : Ctx → Ctx) : State := { s with ctxs := vmod s.ctxs (ix 64 c) f }
def State.setSlot (s : State) (i : Nat) (f : Slot → Slot) : State := { s with slots := vmod s.slots (ix 8 i) f }
/-- A host error of context scope befalls a context (R5). -/
def State.upset (s : State) (c : Nat) : State := s.setCtx c fun x => { x with upset := true }
/-- Change a cluster: a handshake of it completes now (R24). -/
def State.setCl (s : State) (c : Nat) (f : Cluster → Cluster) : State :=
  { s with cls := vmod s.cls (ix 16 c) fun x => { f x with progress := s.pkg.elapsed } }
/-- The clusters that a slot's step holds make progress on work that leaves no other trace in them. -/
def State.progressOf (s : State) (i : Nat) : State :=
  (((s.slot i).step.map (·.clusters)).getD []).foldl (fun s c => s.setCl c id) s
def State.setStack (s : State) (r : Nat) (f : Stack → Stack) : State :=
  { s with hbm := { s.hbm with stk := vmod s.hbm.stk (ix 8 r) f } }
def State.setPort (s : State) (p : Nat) (f : Port → Port) : State :=
  { s with fab := { s.fab with ports := vmod s.fab.ports (ix 16 p) f } }
def State.port (s : State) (p : Nat) : Port := s.fab.ports[ix 16 p]

/-- What the block sends outside. -/
def State.emit (s : State) (o : Output) : State := { s with out := o :: s.out }

/-- Now, in ELAPSED_NS units. -/
def State.now (s : State) : Nat := s.pkg.elapsed

/-- The command processors act: they answer the fatal controller's liveness check (R444; that each thing they do is an answer is DEDUCED,
assumption 79). -/
def State.cpActs (s : State) : State := { s with pkg := { s.pkg with cpAt := s.pkg.elapsed } }

/-- Change a region. -/
def State.setRegion (s : State) (r : Nat) (f : Region → Region) : State := { s with regions := vmod s.regions (ix 8 r) f }

/-- A handshake of a region: an idle region's output starts back to its set point, and its loop resumes later (R474). -/
def Region.work (now : Nat) (r : Region) : Region := { r with workAt := now, idle := false, resumed := r.resumed || r.idle }

def State.atWork (s : State) (r : Nat) : State := s.setRegion r (Region.work s.now)

/-- Whether what happens every `period` by ELAPSED_NS happens again: a period has begun since it happened last. -/
def isDue (period last now : Nat) : Bool := decide (last / period < now / period)

/-- Whether the package runs: powered, out of reset, and not failed (R445). -/
def State.alive (s : State) : Bool := s.pkg.powered && s.pkg.perstN && s.err.failed.isNone && s.err.fatal.isNone

/-- Whether bring-up is complete and the package runs. -/
def State.serving (s : State) : Bool := s.alive && decide (s.pkg.stage = .service)

/-- The live device number (R136). -/
def State.device (s : State) : Option Nat := s.fab.cfgLive.map (·.device)

/-- Whether the package is dim, with R310's cause (0 when it is not dim). -/
def State.dimCause (s : State) : Nat :=
  if s.dim.drainLive then 3 else if s.dim.cfgLive.getLsbD 0 then 1 else if s.dim.paceLive then 2 else 0

/-- DEV_STATE (R310, R357, R498). -/
def State.devState (s : State) : DevState :=
  if s.err.failed.isSome then .failed
  else if s.pkg.stage ≠ .service then .boot
  else if s.pkg.draining then .draining
  else if s.pkg.loading then .loading
  else if s.dimCause ≠ 0 then .dim
  else .ready

/-! ## Jobs -/

def Queue.job? (q : Queue) (seq : Nat) : Option Job := q.jobs.find? (·.seq == seq)
def State.job? (s : State) (j : JobRef) : Option Job := (s.queue j.q).job? j.seq
def Queue.setJob (q : Queue) (seq : Nat) (f : Job → Job) : Queue :=
  { q with jobs := q.jobs.map fun x => if x.seq = seq then f x else x }
def State.setJob (s : State) (j : JobRef) (f : Job → Job) : State := s.setQueue j.q (·.setJob j.seq f)

/-- Parameter word `n` of a job; 0 beyond the last. -/
def Job.p (j : Job) (n : Nat) : Word := j.params.getD n 0

/-- Whether the job has ended: its status is fixed (R440). -/
def Job.ended (j : Job) : Bool := j.phase = .done || j.phase = .written

/-- End a job with a status, a detail and a counts word, unless it has ended already. -/
def Job.finish (status detail counts : Nat) (j : Job) : Job :=
  if j.ended then j
  else { j with phase := .done, status := status, detail := detail % 2 ^ 32, counts := counts % 2 ^ 64, bulk := none, halted := false }

/-- End a job by an error of class `cls`: R440 lets a higher class replace a status not yet written. -/
def Job.fail (cls status detail : Nat) (j : Job) : Job :=
  if j.phase = .written then j
  else if j.phase = .done then (if j.cls < cls then { j with cls := cls, status := status, detail := detail % 2 ^ 32 } else j)
  else { j with phase := .done, cls := cls, status := status, detail := detail % 2 ^ 32, bulk := none, halted := false }

def State.finishJob (s : State) (j : JobRef) (status detail counts : Nat) : State :=
  s.setJob j (Job.finish status detail counts)

/-- A job that R385 or a precondition ends with ABORTED. -/
def State.abortJob (s : State) (j : JobRef) (detail : Nat) : State := s.finishJob j stAborted detail 0

/-- A step's detail field (R303). -/
def Step.detail (st : Step) : Nat :=
  packFields [(b2n st.deadlineMissed, 1), (b2n st.strictWaited, 1), (b2n st.peerLost, 1), (0, 5), (min 0xFFFFFF st.hedges, 24)]

/-- A step's counts word (R303). -/
def Step.counts (st : Step) : Nat := packFields [(min 0xFFFFFFFF st.defaulted, 32), (min 0xFFFFFFFF st.skewed, 32)]

/-! ## The leaf index (R460) -/

/-- Whether a copy of the leaf index is valid. -/
def Copy.leafOk (c : Copy) : Bool := c.crc == crc32 (leBytes 4 c.value) && c.value ≤ Config.leaves

/-- The leaf index N. -/
def Mram.leaf (m : Mram) : Option Nat :=
  if m.leafLost then none
  else match m.leafA.leafOk, m.leafB.leafOk with
    | true, true => some (max m.leafA.value m.leafB.value)
    | true, false => some m.leafA.value
    | false, true => some m.leafB.value
    | false, false => none

/-- The MRAM copy that a failed write of `v` leaves (R461, R469, R488). -/
def Copy.bad (copy v seq : Nat) : Copy := ⟨(Config.badCopy copy v).1, seq, (Config.badCopy copy v).2⟩

/-- Leaves remaining (R460). -/
def Mram.leavesLeft (m : Mram) : Nat := match m.leaf with | some n => Config.leaves - n | none => Config.leavesUnknown

/-- COUNTS of an ATTEST (R412). -/
def State.quoteCounts (s : State) : Nat := packFields [(s.sec.quotesLeft, 32), (s.mram.leavesLeft, 32)]

/-! ## Detection of errors (R436, R444) -/

def State.fqEnabled (s : State) : Bool := s.regs.fqBase.getLsbD 0
def State.fqAddr (s : State) : Nat := s.regs.fqBase.field 16 24 * 65536
def State.fqFull (s : State) : Bool := (s.regs.fqTail + 2 ^ 32 - s.regs.fqHead) % 2 ^ 32 = Config.fqEntries

/-- Whether the record must hold its DMA transfer until an entry frees (R382). -/
def State.fqHolds (s : State) (r : FaultRec) : Bool := r.unitKind == 6 && s.fqEnabled && s.fqFull

/-- Whether R382 holds the fault record of an error now. -/
def State.heldError (s : State) (d : Detected) : Bool := !d.quiet && (d.frec.map s.fqHolds).getD false

/-- Stop the job and the step that an error of class step or context concerns until it is handled (R439); a corrected error
stops them while R382 holds its record. -/
def State.halt (s : State) (d : Detected) : State :=
  if d.cls = 0 && !s.heldError d then s
  else
    let s := match d.job with
      | some j => if d.share.isSome then s else s.setJob j fun x => if x.ended then x else { x with halted := true }
      | none => s
    match d.slot with
    | some i =>
      if d.share.isSome then s
      else s.setSlot i fun x => { x with step := x.step.map fun st => { st with halted := true } }
    | none => s

/-- Add an error to those that wait for handling. -/
def State.pendError (s : State) (d : Detected) : State :=
  { s with err := { s.err with pending := s.err.pending ++ [d] } }

/-- Errors that wait for handling or are in handling. -/
def Errors.all (e : Errors) : List Detected := e.handling.map (·.err) ++ e.pending

/-- Whether an error of a context, of a class or above, waits for handling or is in handling. -/
def State.errorsOf (s : State) (c cls : Nat) : Bool := s.err.all.any fun d => cls ≤ d.cls && d.ctx == c

/-- An error is detected. A context-class error of context 0 is package-fatal (R421); any other waits for
ERROR_HANDLING. -/
def State.detect (s : State) (d : Detected) : State :=
  let d := { d with at' := (s.pkg.elapsed, s.pkg.seamCount) }
  if d.cls = 2 ∧ d.ctx = 0 then s.raiseFatal 6 d.frec else (s.halt d).pendError d

/-! ## Agents of accesses -/

/-- Who makes an access: unit kind and number (R383), the class that a touch of poison has for it (R244), its job or
step, its TLB (a cluster's, or the command processor's), and whether it meets host-held lines (R319). -/
structure Agent where
  kind : Nat
  unit : Nat := 0
  cls : Nat
  ctx : Nat
  job : Option JobRef := none
  slot : Option Nat := none
  instr : Nat := 0
  tlb : Option Nat := none
  snoops : Bool := true
  /-- the context whose page table it walks, when that is not its job's (R85: table storage lies in context 0's DVAs) -/
  space : Option Nat := none
  /-- the element that it works on (R17) -/
  elem : Nat := 0
  deriving DecidableEq, Repr

/-- The owner that an agent's waits belong to. -/
def Agent.owner (ag : Agent) : Owner :=
  match ag.slot, ag.job with
  | none, some j => .job j
  | _, _ => .dma ag.unit

/-- The context whose DVAs an agent's addresses are. -/
def Agent.asid (a : Agent) : Nat := a.space.getD a.ctx

/-- The command processor working for a job: what it fetches for the context is a context-class touch, what it reads as
the job's data is a step-class one (R244). -/
def Agent.cp (cls ctx : Nat) (j : JobRef) : Agent :=
  { kind := 7, cls := cls, ctx := ctx, job := some j }

/-- Why an access stops. -/
inductive AccFail where
  /-- a DVA fault: cause, level, DVA, unit (R342) -/
  | dva (cause level dva unit : Nat)
  /-- a touch of poison: granule's DPA, whether the error was found now, unit (R243, R244) -/
  | poison (dpa : Nat) (fresh : Bool) (unit : Nat)
  /-- a line that the host holds must be given up first: line, BISnpInv or BISnpData (R319) -/
  | snoop (line : Nat) (inv : Bool)
  /-- a borrowed page or lease that is poisoned (R236): DVA, unit -/
  | lent (dva unit : Nat)
  /-- the transfer is held: the fault record of an error that it has met waits for room in the fault queue (R382), or its engine has
  work that comes first (R432) -/
  | hold
  /-- a page of T3 must come first: lender, lease, page, DVA; whether it is to be fetched; what a write is to leave there -/
  | page (lender lease page dva : Nat) (fetch : Bool) (data : List Byte)
  deriving DecidableEq, Repr

/-- An access: it runs on the state, and may stop. -/
abbrev Acc (α : Type) := ExceptT AccFail (StateM State) α

/-- Run an access. -/
def Acc.go {α : Type} (m : Acc α) (s : State) : Except AccFail α × State := (ExceptT.run m).run s

/-- The fault record that an agent's fault starts from (R383). -/
def State.agentRec (s : State) (ag : Agent) (cause cls : Nat) : FaultRec :=
  let base : FaultRec := { cause := cause, cls := cls, ctx := ag.ctx, unitKind := ag.kind, unit := ag.unit,
                           instr := ag.instr, elem0 := ag.elem, elapsed := s.now }
  let r := match ag.job with
    | some j => { base with noJob := false, queue := j.q, jobSeq := j.seq }
    | none => base
  match ag.slot with
  | some i => { r with isStep := true, slot := i, stepSeq := (s.slot i).stepSeq % 2 ^ 48 }
  | none => r

/-- The HBM fields of a fault record (R243). -/
def FaultRec.hbm (r : FaultRec) (dpa : Nat) : FaultRec :=
  { r with address := dpa, region := Config.regionOf dpa, channel := Config.channel dpa,
           pseudo := Config.pseudoChannel dpa % 2 }

/-- Ask the host to give up a line (R319, R329), unless that snoop is outstanding already. -/
def State.sendSnoop (s : State) (line : Nat) (inv : Bool) : State :=
  if s.cxl.snoops.any (·.1 == line) then s
  else
    let c := s.cxl.ctr
    let c := if inv then { c with biInvSent := c.biInvSent + 1 } else { c with biDataSent := c.biDataSent + 1 }
    ({ s with cxl := { s.cxl with snoops := s.cxl.snoops ++ [(line, inv)], ctr := c } }).emit (.bisnp line inv)

/-- The errors that a stopped access raises: a DVA fault is a context-class error (R342), a touch of poison has the
agent's class (R244). A wait for the host or for a lent page raises none. -/
def State.accError (s : State) (ag : Agent) (f : AccFail) : State :=
  match f with
  | .dva cause level dva unit =>
    let r := { s.agentRec ag cause 2 with address := dva, level := level, unit := unit }
    ({ s with xlat := { s.xlat with ctr := { s.xlat.ctr with dvaFaults := s.xlat.ctr.dvaFaults + 1 } } }).detect
      { cls := 2, frec := some r, job := ag.job, slot := ag.slot, ctx := ag.ctx, status := stContextLost,
        detail := (Config.openDetail stContextLost).toNat }
  | .poison dpa fresh unit =>
    let r := { (s.agentRec ag 0x41 ag.cls).hbm (dpa / 64 * 64) with unit := unit }
    if fresh || ag.cls ≠ 0 then
      s.detect { cls := ag.cls, frec := some r, quiet := !fresh, job := ag.job, slot := ag.slot, ctx := ag.ctx,
                 event := if fresh then some { code := 0x21, cls := ag.cls, ctx := ag.ctx, payload := r.bytes } else none,
                 status := if ag.cls = 2 then stContextLost else stPoisoned, detail := if ag.cls = 2 then (Config.openDetail stContextLost).toNat else dpa / 4096 }
    else s
  | .lent dva unit =>
    let r := { s.agentRec ag 0x53 2 with address := dva, unit := unit }
    s.detect { cls := 2, frec := some r, job := ag.job, slot := ag.slot, ctx := ag.ctx, status := stPoisoned,
               detail := (Config.openDetail stPoisoned).toNat }
  | .snoop line inv => s.sendSnoop line inv
  | .page .. | .hold => s

/-- An access whose touch of poison raises no error and gives `a` instead (R244); an error that its read has found is recorded
all the same (R243). -/
def forgive {α : Type} (ag : Agent) (a : α) (m : Acc α) : Acc α :=
  tryCatch m fun f =>
    match f with
    | .poison dpa fresh unit => do
      modify fun s => s.accError { ag with cls := 0 } (.poison dpa fresh unit)
      return a
    | f => throw f

/-! ## Memory -/

/-- What an unlisted address of device memory reads as (R257). -/
def memDefault : Byte := 0

/-- Read one byte of a sparse memory. -/
def memGet (m : List Host.Cell) (a : Nat) : Byte :=
  match m with
  | [] => memDefault
  | c :: r => if c.1 = a then c.2 else if a < c.1 then memDefault else memGet r a

/-- Write one byte: addresses stay rising, and no entry equals the default. -/
def memSet (m : List Host.Cell) (a : Nat) (b : Byte) : List Host.Cell :=
  match m with
  | [] => if b = memDefault then [] else [(a, b)]
  | c :: r =>
    if c.1 = a then (if b = memDefault then r else (a, b) :: r)
    else if a < c.1 then (if b = memDefault then c :: r else (a, b) :: c :: r)
    else c :: memSet r a b

/-- Read `n` bytes. -/
def memRead (m : List Host.Cell) (a n : Nat) : List Byte := (List.range n).map fun i => memGet m (a + i)

/-- Write bytes in order. -/
def memWrite (m : List Host.Cell) (a : Nat) : List Byte → List Host.Cell
  | [] => m
  | b :: bs => memWrite (memSet m a b) (a + 1) bs

/-- The canonical form: addresses strictly rising, no entry equal to the default. -/
def memWf (m : List Host.Cell) : Bool :=
  match m with
  | [] => true
  | [c] => c.2 != memDefault
  | c :: d :: r => c.2 != memDefault && decide (c.1 < d.1) && memWf (d :: r)

/-- Insert a number into a rising list, once. -/
def insNat (a : Nat) : List Nat → List Nat
  | [] => [a]
  | b :: r => if a = b then b :: r else if a < b then a :: b :: r else b :: insNat a r

/-- Granules (DPA ÷ 64) that a range of bytes touches. -/
def granules (dpa len : Nat) : List Nat :=
  if len = 0 then [] else (List.range ((dpa + len - 1) / 64 - dpa / 64 + 1)).map (· + dpa / 64)

/-- Whether a page is retired (R247). -/
def Hbm.isRetired (h : Hbm) (page : Nat) : Bool := h.retired.contains page

/-- Poison a granule (R243, R247). -/
def Hbm.poisonGran (h : Hbm) (g : Nat) : Hbm := { h with poison := insNat g h.poison }

/-- A write that covers a whole granule clears its poison, unless its page is retired (R245). -/
def Hbm.clearGran (h : Hbm) (g : Nat) : Hbm :=
  if h.isRetired (g / 64) then h else { h with poison := h.poison.filter (· != g) }

/-- Write one whole granule (R245). -/
def Hbm.putGran (h : Hbm) (g : Nat) (data : List Byte) : Hbm :=
  let h := h.clearGran g
  { h with mem := memWrite h.mem (64 * g) data }

/-! ### The controllers (R27, R221, R233, R251) -/

/-- Count one stall of a tier. -/
def Tiers.countStall (t : Tiers) (tier : Nat) : Tiers := { t with stalls := vmod t.stalls (ix 5 tier) (· + 1) }

/-- Add a stall's whole wait to its tier's time. -/
def Tiers.addStall (t : Tiers) (tier dt : Nat) : Tiers := { t with stallTime := vmod t.stallTime (ix 5 tier) (· + dt) }

/-- The instant from which a sector is under no write-back (R221). -/
def State.sectorFree (s : State) (g : Nat) : Nat := (s.tiers.writing.filter (·.1 == g)).foldl (fun m w => max m w.2) s.now

/-- An access reaches the controller of a granule's region, where it keeps the region at work (R474): an access to a sector under
write-back waits until HBM has acknowledged it, which is a T1 stall. -/
def State.reach (s : State) (g : Nat) : State :=
  let t := s.sectorFree g
  let s := s.atWork (Config.regionOf (64 * g))
  let s := { s with tiers := { s.tiers with writing := s.tiers.writing.filter (s.now < ·.2) } }
  if t = s.now then s else { s with tiers := (s.tiers.countStall 1).addStall 1 (t - s.now) }

/-- Bytes that a stack admits in 10 µs at its level; `none` where the level sets no share. -/
def Level.share : Level → Option Nat
  | .l75 => some Config.share75
  | .l50 => some Config.share50
  | _ => none

/-- When `n` bytes fit into a share: the first instant from `now` at which enough traffic lies 10 µs back. -/
def admitAt (share n now : Nat) (l : List (Nat × Nat)) : Nat :=
  let used (t : Nat) : Nat := ((l.filter fun x => t < x.1 + 1000).map (·.2)).sum
  (((now :: l.map fun x => x.1 + 1000).filter fun t => now ≤ t && used t + n ≤ share).foldl (fun m t => min m t) (now + 1000))

/-- Access of one granule at its stack, whatever its source (R27): where the share of a throttled stack is used up it waits, which is a
T2 stall of a unit (R251). -/
def State.admitGran (s : State) (unit : Bool) (g : Nat) : State :=
  let r := Config.regionOf (64 * g)
  let k := s.hbm.stk[ix 8 r]
  match k.level.share with
  | none => s
  | some share =>
    let live := k.traffic.filter fun x => s.now < x.1 + 1000
    let t0 := s.sectorFree g
    let t := admitAt share 64 t0 live
    let s := s.setStack r fun k => { k with traffic := (t, 64) :: live }
    if !unit || t = t0 then s else { s with tiers := (s.tiers.countStall 2).addStall 2 (t - t0) }

/-- Write one whole granule to its stack. -/
def State.putStack (s : State) (unit : Bool) (g : Nat) (data : List Byte) : State :=
  let s := s.admitGran unit g
  { s with hbm := s.hbm.putGran g data }

/-! ### The staging cache (R218 to R226) -/

/-- Whether a pool entry is the address line of a block. -/
def PoolEntry.isLine (b : Nat) : PoolEntry → Bool
  | .line b' .. => b' == b
  | _ => false

/-- The block and data length of an address line. -/
def PoolEntry.lineOf : PoolEntry → Option (Nat × Nat)
  | .line b _ _ data _ => some (b, data.length)
  | _ => none

/-- Whether an address line's dirty sectors are among its valid ones. -/
def PoolEntry.dirtyValid : PoolEntry → Bool
  | .line _ v d _ _ => d &&& ~~~v == 0
  | _ => true

/-- Address lines of the staging cache name distinct blocks (R220), each holds the 256 bytes of its block (R219), and a dirty sector is
a valid one. -/
def poolWf (pool : List PoolEntry) : Bool :=
  let ls := pool.filterMap PoolEntry.lineOf
  ls.all (·.2 == 256) && decide (ls.map (·.1)).Nodup && pool.all PoolEntry.dirtyValid

/-- The bytes that an entry takes in its region's slice: region and size; `none` for a frame (R219). -/
def PoolEntry.slice : PoolEntry → Option (Nat × Nat)
  | .line b .. => some (Config.regionOf (256 * b), 256)
  | .row r _ bs _ => some (r, (8 + bs.length + 3) / 4 * 4)
  | .frame .. => none

/-- Pinned entries are never evicted (R225). -/
def PoolEntry.pinned : PoolEntry → Bool
  | .line _ _ _ _ (.last n) => 0 < n
  | .row _ _ _ n => 0 < n
  | .frame _ _ _ _ _ (.last n) b => 0 < n || b.isSome
  | .frame _ _ _ _ _ _ b => b.isSome
  | _ => false

/-- Bytes of a region's slice in use. -/
def Tiers.sliceUsed (t : Tiers) (r : Nat) : Nat :=
  (t.pool.map fun e => match e.slice with | some (r', n) => if r' = r then n else 0 | none => 0).sum

/-- The present sector of a line that holds granule `g`. -/
def Tiers.sector (t : Tiers) (g : Nat) : Option (List Byte) :=
  match t.pool.find? (·.isLine (g / 4)) with
  | some (.line _ v _ data _) => if v.getLsbD (g % 4) then some ((data.drop (64 * (g % 4))).take 64) else none
  | _ => none

/-- Change the line of a block. -/
def Tiers.onLine (t : Tiers) (b : Nat) (f : PoolEntry → PoolEntry) : Tiers :=
  { t with pool := t.pool.map fun e => if e.isLine b then f e else e }

/-- Replace 64 bytes of a 256-byte block. -/
def putSector (data : List Byte) (i : Nat) (sec : List Byte) : List Byte :=
  data.take (64 * i) ++ sec ++ data.drop (64 * i + 64)

/-- Fill or write a sector of a present line. -/
def PoolEntry.setSector (i : Nat) (sec : List Byte) (dirty : Bool) : PoolEntry → PoolEntry
  | .line b v d data h =>
    .line b (v ||| BitVec.twoPow 4 i) (if dirty then d ||| BitVec.twoPow 4 i else d &&& ~~~ BitVec.twoPow 4 i)
      (putSector data i sec) h
  | e => e

/-- Write the dirty sectors of an evicted line to HBM (R220). -/
def evictLine (s : State) (e : PoolEntry) : State :=
  match e with
  | .line b _ d data _ =>
    (List.range 4).foldl (fun s i => if d.getLsbD i then s.putStack false (4 * b + i) ((data.drop (64 * i)).take 64) else s) s
  | _ => s

/-- Dirty sectors of an address line. -/
def PoolEntry.dirtySectors : PoolEntry → Nat
  | .line _ _ d _ _ => ((List.range 4).filter fun i => d.getLsbD i).length
  | .frame _ _ _ d _ _ _ => ((List.range 64).filter fun i => d.getLsbD i).length
  | _ => 0

/-- The sectors that an evicted line writes back, with the instants at which HBM acknowledges them (R221). -/
def PoolEntry.writeBacks (now : Nat) : PoolEntry → List (Nat × Nat)
  | .line b _ d _ _ =>
    ((List.range 4).filter fun i => d.getLsbD i).map fun i => (4 * b + i, now + Config.writeBackTime now (4 * b + i))
  | _ => []

/-- Remove the first entry that satisfies `p`. -/
def removeFirst {α : Type} (p : α → Bool) : List α → Option (α × List α)
  | [] => none
  | a :: r => if p a then some (a, r) else (removeFirst p r).map fun (x, l) => (x, a :: l)

/-- Make room for `n` bytes in a region's slice by evicting its oldest unpinned entries, at most `fuel` of them (R226). -/
def makeRoom (s : State) (r n : Nat) : Nat → Option State
  | 0 => if s.tiers.sliceUsed r + n ≤ Config.sliceBytes then some s else none
  | fuel + 1 =>
    if s.tiers.sliceUsed r + n ≤ Config.sliceBytes then some s
    else
      match removeFirst (fun e => !e.pinned && (e.slice.map (·.1)) == some r) s.tiers.pool with
      | none => none
      | some (e, rest) =>
        let s := evictLine s e
        makeRoom { s with
          tiers := { s.tiers with pool := rest, evictions := s.tiers.evictions + 1,
                                  writing := e.writeBacks s.now ++ s.tiers.writing,
                                  writebackSectors := s.tiers.writebackSectors + e.dirtySectors } } r n fuel

/-- Put a new entry into the pool: STREAM takes the oldest position, KEEP and DISCARD_AFTER_LAST the newest (R223). -/
def poolInsert (pool : List PoolEntry) (e : PoolEntry) (h : Hint) : List PoolEntry :=
  match h with
  | .stream => e :: pool
  | _ => pool ++ [e]

/-- Allocate an address line for a block (R220, R226); the state unchanged when no room can be made. -/
def allocLine (s : State) (b : Nat) (h : Hint) : State :=
  match makeRoom s (Config.regionOf (256 * b)) 256 (s.tiers.pool.length + 1) with
  | none => s
  | some s =>
    let e := PoolEntry.line b 0 0 (List.replicate 256 0) h
    { s with tiers := { s.tiers with pool := poolInsert s.tiers.pool e h } }

/-- A use of a line: KEEP moves to the newest position; a read lowers the count of DISCARD_AFTER_LAST, and at zero the
entry leaves, its dirty sectors dropped (R223). -/
def useLine (s : State) (b : Nat) (read : Bool) : State :=
  match removeFirst (·.isLine b) s.tiers.pool with
  | some (.line b v d data .keep, rest) =>
    { s with tiers := { s.tiers with pool := rest ++ [.line b v d data .keep] } }
  | some (.line b v d data (.last n), rest) =>
    if !read then s
    else if n ≤ 1 then
      { s with tiers := { s.tiers with pool := rest, discardedDirty := s.tiers.discardedDirty +
                                         (PoolEntry.line b v d data (.last n)).dirtySectors } }
    else
      let e' := PoolEntry.line b v d data (.last (n - 1))
      { s with tiers := s.tiers.onLine b fun _ => e' }
  | _ => s

/-- RELEASE: every KEEP line that the access touched takes the oldest position (R224). -/
def releaseLines (s : State) (blocks : List Nat) : State :=
  let mine (e : PoolEntry) : Bool := match e with | .line b _ _ _ .keep => blocks.contains b | _ => false
  { s with tiers := { s.tiers with pool := s.tiers.pool.filter mine ++ s.tiers.pool.filter (!mine ·) } }

/-! ### ECC (R241 to R244) -/

/-- Count corrected symbols that an agent's read has met, and the page's sixteenth corrected error, whose fault record names the
agent (R241, R242, R384). -/
def State.corrected (s : State) (ag : Agent) (dpa n : Nat) : State :=
  let page := dpa / 4096
  let old := ((s.hbm.weak.find? (·.1 == page)).map (·.2)).getD 0
  let s := s.setStack (Config.regionOf dpa) fun k => { k with corrected := k.corrected + n }
  let s := { s with hbm := { s.hbm with weak := (page, old + n) :: s.hbm.weak.filter (·.1 != page) } }
  if old < 16 ∧ 16 ≤ old + n then
    let s := s.setStack (Config.regionOf dpa) fun k => { k with pagesWeak := k.pagesWeak + 1 }
    let r := { s.agentRec ag 0x40 0 with address := page * 4096, region := Config.regionOf dpa }
    s.detect { cls := 0, frec := some r, job := ag.job, slot := ag.slot, ctx := ag.ctx, event := some { code := 0x20, payload := r.bytes } }
  else s

/-- Errors strike granules of device memory: what their next reads decode to. -/
def State.strike (s : State) (ecc : EccList) : State := { s with hbm := { s.hbm with latent := ecc ++ s.hbm.latent } }

/-- What the read of a granule decodes to: how many of its halves are corrected, and whether one is uncorrectable (R241). -/
def Hbm.decode (h : Hbm) (g : Nat) : Nat × Bool :=
  let half (k : Nat) : List Ecc := (h.latent.filter fun e => e.1 / 32 == 2 * g + k).map (·.2)
  let fixed (l : List Ecc) : Bool := !l.isEmpty && !l.contains .uncorrectable
  (b2n (fixed (half 0)) + b2n (fixed (half 1)), (half 0).contains .uncorrectable || (half 1).contains .uncorrectable)

/-- A granule has been read: the errors that its read has met are spent. -/
def Hbm.spend (h : Hbm) (g : Nat) : Hbm := { h with latent := h.latent.filter fun e => e.1 / 64 != g }

/-- Whether an agent is a unit of the package: the host is none. -/
def Agent.isUnit (ag : Agent) : Bool := ag.kind ≠ 8

/-- Whether the job or the step that an agent works for is stopped until an error of it is handled (R382, R439). -/
def State.stopped (s : State) (ag : Agent) : Bool :=
  ((ag.job.bind s.job?).map (·.halted)).getD false ||
  (((ag.slot.map s.slot).bind (·.step)).map (·.halted)).getD false

/-- Read granule `g` at its controller: its bytes, or a touch of poison (R218, R241 to R244). A transfer whose corrected error waits for
room in the fault queue is held (R382). -/
def fetchGran (ag : Agent) (g : Nat) : Acc (List Byte) := do
  let s ← get
  match s.tiers.sector g with
  | some d => return d
  | none =>
    let s := s.admitGran ag.isUnit g
    if s.hbm.poison.contains g then
      set (s.setStack (Config.regionOf (64 * g)) fun k => { k with poisonTouches := k.poisonTouches + 1 })
      throw (.poison (64 * g) false ag.unit)
    else
      let (fixed, bad) := s.hbm.decode g
      let s := { s with hbm := s.hbm.spend g }
      let s := if fixed = 0 then s else s.corrected ag (64 * g) fixed
      if bad then
        let s := s.setStack (Config.regionOf (64 * g)) fun k => { k with uncorrectable := k.uncorrectable + 1 }
        set { s with hbm := s.hbm.poisonGran g }
        throw (.poison (64 * g) true ag.unit)
      else
        set s
        if fixed ≠ 0 && s.stopped ag then throw .hold
        return memRead s.hbm.mem (64 * g) 64

/-- An access for an agent reaches a granule's controller and reads the granule. -/
def readGran (ag : Agent) (g : Nat) : Acc (List Byte) := do
  modify (·.reach g)
  fetchGran ag g

/-- A unit's access to a line that the host holds, or has been asked to give up and may still hold modified, waits for the host
first (R318, R319). -/
def meetHost (ag : Agent) (line : Nat) (write : Bool) : Acc Unit := do
  let s ← get
  if ag.snoops then
    if s.cxl.snoops.any fun x => x.1 == line && x.2 then throw (.snoop line true)
    match s.cxl.filter.find? (·.line == line) with
    | none => pure ()
    | some e =>
      if write then throw (.snoop line true)
      else if e.excl then throw (.snoop line false)
      else pure ()

/-- Read bytes at a DPA. A hint allocates address lines for the blocks it touches (R220). -/
def readDpa (ag : Agent) (dpa len : Nat) (hint : Option Hint := none) : Acc (List Byte) := do
  let gs := granules dpa len
  let parts ← gs.mapM fun g => do
    meetHost ag (64 * g) false
    match hint with
    | none => readGran ag g
    | some h =>
      let s ← get
      if !(s.tiers.pool.any (·.isLine (g / 4))) then set (allocLine s (g / 4) h)
      let d ← readGran ag g
      modify fun s =>
        if (s.tiers.sector g).isNone then
          { s with tiers := s.tiers.onLine (g / 4) (PoolEntry.setSector (g % 4) d false) }
        else s
      return d
  for b in (gs.map (· / 4)).eraseDups do
    modify fun s => useLine s b true
  return (parts.flatten.drop (dpa % 64)).take len

/-- Write one granule's bytes from `off`: into the staging cache where the sector is present or the access carries a
hint, otherwise to HBM; a part of a granule is a read-modify-write (R220, R240, R245). -/
def writeGran (ag : Agent) (g off : Nat) (bs : List Byte) (hint : Option Hint) : Acc Unit := do
  meetHost ag (64 * g) true
  modify (·.reach g)
  let s ← get
  let merge (old : List Byte) : List Byte := old.take off ++ bs ++ old.drop (off + bs.length)
  match s.tiers.sector g with
  | some d => set { s with tiers := s.tiers.onLine (g / 4) (PoolEntry.setSector (g % 4) (merge d) true) }
  | none =>
    match hint with
    | some h =>
      let old ← if bs.length = 64 then pure [] else fetchGran ag g
      modify fun s => if s.tiers.pool.any (·.isLine (g / 4)) then s else allocLine s (g / 4) h
      modify fun s =>
        if s.tiers.pool.any (·.isLine (g / 4)) then
          { s with tiers := s.tiers.onLine (g / 4) (PoolEntry.setSector (g % 4) (merge old) true) }
        else s.putStack ag.isUnit g (merge old)
    | none =>
      if s.tiers.pool.any (·.isLine (g / 4)) && bs.length = 64 then
        set { s with tiers := s.tiers.onLine (g / 4) (PoolEntry.setSector (g % 4) bs true) }
      else do
        let old ← if bs.length = 64 then pure [] else fetchGran ag g
        modify (·.putStack ag.isUnit g (merge old))

/-- The bytes that an agent's write leaves at an address: a job of a context under a host error writes free ones (R5, assumption
5). -/
def State.written (s : State) (ag : Agent) (a : Nat) (bs : List Byte) : List Byte :=
  if ag.job.isSome && (s.ctx ag.ctx).upset then (List.range bs.length).map fun i => Config.upsetByte s.now (a + i) else bs

/-- Write bytes at a DPA. -/
def writeDpa (ag : Agent) (dpa : Nat) (bs : List Byte) (hint : Option Hint := none) : Acc Unit := do
  let bs := (← get).written ag dpa bs
  for g in granules dpa bs.length do
    let lo := if 64 * g < dpa then dpa else 64 * g
    let hi := if dpa + bs.length < 64 * g + 64 then dpa + bs.length else 64 * g + 64
    writeGran ag g (lo - 64 * g) ((bs.drop (lo - dpa)).take (hi - lo)) hint
  for b in ((granules dpa bs.length).map (· / 4)).eraseDups do
    modify fun s => useLine s b false

/-! ## Host errors of device and system scope (R5, R6) -/

/-- The lists that stand for device memory and for the staging cache are in the form in which the model holds them. -/
def State.sound (s : State) : Bool := memWf s.hbm.mem && poolWf s.tiers.pool

/-- The wider of two scopes of host errors. -/
def Scope.join : Option Scope → Scope → Scope
  | some .device, _ => .device
  | _, x => x

/-- A host error of device or system scope befalls the package, or goes on: any of its state may change, and it may send anything. What
R6 and the hardware around it fix stays: the image that it runs, its MRAM and fuses, the records held, its regulators, its thermal limits, the
link and the clock (assumption 74). -/
def State.wrecked (s : State) (scope : Scope) : State :=
  let s : State := { s with pkg := { s.pkg with astray := some (Scope.join s.pkg.astray scope) } }
  match (Config.strayState s).filter State.sound with
  | none => s
  | some t =>
    let p : Package := { s.pkg with
      seamCount := t.pkg.seamCount, loading := t.pkg.loading, draining := t.pkg.draining, memInfoValid := t.pkg.memInfoValid,
      memActive := t.pkg.memActive, ruReserved := t.pkg.ruReserved, incarnation := t.pkg.incarnation, readyPin := t.pkg.readyPin }
    let heat (i : Fin 8) : Stack :=
      let k := s.hbm.stk[i]
      { t.hbm.stk[i] with temp := k.temp, level := k.level, sensorFault := k.sensorFault, badReads := k.badReads, trained := k.trained
                          readAt := k.readAt }
    { t with
      pkg := p, boot := s.boot, mram := s.mram, fuses := s.fuses, regions := s.regions, oes := s.oes, power := s.power, tap := s.tap
      recorder := if s.recorder.records.isPrefixOf t.recorder.records then t.recorder else s.recorder
      cxl := { t.cxl with linkUp := s.cxl.linkUp, width := s.cxl.width, rate := s.cxl.rate }
      hbm := { t.hbm with stk := Vector.ofFn heat }
      err := { t.err with failed := s.err.failed, fatalRecord := s.err.fatalRecord }
      out := t.out ++ s.out, pending := s.pending }

/-- A host error's effects go on until its scope's rule restores the package (R5). -/
def State.stray (s : State) : State :=
  match s.pkg.astray with
  | some x => if s.pkg.powered && s.pkg.perstN then s.wrecked x else s
  | none => s

/-! ## Translation (14) -/

/-- Page size of a leaf at a level (R336). -/
def pageSize (level : Nat) : Nat := 4096 * 512 ^ level

/-- The checks of R337 and R338 on an entry found at a level: whether it is usable. -/
def pteOk (level e : Nat) : Bool :=
  bitOf e 0 && !bitOf e 3 && fieldOf e 7 5 == 0 && fieldOf e 40 24 == 0 &&
  (if bitOf e 1 then
     level ≠ 3 && fieldOf e 4 3 ≤ 4 && (level == 0 || fieldOf e 12 28 % 512 ^ level == 0)
   else level ≠ 0 && fieldOf e 4 3 == 0)

/-- Walk from a table at a level: leaf's level, entry (R338). -/
def walk (ag : Agent) (dva : Nat) : Nat → Nat → Acc (Nat × Nat)
  | level, table => do
    if 0xC000000000 ≤ table then throw (.dva 0x33 level dva ag.unit)
    let bs ← readDpa ag (table + 8 * (fieldOf dva (12 + 9 * level) 9)) 8
    modify fun s => { s with xlat := { s.xlat with ctr := { s.xlat.ctr with walkReads := s.xlat.ctr.walkReads + 1 } } }
    let e := leNat bs
    if !pteOk level e then throw (.dva 0x31 level dva ag.unit)
    if bitOf e 1 then return (level, e)
    match level with
    | 0 => throw (.dva 0x31 0 dva ag.unit)
    | l + 1 => walk ag dva l (fieldOf e 12 28 * 4096)

/-- Root of a context's page table (R336, R419). -/
def State.root (s : State) (c : Nat) : Nat := if c = 0 then s.regs.adminRoot else (s.ctx c).root

/-- A device TLB (R345). -/
def State.tlb (s : State) : Option Nat → List TlbEntry
  | none => s.xlat.tlbCp
  | some c => s.xlat.tlbCl[ix 16 c]

/-- Add an entry to a TLB, dropping the oldest beyond its size (R345; replacement DESIGN CHOICE, assumption 13). -/
def State.tlbFill (s : State) (t : Option Nat) (e : TlbEntry) : State :=
  match t with
  | none => { s with xlat := { s.xlat with tlbCp := (e :: s.xlat.tlbCp).take 256 } }
  | some c => { s with xlat := { s.xlat with tlbCl := vmod s.xlat.tlbCl (ix 16 c) fun l => (e :: l).take 512 } }

/-- The borrowed range of a context that holds a DVA (R340). -/
def State.borrowedAt (s : State) (c dva : Nat) : Option Borrowed :=
  s.tiers.borrowed.find? fun b => b.ctx == c && b.base ≤ dva && dva < b.base + b.size

/-- Where a DVA leads. -/
inductive Loc where
  /-- device memory: DPA, and bytes left in the page -/
  | dpa (a left : Nat)
  /-- a borrowed lease, at an offset -/
  | lease (b : Borrowed) (off : Nat)
  deriving DecidableEq, Repr

/-- Resolve a DVA for a context (R338 to R340, R345). -/
def resolve (ag : Agent) (dva : Nat) (write : Bool) : Acc Loc := do
  if 2 ^ 48 ≤ dva || dva < 4096 then throw (.dva 0x31 3 dva ag.unit)
  let s ← get
  match s.borrowedAt ag.asid dva with
  | some b => if ag.kind = 6 then return .lease b (dva - b.base) else throw (.dva 0x31 3 dva ag.unit)
  | none =>
    match (s.tlb ag.tlb).find? fun e => e.ctx == ag.asid && e.base ≤ dva && dva < e.base + e.size * 2 ^ e.run with
    | some e =>
      if write && !e.write then throw (.dva 0x32 (if e.size = 4096 then 0 else if e.size = 2097152 then 1 else 2) dva ag.unit)
      return .dpa (e.dpa + (dva - e.base)) (e.size - dva % e.size)
    | none =>
      modify fun s => { s with xlat := { s.xlat with ctr := { s.xlat.ctr with tlbMisses := s.xlat.ctr.tlbMisses + 1 } } }
      let (level, e) ← walk ag dva 3 (s.root ag.asid)
      let size := pageSize level
      let dpa := fieldOf e 12 28 * 4096 + dva % size
      if 0xC000000000 ≤ dpa then throw (.dva 0x33 level dva ag.unit)
      if write && !bitOf e 2 then throw (.dva 0x32 level dva ag.unit)
      let run := fieldOf e 4 3
      let span := size * 2 ^ run
      modify fun s => s.tlbFill ag.tlb { ctx := ag.asid, base := dva / span * span, size := size, run := run, dpa := dpa / span * span, write := bitOf e 2 }
      return .dpa dpa (size - dva % size)

/-- Pieces of a DVA range, cut at 4 KiB boundaries: (DVA, length). -/
def pieces (a len : Nat) : List (Nat × Nat) :=
  if len = 0 then []
  else
    let first := a / 4096
    (List.range ((a + len - 1) / 4096 - first + 1)).map fun i =>
      let lo := if i = 0 then a else (first + i) * 4096
      let hi := if a + len < (first + i + 1) * 4096 then a + len else (first + i + 1) * 4096
      (lo, hi - lo)

/-- A frame's page of a borrowed lease, if it is present and not in transfer (R229). -/
def Tiers.frameOf (t : Tiers) (lender lease page : Nat) : Option (BitVec 64 × List Byte × Hint × Option Nat) :=
  t.pool.findSome? fun e =>
    match e with
    | .frame l i p d bs h b => if l = lender ∧ i = lease ∧ p = page then some (d, bs, h, b) else none
    | _ => none

/-- Frames of the frame store in use. -/
def Tiers.frames (t : Tiers) : Nat := (t.pool.filter fun e => match e with | .frame .. => true | _ => false).length

/-- Whether a pool entry is the frame of a borrowed page. -/
def PoolEntry.isFrame (lender lease page : Nat) : PoolEntry → Bool
  | .frame l i p .. => l == lender && i == lease && p == page
  | _ => false

/-- Drop the frame of a page. -/
def Tiers.dropFrame (t : Tiers) (lender lease page : Nat) : Tiers :=
  { t with pool := t.pool.filter fun e => !e.isFrame lender lease page }

/-- A lease of a lender that this package has borrowed. -/
def Tiers.leaseAt (t : Tiers) (lender lease : Nat) : Option Borrowed := t.borrowed.find? fun b => b.lender == lender && b.lease == lease

/-- The context that a borrowed lease is mapped into (R228). -/
def Tiers.leaseCtx (t : Tiers) (lender lease : Nat) : Nat := ((t.leaseAt lender lease).map (·.ctx)).getD 0

/-- A page of a borrowed lease is poisoned: its frame goes, dirty or clean, and an event is recorded (R235, R244). -/
def State.poisonPage (s : State) (lender lease page : Nat) : State :=
  let n := (s.tiers.pool.filter (·.isFrame lender lease page)).length
  let mark (b : Borrowed) : Borrowed := if b.lender = lender ∧ b.lease = lease then { b with badPages := page :: b.badPages } else b
  let t := { s.tiers.dropFrame lender lease page with
    borrowed := s.tiers.borrowed.map mark, poisonedPages := s.tiers.poisonedPages + n,
    lateWrites := s.tiers.lateWrites.filter fun w => !(w.1 == lender && w.2.1 == lease && w.2.2.1 == page) }
  ({ s with tiers := t }).recordEvent
    { code := 0x32, ctx := s.tiers.leaseCtx lender lease, payload := leBytes 4 (packFields [(lender, 14), (0, 2), (lease, 6)]) ++ leBytes 4 0 ++ leBytes 8 n }

/-- The page that holds what a page of the reservation was to hold: spares have taken the places of withdrawn pages (R248). -/
def homePage (moved : List (Nat × Nat)) : Nat → Nat → Nat
  | 0, p => p
  | fuel + 1, p => match moved.find? (·.1 == p) with
    | some x => homePage moved fuel x.2
    | none => p

/-- The page of the reservation whose place a page has taken, itself where it has taken none. -/
def originPage (moved : List (Nat × Nat)) : Nat → Nat → Nat
  | 0, p => p
  | fuel + 1, p => match moved.find? (·.2 == p) with
    | some x => originPage moved fuel x.1
    | none => p

/-- Where a granule of the reservation stands now. -/
def State.place (s : State) (g : Nat) : Nat :=
  let m := s.model.moved
  if m.isEmpty then g else 64 * homePage m m.length (g / 64) + g % 64

/-- The granule of HBM that holds a granule of a frame (R222). -/
def Borrowed.gran (b : Borrowed) (page k : Nat) : Nat := 64 * Config.framePage b.lender b.lease page + k

/-- Read granules of a frame at their controller: poison discards a clean frame, which is fetched again; of a dirty one the page is
poisoned (R244). No frame lies on a retired page (R248). -/
def touchFrame (ag : Agent) (b : Borrowed) (page dva : Nat) (ks : List Nat) : Acc Unit := do
  let s ← get
  for g in (ks.map fun k => s.place (b.gran page k)).filter (fun g => !s.hbm.isRetired (g / 64)) do
    tryCatch (do let _ ← readGran ag g) fun f =>
      match f with
      | .poison dpa fresh unit => do
        modify fun s => s.accError { ag with cls := 0 } (.poison dpa fresh unit)
        match (← get).tiers.frameOf b.lender b.lease page with
        | some (d, _, _, _) =>
          if d = 0 then
            modify fun s => { s with tiers := s.tiers.dropFrame b.lender b.lease page }
            throw (.page b.lender b.lease page dva true [])
          else
            modify fun s => s.poisonPage b.lender b.lease page
            throw (.lent dva ag.unit)
        | none => throw (.page b.lender b.lease page dva true [])
      | f => throw f

/-- Granules of a page that a range of its bytes covers only in part. -/
def partGrans (lo n : Nat) : List Nat := (granules lo n).filter fun k => 64 * k < lo || lo + n < 64 * k + 64

/-- Bytes that a frame holds for an access to a borrowed page (R229, R236): it waits while the page is fetched or written back. -/
def readFrame (ag : Agent) (b : Borrowed) (off n dva : Nat) : Acc (List Byte) := do
  let page := off / 4096
  if b.poisoned || b.badPages.contains page then throw (.lent dva ag.unit)
  match (← get).tiers.frameOf b.lender b.lease page with
  | some (_, bs, _, none) =>
    touchFrame ag b page dva (granules (off % 4096) n)
    return (bs.drop (off % 4096)).take n
  | _ => throw (.page b.lender b.lease page dva true [])

/-- Mark 64-byte sectors of `[lo, hi)` dirty. -/
def dirtyMask (lo hi : Nat) : BitVec 64 :=
  (List.range 64).foldl (fun m i => if lo < 64 * i + 64 ∧ 64 * i < hi then m ||| BitVec.twoPow 64 i else m) 0

/-- Bytes written into a page. -/
def putBytes (old : List Byte) (o : Nat) (data : List Byte) : List Byte := old.take o ++ data ++ old.drop (o + data.length)

/-- Write bytes into a frame, whose sectors become dirty. -/
def PoolEntry.patch (o : Nat) (data : List Byte) : PoolEntry → PoolEntry
  | .frame l i p d old h z => .frame l i p (d ||| dirtyMask o (o + data.length)) (putBytes old o data) h z
  | e => e

/-- A granule that is no address line's is written at its controller: written whole, it loses its poison (R245). -/
def State.overwrite (s : State) (g : Nat) (whole : Bool) : State :=
  let s := (s.reach g).admitGran true g
  if whole then { s with hbm := s.hbm.clearGran g } else s

/-- Bytes are written into the HBM that holds a frame. No frame lies on a retired page (R248). -/
def State.putFrame (s : State) (b : Borrowed) (page lo n : Nat) : State :=
  (granules lo n).foldl (fun s k =>
    let g := s.place (b.gran page k)
    if s.hbm.isRetired (g / 64) then s else s.overwrite g (lo ≤ 64 * k && 64 * k + 64 ≤ lo + n)) s

/-- A use of a frame (R223). -/
def useFrame (s : State) (b : Borrowed) (page : Nat) (read : Bool) : State :=
  match removeFirst (·.isFrame b.lender b.lease page) s.tiers.pool with
  | some (.frame l i p d bs .keep z, rest) => { s with tiers := { s.tiers with pool := rest ++ [.frame l i p d bs .keep z] } }
  | some (.frame l i p d bs (.last n) z, rest) =>
    if !read then s
    else if n ≤ 1 then
      { s with tiers := { s.tiers with pool := rest, discardedDirty := s.tiers.discardedDirty +
                                         (PoolEntry.frame l i p d bs (.last n) z).dirtySectors } }
    else
      let e' := PoolEntry.frame l i p d bs (.last (n - 1)) z
      let pool := s.tiers.pool.map fun e => if e.isFrame b.lender b.lease page then e' else e
      { s with tiers := { s.tiers with pool := pool } }
  | _ => s

/-- What an access of an agent has done of a range already: bytes, and the data of a read. -/
def State.partDone (s : State) (ag : Agent) (write : Bool) (dva len : Nat) : Nat × List Byte :=
  match s.tiers.partials.find? fun p => p.owner == ag.owner && p.write == write && p.dva == dva && p.len == len with
  | some p => (p.done, p.data)
  | none => (0, [])

/-- Note what an access has done of a range. -/
def State.notePart (s : State) (p : Partial) : State :=
  let same (x : Partial) : Bool := x.owner == p.owner && x.write == p.write && x.dva == p.dva && x.len == p.len
  { s with tiers := { s.tiers with partials := p :: s.tiers.partials.filter (!same ·) } }

/-- A piece of an access that meets an absent page, or that is held: what has been done before it is noted, so that the access goes on from there. -/
def notingPart {α : Type} (p : Partial) (m : Acc α) : Acc α :=
  tryCatch m fun f => do
    match f with
    | .page .. | .hold => modify fun s => s.notePart p
    | _ => pure ()
    throw f

/-! ### The sixteen DMA engines (R432) -/

/-- A barrier word (R397). -/
def isBarrier (w : BitVec 128) : Bool := w == BitVec.allOnes 128

/-- The engine that makes a job's transfer at an address: the transfers are spread over all 16 page by page (R432; which page goes to which
engine is DESIGN CHOICE, assumption 14). -/
def engineOf (a : Nat) : Nat := a / 4096 % 16

/-- Whether an engine has the work of a step that holds its cluster: its stream, where the step runs and no barrier holds it, or its EMIT
copies (R432). -/
def State.engineBusy (s : State) (e : Nat) : Bool :=
  let x := s.cl e
  match x.owner with
  | .step i =>
    let y := s.slot i
    match y.step with
    | some st =>
      !st.halted && !st.hung.contains e && !x.dma.faulted &&
      ((y.phase = .dense && (x.dma.stream.head?.map fun w => !isBarrier w).getD false) ||
       (y.phase = .emit && !st.emitted.contains e))
    | none => false
  | _ => false

/-- The engine of a page for a job's transfer; a transfer at an engine that has a step's work is held (R432). -/
def onEngine (ag : Agent) (a : Nat) : Acc Agent := do
  if ag.kind = 6 && ag.slot.isNone && ag.job.isSome then
    if (← get).engineBusy (engineOf a) then throw .hold
    return { ag with unit := engineOf a, tlb := some (engineOf a) }
  else return ag

/-- Read one piece of a DVA range. -/
def readPiece (ag : Agent) (a n : Nat) (hint : Option Hint) : Acc (List Byte) := do
  let ag ← onEngine ag a
  match ← resolve ag a false with
  | .dpa d _ => readDpa ag d n hint
  | .lease b off => do
    let bs ← readFrame ag b off n a
    modify fun s => useFrame s b (off / 4096) true
    return bs

/-- Read the pieces of a DVA range in order, behind what has been read. -/
def readPieces (ag : Agent) (dva len : Nat) (hint : Option Hint) : List (Nat × Nat) → List Byte → Acc (List Byte)
  | [], got => return got
  | (a, n) :: rest, got => do
    let bs ← notingPart ⟨ag.owner, false, dva, len, a - dva, got⟩ (readPiece ag a n hint)
    readPieces ag dva len hint rest (got ++ bs)

/-- Read bytes at a DVA of the agent's context. -/
def readDva (ag : Agent) (dva len : Nat) (hint : Option Hint := none) : Acc (List Byte) := do
  let (done, got) := (← get).partDone ag false dva len
  readPieces ag dva len hint (pieces (dva + done) (len - done)) got

/-- Write bytes into a borrowed page: a write that covers the whole page allocates a frame without fetching (R229). -/
def writeFrame (ag : Agent) (b : Borrowed) (off dva : Nat) (data : List Byte) (hint : Option Hint) : Acc Unit := do
  let s ← get
  let page := off / 4096
  if b.poisoned || b.badPages.contains page then throw (.lent dva ag.unit)
  let data := s.written ag dva data
  match s.tiers.frameOf b.lender b.lease page with
  | some (_, _, _, some _) => throw (.page b.lender b.lease page dva true data)
  | some (_, _, _, none) => do
    touchFrame ag b page dva (partGrans (off % 4096) data.length)
    modify fun s =>
      let pool := s.tiers.pool.map fun e => if e.isFrame b.lender b.lease page then e.patch (off % 4096) data else e
      ({ s with tiers := { s.tiers with pool := pool } }).putFrame b page (off % 4096) data.length
    modify fun s => useFrame s b page false
  | none => do
    let whole := data.length = 4096
    if whole && s.tiers.frames < s.model.frameCap then
      let h := hint.getD .stream
      let e := PoolEntry.frame b.lender b.lease page (BitVec.allOnes 64) data h none
      set (({ s with tiers := { s.tiers with pool := poolInsert s.tiers.pool e h } }).putFrame b page 0 4096)
    else throw (.page b.lender b.lease page dva (!whole) data)

/-- The result lines of a job grow by lines that it wrote (R330). -/
def Job.addLines (ls : List Nat) (j : Job) : Job := { j with lines := ls.foldl (fun a l => insNat l a) j.lines }

/-- An agent has written lines of device memory for its job (R330). -/
def State.noteLines (s : State) (ag : Agent) (ls : List Nat) : State :=
  match ag.job with
  | some j => s.setJob j (Job.addLines ls)
  | none => s

/-- Write one piece of a DVA range: the lines of device memory written, which are result lines of the agent's job (R330). -/
def writePiece (ag : Agent) (a : Nat) (data : List Byte) (hint : Option Hint) : Acc (List Nat) := do
  let ag ← onEngine ag a
  match ← resolve ag a true with
  | .dpa d _ => do
    writeDpa ag d data hint
    let ls := (granules d data.length).map (64 * ·)
    modify (·.noteLines ag ls)
    return ls
  | .lease b off => do
    writeFrame ag b off a data hint
    return []

/-- Write the pieces of a DVA range in order. -/
def writePieces (ag : Agent) (dva : Nat) (bs : List Byte) (hint : Option Hint) : List (Nat × Nat) → List Nat → Acc (List Nat)
  | [], ls => return ls
  | (a, n) :: rest, ls => do
    let l ← notingPart ⟨ag.owner, true, dva, bs.length, a - dva, []⟩ (writePiece ag a ((bs.drop (a - dva)).take n) hint)
    writePieces ag dva bs hint rest (ls ++ l)

/-- Write bytes at a DVA of the agent's context; the 64-byte lines of device memory written (R330). -/
def writeDva (ag : Agent) (dva : Nat) (bs : List Byte) (hint : Option Hint := none) : Acc (List Nat) := do
  let done := ((← get).partDone ag true dva bs.length).1
  writePieces ag dva bs hint (pieces (dva + done) (bs.length - done)) []

/-- Run an access for a job: on success go on with the value; a wait leaves the state as it was but for the snoop
sent; a failure raises its error. -/
def State.access {α : Type} (s : State) (ag : Agent) (m : Acc α) (k : State → α → State) : State :=
  match m.go s with
  | (.ok a, s') => k s' a
  | (.error (.snoop l i), _) => s.sendSnoop l i
  | (.error f, s') => s'.accError ag f

end Sys2Proof.Machine
end

