-- ==== Sys2Proof/Machine/Transport.lean ====
section
/-! DEFINITION. The fabric transport: spraying, windows, acknowledgement, retransmission, receive checks (11), and the
passing of time, which drains the ports. -/

namespace Sys2Proof.Machine

/-! ## Peers -/

def State.peer? (s : State) (dev : Nat) : Option Peer := s.fab.peers.find? (·.dev == dev)
def State.setPeer (s : State) (dev : Nat) (f : Peer → Peer) : State :=
  { s with fab := { s.fab with peers := s.fab.peers.map fun p => if p.dev = dev then f p else p } }
def Peer.tx (p : Peer) (update : Bool) : TxSpace := if update then p.txU else p.txS
def Peer.rx (p : Peer) (update : Bool) : RxSpace := if update then p.rxU else p.rxS
def Peer.setTx (p : Peer) (update : Bool) (f : TxSpace → TxSpace) : Peer :=
  if update then { p with txU := f p.txU } else { p with txS := f p.txS }
def Peer.setRx (p : Peer) (update : Bool) (f : RxSpace → RxSpace) : Peer :=
  if update then { p with rxU := f p.rxU } else { p with rxS := f p.rxS }
def TxSpace.setMsg (t : TxSpace) (seq : Nat) (f : TxMsg → TxMsg) : TxSpace :=
  { t with unacked := t.unacked.map fun m => if m.seq = seq then f m else m }

/-- Whether a kind is sequenced (R273, R277). -/
def sequenced (kind : Nat) : Bool := kind ≠ 0 && kind ≠ 0xB && kind ≠ 0xC

/-- Distance from `b` to `a` modulo 2³² (R277). -/
def seqDist (a b : Nat) : Nat := (a + 2 ^ 32 - b) % 2 ^ 32

/-- Port class of a frame (R285). LINK_TEST frames stand outside the six classes and go last. -/
def txPrio (kind : Nat) (retx : Bool) : Nat :=
  if kind = 0xB then 1 else if kind = 0 then 2 else if retx then 3
  else if kind = 2 || kind = 3 || kind = 9 then 4
  else if kind = 4 || kind = 5 then 6
  else if kind = 0xC then 7 else 5

/-- Ports that are UP, as the PORTS mask of a glint (R274). -/
def State.portMask (s : State) : BitVec 16 :=
  (List.range 16).foldl (fun m i => if (s.port i).st = .up then m ||| BitVec.twoPow 16 i else m) 0

/-- The next port in rotation for a peer (R284), other than `avoid` when another exists (R281). -/
def State.choosePort (s : State) (p : Peer) (avoid : Option Nat) : Option Nat :=
  let ring := (List.range 16).map fun i => (p.sprayPtr + 1 + i) % 16
  let common := ring.filter fun i => (s.port i).st = .up && p.ports.getLsbD i
  let calm := common.filter fun i => !(p.ce.any fun c => c.1 == i && s.now - c.2 < 2000)
  let pool := if calm.isEmpty then common else calm
  match pool.filter fun i => some i ≠ avoid with
  | i :: _ => some i
  | [] => (match common.filter fun i => some i ≠ avoid with | i :: _ => some i | [] => common.head?)

/-! ## Update buffer (R148, R149) -/

/-- Bytes that a record takes in the update buffer: fp32 payload (R148). -/
def recBytes (r : UpdRec) : Nat := 24 + 4 * r.payload.length

/-- BUFFER_IN_USE (R162). A close marker kept for an epoch that is not declared takes no space (DESIGN CHOICE, assumption 81: R148 lists
none for markers). -/
def State.bufInUse (s : State) : Nat :=
  (s.upd.recs.map fun k => recBytes k.upd).sum + (s.upd.heldRecs.map recBytes).sum +
  (s.upd.earlyRecs.map recBytes).sum + (s.upd.parked.map recBytes).sum + (s.upd.overlays.map fun o => o.bytes.length).sum

def State.bufFree (s : State) : Nat := s.model.bufBytes - s.bufInUse

/-- The window advertised for a space (R280): 0 for UPDATE while the records of a further message of the greatest
length might not fit. -/
def State.rwin (s : State) (update : Bool) : Nat := if update && s.bufFree < 2 * 8904 then 0 else 64

/-! ## Sending -/

/-- Acknowledgement fields of a frame to be sent (R271, R279). -/
structure AckOut where
  update : Bool
  ackSeq : Nat
  sack : Nat
  rwin : Nat
  ece : Bool
  cePort : Nat
  deriving DecidableEq, Repr

/-- The acknowledgement owed that the next frame to a peer carries (R279): SERVE first, one space a frame. -/
def State.ackOwed (s : State) (dev : Nat) : Option AckOut :=
  let of (u : Bool) (r : RxSpace) : AckOut :=
    let sack := (List.range 63).foldl (fun m n => if r.received.contains ((r.ackSeq + 1 + n) % 2 ^ 32) then m + 2 ^ n else m) 0
    ⟨u, r.ackSeq, sack, s.rwin u, r.ece.isSome, r.ece.getD 0⟩
  (s.peer? dev).bind fun p =>
    if p.rxS.owedSince.isSome then some (of false p.rxS) else if p.rxU.owedSince.isSome then some (of true p.rxU) else none

/-- An acknowledgement goes out: no more is owed in its space. -/
def State.sendAck (s : State) (dev : Nat) (a : AckOut) : State :=
  (s.setPeer dev fun p => p.setRx a.update fun r => { r with owedSince := none, ece := none }).emit
    (.ackSent dev a.update a.ackSeq a.sack a.rwin a.ece a.cePort)

/-- The five words of a frame's transport header (R271). Fields that have no meaning in the frame hold free values. -/
def State.header (s : State) (port : Nat) (f : TxFrame) (a : Option AckOut) : List Word :=
  let free (i : Nat) : Nat := Config.idleField s.now i
  let src := s.device.getD 0
  let inc := if s.device = some f.dst then s.pkg.incarnation else ((s.peer? f.dst).map (·.inc)).getD (free 0)
  [packFields [(1, 4), (f.kind, 4), (b2n f.update, 1), (b2n a.isSome, 1), ((a.map fun a => b2n a.update).getD (free 1), 1),
     (b2n ((a.map (·.ece)).getD false), 1), (b2n f.retx, 1), (0, 3), (src, 14), (0, 2), (f.dst, 14), (0, 2), (f.body.length, 14), (0, 2)],
   packFields [(s.pkg.incarnation, 32), (inc, 32)],
   packFields [(if sequenced f.kind then f.seq else 0, 32), ((a.map (·.ackSeq)).getD (free 2), 32)],
   packFields [((a.map (·.sack)).getD (free 3), 63), (0, 1)],
   packFields [((a.map (·.rwin)).getD (free 4), 7), (0, 1), (port, 4), ((a.map (·.cePort)).getD (free 5), 4),
     ((s.fab.cfgLive.map (·.domain)).getD 0, 16), (0, 32)]].map (BitVec.ofNat 64)

/-- The IPv6 address of a port of a device (R266). -/
def PortCfg.address (c : PortCfg) (port dev : Nat) : List Byte := beBytes 8 c.pfx ++ beBytes 8 (packFields [(port, 4), (dev, 14)])

/-- The sum of the 16-bit words that bytes spell in network order; an odd last byte is the upper half of its word. -/
def sumWords : List Byte → Nat
  | [] => 0
  | [a] => 256 * a.toNat
  | a :: b :: r => 256 * a.toNat + b.toNat + sumWords r

/-- The checksum of UDP over its pseudo-header, header and data: the complement of their ones' complement sum, where 0 is sent as all
ones (R270; the arithmetic is PRESUMED from RFC 768 and RFC 8200, assumption 9). -/
def udpChecksum (bs : List Byte) : Nat := 0xFFFF - sumWords bs % 0xFFFF

/-- The bytes of a frame on a port, from the Ethernet header to the FCS (R270); the ECN codepoint is R282's. -/
def State.frameBytes (s : State) (port : Nat) (f : TxFrame) (a : Option AckOut) : List Byte :=
  match s.fab.cfgLive with
  | none => []
  | some c =>
    let inner := (s.header port f a).flatMap (fun w => leBytes 8 w.toNat) ++ f.body
    let addrs := c.address port c.device ++ c.address port f.dst
    let len := 8 + inner.length
    let ports := beBytes 2 (0xC000 + (if sequenced f.kind then f.seq % 2 ^ 14 else 0)) ++
      beBytes 2 (if c.udpPort = 0 then 0x6A16 else c.udpPort) ++ beBytes 2 len
    let check := udpChecksum (addrs ++ beBytes 4 len ++ beBytes 4 17 ++ ports ++ inner)
    let (source, next) := c.macs.getD port (0, 0)
    let ecn := if sequenced f.kind then 2 else 0
    let bytes := beBytes 6 next ++ beBytes 6 source ++ beBytes 2 0x86DD ++
      beBytes 4 (packFields [(0, 20), (ecn, 2), (c.dscp, 6), (6, 4)]) ++ beBytes 2 len ++ [17, 64] ++ addrs ++ ports ++
      beBytes 2 check ++ inner
    bytes ++ leBytes 4 (crc32 bytes)

/-- A frame's transmission starts on a port (R280, R281, R285): its timer starts, and a retransmission doubles it, up to 1.6 ms. A glint and a frame of LINK_TEST acknowledge
nothing (R274). -/
def State.startFrame (s : State) (port : Nat) (f : TxFrame) : State :=
  let a := if f.kind = 0xB || f.kind = 0xC then none else s.ackOwed f.dst
  let s := s.emit (.frame port (s.frameBytes port f a) f)
  let s := match a with | some a => s.sendAck f.dst a | none => s
  if !sequenced f.kind then s
  else
    let first := ((s.peer? f.dst).bind fun p => (p.tx f.update).unacked.find? fun m => m.seq == f.seq && m.sentAt.isNone).isSome
    let s := s.setPeer f.dst fun p => p.setTx f.update fun t =>
      t.setMsg f.seq fun m =>
        { m with sentAt := some s.now, port := port, queued := false, expired := false, again := false, higher := 0
                 timer := if f.retx then min 160000 (2 * m.timer) else m.timer }
    if first then { s with fab := { s.fab with ctr := { s.fab.ctr with messagesSent := s.fab.ctr.messagesSent + 1 } } }
    else { s with fab := { s.fab with ctr := { s.fab.ctr with retransmits := s.fab.ctr.retransmits + 1 } } }

/-- The frame a port takes next: the lowest class, then the order of queueing (R285). -/
def nextFrame (q : List TxEntry) : Option (TxEntry × List TxEntry) :=
  match q.map (·.prio) with
  | [] => none
  | p :: ps => removeFirst (fun e => e.prio == ps.foldl Nat.min p) q

/-- Run a port for `budget` bytes of line time (126 bytes of cost beyond the body of each frame, R270). -/
def State.runPort (s : State) (port budget : Nat) : Nat → State
  | 0 => s
  | fuel + 1 =>
    let p := s.port port
    if p.st ≠ .up then s
    else if budget < p.busy then s.setPort port fun p => { p with busy := p.busy - budget }
    else
      match nextFrame p.txq with
      | none => s.setPort port fun p => { p with busy := 0 }
      | some (e, rest) =>
        let s := s.setPort port fun p => { p with txq := rest, busy := e.frame.body.length + 126 }
        (s.startFrame port e.frame).runPort port (budget - p.busy) fuel

/-- Queue a frame on a port. -/
def State.queueFrame (s : State) (port : Nat) (f : TxFrame) : State :=
  let s := s.setPort port fun p => { p with txq := p.txq ++ [⟨txPrio f.kind f.retx, f⟩] }
  s.runPort port 0 2

/-- Spray one waiting message of a peer, if its window and a port allow it (R280, R284). -/
def State.sprayMsg (s : State) (dev : Nat) (update : Bool) (seq : Nat) : State :=
  match s.peer? dev with
  | none => s
  | some p =>
    if p.lost then s
    else
      let t := p.tx update
      match t.unacked.find? (·.seq == seq) with
      | none => s
      | some m =>
        if m.queued || m.sentAt.isSome || ¬ seqDist seq t.ackSeq < min t.rwin t.cwnd then s
        else
          match s.choosePort p none with
          | none => s
          | some port =>
            let s := s.setPeer dev fun p => { p.setTx update fun t => t.setMsg seq fun m => { m with queued := true } with sprayPtr := port }
            s.queueFrame port ⟨dev, m.kind, update, seq, false, m.body⟩

/-- Retransmit a message (R281): on a working port other than the last where there is one; with no common port it waits for one. -/
def State.retransmit (s : State) (dev : Nat) (update : Bool) (seq : Nat) : State :=
  match s.peer? dev with
  | none => s
  | some p =>
    match (p.tx update).unacked.find? (·.seq == seq) with
    | none => s
    | some m =>
      if m.queued || m.sentAt.isNone || p.lost then s
      else
        let note (f : TxMsg → TxMsg) (p : Peer) : Peer := p.setTx update fun t => t.setMsg seq f
        match s.choosePort p (some m.port) with
        | none => s.setPeer dev (note fun m => { m with again := true })
        | some port =>
          let s := s.setPeer dev fun p => { note (fun m => { m with queued := true, higher := 0 }) p with sprayPtr := port }
          s.queueFrame port ⟨dev, m.kind, update, seq, true, m.body⟩

/-- Spray every message of a peer's space that waits, retransmissions among them. -/
def State.spray (s : State) (dev : Nat) (update : Bool) : State :=
  match s.peer? dev with
  | none => s
  | some p => (p.tx update).unacked.foldl (fun s m =>
      if m.again then s.retransmit dev update m.seq else s.sprayMsg dev update m.seq) s

/-- Spray everything that waits, for every peer. -/
def State.sprayAll (s : State) : State :=
  s.fab.peers.foldl (fun s p => (s.spray p.dev false).spray p.dev true) s

/-- Hand a sequenced message to the transport (R276, R277). One to the own device number stays inside the package; a device
without a recorded glint keeps it waiting; a message for an incarnation presumed lost is abandoned. -/
def State.sendMsg (s : State) (dev : Nat) (update : Bool) (kind : Nat) (body : List Byte)
    (round : Bool := false) (mark : Option JobRef := none) : State :=
  if s.device = some dev then { s with fab := { s.fab with own := s.fab.own ++ [(kind, body)] } }
  else match s.peer? dev with
  | none => { s with fab := { s.fab with early := s.fab.early ++ [{ dev, update, kind, body, round, mark }] } }
  | some p =>
    if p.lost then
      let s := { s with fab := { s.fab with ctr := { s.fab.ctr with messagesAbandoned := s.fab.ctr.messagesAbandoned + 1 } } }
      (match mark with
       | some j => s.setJob j fun x => { x with aux := x.aux ++ [dev] }
       | none => s)
    else
      let seq := (p.tx update).next
      let m : TxMsg := { seq := seq, kind := kind, body := body, queuedAt := s.now, round := round, mark := mark }
      let s := s.setPeer dev fun p => p.setTx update fun t => { t with next := (seq + 1) % 2 ^ 32, unacked := t.unacked ++ [m] }
      s.sprayMsg dev update seq

/-- Send an unsequenced frame to a peer on its next port (R276). -/
def State.sendPlain (s : State) (dev kind : Nat) (body : List Byte) : State :=
  match s.peer? dev with
  | none => s
  | some p =>
    match s.choosePort p none with
    | none => s
    | some port => (s.setPeer dev fun p => { p with sprayPtr := port }).queueFrame port ⟨dev, kind, false, 0, false, body⟩

/-- An unsequenced frame that had not started goes out as it is on another port (R288); towards a device that has sent no glint
every port that is UP counts as common. -/
def State.resendPlain (s : State) (f : TxFrame) : State :=
  match s.peer? f.dst with
  | some p =>
    (match s.choosePort p none with
     | none => s
     | some port => (s.setPeer f.dst fun p => { p with sprayPtr := port }).queueFrame port f)
  | none =>
    match (List.range 16).find? fun i => (s.port i).st = .up with
    | none => s
    | some port => s.queueFrame port f

/-- A port stops being UP: the frames it had not started go back to spraying (R288). -/
def State.returnFrames (s : State) (port : Nat) : State :=
  let q := (s.port port).txq
  let s := s.setPort port fun p => { p with txq := [], busy := 0 }
  q.foldl (fun s e =>
    if sequenced e.frame.kind then
      let s := s.setPeer e.frame.dst fun p => p.setTx e.frame.update fun t => t.setMsg e.frame.seq fun m => { m with queued := false }
      if e.frame.retx then s.retransmit e.frame.dst e.frame.update e.frame.seq
      else s.sprayMsg e.frame.dst e.frame.update e.frame.seq
    else s.resendPlain e.frame) s

/-- Abandon every unacknowledged message to a peer (R275, R281, R306): each is counted, a MARK's marker is noted in
its job. -/
def State.abandonMsgs (s : State) (dev : Nat) : State :=
  match s.peer? dev with
  | none => s
  | some p =>
    let ms := p.txS.unacked ++ p.txU.unacked
    let s := { s with fab := { s.fab with ctr := { s.fab.ctr with messagesAbandoned := s.fab.ctr.messagesAbandoned + ms.length } } }
    let s := ms.foldl (fun s m => match m.mark with
      | some j => s.setJob j fun x => { x with aux := x.aux ++ [dev] }
      | none => s) s
    let s := s.setPeer dev fun p => { p with txS := { p.txS with unacked := [] }, txU := { p.txU with unacked := [] } }
    let clear (q : Port) : Port := { q with txq := q.txq.filter fun e => e.frame.dst ≠ dev }
    { s with fab := { s.fab with ports := s.fab.ports.map clear } }

/-! ## Receiving (R272, R278 to R283) -/

/-- Whether a window sequence number has been received already (R278). -/
def RxSpace.has (r : RxSpace) (seq : Nat) : Bool := 2 ^ 31 ≤ seqDist seq r.ackSeq || r.received.contains seq

/-- Move ACK_SEQ past every message received in a row. -/
def RxSpace.slide (r : RxSpace) : Nat → RxSpace
  | 0 => r
  | n + 1 =>
    if r.received.contains r.ackSeq then
      RxSpace.slide { r with ackSeq := (r.ackSeq + 1) % 2 ^ 32, received := r.received.filter (· ≠ r.ackSeq) } n
    else r

/-- Take in a message of a space. -/
def RxSpace.take (r : RxSpace) (seq now : Nat) : RxSpace :=
  let r := if r.has seq then r else { r with received := insNat seq r.received }
  let r := r.slide (r.received.length + 1)
  { r with owedSince := some (r.owedSince.getD now) }

/-- Acknowledgement fields of a frame (R280, R281, R283): messages acknowledged, the window, the congestion window,
and fast retransmission. -/
def State.ackIn (s : State) (f : Frame) : State :=
  if !f.ackValid then s
  else
    match s.peer? f.srcDev with
    | none => s
    | some p =>
      let t := p.tx f.ackUpdate
      let newer := seqDist f.ackSeq t.ackSeq < 2 ^ 31
      let acked (m : TxMsg) : Bool :=
        m.sentAt.isSome && (2 ^ 31 ≤ seqDist m.seq f.ackSeq ||
          (0 < seqDist m.seq f.ackSeq && seqDist m.seq f.ackSeq ≤ 63 && f.sack.getLsbD (seqDist m.seq f.ackSeq - 1)))
      let gone := t.unacked.filter acked
      let left := (t.unacked.filter (!acked ·)).map fun m =>
        if m.sentAt.isSome then { m with higher := m.higher + (gone.filter fun g => 0 < seqDist g.seq m.seq && seqDist g.seq m.seq < 2 ^ 31).length }
        else m
      let canCut := match t.lastCut with | none => true | some c => 2000 ≤ s.now - c
      let cut := f.ece && canCut
      let grow := !f.ece && t.cwnd ≤ t.acked + gone.length
      let t' := { t with
        ackSeq := if newer then f.ackSeq else t.ackSeq
        rwin := if newer then f.rwin else t.rwin
        zeroSince := if newer then (if f.rwin = 0 then some (t.zeroSince.getD s.now) else none) else t.zeroSince
        lastProbe := if newer && f.rwin ≠ 0 then none else t.lastProbe
        cwnd := if cut then max 2 (t.cwnd / 2) else if grow then min 64 (t.cwnd + 1) else t.cwnd
        acked := if cut || grow then 0 else if f.ece then t.acked else t.acked + gone.length
        lastCut := if cut then some s.now else t.lastCut
        unacked := left }
      let s := s.setPeer f.srcDev fun p =>
        { p.setTx f.ackUpdate (fun _ => t') with
          ce := if f.ece then (f.cePort.val, s.now) :: p.ce.filter (·.1 ≠ f.cePort.val) else p.ce }
      let s := if cut then { s with fab := { s.fab with ctr := { s.fab.ctr with windowReductions := s.fab.ctr.windowReductions + 1 } } } else s
      let s := (left.filter fun m => 3 ≤ m.higher).foldl (fun s m => s.retransmit f.srcDev f.ackUpdate m.seq) s
      s.spray f.srcDev f.ackUpdate

/-! ### The own device number (R277) -/

/-- A message to the own device number arrives inside the package: the first that waits with this kind and body. -/
def State.takeOwn (s : State) (f : Frame) (kind : Nat) (body : List Byte) : Option State :=
  if s.alive && s.device == some f.srcDev && f.srcInc = s.pkg.incarnation then
    (removeFirst (· == (kind, body)) s.fab.own).map fun x => { s with fab := { s.fab with own := x.2 } }
  else none

/-- A counter of the fabric. -/
def State.fabCtr (s : State) (f : FabCounters → FabCounters) : State := { s with fab := { s.fab with ctr := f s.fab.ctr } }

/-- What a port's decoder has corrected goes to its counters while the port receives (R287, R292). -/
def Port.corrected (x : FecSeen) (p : Port) : Port :=
  { p with fecCorrected := p.fecCorrected + x.codewords
           laneSymbols := p.laneSymbols.zipWith (· + ·) (x.lanes ++ List.replicate (8 - x.lanes.length) 0) }
def State.countFec (s : State) (port : Nat) (x : FecSeen) : State :=
  let p := s.port port
  if s.alive && (p.st = .up || p.st = .degraded || p.testing) then s.setPort port (Port.corrected x) else s

/-- What a received frame meets (R269, R272). -/
inductive RxCheck where
  /-- discarded without a count: no port configuration, port not receiving, or package not running -/
  | ignored
  | check
  | stale
  | pass
  deriving DecidableEq, Repr

/-- The receive checks of R272, orders 3 and 4. -/
def State.rxCheck (s : State) (f : Frame) (glint : Bool) : RxCheck :=
  match s.fab.cfgLive with
  | none => .ignored
  | some c =>
    let p := s.port f.port.val
    if !s.alive || (p.st ≠ .up && p.st ≠ .degraded) then .ignored
    else if f.domain ≠ c.domain || f.dstDev ≠ c.device then .check
    else
      match s.peer? f.srcDev with
      | none => if glint then .pass else .stale
      | some q =>
        if glint then (if q.inc = f.srcInc && q.lost then .stale else .pass)
        else if f.dstInc ≠ s.pkg.incarnation || f.srcInc ≠ q.inc || q.lost then .stale
        else .pass

/-- Receive a sequenced message (R272, R278, R282): the state after the transport's part, and whether the message is
delivered. `room` is whether its user can take it (R149). -/
def State.receive (s : State) (f : Frame) (room : Bool := true) : State × Bool :=
  let s := s.countFec f.port.val f.fec
  match s.rxCheck f false with
  | .ignored => (s, false)
  | .check => (s.fabCtr fun c => { c with framesDroppedCheck := c.framesDroppedCheck + 1 }, false)
  | .stale => (s.fabCtr fun c => { c with framesStaleInc := c.framesStaleInc + 1 }, false)
  | .pass =>
    let s := s.ackIn f
    match s.peer? f.srcDev with
    | none => (s, false)
    | some p =>
      let dup := (p.rx f.update).has f.seq
      if !dup && !room then (s, false)
      else
        let s := if f.ce then s.fabCtr fun c => { c with ceReceived := c.ceReceived + 1 } else s
        let s := s.setPeer f.srcDev fun p => p.setRx f.update fun r =>
          let r := r.take f.seq s.now
          if f.ce then { r with ece := some f.port.val } else r
        if dup then (s.fabCtr fun c => { c with duplicates := c.duplicates + 1 }, false)
        else (s.fabCtr fun c => { c with messagesDelivered := c.messagesDelivered + 1 }, true)

/-- Receive a message that may come from the own device number (R277). -/
def State.receiveAny (s : State) (f : Frame) (kind : Nat) (body : List Byte) : State × Bool :=
  match s.takeOwn f kind body with
  | some s => (s, true)
  | none => s.receive f

/-! ## The frames of LINK_TEST (R290, R415) -/

/-- The count of a port. -/
def portCount (l : List (Nat × Nat)) (p : Nat) : Nat := ((l.find? (·.1 == p)).map (·.2)).getD 0

/-- Add one to the count of a port. -/
def addPort (l : List (Nat × Nat)) (p : Nat) : List (Nat × Nat) := (p, portCount l p + 1) :: l.filter (·.1 ≠ p)

/-- Ports of a test, ascending. -/
def LinkTest.portList (t : LinkTest) : List Nat := (List.range 16).filter fun p => t.ports.getLsbD p

/-- A port in FRAME mode sends its test's frames back to back, for `budget` bytes of line time. -/
def State.runTest (s : State) (port budget : Nat) : Nat → State
  | 0 => s
  | fuel + 1 =>
    let p := s.port port
    if budget < p.busy then s.setPort port fun p => { p with busy := p.busy - budget }
    else
      match s.fab.test with
      | none => s
      | some t =>
        let f : TxFrame := ⟨t.peer, 0xC, false, 0, false, (Config.testBody port (portCount t.sent port)).take 8912⟩
        let s := (s.setPort port fun p => { p with busy := f.body.length + 126 }).startFrame port f
        let s := { s with fab := { s.fab with test := some { t with sent := addPort t.sent port } } }
        s.runTest port (budget - p.busy) fuel

/-- Line time passes for the ports of a test in FRAME mode, up to the test's end. -/
def State.runTests (s : State) (dt : Nat) : State :=
  match s.fab.test with
  | none => s
  | some t =>
    if t.mode ≠ 3 then s
    else
      let left := dt - (s.now - (t.start + t.duration))
      t.portList.foldl (fun s p => s.runTest p (2000 * left) (2000 * left / 126 + 1)) s

/-- Receive an unsequenced message (R272, R282): its state and whether it is taken. -/
def State.receivePlain (s : State) (f : Frame) (glint : Bool) : State × Bool :=
  let s := s.countFec f.port.val f.fec
  match s.rxCheck f glint with
  | .ignored => (s, false)
  | .check => (s.fabCtr fun c => { c with framesDroppedCheck := c.framesDroppedCheck + 1 }, false)
  | .stale => (s.fabCtr fun c => { c with framesStaleInc := c.framesStaleInc + 1 }, false)
  | .pass => (if f.ce then s.fabCtr fun c => { c with ceReceived := c.ceReceived + 1 } else s, true)

end Sys2Proof.Machine
end

