-- ==== Sys2Proof/Machine/Time.lean ====
section
/-! DEFINITION. The passing of time: ELAPSED_NS in units of 10 ns (R15), the line time of the ports, and the counters
that measure time. Rows that the clock brings about carry the time at which they occur. -/

namespace Sys2Proof.Machine

/-- Bytes of line time of one port in 10 ns: 1.6 Tb/s (R263). -/
def portBytes : Nat := 2000

/-- Counters of one stack over `dt` (R259). -/
def Stack.advance (dt : Nat) (k : Stack) : Stack :=
  match k.level with
  | .l75 => { k with timeL75 := k.timeL75 + dt }
  | .l50 => { k with timeL50 := k.timeL50 + dt }
  | _ => k

/-- Where a region's output is heading, in tenths of a millivolt: 0.600 V while idle, downwards from 0.750 V while it searches V_BASE
(R472; the least set point, 0.600 V, is where the search ends at the latest, assumption 75), otherwise its set point, neither
above the live ceiling; while the regulator limits its current, below that (R471, R472, R474 to R476). -/
def Region.heading (r : Region) : Nat :=
  let v := 10 * min r.ceilLive (if r.idle || r.searching then 600 else r.setpoint)
  if r.limiting then min v r.limitTo else v

/-- `n` steps of 5 mV from `a` towards `b`. -/
def slew (n a b : Nat) : Nat := if a ≤ b then min b (a + 50 * n) else max b (a - 50 * n)

/-- One region over `dt`: its output moves at 10 mV in a microsecond, a step of 5 mV every 0.5 µs, and its counters run (R471, R484). -/
def Region.advance (dt : Nat) (r : Region) : Region :=
  let v := slew ((r.ramp + dt) / 50) r.output r.heading
  { r with output := v
           ramp := if v = r.heading then 0 else (r.ramp + dt) % 50
           timeHot := if r.state = .normal then r.timeHot else r.timeHot + dt
           timeLimiting := if r.limiting then r.timeLimiting + dt else r.timeLimiting }

/-- What the regulators draw from VIN_CORE over `dt`: the regions' and the package's own (R484). -/
def State.drawEnergy (s : State) (dt : Nat) : State :=
  let draw (i : Fin 8) : Region := { s.regions[i] with energy := s.regions[i].energy + Config.energyStep i.val s.now dt }
  let sum := ((List.range 8).map fun i => Config.energyStep i s.now dt).sum
  { s with regions := Vector.ofFn draw
           power := { s.power with pkgEnergy := s.power.pkgEnergy + sum + Config.energyStep 8 s.now dt } }

/-- The chunk buffer goes into image memory at an offset. -/
def Boot.takeChunk (b : Boot) : Boot :=
  let o := b.imageAddr
  let cells := (b.chunkBuf.filter (·.1 < 32768)).map fun c => (c.1 + o, c.2)
  { b with state := .chunkTaken, received := insNat (o / 32768) b.received,
           image := b.image.filter (·.1 < o) ++ cells ++ b.image.filter fun c => o + 32768 ≤ c.1 }

/-- The boot ROM's copy of a chunk, while BOOT_STATUS reads BUSY, ends (R494). -/
def Boot.endCopy (b : Boot) : Boot := if b.state = .busy then b.takeChunk else b

/-- `dt` periods of the reference clock pass. ELAPSED_NS counts from the release of PERST_N (R15); in the failed state
no other counter changes (R446). The boot ROM's copy of a chunk is done by the next instant (assumption 48). -/
def State.advance (s : State) (dt : Nat) : State :=
  if !(s.pkg.powered && s.pkg.perstN) then s
  else
    let s := { s with pkg := { s.pkg with elapsed := s.pkg.elapsed + dt } }
    if !s.alive || dt = 0 then s
    else
      let s := s.drawEnergy dt
      let s := { s with
        hbm := { s.hbm with stk := s.hbm.stk.map (Stack.advance dt) }
        regions := s.regions.map (Region.advance dt)
        boot := s.boot.endCopy
        strag := { s.strag with dimTime := if s.dimCause = 0 then s.strag.dimTime else s.strag.dimTime + dt } }
      (List.range 16).foldl (fun s p => s.runPort p (portBytes * dt) ((s.port p).txq.length + 2)) (s.runTests dt)

/-- Time passes up to `now`; it never runs back. -/
def State.advanceTo (s : State) (now : Nat) : State := s.advance (now - s.pkg.elapsed)

end Sys2Proof.Machine
end

