-- ==== Sys2Proof/Machine/Queues.lean ====
section
/-! DEFINITION. The front end: doorbells, fetching and checking of entries, the idle commit, the fault queue, and the
registers of the control window that a write reaches (15). -/

namespace Sys2Proof.Machine

/-! ## Entries (R363, R364) -/

/-- Slots that a command with PCOUNT `p` occupies (R363). -/
def slotsOf (p : Nat) : Nat := if 959 < p then 1 else 1 + ceilDiv (p - 14) 15

/-- The words of 8 bytes that bytes spell. -/
def wordsOf (n : Nat) (bs : List Byte) : List Word := (List.range n).map fun i => BitVec.ofNat 64 (leNat ((bs.drop (8 * i)).take 8))

/-- A command as a job, by the words of its entries (continuations without their first word). -/
def jobOf (ws : List Word) : Job :=
  let w0 := ws.getD 0 0
  let p := w0.field 48 16
  { seq := 0, opcode := w0.field 0 16, barrier := w0.getLsbD 24, ctx := w0.field 32 16, tag := (ws.getD 1 0).toNat,
    params := (ws.drop 2).take p, aux := [p] }

/-- The check of R364: the detail of a rejected command. -/
def checkJob (q ctx : Nat) (j : Job) : Option Nat :=
  match opRow j.opcode with
  | none => some dtOpcode
  | some r =>
    if j.ctx ≠ ctx then some dtContext
    else if j.aux ≠ [r.pcount] then some dtCount
    else if r.queue0 && q ≠ 0 then some dtQueue
    else none

/-- Give a job the next sequence number of its queue, and count it as submitted (R369, R435). -/
def State.addJob (s : State) (q : Nat) (j : Job) : State :=
  let c := (s.queue q).ctx
  let s := s.setQueue q fun x => { x with nextSeq := x.nextSeq + 1, jobs := x.jobs ++ [{ j with seq := x.nextSeq }] }
  s.setCtx c fun x => { x with submitted := (x.submitted + 1) % 2 ^ 64 }

/-- The sequence that a RUN_SEQUENCE names, if its parameter is well formed and the context holds it (R376, R405). -/
def State.seqOf (s : State) (c : Nat) (own : Job) : Option RecSeq :=
  let id := (own.p 0).field 0 10
  if (own.p 0).toNat < 1024 then s.seqs.find? fun r => r.id == id && r.ctx == c else none

/-- A RUN_SEQUENCE that has been fetched expands: its entries become jobs in body order, not yet taken, and it takes the number
after the last of them; its aux tallies entries expanded, entries completed other than ABORTED or CONTEXT_LOST, and whether the
host ended one. One that names no sequence of its context runs nothing (R376). -/
def State.expandNow (s : State) (q : Nat) : State :=
  match (s.queue q).expand with
  | none => s
  | some own =>
    let s := s.setQueue q fun x => { x with expand := none }
    match s.seqOf (s.queue q).ctx own with
    | none => s.addJob q { own with phase := .running }
    | some r =>
      let parent := (s.queue q).nextSeq + r.body.length
      let entry (i : Nat) (ws : List Word) : Job :=
        let slots := (r.patches.filter (·.1 == i)).map fun p => (p.2, r.bodyDva + 128 * i + 8 * p.2)
        { jobOf ws with parent := some parent, take := some (ws, slots) }
      let s := (r.body.mapIdx entry).foldl (fun s j => s.addJob q j) s
      s.addJob q { own with phase := .running, aux := [r.body.length, 0, 0] }

/-- A rejected command is a job that is done (R364); COUNTS of an ATTEST tells the quotes and leaves left whatever its status (R412). -/
def State.rejected (s : State) (detail : Nat) (j : Job) : Job :=
  { j with phase := .done, status := stAborted, detail := detail, aux := [], counts := if j.opcode = 0x78 then s.quoteCounts else 0 }

/-- A command whose entries are all fetched: check it, and give it a number, or hold a RUN_SEQUENCE for its expansion. -/
def State.takeCommand (s : State) (q : Nat) (ws : List Word) : State :=
  let j := jobOf ws
  match checkJob q (s.queue q).ctx j with
  | some d => s.addJob q (s.rejected d j)
  | none =>
    if j.opcode = 0x32 then s.setQueue q fun x => { x with expand := some { j with aux := [] } }
    else s.addJob q { j with aux := [] }

/-- FETCH and GEN after one slot (R362). -/
def Queue.next (x : Queue) : Queue :=
  if x.fetch + 1 = x.size then { x with fetch := 0, gen := if x.gen = 255 then 1 else x.gen + 1 }
  else { x with fetch := x.fetch + 1 }

/-- A slot with the current tag is accepted (R363, R366). -/
def State.acceptSlot (s : State) (q : Nat) (ws : List Word) : State :=
  let x := s.queue q
  let (f0, g0, all) := match x.part with
    | none => (x.fetch, x.gen, ws)
    | some (f, g, old) => (f, g, old ++ ws.drop 1)
  let need := slotsOf ((all.getD 0 0).field 48 16)
  let s := s.cpActs.setQueue q fun x => { x.next with backoff := none }
  if all.length < 16 + 15 * (need - 1) then s.setQueue q fun x => { x with part := some (f0, g0, all) }
  else (s.setQueue q fun x => { x with part := none }).takeCommand q all

/-- Whether a RUN_SEQUENCE of the queue is still expanding: entries have no number, or have not been taken (R376). -/
def Queue.expanding (x : Queue) : Bool := x.expand.isSome || x.jobs.any fun j => j.take.isSome && !j.ended

/-- Whether the front end may fetch a slot now (R366, R418). -/
def State.canFetch (s : State) (q : Nat) : Bool :=
  let x := s.queue q
  s.serving && x.st = .running && x.fetch ≠ x.tail && !x.expanding && (s.ctx x.ctx).st = .opened &&
  !(s.errorsOf x.ctx 2)

/-- The agent of an entry fetch: a context-class touch (R244). -/
def fetchAgent (c : Nat) : Agent := { kind := 7, cls := 2, ctx := c }

/-- Read the slot at FETCH. -/
def readSlot (x : Queue) : Acc (List Byte) := readDpa (fetchAgent x.ctx) (x.base + 128 * x.fetch) 128

/-- Back-off `k` in units of 10 ns (R367). -/
def backoffTime (k : Nat) : Nat := min (10 * 2 ^ (k - 1)) 10240

/-- ENTRY_FETCH (R363): fetch the slot at FETCH; a stale tag starts the back-off (R367). -/
def execEntryFetch (q : QueueId) (ecc : EccList) (s : State) : Host.Outcome State Fault Refusal :=
  let x := s.queue q.val
  if !s.canFetch q.val || x.backoff.isSome then .next s
  else .next <| (s.strike ecc).access (fetchAgent x.ctx) (readSlot x) fun s bs =>
    let ws := wordsOf 16 bs
    if (ws.getD 0 0).field 16 8 = x.gen then s.acceptSlot q.val ws
    else s.setQueue q.val fun x => { x with backoff := some (1, s.now + backoffTime 1) }

/-- The queue stops on a stale tag (R367). -/
def State.staleStop (s : State) (q : Nat) : State :=
  let x := s.queue q
  let seq := x.nextSeq
  let s := s.addJob q { seq := 0, opcode := 0, barrier := false, ctx := x.ctx, tag := 0, params := [], phase := .done,
                        status := stStaleEntry, detail := x.fetch }
  let s := s.setQueue q fun x =>
    match x.part with
    | none => { x with st := .stopped, cause := 1, backoff := none }
    | some (f, g, _) => { x with st := .stopped, cause := 1, backoff := none, part := none, fetch := f, gen := g }
  s.recordEvent { code := 0x12, ctx := x.ctx, payload := leBytes 4 (q + x.fetch * 2 ^ 16) ++ leBytes 4 0 ++ leBytes 8 seq }

/-- STALE_REREAD (R367). -/
def execStaleReread (q : QueueId) (now : Nat) (s : State) : Host.Outcome State Fault Refusal :=
  let s := s.advanceTo now
  let x := s.queue q.val
  match x.backoff with
  | none => .next s
  | some (k, due) =>
    if !s.canFetch q.val || s.now < due then .next s
    else .next <| s.access (fetchAgent x.ctx) (readSlot x) fun s bs =>
      let ws := wordsOf 16 bs
      if (ws.getD 0 0).field 16 8 = x.gen then s.acceptSlot q.val ws
      else if 64 ≤ k then s.staleStop q.val
      else s.setQueue q.val fun x => { x with backoff := some (k + 1, s.now + backoffTime (k + 1)) }

/-- IDLE_COMMIT (R368): RUNNING goes to IDLE only when the latest doorbell equals FETCH. -/
def execIdleCommit (q : QueueId) (s : State) : Host.Outcome State Fault Refusal :=
  let x := s.queue q.val
  if s.serving && x.st = .running && x.fetch = x.tail && !x.expanding then
    .next (s.setQueue q.val fun x => { x with st := .idle })
  else .next s

/-! ## The doorbell (R360, R361, R366) -/

/-- Whether a queue size is legal (R360). -/
def sizeOk (n : Nat) : Bool := 16 ≤ n && n ≤ 65536 && n &&& (n - 1) == 0

/-- Start a STOPPED queue: latch the ring registers, or resume (R361). -/
def Queue.start (x : Queue) : Queue :=
  if x.dirty then
    { x with st := .running, cause := 0, base := x.qbase, size := x.qsize, cmp := x.qcmpBase, fetch := 0, gen := 1,
             dirty := false, part := none, backoff := none }
  else { x with st := .running, cause := 0, backoff := none }

/-- The effect of an accepted doorbell. -/
def Queue.ring (tail : Nat) (x : Queue) : Queue :=
  match x.st with
  | .unbound => x
  | .stopped => { x.start with tail := tail }
  | .running => { x with tail := tail }
  | .idle => { x with st := .running, tail := tail }

/-- The size that a doorbell's TAIL is held against. -/
def Queue.ringSize (x : Queue) : Nat := if x.st = .stopped && x.dirty then x.qsize else x.size

/-- Whether a range lies in device memory, clear of retired pages (R360). -/
def State.rangeOk (s : State) (base len : Nat) : Bool :=
  base + len ≤ Config.memBytes && !(s.hbm.retired.any fun p => base < 4096 * p + 4096 && 4096 * p < base + len)

/-- Whether the rings that a fresh start would latch keep R360: 4 KiB aligned, in device memory, apart from each other. -/
def State.ringsOk (s : State) (x : Queue) : Bool :=
  x.qbase % 4096 == 0 && x.qcmpBase % 4096 == 0 && s.rangeOk x.qbase (128 * x.qsize) && s.rangeOk x.qcmpBase (32 * x.qsize) &&
  (x.qbase + 128 * x.qsize ≤ x.qcmpBase || x.qcmpBase + 32 * x.qsize ≤ x.qbase)

/-- QDB_TAIL (R366): ignored before READY, in FAILED, on an UNBOUND queue and for a LOST context. A fresh start with ring registers that
break R360 is a host error of device scope, a TAIL beyond the ring one of context scope (R5). -/
def execQdbTail (q : QueueId) (value : BitVec 32) (s : State) : Host.Outcome State Fault Refusal :=
  let x := s.queue q.val
  let tail := fieldOf value.toNat 0 16
  if !s.serving || x.st = .unbound || (s.ctx x.ctx).st ≠ .opened then .next s
  else if !sizeOk x.ringSize || (x.st = .stopped && x.dirty && !s.ringsOk x) then .next (s.wrecked .device)
  else if x.ringSize ≤ tail then
    .next ((s.upset x.ctx).setQueue q.val (Queue.ring (Config.upsetTail q.val tail % x.ringSize)))
  else .next (s.setQueue q.val (Queue.ring tail))

/-! ## The fault queue (R381, R382) -/

/-- The agent that writes the package's own structures. -/
def structAgent : Agent := { kind := 7, cls := 0, ctx := 0 }

/-- Where the next fault record goes. -/
def State.fqSlot (s : State) : Nat := s.fqAddr + 64 * (s.regs.fqTail % Config.fqEntries)

/-- Write a fault record, or drop it (R381, R382), and say whether that is done: a line that the host holds is asked for first
(R319, R329), and a record that R382 holds is not written by this operation. -/
def State.writeFault (s : State) (r : FaultRec) : State × Bool :=
  if s.fqEnabled && !s.fqFull then
    match (writeDpa structAgent s.fqSlot r.bytes).go s with
    | (.error (.snoop l i), _) => (s.sendSnoop l i, false)
    | (_, s) => ({ s with regs := { s.regs with fqTail := (s.regs.fqTail + 1) % 2 ^ 32 } }, true)
  else
    let s := { s with regs := { s.regs with fqOverflow := (s.regs.fqOverflow + 1) % 2 ^ 64 } }
    if s.regs.fqDropped.contains r.cls then (s, true)
    else
      (({ s with regs := { s.regs with fqDropped := r.cls :: s.regs.fqDropped } }).recordEvent
        { code := 0x10, cls := r.cls, ctx := r.ctx, payload := r.bytes }, true)

/-- FQ_BASE_WRITE (R381): FQ_HEAD and FQ_TAIL become 0. -/
def execFqBaseWrite (value : Word) (s : State) : Host.Outcome State Fault Refusal :=
  if !s.serving then .next s
  else .next { s with regs := { s.regs with fqBase := value &&& 0x000000FFFFFF0001, fqHead := 0, fqTail := 0 } }

/-- FQ_HEAD_WRITE (R381, R382): the host consumes records; a drain starts a new count of dropped classes.
A head beyond the tail is a host error of device scope (R5). -/
def execFqHeadWrite (value : BitVec 32) (s : State) : Host.Outcome State Fault Refusal :=
  if !s.serving then .next s
  else if Config.fqEntries < (s.regs.fqTail + 2 ^ 32 - value.toNat) % 2 ^ 32 then .next (s.wrecked .device)
  else .next { s with regs := { s.regs with fqHead := value.toNat,
                                            fqDropped := if value.toNat = s.regs.fqTail then [] else s.regs.fqDropped } }

/-! ## Other registers -/

/-- Remove a context's entries from every TLB (R345, R419, R420). -/
def State.dropTlb (s : State) (c : Nat) : State :=
  let keep (l : List TlbEntry) : List TlbEntry := l.filter (·.ctx ≠ c)
  { s with xlat := { s.xlat with tlbCp := keep s.xlat.tlbCp, tlbCl := s.xlat.tlbCl.map keep } }

/-- The condition under which a write of ADMIN_ROOT is taken (R419). -/
def State.rootOpen (s : State) (dpa : Nat) : Bool :=
  s.serving && s.model.res.isNone && (List.range 63).all (fun c => (s.ctx (c + 1)).st = .closed) &&
  (s.queue 0).jobs.all (fun j => j.phase = .written) && (s.queue 0).expand.isNone && dpa < Config.memBytes && !s.hbm.isRetired (dpa / 4096)

/-- ADMIN_ROOT_WRITE (R419): taken only while nothing can walk context 0's table, otherwise ignored. -/
def execAdminRootWrite (value : Word) (s : State) : Host.Outcome State Fault Refusal :=
  let dpa := value.field 12 28 * 4096
  if s.rootOpen dpa then .next (({ s with regs := { s.regs with adminRoot := dpa } }).dropTlb 0) else .next s

/-- The registers of the control window (R357, R360). -/
inductive Reg where
  | devId | devState | seamCount | elapsed | adminRoot | fqBase | fqHead | fqTail | fqOverflow
  | stepSlot (i : Nat) | fence (f : Nat)
  | qdb (q : Nat) | qcmp (q : Nat) | qstate (q : Nat) | qbase (q : Nat) | qsize (q : Nat) | qcmpBase (q : Nat)
  | unlisted
  deriving DecidableEq, Repr

/-- The register at an offset of the control window (aligned to 8 bytes). -/
def regAt (o : Nat) : Reg :=
  if o = 0x0 then .devId else if o = 0x8 then .devState else if o = 0x10 then .seamCount else if o = 0x18 then .elapsed
  else if o = 0x20 then .adminRoot else if o = 0x100 then .fqBase else if o = 0x108 then .fqHead
  else if o = 0x110 then .fqTail else if o = 0x118 then .fqOverflow
  else if 0x200 ≤ o ∧ o < 0x240 then .stepSlot ((o - 0x200) / 8)
  else if 0x800 ≤ o ∧ o < 0x1000 then .fence ((o - 0x800) / 8)
  else if 0x10000 ≤ o ∧ o < 0x50000 then
    let q := (o - 0x10000) / 0x1000
    match (o - 0x10000) % 0x1000 with
    | 0x0 => .qdb q | 0x8 => .qcmp q | 0x10 => .qstate q | 0x18 => .qbase q | 0x20 => .qsize q | 0x28 => .qcmpBase q
    | _ => .unlisted
  else .unlisted

/-- A write of `size` bytes at an offset into a 64-bit register that holds `old`. -/
def mergeReg (old : Nat) (o size : Nat) (v : Word) : Nat :=
  if size = 8 then v.toNat
  else if o % 8 = 0 then old / 2 ^ 32 * 2 ^ 32 + v.toNat % 2 ^ 32
  else old % 2 ^ 32 + v.toNat % 2 ^ 32 * 2 ^ 32

/-- Ring registers are writable while the queue is STOPPED or UNBOUND (R360). -/
def State.writeRing (s : State) (q : Nat) (f : Queue → Queue) : State :=
  s.setQueue q fun x => if x.st = .stopped || x.st = .unbound then { f x with dirty := true } else x

/-- Write a register of the control window (R357, R360); a write to an offset that no register has is a host error of device scope (R5,
R62). -/
def State.writeControl (s : State) (o size : Nat) (v : Word) : Host.Outcome State Fault Refusal :=
  let a := o / 8 * 8
  match regAt a with
  | .qdb q => if o % 8 = 0 then execQdbTail (ix 64 q) (v.setWidth 32) s else .next (s.wrecked .device)
  | .fqBase => execFqBaseWrite (BitVec.ofNat 64 (mergeReg s.regs.fqBase.toNat o size v)) s
  | .fqHead => if o % 8 = 0 then execFqHeadWrite (v.setWidth 32) s else .next s
  | .adminRoot => execAdminRootWrite (BitVec.ofNat 64 (mergeReg s.regs.adminRoot o size v)) s
  | .qbase q => .next (s.writeRing q fun x => { x with qbase := fieldOf (mergeReg x.qbase o size v) 0 40 })
  | .qsize q => .next (s.writeRing q fun x => { x with qsize := fieldOf (mergeReg x.qsize o size v) 0 17 })
  | .qcmpBase q => .next (s.writeRing q fun x => { x with qcmpBase := fieldOf (mergeReg x.qcmpBase o size v) 0 40 })
  | .unlisted => .next (s.wrecked .device)
  | _ => .next s

end Sys2Proof.Machine
end

