-- ==== Sys2Proof/Machine/Jobs.lean ====
section
/-! DEFINITION. Starting a queue's jobs (R370, R392), the checks of parameter words (R385), and the agents of a job's
accesses. -/

namespace Sys2Proof.Machine

/-- Whether every bit of a parameter word outside the given fields is 0 (R385). -/
def fits (w : Word) (fields : List (Nat × Nat)) : Bool :=
  w &&& ~~~ (fields.foldl (fun m f => m ||| ((BitVec.ofNat 64 (2 ^ f.2 - 1)) <<< f.1)) 0) == 0

/-- An address word with SPACE 0 has bits [62:48] zero (R335). -/
def addrOk (w : Word) : Bool := w.getLsbD 63 || w.field 48 15 == 0

/-- Whether no earlier job of the queue holds job `j` back (R370). -/
def Queue.clearFor (x : Queue) (j : Job) : Bool :=
  x.jobs.all fun e => j.seq ≤ e.seq ||
    (!(e.opcode == 0x41 && e.phase = .running) && (!j.barrier || e.phase = .written))

/-- The load or unload of queue 0 that is in progress (R392). -/
def Queue.modelJob (x : Queue) : Option Job := x.jobs.find? fun e => (e.opcode == 0x10 || e.opcode == 0x11) && e.phase = .running

/-- Opcodes that end a drain: they start while a load or unload waits for contexts to close (R392). -/
def endsDrain (opcode : Nat) : Bool := opcode == 0x3 || opcode == 0x7F

/-- The job that a queue's front end offers next (R370, R392): its first job not started; while a load or unload waits for contexts
to close, the first CLOSE_CONTEXT or ABORT_QUEUE. An entry of a sequence is offered once it has been taken (R376). -/
def State.offered (s : State) (q : Nat) : Option Job :=
  let x := s.queue q
  let alone (j : Job) : Bool := j.opcode == 0x10 || j.opcode == 0x11
  let next : Option Job :=
    match x.modelJob with
    | some m => if s.pkg.draining then x.jobs.find? fun e => e.phase = .fetched && endsDrain e.opcode && m.seq < e.seq else none
    | none =>
      (x.jobs.find? (·.phase = .fetched)).filter fun j =>
        x.clearFor j && (!alone j || x.jobs.all fun e => j.seq ≤ e.seq || e.phase = .written)
  next.filter (·.take.isNone)

/-- The job that a queue starts next, if it is a row's: no job of a LOST context starts (R418, R422). -/
def State.startJob (s : State) (q : Nat) (mine : Job → Bool) : Option Job :=
  if (s.ctx (s.queue q).ctx).st = .opened then (s.offered q).filter mine else none

/-- A job of the row's opcode that has started and still waits. -/
def State.waitingJob (s : State) (q : Nat) (mine : Job → Bool) : Option Job :=
  (s.queue q).jobs.find? fun e => e.phase = .running && mine e && !e.halted

/-- Mark a job as started. -/
def State.markStart (s : State) (j : JobRef) : State :=
  let s' := s.cpActs.setJob j fun x => { x with phase := .running, start := s.sched.nextStart, since := s.now }
  { s' with sched := { s'.sched with nextStart := s'.sched.nextStart + 1 } }

/-- Run a job row: start the queue's next job if it is the row's and may start, or take a waiting one further. -/
def State.runJob (s : State) (q : Nat) (mine : Job → Bool) (start again : State → JobRef → Job → State) : State :=
  if !s.serving then s
  else
    match s.startJob q mine with
    | some j => start (s.markStart ⟨q, j.seq⟩) ⟨q, j.seq⟩ j
    | none =>
      match s.waitingJob q mine with
      | some j => again s ⟨q, j.seq⟩ j
      | none => s

/-- Rows of one opcode. -/
def isOp (code : Nat) (j : Job) : Bool := j.opcode == code

/-- A job row whose job, once started, takes no further step on a later run of the row. -/
def State.runOnce (s : State) (q : Nat) (mine : Job → Bool) (start : State → JobRef → Job → State) : State :=
  s.runJob q mine start fun s _ _ => s

/-- The DMA engines working for a job that is not a step: a step-class toucher (R244). Each page's transfer is made by an engine of its own
(R432, `onEngine`). -/
def Agent.dma (ctx : Nat) (j : JobRef) : Agent :=
  { kind := 6, unit := 0, cls := 1, ctx := ctx, job := some j, tlb := some 0 }

/-- The command processor reading a structure of an opcode whose statuses do not include POISONED: a context-class
touch (R244, R389, R421; DEDUCED, assumption 15). -/
def Agent.struct (ctx : Nat) (j : JobRef) : Agent := Agent.cp 2 ctx j

/-- The context of a queue's jobs. -/
def State.ctxOf (s : State) (q : Nat) : Nat := (s.queue q).ctx

/-- NOP (R389). -/
def execNop (q : QueueId) (s : State) : Host.Outcome State Fault Refusal :=
  .next <| s.runOnce q.val (isOp 0x01) fun s j _ => s.finishJob j stOk 0 0

end Sys2Proof.Machine
end

