-- ==== Sys2Proof/Machine/Host.lean ====
section
/-! DEFINITION. The host link: CXL.mem reads and writes, snoops, configuration, host translations, bulk transfers,
invalidation, and the stalls of accesses to T3 and T4 (13, 14, R233, R234). -/

namespace Sys2Proof.Machine

/-! ## Waits on tiers (R233, R234) -/

/-- An owner's access begins to wait on a tier. -/
def State.addWait (s : State) (tier : Nat) (o : Owner) (addr pasid : Nat) : State :=
  if s.tiers.waits.any fun w => w.owner == o && w.addr == addr then s
  else
    let w : TierWait := { id := s.tiers.nextWait, tier := tier, since := s.now, owner := o, addr := addr, pasid := pasid }
    { s with tiers := { s.tiers with waits := s.tiers.waits ++ [w], nextWait := s.tiers.nextWait + 1 } }

/-- How long an access has waited, without the time of a page request (R233, R351). -/
def TierWait.length (w : TierWait) (now : Nat) : Nat := w.paused.getD now - w.since

/-- A wait ends: one that was longer than 20 µs is a stall, and its whole length is stall time (R233). -/
def State.closeWait (s : State) (w : TierWait) : State :=
  let dt := w.length s.now
  let t := { s.tiers with waits := s.tiers.waits.filter (·.id ≠ w.id) }
  if w.counted || 2000 < dt then { s with tiers := (if w.counted then t else t.countStall w.tier).addStall w.tier dt }
  else { s with tiers := t }

/-- Every wait that satisfies `p` ends. -/
def State.closeWaits (s : State) (p : TierWait → Bool) : State := (s.tiers.waits.filter p).foldl State.closeWait s

/-- STALL_THRESHOLD (R233): an access to T3 or T4 has waited longer than 20 µs. -/
def execStallThreshold (now wait : Nat) (s : State) : Host.Outcome State Fault Refusal :=
  let s := s.advanceTo now
  match s.tiers.waits.find? (·.id == wait) with
  | some w =>
    if !s.alive || w.counted || w.length s.now ≤ 2000 then .next s
    else .next { s with tiers := { s.tiers.countStall w.tier with
                                     waits := s.tiers.waits.map fun x => if x.id = wait then { x with counted := true } else x } }
  | none => .next s

/-- The step that a cluster works for. -/
def State.slotOfCluster (s : State) (c : Nat) : Option Nat :=
  match (s.cl c).owner with
  | .step i => some i
  | _ => none

/-- The slot that holds a job's step. -/
def State.stepSlot (s : State) (j : JobRef) : Option Nat :=
  (List.range 8).find? fun i => (s.slot i).phase ≠ .free && ((s.slot i).step.map (·.job)) == some j

/-- The job whose request a request is. -/
def Owner.job? : Owner → Option JobRef
  | .job j => some j
  | .push _ j => some j
  | .dma _ => none

/-- The agent behind the owner of an access (for its records). -/
def State.ownerAgent (s : State) (o : Owner) : Agent :=
  match o with
  | .job j => Agent.dma (s.ctxOf j.q) j
  | .push c j => { kind := 6, unit := c, cls := 1, ctx := s.ctxOf j.q, job := some j, slot := s.stepSlot j, tlb := some c }
  | .dma c =>
    let sl := s.slotOfCluster c
    let dense := (sl.map fun i => decide ((s.slot i).phase = .dense)).getD false
    { kind := 6, unit := c, cls := 1, instr := if dense then (s.cl c).dma.pos else 0, ctx := (sl.map fun i => (s.slot i).ctx).getD 0,
      job := sl.bind fun i => (s.slot i).step.map (·.job), slot := sl, tlb := some c }

/-- The agent of an owner's access at an address: of a job's, the engine that makes the transfer there (R432). -/
def State.ownerAt (s : State) (o : Owner) (addr : Nat) : Agent :=
  match o with
  | .job _ => { s.ownerAgent o with unit := engineOf addr }
  | _ => s.ownerAgent o

/-- An owner's access ends with a step-class error (R234, R350, R353). -/
def State.ownerError (s : State) (o : Owner) (cause status detail pasid addr : Nat) : State :=
  let ag := s.ownerAt o addr
  let r := { s.agentRec ag cause 1 with address := addr, pasid := pasid }
  s.detect { cls := 1, frec := some r, job := ag.job, slot := ag.slot, ctx := ag.ctx, status := status, detail := detail }

/-- TIER_STALL_LIMIT (R234, R384): 1 ms on T3, 10 ms on T4. A write that is abandoned leaves its bytes to the page's frame, which is in
transfer. -/
def execTierStallLimit (now wait : Nat) (s : State) : Host.Outcome State Fault Refusal :=
  let s := s.advanceTo now
  match s.tiers.waits.find? (·.id == wait) with
  | some w =>
    let limit := if w.tier = 3 then 100000 else 1000000
    if !s.alive || w.paused.isSome || w.length s.now < limit then .next s
    else
      let s := s.closeWait w
      let drop (r : HostReq) : HostReq := if r.owner = w.owner then { r with abandoned := true } else r
      let late := match w.page with
        | some (l, i, p) => if w.data.isEmpty || (s.tiers.frameOf l i p).isNone then [] else [(l, i, p, w.addr % 4096, w.data)]
        | none => []
      let s := { s with
        tiers := { s.tiers with stallLimits := s.tiers.stallLimits + 1, lateWrites := s.tiers.lateWrites ++ late,
                                partials := s.tiers.partials.filter (·.owner ≠ w.owner) }
        xlat := { s.xlat with reqs := s.xlat.reqs.map drop } }
      .next (s.ownerError w.owner 0x52 stStallLimit w.tier w.pasid (if w.tier = 4 then w.addr / 4096 * 4096 else w.addr))
  | none => .next s

/-! ## CXL.mem (R316 to R320, R446, R495) -/

/-- Whether CXL.mem reaches memory: decoder committed, Memory_Active set, not failed. -/
def State.memOpen (s : State) : Bool := s.alive && s.cxl.linkUp && s.cxl.hdmCommitted && s.pkg.memActive

/-- Add a line to the snoop filter (R318, R320): a full filter first gives up its oldest entry of the region. -/
def State.filterAdd (s : State) (line : Nat) (excl : Bool) : State :=
  let region (e : FilterEntry) : Bool := Config.regionOf e.line == Config.regionOf line
  if s.cxl.filter.any (·.line == line) then
    { s with cxl := { s.cxl with filter := s.cxl.filter.map fun e => if e.line = line then { e with excl := excl } else e } }
  else
    let s :=
      if (s.cxl.filter.filter region).length < Config.filterEntries then s
      else
        match removeFirst region s.cxl.filter with
        | none => s
        | some (e, rest) =>
          ({ s with cxl := { s.cxl with filter := rest, snoops := s.cxl.snoops ++ [(e.line, true)], ctr := { s.cxl.ctr with sfEvictions := s.cxl.ctr.sfEvictions + 1 } } }).emit (.bisnp e.line true)
    { s with cxl := { s.cxl with filter := s.cxl.filter ++ [⟨line, excl⟩] } }

def hostAgent : Agent := { kind := 8, cls := 0, ctx := 0, snoops := false }

/-- The line of device memory that a host physical address names: HPA = HDM base + DPA (R316). -/
def State.dpaOf (s : State) (hpa : Nat) : Option Nat :=
  if hpa % 64 = 0 ∧ s.cxl.hdmBase ≤ hpa ∧ hpa < s.cxl.hdmBase + Config.memBytes then some (hpa - s.cxl.hdmBase) else none

/-- A line returned with the poison indication: HOST_POISON_READS counts it, but for a package that has failed (R333, R446), which
shows viral too where the host has enabled it. -/
def State.poisonedRead (s : State) (hpa : Nat) (data : List Byte) : State :=
  let s := if !s.alive then s else { s with cxl := { s.cxl with ctr := { s.cxl.ctr with hostPoisonReads := s.cxl.ctr.hostPoisonReads + 1 } } }
  s.emit (.memData hpa data true (s.err.failed.isSome && s.cxl.viralEnable))

/-- HOST_MEM_READ (R316, R317): one line as it stands at the coherence point, or poison; the filter notes what the host
asked for (R318). -/
def execHostMemRead (hpa : Nat) (want : HostWant) (ecc : EccList) (s : State) : Host.Outcome State Fault Refusal :=
  match s.dpaOf hpa with
  | none => .next s
  | some dpa =>
    if !s.memOpen then .next (s.poisonedRead hpa (List.replicate 64 0))
    else
      let s := s.strike ecc
      let s := match want with
        | .none => s
        | .shared => s.filterAdd dpa false
        | .exclusive => s.filterAdd dpa true
      match (readGran hostAgent (dpa / 64)).go s with
      | (.ok d, s) => .next (s.emit (.memData hpa d false false))
      | (.error f, s) => .next ((s.accError hostAgent f).poisonedRead hpa (memRead s.hbm.mem dpa 64))

/-- The staging cache's copy of a granule follows a host write: updated and clean, or dropped for poison (R220). -/
def Tiers.hostWrote (t : Tiers) (g : Nat) (data : Option (List Byte)) : Tiers :=
  t.onLine (g / 4) fun e =>
    match e, data with
    | .line b v d bs h, some new =>
      if v.getLsbD (g % 4) then PoolEntry.setSector (g % 4) new false (.line b v d bs h) else e
    | .line b v d bs h, none =>
      .line b (v &&& ~~~ BitVec.twoPow 4 (g % 4)) (d &&& ~~~ BitVec.twoPow 4 (g % 4)) bs h
    | e, _ => e

/-- A whole sector that the host writes reaches the coherence point through its controller (R27, R220, R245, R317). -/
def State.hostPut (s : State) (g : Nat) (data : List Byte) (poison : Bool) : State :=
  let s := (s.reach g).admitGran false g
  if poison then
    { s with hbm := { s.hbm with poison := insNat g s.hbm.poison, mem := memWrite s.hbm.mem (64 * g) data }
             tiers := s.tiers.hostWrote g none
             cxl := { s.cxl with ctr := { s.cxl.ctr with hostPoisonWrites := s.cxl.ctr.hostPoisonWrites + 1 } } }
  else { s with hbm := s.hbm.putGran g data, tiers := s.tiers.hostWrote g (some data) }

/-- HOST_MEM_WRITE (R317, R322). A write to device memory that holds a setting is a host error that the package does not see (R62): it is
carried out as any other (DESIGN CHOICE, assumption 73). -/
def execHostMemWrite (hpa : Nat) (data : List Byte) (poison : Bool) (s : State) : Host.Outcome State Fault Refusal :=
  match s.dpaOf hpa with
  | none => .next s
  | some dpa => .next (if data.length ≠ 64 || !s.memOpen then s else s.hostPut (dpa / 64) data poison)

/-- The answer to the oldest back-invalidation of a line (R319): the host gives it up, or its exclusive right to it, with its data where
it had changed them. A line that a full filter gives up while its BISnpData is unanswered has a second answer to come (R318, R320). -/
def State.bisnpAnswer (s : State) (line : Nat) (modified : Option LineBack) : State :=
  match removeFirst (fun x => x.1 == line) s.cxl.snoops with
  | none => s
  | some ((_, inv), rest) =>
    if !s.alive then s
    else
      let s := match modified with
        | some d => s.hostPut (line / 64) (padTo 64 d.data) d.poison
        | none => s
      let filter :=
        if inv then s.cxl.filter.filter (·.line ≠ line)
        else s.cxl.filter.map fun e => if e.line = line then { e with excl := false } else e
      { s with cxl := { s.cxl with filter := filter, snoops := rest } }

/-- HOST_SNOOP (R321): the K16 keeps no host line. -/
def execHostSnoop (hpa : Nat) (s : State) : Host.Outcome State Fault Refusal :=
  if s.alive && s.cxl.linkUp then .next (s.emit (.rspIHitI hpa)) else .next s

/-- A request completes with Unsupported Request, which Advanced Error Reporting notes (R313, R315). -/
def State.unsupported (s : State) : State := ({ s with cxl := { s.cxl with aerUnsupported := true } }).emit .unsupported

/-- P2P_REQUEST (R326): a read gets Unsupported Request, a write is discarded; both are counted. -/
def execP2pRequest (isWrite : Bool) (s : State) : Host.Outcome State Fault Refusal :=
  if !(s.alive && s.cxl.linkUp) then .next s
  else
    let s := { s with cxl := { s.cxl with ctr := { s.cxl.ctr with p2pRejected := s.cxl.ctr.p2pRejected + 1 } } }
    .next (if isWrite then s else s.unsupported)

/-! ## Configuration requests (R313, R316, R347, R351, R355, R491, R493, R495) -/

/-- What a configuration read returns. -/
def State.cfgRead (s : State) : CfgReg → Nat
  | .vendorPart => Config.devId % 2 ^ 32
  -- type bits of a 64-bit, non-prefetchable memory BAR (R315; PRESUMED: PCI Express)
  | .bar0 => s.cxl.bar0 + 4
  | .bar2 => s.cxl.bar2 + 4
  | .bar4 => s.cxl.bar4 + 4
  | .atsEnable => b2n s.cxl.atsEnable
  | .pasidEnable => b2n s.cxl.pasidEnable
  | .priEnable => b2n s.cxl.priEnable
  | .priAllocation => s.cxl.priAlloc
  | .priCapacity => 256
  | .invalidateQueueDepth => 0
  -- neither Function Level Reset nor CXL Reset is advertised (R491)
  | .flrCapable | .cxlResetCapable => 0
  | .hdmBase => s.cxl.hdmBase
  | .hdmCommit => b2n s.cxl.hdmCommitted
  | .viralEnable => b2n s.cxl.viralEnable
  | .memInfoValid => b2n s.pkg.memInfoValid
  | .memActive => b2n s.pkg.memActive
  | .aerStatus => b2n s.cxl.aerUnsupported * 2 ^ 20

/-- A configuration write. A committed HDM decoder keeps its base; a bit of an error status is cleared by writing 1 to it (PRESUMED: PCI
Express). -/
def State.cfgWrite (s : State) (reg : CfgReg) (v : Word) : State :=
  let on := v.getLsbD 0
  match reg with
  | .bar0 => { s with cxl := { s.cxl with bar0 := v.toNat / 2 ^ 25 * 2 ^ 25 } }
  | .bar2 => { s with cxl := { s.cxl with bar2 := v.toNat / 2 ^ 16 * 2 ^ 16 } }
  | .bar4 => { s with cxl := { s.cxl with bar4 := v.toNat / 2 ^ 16 * 2 ^ 16 } }
  | .atsEnable => { s with cxl := { s.cxl with atsEnable := on } }
  | .pasidEnable => { s with cxl := { s.cxl with pasidEnable := on } }
  | .priEnable =>
    { s with cxl := { s.cxl with priEnable := on },
             xlat := { s.xlat with priFailed := if on && !s.cxl.priEnable then false else s.xlat.priFailed } }
  | .priAllocation => { s with cxl := { s.cxl with priAlloc := v.toNat } }
  | .hdmBase => if s.cxl.hdmCommitted then s else { s with cxl := { s.cxl with hdmBase := v.toNat / 2 ^ 28 * 2 ^ 28 } }
  | .hdmCommit => { s with cxl := { s.cxl with hdmCommitted := on } }
  | .viralEnable => { s with cxl := { s.cxl with viralEnable := on } }
  | .aerStatus => if v.getLsbD 20 then { s with cxl := { s.cxl with aerUnsupported := false } } else s
  | _ => s

/-- LINK_LOST (R327, R491): package-fatal. -/
def execLinkLost (now : Nat) (s : State) : Host.Outcome State Fault Refusal :=
  let s := s.advanceTo now
  if !(s.pkg.powered && s.pkg.perstN && s.cxl.linkUp) then .next s
  else .next (({ s with cxl := { s.cxl with linkUp := false, width := 0, rate := 0 } }).raiseFatal 5 none)

/-- LINK_RECOVERY (R327): counted; a change of width or rate is recorded; one outside R313 loses the link. -/
def execLinkRecovery (now width rate : Nat) (s : State) : Host.Outcome State Fault Refusal :=
  let s := s.advanceTo now
  if !(s.alive && s.cxl.linkUp) then .next s
  else if !((width = 4 || width = 8 || width = 16) && (rate = 1 || rate = 2)) then execLinkLost now s
  else
    let changed := width ≠ s.cxl.width || rate ≠ s.cxl.rate
    let s := { s with cxl := { s.cxl with width := width, rate := rate, ctr := { s.cxl.ctr with linkRecoveries := s.cxl.ctr.linkRecoveries + 1 } } }
    .next (if changed then s.recordEvent { code := 0x40, payload := leBytes 4 (width + rate * 32) } else s)

/-! ## Requests to the host -/

/-- The page requests of an owner begin or end: the time of one does not count as a tier's (R351). -/
def State.pauseWaits (s : State) (o : Owner) : State :=
  let f (w : TierWait) : TierWait := if w.owner = o ∧ w.tier = 4 ∧ w.paused.isNone then { w with paused := some s.now } else w
  { s with tiers := { s.tiers with waits := s.tiers.waits.map f } }
def State.resumeWaits (s : State) (o : Owner) : State :=
  let f (w : TierWait) : TierWait :=
    match w.paused with
    | some t => if w.owner = o then { w with since := w.since + (s.now - t), paused := none } else w
    | none => w
  { s with tiers := { s.tiers with waits := s.tiers.waits.map f } }

/-- Issue a request with a new identifier. -/
def State.newReq (s : State) (kind : ReqKind) (o : Owner) (pasid iova len hpa : Nat) (isWrite : Bool) : State × Nat :=
  let id := s.xlat.nextReq
  let r : HostReq := { id, kind, owner := o, pasid, iova, len, hpa, isWrite, since := s.now }
  ({ s with xlat := { s.xlat with reqs := s.xlat.reqs ++ [r], nextReq := id + 1 } }, id)

def State.dropReq (s : State) (id : Nat) : State := { s with xlat := { s.xlat with reqs := s.xlat.reqs.filter (·.id ≠ id) } }

/-- Counters of translation. -/
def State.xctr (s : State) (f : XlatCounters → XlatCounters) : State := { s with xlat := { s.xlat with ctr := f s.xlat.ctr } }

/-- Send an ATS Translation Request (R348, R349). -/
def State.sendAts (s : State) (o : Owner) (pasid iova : Nat) (isWrite : Bool) : State × Nat :=
  let (s, id) := s.newReq .ats o pasid iova 0 0 isWrite
  ((s.xctr fun c => { c with atsRequests := c.atsRequests + 1 }).emit (.atsRequest id pasid iova), id)

/-- An access ends its job with PAGE_FAULT_UNRESOLVED (R350). -/
def State.pageFault (s : State) (o : Owner) (pasid iova reason : Nat) : State :=
  (s.closeWaits fun w => w.owner == o && w.tier == 4).ownerError o 0x51 stPageFault reason pasid (iova / 4096 * 4096)

/-- Page request groups that are outstanding (R351); one given up after 100 ms counts no more (DEDUCED from R350, assumption 77). -/
def Xlat.groups (x : Xlat) : Nat := (x.reqs.filter fun r => r.kind = .page && r.len = 1 && !r.forsaken).length

/-- Send a page request, or let it wait for a free group (R350, R351). -/
def State.sendPage (s : State) (o : Owner) (pasid iova : Nat) (isWrite : Bool) : State × Nat :=
  let free := s.xlat.groups < min s.cxl.priAlloc 256
  let (s, id) := (s.pauseWaits o).newReq .page o pasid iova (if free then 1 else 0) 0 isWrite
  if free then ((s.xctr fun c => { c with priRequests := c.priRequests + 1 }).emit (.pageRequest id pasid iova isWrite), id)
  else (s, id)

/-- A page request that waits for a group can be sent no more: its denial ends the job, with reason 4 after a Response Failure
(R351), with reason 2 where the host has disabled PRI (R350; DEDUCED: a request that waits has not been sent). -/
def State.failPage (s : State) (r : HostReq) : State :=
  (s.dropReq r.id).pageFault r.owner r.pasid r.iova (if s.xlat.priFailed then 4 else 2)

/-- Free groups go to the page requests that have waited longest, at most `fuel` of them (R351). -/
def State.wakePages (s : State) : Nat → State
  | 0 => s
  | fuel + 1 =>
    match s.xlat.reqs.find? fun r => r.kind = .page && r.len = 0 && !r.abandoned with
    | none => s
    | some r =>
      if s.xlat.priFailed || !s.cxl.priEnable then (s.failPage r).wakePages fuel
      else if min s.cxl.priAlloc 256 ≤ s.xlat.groups then s
      else
        let send (x : HostReq) : HostReq := if x.id = r.id then { x with len := 1 } else x
        let s := ({ s with xlat := { s.xlat with reqs := s.xlat.reqs.map send } }).xctr fun c => { c with priRequests := c.priRequests + 1 }
        (s.emit (.pageRequest r.id r.pasid r.iova r.isWrite)).wakePages fuel

def State.wakePage (s : State) : State := s.wakePages s.xlat.reqs.length

/-- CONFIG_REQUEST (R493): answered once the link is in L0. -/
def execConfigRequest (reg : CfgReg) (write : Option Word) (s : State) : Host.Outcome State Fault Refusal :=
  if !(s.pkg.powered && s.pkg.perstN && s.cxl.linkUp) then .next s
  else
    match write with
    | none => .next (s.emit (.cfgData (s.cfgRead reg)))
    | some v => .next (let s := s.cfgWrite reg v; if s.alive then s.wakePage else s)

/-! ## Bulk transfers (R348) -/

def State.setBulk (s : State) (j : JobRef) (f : Bulk → Bulk) : State := s.setJob j fun x => { x with bulk := x.bulk.map f }

/-- Held translation of a job that covers an IOVA. -/
def Xlat.heldFor (x : Xlat) (j : JobRef) (iova : Nat) : Option Translation :=
  x.held.find? fun t => t.owner == some j && t.iova ≤ iova && iova < t.iova + t.size && !t.withdrawn

/-- Release a job's held-page entries. -/
def State.releaseHeld (s : State) (j : JobRef) : State :=
  { s with xlat := { s.xlat with held := s.xlat.held.filter (·.owner ≠ some j) } }

/-- Whether a request is a transfer on a translation: of its address space and range. -/
def HostReq.uses (r : HostReq) (t : Translation) : Bool := r.pasid == t.pasid && r.range == (t.iova, t.size)

/-- Whether a transfer of a job has not drained (R352). -/
def Xlat.flying (x : Xlat) (j : JobRef) : Bool :=
  x.reqs.any fun r => r.kind = .read && r.owner == .job j && !r.forsaken

/-- Entries of jobs that have ended go once the last transfer has drained (R348). -/
def State.releaseLeaving (s : State) : State :=
  let stays (t : Translation) : Bool := !t.leaving || (match t.owner with | some j => s.xlat.flying j | none => false)
  { s with xlat := { s.xlat with held := s.xlat.held.filter stays } }

/-- Lines of a host transfer. -/
def hostLines (hpa len : Nat) : Nat := (granules hpa len).length

/-- The ATC entry that covers an IOVA. -/
def Xlat.atcFor (x : Xlat) (pasid iova : Nat) : Option Translation :=
  x.atc.find? fun t => t.pasid == pasid && t.iova ≤ iova && iova < t.iova + t.size && !t.withdrawn

/-- Whether a translation is held by an access in flight. -/
def Xlat.inUse (x : Xlat) (t : Translation) : Bool :=
  x.reqs.any fun r => (r.kind = .write || r.inter) && r.uses t && r.withdrawn == t.withdrawn

/-- Add a translation to the ATC, which holds one of a key (PASID, page and size); the oldest not held goes first (R349). -/
def Xlat.atcAdd (x : Xlat) (t : Translation) : Xlat :=
  let same (e : Translation) : Bool := e.pasid == t.pasid && e.iova == t.iova && e.size == t.size && !e.withdrawn
  if x.atc.any same then { x with atc := x.atc.map fun e => if same e then t else e }
  else if x.atc.length < 2048 then { x with atc := x.atc ++ [t] }
  else
    match removeFirst (fun e => !x.inUse e) x.atc with
    | none => x
    | some (_, rest) => { x with atc := rest ++ [t] }

/-- An access misses the ATC: one ATS Translation Request, and the access waits (R349, R233). -/
def State.atcMiss (s : State) (o : Owner) (pasid iova : Nat) (isWrite : Bool) : State × Nat :=
  ((s.xctr fun x => { x with atcMisses := x.atcMisses + 1 }).addWait 4 o iova pasid).sendAts o pasid iova isWrite

/-- Read host memory for a job on a translation: one request, which waits for its data. -/
def State.readHost (s : State) (j : JobRef) (t : Translation) (iova len : Nat) (inter : Bool) : State × Nat :=
  let hpa := t.hpa + (iova - t.iova)
  let (s, id) := s.newReq .read (.job j) t.pasid iova len hpa false
  let f (r : HostReq) : HostReq := if r.id = id then { r with inter := inter, range := (t.iova, t.size) } else r
  let s := { s with xlat := { s.xlat with reqs := s.xlat.reqs.map f }
                    cxl := { s.cxl with ctr := { s.cxl.ctr with d2hReadLines := s.cxl.ctr.d2hReadLines + hostLines hpa len } } }
  ((s.emit (.hostRead id t.pasid hpa len)).addWait 4 (.job j) iova t.pasid, id)

/-- Write to host memory in the bulk class for a job: the last address written is followed by a zero-length read later (R329). -/
def State.writeHost (s : State) (j : JobRef) (pasid iova hpa : Nat) (bs : List Byte) : State :=
  let s := s.emit (.hostWrite none pasid hpa (s.written (Agent.dma (s.ctxOf j.q) j) iova bs))
  let s := { s with cxl := { s.cxl with ctr := { s.cxl.ctr with d2hWriteLines := s.cxl.ctr.d2hWriteLines + hostLines hpa bs.length } } }
  s.setJob j fun x => { x with lastWrite := some (hpa + bs.length - 1) }

/-- A read of a transfer is in flight: the transfer goes on behind it. -/
def Bulk.sent (id n : Nat) (b : Bulk) : Bulk := { b with flights := b.flights ++ [(id, none)], next := b.next + n }

/-- The next read of an interactive-class transfer: translated on use, page by page (R321, R349). -/
def State.interRun (s : State) (j : JobRef) (b : Bulk) : State :=
  if b.req.isSome || !b.flights.isEmpty || s.engineBusy (engineOf b.iova) then s
  else if b.len = 0 then s.setBulk j fun b => { b with finished := true }
  else
    match s.xlat.atcFor b.pasid b.iova with
    | none =>
      let (s, id) := s.atcMiss (.job j) b.pasid b.iova false
      s.setBulk j fun b => { b with req := some id }
    | some t =>
      let n := min b.len (min (4096 - b.iova % 4096) (t.iova + t.size - b.iova))
      let (s, id) := s.readHost j t b.iova n true
      s.setBulk j fun b => { b.sent id n with iova := b.iova + n, len := b.len - n }

/-- Pages of 4 KiB that a range meets: no window needs more entries. -/
def pagesOf (a len : Nat) : Nat := (pieces a len).length

/-- Entries of the held-page table that are held, or set aside for windows that have begun (R348; DESIGN CHOICE, assumption 78). -/
def State.heldUsed (s : State) : Nat :=
  s.xlat.held.length + ((s.queues.toList.flatMap (·.jobs)).map fun x => (x.bulk.map (·.room)).getD 0).sum

/-- Reads of a transfer that have no data yet. -/
def Bulk.flying (b : Bulk) : Nat := (b.flights.filter (·.2.isNone)).length

/-- Entries of a job that a part of its window that is translated again no longer needs: those withdrawn and, where the table is full,
those of parts that have been transferred, unless a transfer on them has not drained (R354; DESIGN CHOICE, assumption 78). -/
def State.dropSpent (s : State) (j : JobRef) (b : Bulk) : State :=
  let mine (t : Translation) : Bool := t.owner == some j && !(s.xlat.reqs.any fun r => r.kind = .read && r.owner == .job j && r.uses t)
  let s1 := { s with xlat := { s.xlat with held := s.xlat.held.filter fun t => !(mine t && t.withdrawn) } }
  if s1.heldUsed < 4096 then s1
  else { s1 with xlat := { s1.xlat with held := s1.xlat.held.filter fun t => !(mine t && t.iova + t.size ≤ b.next) } }

/-- Translate again the part of a window that comes next: its translation was withdrawn (R354). -/
def State.bulkRedo (s : State) (j : JobRef) (b : Bulk) : State :=
  let s := s.dropSpent j b
  if 4096 ≤ s.heldUsed then s
  else
    let (s, id) := s.sendAts (.job j) b.pasid b.next b.write
    s.setBulk j fun b => { b with req := some id, redo := true }

/-- Begin a window where the table has room for it: the entries that it may need are set aside; otherwise it waits, which is counted once
(R348). -/
def State.bulkWindow (s : State) (j : JobRef) (b : Bulk) : State × Bool :=
  let need := min 1024 (pagesOf b.iova b.len)
  if s.heldUsed + need ≤ 4096 then (s.setBulk j fun b => { b with room := need }, true)
  else if b.heldWait then (s, false)
  else ((s.setBulk j fun b => { b with heldWait := true }).xctr fun c => { c with heldWaits := c.heldWaits + 1 }, false)

/-- Take a bulk transfer one stage further, where its engine has no work that comes first (R432): translate the window, move its parts, release it, and go on. Reads go out 4 KiB at a time and
at most four at once, as in 14's example (DESIGN CHOICE, assumption 78). -/
def State.bulkRun (s : State) (j : JobRef) : Nat → State
  | 0 => s
  | fuel + 1 =>
    match (s.job? j).bind (·.bulk) with
    | none => s
    | some b =>
      if b.finished then s
      else if b.inter then s.interRun j b
      else if b.req.isSome then s
      else if b.next < b.iova && (b.len = 0 || 1024 ≤ b.window) then
        match s.xlat.heldFor j b.next with
        | none => s.bulkRedo j b
        | some t =>
          let n := min (t.iova + t.size - b.next) (b.iova - b.next)
          if s.engineBusy (engineOf b.next) then s
          else if b.write then
            let s := s.writeHost j b.pasid b.next (t.hpa + (b.next - t.iova)) (b.data.take n)
            (s.setBulk j fun b => { b with next := b.next + n, data := b.data.drop n }).bulkRun j fuel
          else if 4 ≤ b.flying then s
          else
            let n := min n (4096 - b.next % 4096)
            let (s, id) := s.readHost j t b.next n false
            (s.setBulk j (Bulk.sent id n)).bulkRun j fuel
      else if 0 < b.len && b.window < 1024 then
        let (s, ok) := if b.window = 0 && b.room = 0 then s.bulkWindow j b else (s, true)
        if ok then
          let (s, id) := s.sendAts (.job j) b.pasid b.iova b.write
          s.setBulk j fun b => { b with req := some id }
        else s
      else if !b.flights.isEmpty then s
      else
        let s := s.releaseHeld j
        if b.len = 0 then s.setBulk j fun b => { b with finished := true, room := 0 }
        else (s.setBulk j fun b => { b with window := 0, room := 0, heldWait := false }).bulkRun j fuel

/-- Enough stages for everything that can follow one event. -/
def bulkFuel : Nat := 1100

/-- Begin a transfer of a job between host memory and the package (R321, R347, R348). -/
def State.bulkStart (s : State) (j : JobRef) (write : Bool) (iova len : Nat) (data : List Byte) (inter : Bool := false) : State :=
  let pasid := (s.ctx (s.ctxOf j.q)).pasid
  if !(s.cxl.atsEnable && s.cxl.pasidEnable) then s.pageFault (.job j) pasid iova 1
  else
    (s.setJob j fun x => { x with bulk := some { write, pasid, iova, len, next := iova, data, inter } }).bulkRun j bulkFuel

/-- Insert a job by the order of starting. -/
def startInsert (x : Nat × JobRef) : List (Nat × JobRef) → List (Nat × JobRef)
  | [] => [x]
  | a :: r => if x.1 < a.1 then x :: a :: r else a :: startInsert x r

/-- Running jobs that satisfy `p`, in the order in which they started (R432). -/
def State.startedJobs (s : State) (p : Job → Bool) : List JobRef :=
  let of (q : Nat) : List (Nat × JobRef) :=
    ((s.queue q).jobs.filter fun x => x.phase = .running && p x && !x.halted).map fun x => (x.start, ⟨q, x.seq⟩)
  (((List.range 64).flatMap of).foldl (fun l x => startInsert x l) []).map (·.2)

/-- Jobs whose transfers may go on. -/
def State.transfers (s : State) : List JobRef := s.startedJobs (·.bulk.isSome)

/-- Bulk transfers that wait for held-page entries or for their turn go on, in the order in which their jobs started (R432). -/
def State.bulkPoke (s : State) : State := s.transfers.foldl (fun s j => s.bulkRun j bulkFuel) s

/-- A job has ended: its held-page entries are released with its last transfer, and transfers that wait for entries go on (R348). -/
def State.leaveHeld (s : State) (j : JobRef) : State :=
  let f (t : Translation) : Translation := if t.owner = some j then { t with leaving := true } else t
  ({ s with xlat := { s.xlat with held := s.xlat.held.map f } }).releaseLeaving.bulkPoke

/-! ## Interactive writes (R349) -/

/-- An owner's request that is outstanding. -/
def Xlat.busy (x : Xlat) (o : Owner) : Bool := x.reqs.any fun r => r.owner == o && r.kind ≠ .write && !r.abandoned

/-- Whether a write of a cluster's DMA engine on CXL.cache has not reached global observation (R328). -/
def Xlat.writing (x : Xlat) (c : Nat) : Bool :=
  x.reqs.any fun r => r.kind = .write && (match r.owner with | .push c' _ => c' == c | _ => false)

/-- Issue one line of a step's outputs to host memory in the interactive class, for a cluster's DMA engine: whether it has been
issued. It waits for the global observation of the engine's earlier write (R328) and for its translation (R349). -/
def State.pushLine (s : State) (c pasid : Nat) (job : JobRef) (iova : Nat) (bs : List Byte) : State × Bool :=
  let o : Owner := .push c job
  if s.xlat.writing c || s.xlat.busy o then (s, false)
  else if !(s.cxl.atsEnable && s.cxl.pasidEnable) then (s.pageFault o pasid iova 1, false)
  else
    match s.xlat.atcFor pasid iova with
    | none => ((s.atcMiss o pasid iova true).1, false)
    | some t =>
      let hpa := t.hpa + (iova - t.iova)
      let (s, id) := s.newReq .write o pasid iova bs.length hpa true
      let f (r : HostReq) : HostReq := if r.id = id then { r with range := (t.iova, t.size) } else r
      let s := { s with xlat := { s.xlat with reqs := s.xlat.reqs.map f } }
      let s := s.emit (.hostWrite (some id) pasid hpa (s.written (s.ownerAgent o) iova bs))
      let s := { s with cxl := { s.cxl with ctr := { s.cxl.ctr with d2hWriteLines := s.cxl.ctr.d2hWriteLines + hostLines hpa bs.length } } }
      ((s.setJob job fun x => { x with observe := id :: x.observe }).addWait 4 o iova pasid, true)

/-! ## Answers of the host -/

/-- ATS denied the access (R350, R351): a page request, or the end of the job. -/
def State.atsDenied (s : State) (r : HostReq) (granted : Bool) : State × Option Nat :=
  if s.xlat.priFailed then (s.pageFault r.owner r.pasid r.iova 4, none)
  else if granted then (s.pageFault r.owner r.pasid r.iova 3, none)
  else if !s.cxl.priEnable then (s.pageFault r.owner r.pasid r.iova 2, none)
  else
    let (s, id) := s.sendPage r.owner r.pasid r.iova r.isWrite
    (s, some id)

/-- A translation has come: of the next part of the window, or again of a part of it (R354). -/
def Bulk.translated (base size : Nat) (b : Bulk) : Bulk :=
  if b.redo then { b with req := none, granted := false, redo := false }
  else
    let n := min b.len (base + size - b.iova)
    let w := b.window + 1
    { b with req := none, granted := false, window := w, iova := b.iova + n, len := b.len - n,
             room := if n = b.len || 1024 ≤ w then 0 else b.room - 1 }

/-- The answer to an ATS Translation Request (R348 to R350). -/
def State.atsAnswer (s : State) (id : Nat) (a : AtsAnswer) : State :=
  match s.xlat.reqs.find? fun r => r.id == id && r.kind = .ats with
  | none => s
  | some r =>
    if !s.alive then s
    else
      let s := s.dropReq id
      if r.abandoned then s
      else
        match r.owner with
        | .job j =>
          let granted := (((s.job? j).bind (·.bulk)).map (·.granted)).getD false
          match a with
          | .ok hpa size =>
            let base := r.iova / size * size
            let t : Translation := { owner := some j, pasid := r.pasid, iova := base, size := size, hpa := hpa }
            if (((s.job? j).bind (·.bulk)).map (·.inter)).getD false then
              (({ s with xlat := s.xlat.atcAdd { t with owner := none } }).setBulk j fun b => { b with req := none, granted := false }).bulkRun j bulkFuel
            else
              let s := { s with xlat := { s.xlat with held := s.xlat.held ++ [t] } }
              (s.setBulk j (Bulk.translated base size)).bulkRun j bulkFuel
          | .denied =>
            let (s, req) := s.atsDenied r granted
            (s.setBulk j fun b => { b with req := req })
          | .error => ((s.setBulk j fun b => { b with req := none }).pageFault r.owner r.pasid r.iova 6)
        | _ =>
          match a with
          | .ok hpa size =>
            let base := r.iova / size * size
            { s with xlat := s.xlat.atcAdd { owner := none, pasid := r.pasid, iova := base, size := size, hpa := hpa } }
          | .denied => (s.atsDenied r (r.len = 1)).1
          | .error => (s.pageFault r.owner r.pasid r.iova 6)

/-- PAGE_RESPONSE (R350, R351). A Response Failure stops page requests though nothing waits for this one any more. -/
def execPageResponse (id : Nat) (a : PriAnswer) (s : State) : Host.Outcome State Fault Refusal :=
  match s.xlat.reqs.find? fun r => r.id == id && r.kind = .page && r.len = 1 with
  | none => .next s
  | some r =>
    if !s.alive then .next s
    else if r.abandoned then
      let x := s.xlat
      .next (({ s with xlat := { x with priFailed := x.priFailed || decide (a = PriAnswer.responseFailure) } }).dropReq id).wakePage
    else
      let s := (s.dropReq id).resumeWaits r.owner
      let s := match a with
        | .success =>
          let (s, rid) := s.sendAts r.owner r.pasid r.iova r.isWrite
          (match r.owner with
           | .job j => s.setBulk j fun b => { b with req := some rid, granted := true }
           | _ =>
             let mark (x : HostReq) : HostReq := if x.id = rid then { x with len := 1 } else x
             { s with xlat := { s.xlat with reqs := s.xlat.reqs.map mark } })
        | .invalidRequest => s.pageFault r.owner r.pasid r.iova 3
        | .responseFailure => ({ s with xlat := { s.xlat with priFailed := true } }).pageFault r.owner r.pasid r.iova 4
      .next s.wakePage

/-- PRI_TIMEOUT (R350): no response within 100 ms. -/
def execPriTimeout (now id : Nat) (s : State) : Host.Outcome State Fault Refusal :=
  let s := s.advanceTo now
  match s.xlat.reqs.find? fun r => r.id == id && r.kind = .page with
  | none => .next s
  | some r =>
    if !s.alive || s.now - r.since < 100 * Config.ms then .next s
    else
      -- a group that has been sent is remembered: its response may still come
      let give (x : HostReq) : HostReq := if x.id = id then { x with abandoned := true, forsaken := true } else x
      let t := if r.len = 0 then s.dropReq id else { s with xlat := { s.xlat with reqs := s.xlat.reqs.map give } }
      .next (if r.abandoned then t else t.pageFault r.owner r.pasid r.iova 5).wakePage

/-! ## Invalidation (R352 to R355) -/

/-- Whether an Invalidate Request covers a page range. -/
def Invalidate.hits (v : Invalidate) (pasid iova size : Nat) : Bool :=
  (match v.pasid with | none => true | some p => p == pasid) && v.iova < iova + size && iova < v.iova + v.len

/-- Transfers in flight on withdrawn translations of an Invalidate Request: a read whose data have not arrived, a write that has not
reached global observation, whether their job still runs or not (R352). -/
def Xlat.undrained (x : Xlat) (v : Invalidate) : List HostReq :=
  x.reqs.filter fun r => (r.kind = .read || r.kind = .write) && r.withdrawn && !r.forsaken && v.hits r.pasid r.range.1 r.range.2

/-- Send the completion of the oldest Invalidate Request (R353, R355). -/
def State.invComplete (s : State) (v : Invalidate) : State :=
  let s := { s with xlat := { s.xlat with invs := s.xlat.invs.drop 1 } }
  (s.xctr fun c => { c with invalidationsDelayed := c.invalidationsDelayed + b2n v.delayed,
                            invalidateHoldTime := c.invalidateHoldTime + (s.now - v.arrived) }).emit .invalidateDone

/-- Completions go out in order of arrival while their transfers have drained. -/
def State.invDrain (s : State) : Nat → State
  | 0 => s
  | n + 1 =>
    match s.xlat.invs with
    | [] => s
    | v :: _ => if (s.xlat.undrained v).isEmpty then (s.invComplete v).invDrain n else s

/-- INVALIDATE_REQUEST (R353, R355). -/
def execInvalidateRequest (now : Nat) (pasid : Option Nat) (iova len : Nat) (s : State) : Host.Outcome State Fault Refusal :=
  let s := s.advanceTo now
  if !s.alive || 32 ≤ s.xlat.invs.length then .next s
  else
    let v0 : Invalidate := { pasid, iova, len, arrived := s.now, delayed := false }
    let hit (t : Translation) : Bool := v0.hits t.pasid t.iova t.size
    let x := s.xlat
    let atc := (x.atc.filter fun t => !(hit t && !x.inUse t)).map fun t => if hit t then { t with withdrawn := true } else t
    let held := x.held.map fun t => if hit t then { t with withdrawn := true } else t
    let reqs := x.reqs.map fun r =>
      if (r.kind = .read || r.kind = .write) && v0.hits r.pasid r.range.1 r.range.2 then { r with withdrawn := true } else r
    let x : Xlat := { x with atc := atc, held := held, reqs := reqs, ctr := { x.ctr with invalidations := x.ctr.invalidations + 1 } }
    let v := { v0 with delayed := !(x.undrained v0).isEmpty }
    .next (({ s with xlat := { x with invs := x.invs ++ [v] } }).invDrain 33)

/-- INVALIDATE_DRAINED (R353). -/
def execInvalidateDrained (now : Nat) (s : State) : Host.Outcome State Fault Refusal :=
  let s := s.advanceTo now
  if s.alive then .next (s.invDrain 33) else .next s

/-- The destination lines of a DMA_COPY that an abandoned read had reached: which of them is not defined (R353). Those that it has
written are result lines (R330). -/
def State.abandonCopy (s : State) (o : Owner) : State :=
  match o with
  | .dma _ | .push .. => s
  | .job j =>
    match s.job? j with
    | none => s
    | some x =>
      if x.opcode ≠ 0x50 then s
      else
        let data := (x.bulk.map (·.data)).getD []
        let ag := Agent.dma (s.ctxOf j.q) j
        (List.range ((data.length + 63) / 64)).foldl (fun s i =>
          if Config.abandonedLine x.start i then
            match (writeDva ag ((x.p 1).toNat + 64 * i) ((data.drop (64 * i)).take 64)).go s with
            | (.ok _, s') => s'
            | (.error _, _) => s
          else s) s

/-- INVALIDATE_TIMEOUT (R353): at 1 ms the undrained transfers are abandoned and their jobs end. -/
def execInvalidateTimeout (now : Nat) (s : State) : Host.Outcome State Fault Refusal :=
  let s := s.advanceTo now
  match s.xlat.invs with
  | [] => .next s
  | v :: _ =>
    let late := s.xlat.undrained v
    if !s.alive || s.now - v.arrived < Config.ms || late.isEmpty then .next s
    else
      let drop (r : HostReq) : HostReq := if late.any (·.id == r.id) then { r with abandoned := true, forsaken := true } else r
      let s := { s with xlat := { s.xlat with reqs := s.xlat.reqs.map drop } }
      let s := (s.xctr fun c => { c with withdrawals := c.withdrawals + late.length }).releaseLeaving
      let s := (late.filter (!·.abandoned)).foldl (fun s r =>
        let s := (s.abandonCopy r.owner).closeWaits fun w => w.owner == r.owner && w.addr == r.iova
        s.ownerError r.owner 0x50 stWithdrawn (Config.openDetail stWithdrawn).toNat r.pasid (r.iova / 4096 * 4096)) s
      .next (s.invComplete v)

/-- GLOBAL_OBSERVATION (R328, R329): an interactive write has reached global observation. -/
def execGlobalObservation (id : Nat) (s : State) : Host.Outcome State Fault Refusal :=
  match s.xlat.reqs.find? fun r => r.id == id && r.kind = .write with
  | none => .next s
  | some r =>
    if !s.alive then .next s
    else
      let clear (x : Job) : Job := { x with observe := x.observe.filter (· ≠ id) }
      let clearQ (q : Queue) : Queue := { q with jobs := q.jobs.map clear }
      let s := { s with queues := s.queues.map clearQ }
      .next ((s.dropReq id).closeWaits fun w => w.owner == r.owner && w.addr == r.iova)

end Sys2Proof.Machine
end

