-- ==== Sys2Proof/Machine/Tiers.lean ====
section
/-! DEFINITION. Lent memory: frames, leases, and the messages that carry them (09 R227 to R237, 11 R273), and the
package's peer list (R276). -/

namespace Sys2Proof.Machine

/-! ## The peer list (R276) -/

/-- Every device number, other than its own, in the live items that R276 names. -/
def State.peerList (s : State) : List Nat :=
  let maps := s.tabs.mapLive.flatMap fun m => m.shards.flatten
  let groups := (s.tabs.refl.map fun r => r.groups.flatten).getD []
  let eps := s.upd.epochs.flatMap fun e => e.contribs ++ e.parts
  let leases := s.tiers.lent.map (·.borrower) ++ s.tiers.borrowed.map (·.lender)
  ((maps ++ groups ++ eps ++ leases).eraseDups).filter fun d => some d ≠ s.device

/-- Note which devices joined or left the peer list (R305). -/
def State.relist (s : State) : State :=
  let now := s.now
  let l := s.peerList
  { s with fab := { s.fab with listed := l.map fun d =>
      (d, match s.fab.listed.find? (·.1 == d) with | some x => x.2 | none => now) } }

/-! ## Message bodies (R273) -/

def lentWord0 (lease page : Nat) : List Byte := leBytes 8 (packFields [(lease, 6), (0, 2), (page, 32)])
def lentReadBody (lease page tag : Nat) : List Byte := lentWord0 lease page ++ leBytes 8 (tag % 2 ^ 32)
def lentWriteBody (lease page tag : Nat) (sectors : BitVec 64) (data : List Byte) : List Byte :=
  lentReadBody lease page tag ++ leBytes 8 sectors.toNat ++ data
def lentControlBody (lease op tag : Nat) : List Byte :=
  leBytes 8 (packFields [(lease, 6), (0, 2), (op, 2)]) ++ leBytes 8 (tag % 2 ^ 32)
def lentResponseBody (lease result tag : Nat) (data : Option (List Byte)) : List Byte :=
  leBytes 8 (packFields [(lease, 6), (0, 2), (result, 8), (b2n data.isSome, 1)]) ++ leBytes 8 (tag % 2 ^ 32) ++ data.getD []

/-- The marked 64-byte sectors of a page, in ascending order. -/
def pickSectors (m : BitVec 64) (data : List Byte) : List Byte :=
  ((List.range 64).filter fun i => m.getLsbD i).flatMap fun i => (data.drop (64 * i)).take 64

/-- A new lease TAG (R273). -/
def State.newTag (s : State) : State × Nat :=
  ({ s with fab := { s.fab with nextTag := (s.fab.nextTag + 1) % 2 ^ 32 } }, s.fab.nextTag)

/-! ## Frames (R226, R229) -/

/-- Change the frame of a page. -/
def Tiers.onFrame (t : Tiers) (lender lease page : Nat) (f : PoolEntry → PoolEntry) : Tiers :=
  { t with pool := t.pool.map fun e => if e.isFrame lender lease page then f e else e }

/-- A frame goes into transfer under a tag, or comes out of it. -/
def PoolEntry.busy (tag : Option Nat) : PoolEntry → PoolEntry
  | .frame l i p d bs h _ => .frame l i p d bs h tag
  | e => e

/-- The DMA that moves lent pages for no job of this package: it reads and writes its memory through the staging cache, as every access
does (R218). -/
def lenderAgent : Agent := { kind := 6, cls := 0, ctx := 0, snoops := false }

/-- Read granules at their controller for a transfer (R244). -/
def readDirty (gs : List Nat) : Acc Unit := do
  for g in gs do
    let _ ← readGran lenderAgent g

/-- Write a dirty frame's sectors to its lender; it stays until the lender acknowledges them (R229). Poison among them poisons the page
instead (R244). -/
def State.writeBackFrame (s : State) (lender lease page : Nat) : State :=
  match s.tiers.frameOf lender lease page, s.tiers.leaseAt lender lease with
  | some (d, bs, _, none), some b =>
    let ks := (List.range 64).filter fun i => d.getLsbD i
    let gs := (ks.map fun k => s.place (b.gran page k)).filter fun g => !s.hbm.isRetired (g / 64)
    match (readDirty gs).go s with
    | (.error f, s) => (s.accError lenderAgent f).poisonPage lender lease page
    | (.ok _, s) =>
      let (s, tag) := s.newTag
      let t := { s.tiers.onFrame lender lease page (PoolEntry.busy (some tag)) with writebackSectors := s.tiers.writebackSectors + ks.length }
      ({ s with tiers := t }).sendMsg lender false 8 (lentWriteBody lease page tag d (pickSectors d bs))
  | _, _ => s

/-- Whether an access waits for a page: the page's frame is pinned (R225). -/
def Tiers.awaited (t : Tiers) (e : PoolEntry) : Bool :=
  t.waits.any fun w => match w.page with | some (l, i, p) => e.isFrame l i p | none => false

/-- The frame under a tag, if it is one of a lease. -/
def Tiers.tagged (t : Tiers) (lender lease tag : Nat) : Option (Nat × List Byte) :=
  t.pool.findSome? fun e =>
    match e with
    | .frame l i p _ bs _ z => if l = lender ∧ i = lease ∧ z = some tag then some (p, bs) else none
    | _ => none

/-- Evict the oldest unpinned frame: a clean one goes at once, a dirty one is written back first (R226, R229). -/
def State.evictFrame (s : State) : State :=
  match s.tiers.pool.find? fun e => match e with | .frame .. => !e.pinned && !s.tiers.awaited e | _ => false with
  | some (.frame l i p d _ _ _) =>
    let s := { s with tiers := { s.tiers with evictions := s.tiers.evictions + 1 } }
    if d = 0 then { s with tiers := s.tiers.dropFrame l i p }
    else
      let tag := s.fab.nextTag
      let s := s.writeBackFrame l i p
      if (s.tiers.tagged l i tag).isNone then s else { s with tiers := { s.tiers with evicting := tag :: s.tiers.evicting } }
  | _ => s

/-- Evictions under way that make room for an allocation. -/
def Tiers.makingRoom (t : Tiers) : Nat :=
  (t.evicting.filter fun tag => t.pool.any fun e => match e with | .frame _ _ _ _ _ _ z => z == some tag | _ => false).length

/-- Pages for which accesses wait until a frame is allocated. -/
def Tiers.frameless (t : Tiers) : Nat :=
  ((t.waits.filterMap (·.page)).eraseDups.filter fun (l, i, p) => (t.frameOf l i p).isNone).length

/-- An access begins to wait for a borrowed page; the page that it waited for before has come (R233). `data` is what a write is to
leave there. -/
def State.awaitPage (s : State) (o : Owner) (lender lease page dva : Nat) (data : List Byte) : State :=
  let s := s.closeWaits fun w => w.tier == 3 && w.owner == o && w.page ≠ some (lender, lease, page)
  let s := s.addWait 3 o dva 0
  let note (w : TierWait) : TierWait :=
    if w.owner = o ∧ w.addr = dva ∧ w.tier = 3 then { w with page := some (lender, lease, page), data := data } else w
  { s with tiers := { s.tiers with waits := s.tiers.waits.map note } }

/-- An access waits for a borrowed page: room is made, one eviction for each allocation, and the page is fetched unless the access
covers all of it (R226, R229, R233). -/
def State.requestPage (s : State) (o : Owner) (lender lease page dva : Nat) (fetch : Bool) (data : List Byte)
    (hint : Hint := .stream) : State :=
  let s := s.awaitPage o lender lease page dva data
  match s.tiers.frameOf lender lease page with
  | some _ => s
  | none =>
    let s := if s.tiers.frames < s.model.frameCap || s.tiers.frameless ≤ s.tiers.makingRoom then s else s.evictFrame
    if fetch && s.tiers.frames < s.model.frameCap then
      let (s, tag) := s.newTag
      let e := PoolEntry.frame lender lease page 0 [] hint (some tag)
      ({ s with tiers := { s.tiers with pool := poolInsert s.tiers.pool e hint } }).sendMsg lender false 7 (lentReadBody lease page tag)
    else s

/-- What an owner's access had done of its ranges is forgotten: the access is complete, or abandoned. -/
def State.endPartials (s : State) (o : Owner → Bool) : State :=
  { s with tiers := { s.tiers with partials := s.tiers.partials.filter fun p => !o p.owner } }

/-- A cluster's work waits for a line that the host holds (R24). -/
def State.awaitLine (s : State) (c line : Nat) : State := { s with cls := vmod s.cls (ix 16 c) fun x => { x with asked := some line } }

/-- A DMA engine stops at a fault of its work for a step (R433). -/
def State.stopEngine (s : State) (ag : Agent) : State :=
  if ag.kind = 6 && ag.slot.isSome then s.setCl ag.unit fun x => { x with dma := { x.dma with faulted := true } } else s

/-- Run an access of a DMA engine: on success its waits on T3 end and the work goes on; where it meets a line that the
host holds, or a borrowed page that is not there, the request goes out and the access waits to be tried again; a failure is left to
`fail`. An access to borrowed pages takes them one after the other: what it has done stays done (R229). -/
def State.accessOr {α : Type} (s : State) (ag : Agent) (m : Acc α) (hint : Option Hint) (k : State → α → State)
    (fail : State → AccFail → State) : State :=
  match m.go s with
  | (.ok a, s') => k ((s'.endPartials (· == ag.owner)).closeWaits fun w => w.tier == 3 && w.owner == ag.owner) a
  | (.error (.snoop l i), _) => if ag.slot.isSome then (s.sendSnoop l i).awaitLine ag.unit l else s.sendSnoop l i
  | (.error .hold, s') => s'
  | (.error (.page l i p dva fetch data), s') => s'.requestPage ag.owner l i p dva fetch data (hint.getD .stream)
  | (.error f, s') => fail (s'.endPartials (· == ag.owner)) f

/-- Run an access of a DMA engine whose failure raises its error. -/
def State.accessDma {α : Type} (s : State) (ag : Agent) (m : Acc α) (hint : Option Hint) (k : State → α → State) : State :=
  s.accessOr ag m hint k fun s f => s.accError ag f

/-! ## Poisoned leases (R235, R236) -/

/-- Poison every page of a borrowed lease. -/
def State.poisonLease (s : State) (lender lease : Nat) : State :=
  match s.tiers.borrowed.find? fun b => b.lender == lender && b.lease == lease && !b.poisoned with
  | none => s
  | some b =>
    let mine (e : PoolEntry) : Bool := match e with | .frame l i .. => l == lender && i == lease | _ => false
    let frames := s.tiers.pool.filter mine
    let dirty := (frames.map (·.dirtySectors)).sum
    let mark (x : Borrowed) : Borrowed :=
      if x.lender = lender ∧ x.lease = lease then
        { x with poisoned := true, lostDirty := if x.returning.isSome then dirty else x.lostDirty }
      else x
    let t := { s.tiers with pool := s.tiers.pool.filter (!mine ·), borrowed := s.tiers.borrowed.map mark,
                            poisonedPages := s.tiers.poisonedPages + frames.length
                            lateWrites := s.tiers.lateWrites.filter fun w => !(w.1 == lender && w.2.1 == lease) }
    let s := ({ s with tiers := t }).recordEvent
      { code := 0x32, ctx := b.ctx, payload := leBytes 4 (packFields [(lender, 14), (0, 2), (lease, 6)]) ++ leBytes 4 0 ++ leBytes 8 frames.length }
    let hit (w : TierWait) : Bool := w.tier == 3 && b.base ≤ w.addr && w.addr < b.base + b.size &&
      (s.ownerAgent w.owner).ctx == b.ctx
    let ws := s.tiers.waits.filter hit
    ws.foldl (fun s w =>
      let ag := s.ownerAt w.owner w.addr
      (s.closeWait w).accError ag (.lent w.addr ag.unit)) s

/-! ## The lender (R227, R231, R232) -/

/-- Write a range of device memory with zeros. -/
def Hbm.zero (h : Hbm) (base size : Nat) : Hbm :=
  { h with mem := h.mem.filter fun c => c.1 < base || base + size ≤ c.1
           poison := h.poison.filter fun g => 64 * g < base || base + size ≤ 64 * g || h.isRetired (g / 64) }

/-- A range is zeroed, and none of it stays in the staging cache (R227, R230, R231). -/
def State.zeroRange (s : State) (base size : Nat) : State :=
  let out (e : PoolEntry) : Bool := match e with
    | .line b .. => 256 * b < base || base + size ≤ 256 * b
    | _ => true
  { s with hbm := s.hbm.zero base size, tiers := { s.tiers with pool := s.tiers.pool.filter out } }

/-- Lines of a range that the host holds, or has been asked to give up and may still hold modified. -/
def Cxl.heldIn (c : Cxl) (base size : Nat) : List Nat :=
  (c.filter.map (·.line) ++ (c.snoops.filter (·.2)).map (·.1)).eraseDups.filter fun l => base ≤ l && l < base + size

def State.lentBy (s : State) (id : Nat) : Option Lent := s.tiers.lent.find? (·.id == id)
def State.endLease (s : State) (l : Lent) : State :=
  let s := s.zeroRange l.base l.size
  ({ s with tiers := { s.tiers with lent := s.tiers.lent.filter (·.id ≠ l.id) } }).relist

/-- The result that R232 gives a read or a write of a page, with the lease it may touch. -/
def State.lentCheck (s : State) (f : Frame) (lease page : Nat) : Nat × Option Lent :=
  match s.lentBy lease with
  | none => (1, none)
  | some l =>
    match l.claimant with
    | none => (1, none)
    | some c =>
      if c ≠ (f.srcDev, f.srcInc) then (3, none)
      else if l.size ≤ page * 4096 then (4, none)
      else (0, some l)

def State.respond (s : State) (f : Frame) (lease result tag : Nat) (data : Option (List Byte)) : State :=
  s.sendMsg f.srcDev false 9 (lentResponseBody lease result tag data)

def State.leaseRefuse (s : State) : State := { s with tiers := { s.tiers with leaseRefused := s.tiers.leaseRefused + 1 } }

/-- One granule of a page for a borrower: poison raises no error (R244), and its bytes are free values. -/
def lentGran (base tag i : Nat) (a : State × List Byte) : State × List Byte :=
  match (readGran lenderAgent (base / 64 + i)).go a.1 with
  | (.ok d, s) => (s, a.2 ++ d)
  | (.error f, s) => (s.accError lenderAgent f, a.2 ++ (List.range 64).map fun k => Config.poisonedPage tag (64 * i + k))

/-- The page that a lender sends, granule by granule at their controllers. -/
def State.lentPage (s : State) (l : Lent) (page tag : Nat) : State × List Byte :=
  (List.range 64).foldl (fun a i => lentGran (l.base + page * 4096) tag i a) (s, [])

/-- LENT_READ (R232). -/
def execLentRead (f : Frame) (lease page tag : Nat) (s : State) : Host.Outcome State Fault Refusal :=
  match s.receiveAny f 7 (lentReadBody lease page tag) with
  | (s, false) => .next s
  | (s, true) =>
    match s.lentCheck f lease page with
    | (0, some l) =>
      let (s, data) := s.lentPage l page tag
      .next (s.respond f lease 0 tag (some data))
    | (r, _) => .next (s.leaseRefuse.respond f lease r tag none)

/-- Write the marked sectors of a page, each whole. -/
def State.putSectors (s : State) (base : Nat) (m : BitVec 64) (data : List Byte) : State :=
  (((List.range 64).filter fun i => m.getLsbD i).foldl
    (fun (a : State × List Byte) i =>
      (((writeGran lenderAgent (base / 64 + i) 0 (padTo 64 (a.2.take 64)) none).go a.1).2, a.2.drop 64)) (s, data)).1

/-- LENT_WRITE (R232). -/
def execLentWrite (f : Frame) (lease page tag : Nat) (sectors : BitVec 64) (data : List Byte) (s : State) :
    Host.Outcome State Fault Refusal :=
  match s.receiveAny f 8 (lentWriteBody lease page tag sectors data) with
  | (s, false) => .next s
  | (s, true) =>
    match s.lentCheck f lease page with
    | (0, some l) => .next ((s.putSectors (l.base + page * 4096) sectors data).respond f lease 0 tag none)
    | (r, _) => .next (s.leaseRefuse.respond f lease r tag none)

/-- LENT_CLAIM (R228). -/
def execLentClaim (f : Frame) (lease tag : Nat) (s : State) : Host.Outcome State Fault Refusal :=
  match s.receiveAny f 0xA (lentControlBody lease 0 tag) with
  | (s, false) => .next s
  | (s, true) =>
    match s.lentBy lease with
    | none => .next (s.respond f lease 1 tag none)
    | some l =>
      if l.claimant.isSome then .next (s.respond f lease 2 tag none)
      else if l.borrower ≠ f.srcDev then .next (s.respond f lease 3 tag none)
      else
        let claim (x : Lent) : Lent := if x.id = lease then { x with claimant := some (f.srcDev, f.srcInc) } else x
        .next (({ s with tiers := { s.tiers with lent := s.tiers.lent.map claim } }).respond f lease 0 tag none)

/-- LENT_RETURN (R230): the lender zeroes the range and ends the lease. -/
def execLentReturn (f : Frame) (lease tag : Nat) (s : State) : Host.Outcome State Fault Refusal :=
  match s.receiveAny f 0xA (lentControlBody lease 1 tag) with
  | (s, false) => .next s
  | (s, true) =>
    match s.lentCheck f lease 0 with
    | (0, some l) => .next ((s.endLease l).respond f lease 0 tag none)
    | (r, _) => .next (s.respond f lease r tag none)

/-- Bytes in a GiB. -/
def gib : Nat := 2 ^ 30

/-- Whether LEND_MEMORY's range breaks R227: beyond memory, overlapping a lease, or more than 640 GiB in all. -/
def State.badLend (s : State) (base size : Nat) : Bool :=
  Config.memBytes < base + size || (s.tiers.lent.any fun l => l.base < base + size && base < l.base + l.size) ||
  640 * gib < (s.tiers.lent.map (·.size)).sum + size

def lendOk (j : Job) : Bool :=
  fits (j.p 0) [(0, 40)] && fits (j.p 1) [(0, 10), (16, 14)] && (j.p 0).toNat % gib == 0 &&
  (j.p 0).toNat < Config.memBytes && 1 ≤ (j.p 1).field 0 10 && (j.p 1).field 0 10 ≤ 640

/-- Take a LEND_MEMORY further: the host gives up what it holds of the range (R319), then the range is zeroed and the lease
stands. A range that breaks R227 is a host error of device scope. -/
def State.lendRun (s : State) (j : JobRef) (x : Job) : State :=
  match (List.range 64).find? fun i => (s.lentBy i).isNone with
  | none => s.abortJob j dtNoResource
  | some id =>
    let base := (x.p 0).toNat
    let size := (x.p 1).field 0 10 * gib
    match s.cxl.heldIn base size with
    | [] =>
      let bad := s.badLend base size
      let s := s.zeroRange base size
      let l : Lent := { id, base, size, borrower := (x.p 1).field 16 14 }
      let s := (({ s with tiers := { s.tiers with lent := s.tiers.lent ++ [l] } }).relist).finishJob j stOk id 0
      if bad then s.wrecked .device else s
    | ls => ls.foldl (fun s l => s.sendSnoop l true) s

/-- The job that a run of its row starts or takes further. -/
def State.jobNow (s : State) (q : Nat) (mine : Job → Bool) : Option Job :=
  if !s.serving then none
  else match s.startJob q mine with
    | some x => some x
    | none => s.waitingJob q mine

/-- LEND_MEMORY (R227, R409). -/
def execLendMemory (q : QueueId) (s : State) : Host.Outcome State Fault Refusal :=
  .next <| s.runJob q.val (isOp 0x58) (fun s j x => if lendOk x then s.lendRun j x else s.abortJob j dtBadParam) State.lendRun

def revokeMine (x : Job) : Bool := x.opcode == 0x5A && (x.p 0).getLsbD 24
def returnMine (x : Job) : Bool := x.opcode == 0x5A && !(x.p 0).getLsbD 24

/-- RETURN_MEMORY_REVOKE (R231). -/
def execReturnMemoryRevoke (q : QueueId) (s : State) : Host.Outcome State Fault Refusal :=
  .next <| s.runOnce q.val revokeMine fun s j x =>
    if !fits (x.p 0) [(16, 6), (24, 1)] then s.abortJob j dtBadParam
    else
      match s.lentBy ((x.p 0).field 16 6) with
      | none => s.abortJob j dtWrongState
      | some l => (s.endLease l).finishJob j stOk 0 0

/-! ## The borrower (R228, R230) -/

/-- Claims that wait for a lender's answer. -/
def State.claims (s : State) : Nat :=
  ((List.range 64).map fun q =>
    ((s.queue q).jobs.filter fun x => x.opcode == 0x59 && x.phase = .running && !x.aux.isEmpty).length).sum

/-- BORROW_MEMORY (R228, R409): the claim goes to the lender. A lease claimed counts among the 64 while its answer is awaited. -/
def execBorrowMemory (q : QueueId) (s : State) : Host.Outcome State Fault Refusal :=
  .next <| s.runOnce q.val (isOp 0x59) fun s j x =>
    let c := (x.p 0).field 32 6
    let base := (x.p 1).toNat
    if !(fits (x.p 0) [(0, 14), (16, 6), (32, 6)] && fits (x.p 1) [(0, 48)] && base % 2 ^ 21 == 0 && c ≠ 0) then s.abortJob j dtBadParam
    else if s.model.res.isNone then s.abortJob j dtNoModel
    else if (s.ctx c).st ≠ .opened then s.abortJob j dtWrongState
    else if 64 ≤ s.tiers.borrowed.length + s.claims then s.abortJob j dtNoResource
    else
      let (s, tag) := s.newTag
      let lender := (x.p 0).field 0 14
      let lease := (x.p 0).field 16 6
      (s.setJob j fun x => { x with aux := [lender, lease, c, base, tag] }).sendMsg lender false 0xA (lentControlBody lease 0 tag)

/-- BORROW_TIMEOUT (R228): no answer within 10 ms. -/
def execBorrowTimeout (now : Nat) (q : QueueId) (s : State) : Host.Outcome State Fault Refusal :=
  let s := s.advanceTo now
  match s.waitingJob q.val (isOp 0x59) with
  | some x => if s.alive && 1000000 ≤ s.now - x.since then .next (s.abortJob ⟨q.val, x.seq⟩ 4) else .next s
  | none => .next s

/-- The BORROW_MEMORY that waits for an answer with this TAG. -/
def State.borrowBy (s : State) (tag : Nat) : Option (JobRef × Job) :=
  (List.range 64).findSome? fun q =>
    ((s.queue q).jobs.find? fun x => x.opcode == 0x59 && x.phase = .running && x.aux.getD 4 (2 ^ 32) == tag).map fun x => (⟨q, x.seq⟩, x)

/-- Whether a copy of a context that runs reads or writes a borrowed range (R230). -/
def State.copyTouches (s : State) (b : Borrowed) : Bool :=
  (List.range 64).any fun q => (s.queue q).ctx == b.ctx && (s.queue q).jobs.any fun x =>
    let meets (w : Word) : Bool := !w.getLsbD 63 && w.field 0 48 < b.base + b.size && b.base < w.field 0 48 + (x.p 2).field 0 40
    x.opcode == 0x50 && x.phase = .running && (meets (x.p 0) || meets (x.p 1))

/-- Take a borrowed lease one stage towards its return (R230): its steps end, its frames are written back, the return
goes out. The lease is gone from the list when it is done. -/
def State.returnStage (s : State) (lender lease : Nat) : State :=
  match s.tiers.borrowed.find? fun b => b.lender == lender && b.lease == lease with
  | none => s
  | some b =>
    match b.returning with
    | none => s
    | some seam =>
      let drop (s : State) : State :=
        ({ s with tiers := { s.tiers with borrowed := s.tiers.borrowed.filter fun x => !(x.lender == lender && x.lease == lease) } }).relist
      if b.poisoned then drop s
      else
        let stepsLeft := (List.range 8).any fun i =>
          let x := s.slot i
          x.phase ≠ .free && x.ctx == b.ctx && x.stepSeq ≤ seam
        let waits := s.tiers.waits.any fun w => w.tier == 3 && (s.ownerAgent w.owner).ctx == b.ctx && b.base ≤ w.addr && w.addr < b.base + b.size
        if stepsLeft || waits || s.copyTouches b then s
        else
          let pages := s.tiers.pool.filterMap fun e =>
            match e with
            | .frame l i p d _ _ z => if l = lender ∧ i = lease then some (p, d, z) else none
            | _ => none
          let s := pages.foldl (fun s (p, d, z) =>
            if z.isSome then s
            else if d = 0 then { s with tiers := s.tiers.dropFrame lender lease p }
            else s.writeBackFrame lender lease p) s
          if pages.any fun (_, d, z) => z.isSome || d ≠ 0 then s
          else
            let (s, tag) := s.newTag
            drop (s.sendMsg lender false 0xA (lentControlBody lease 1 tag))

/-- A RETURN_MEMORY that had begun ends before its lease has gone: the lease stands as before. -/
def State.dropReturn (s : State) (x : Job) : State :=
  let stay (b : Borrowed) : Borrowed :=
    if x.phase = .running ∧ returnMine x ∧ b.lender = (x.p 0).field 0 14 ∧ b.lease = (x.p 0).field 16 6 then { b with returning := none } else b
  { s with tiers := { s.tiers with borrowed := s.tiers.borrowed.map stay } }

/-- Begin the return of a lease. -/
def State.beginReturn (s : State) (lender lease : Nat) : State :=
  let mark (b : Borrowed) : Borrowed :=
    if b.lender = lender ∧ b.lease = lease ∧ b.returning.isNone then { b with returning := some s.pkg.seamCount } else b
  { s with tiers := { s.tiers with borrowed := s.tiers.borrowed.map mark } }

/-- RETURN_MEMORY goes on until its lease is gone; sectors lost with a lender give POISONED (R230, R236). -/
def State.returnRun (s : State) (j : JobRef) (lender lease : Nat) : State :=
  let lost := ((s.tiers.borrowed.find? fun b => b.lender == lender && b.lease == lease).map (·.lostDirty)).getD 0
  let s := s.returnStage lender lease
  if s.tiers.borrowed.any fun b => b.lender == lender && b.lease == lease then s
  else if 0 < lost then s.finishJob j stPoisoned lost 0
  else s.finishJob j stOk 0 0

/-- RETURN_MEMORY (R230, R409). -/
def execReturnMemory (q : QueueId) (s : State) : Host.Outcome State Fault Refusal :=
  let run (s : State) (j : JobRef) (x : Job) : State := s.returnRun j ((x.p 0).field 0 14) ((x.p 0).field 16 6)
  .next <| s.runJob q.val returnMine (fun s j x =>
    let lender := (x.p 0).field 0 14
    let lease := (x.p 0).field 16 6
    if !fits (x.p 0) [(0, 14), (16, 6), (24, 1)] then s.abortJob j dtBadParam
    else if !(s.tiers.borrowed.any fun b => b.lender == lender && b.lease == lease && b.returning.isNone) then s.abortJob j dtWrongState
    else run (s.beginReturn lender lease) j x) run

/-- Bytes that abandoned writes have left to a page (R234). -/
def Tiers.late (t : Tiers) (lender lease page : Nat) : List (Nat × List Byte) :=
  (t.lateWrites.filter fun w => w.1 == lender && w.2.1 == lease && w.2.2.1 == page).map fun w => w.2.2.2

/-- A frame's transfer ends: it holds a page's bytes, clean but for what abandoned writes leave dirty (R229, R234, R245). -/
def State.settleFrame (s : State) (lender lease page : Nat) (data : List Byte) : State :=
  let ws := s.tiers.late lender lease page
  let fill (e : PoolEntry) : PoolEntry := match e with | .frame l i p _ _ h _ => .frame l i p 0 data h none | e => e
  let t := s.tiers.onFrame lender lease page fun e => ws.foldl (fun e w => e.patch w.1 w.2) (fill e)
  let s := { s with tiers := { t with lateWrites := t.lateWrites.filter fun w => !(w.1 == lender && w.2.1 == lease && w.2.2.1 == page) } }
  match s.tiers.borrowed.find? fun b => b.lender == lender && b.lease == lease with
  | some b => s.putFrame b page 0 4096
  | none => s

/-- LENT_RESPONSE (R228 to R232, R235): the answer to a claim, a page fetch, a write-back or a return. -/
def State.lentAnswer (s : State) (f : Frame) (lease result tag : Nat) (data : Option (List Byte)) : State :=
  match s.borrowBy tag with
  | some (j, x) =>
    if result = 0 then
      let b : Borrowed := { lender := x.aux.getD 0 0, lease := x.aux.getD 1 0, ctx := x.aux.getD 2 0, base := x.aux.getD 3 0,
                            size := (Config.leaseGib (x.aux.getD 0 0) (x.aux.getD 1 0) % 640 + 1) * gib }
      (({ s with tiers := { s.tiers with borrowed := s.tiers.borrowed ++ [b] } }).relist).finishJob j stOk 0 0
    else s.abortJob j result
  | none =>
    if result = 1 ∨ result = 3 ∨ result = 4 then s.poisonLease f.srcDev lease
    else if result ≠ 0 then s
    else
      match s.tiers.tagged f.srcDev lease tag, data with
      | some (p, _), some bs => s.settleFrame f.srcDev lease p bs
      | some (p, bs), none =>
        if (s.tiers.late f.srcDev lease p).isEmpty then { s with tiers := s.tiers.dropFrame f.srcDev lease p }
        else s.settleFrame f.srcDev lease p bs
      | none, _ => s

end Sys2Proof.Machine
end

