-- ==== Sys2Proof/Machine/Ports.lean ====
section
/-! DEFINITION. Ports: states and failover (11 R286 to R289, R261), optical engine temperature (20 R481), glints sent
(11 R274, R276, 12 R304), and the end of bring-up (21 R496, stage 6). -/

namespace Sys2Proof.Machine

/-! ## Glints sent -/

/-- The glint interval in reference-clock periods (R304, R308). -/
def State.glintInterval (s : State) : Nat :=
  let sh := s.dim.cfgLive.field 8 5
  2 ^ (if sh = 0 then 14 else sh)

/-- The body of a glint (R274, R310). -/
def State.glintBody (s : State) : List Byte :=
  [packFields [((s.device).getD 0, 14), (0, 2), (s.devState.code, 4), (b2n (s.dimCause ≠ 0), 1), (s.dimCause, 2), (0, 9),
     (s.portMask.toNat, 16), (0, 16)],
   s.pkg.seamCount % 2 ^ 64, s.glintInterval % 2 ^ 32, 0].flatMap (leBytes 8)

/-- Send one glint to a device, on the working ports in turn (R276). A device that has sent none yet has no PORTS mask:
every port that is UP counts as common. No glint goes to an incarnation presumed lost (R307). -/
def State.sendGlint (s : State) (dev : Nat) : State :=
  if s.fab.cfgLive.isNone || !s.alive then s
  else
    match s.peer? dev with
    | some p =>
      if p.lost then s
      else
        let ring := ((List.range 16).map fun i => (p.glintPtr + 1 + i) % 16).filter fun i => (s.port i).st = .up && p.ports.getLsbD i
        (match ring with
         | [] => s
         | i :: _ => (s.setPeer dev fun p => { p with glintPtr := i }).queueFrame i ⟨dev, 0xB, false, 0, false, s.glintBody⟩)
    | none =>
      let up := (List.range 16).filter fun i => (s.port i).st = .up
      match up[(s.now / s.glintInterval) % up.length]? with
      | none => s
      | some i => s.queueFrame i ⟨dev, 0xB, false, 0, false, s.glintBody⟩

/-- Send one glint to every peer. -/
def State.sendGlints (s : State) : State := s.peerList.foldl State.sendGlint s

/-! ## Bring-up ends (R496, R500) -/

/-- A mask over ports. -/
def State.portsWith (s : State) (p : Port → Bool) : Nat := ((List.range 16).filter fun i => p (s.port i)).foldl (fun m i => m + 2 ^ i) 0

/-- The last port has left its first training: DEV_STATE reads READY and BRINGUP_COMPLETE is written; its times are
rounded to nearest even (R180). -/
def State.bringupReady (s : State) : State :=
  if s.pkg.stage ≠ .ports || !s.alive || (List.range 16).any (fun i => !(s.port i).trained) then s
  else
    let s := { s with pkg := { s.pkg with stage := .service, ruReserved := false, readyPin := .high, broughtUp := true } }
    let times := [s.boot.tVerified, s.boot.tLink, s.boot.tStacks, s.boot.tSelfCheck, s.now].flatMap fun t => leBytes 4 (nearest t 1000)
    let masks := [s.portsWith (·.st = .up), s.portsWith (·.laserLow), s.hbm.report.length].flatMap (leBytes 2)
    let link := leBytes 1 s.cxl.width ++ leBytes 1 s.cxl.rate ++ leBytes 4 0
    s.recordEvent { code := 0x70, payload := times ++ masks ++ link ++ s.regions.toList.flatMap fun r => leBytes 2 r.vBase }

/-! ## Port states (R286, R288) -/

/-- Whether the transmit lanes of a port carry light (R286, R481, R499): dark in reset, before first port training, while DISABLED or while
its engine is HOT, and once the package has failed. -/
def State.lit (s : State) (port : Nat) : Bool :=
  s.alive && (s.pkg.stage = .ports || s.pkg.stage = .service) && (s.port port).st ≠ .disabled && !(s.port port).oeDark

/-- A port changes state: the change is recorded, its queued frames go back to spraying, and a change of the PORTS mask
sends an extra glint to every peer. -/
def State.movePort (s : State) (p : Nat) (new : PortState) : State :=
  let old := (s.port p).st
  if old = new then s
  else
    let was := s.portMask
    let s := s.setPort p fun x =>
      { x with st := new, since := s.now, downEvents := if old = .up then x.downEvents + 1 else x.downEvents,
               laneFault := if new = .up then 0 else x.laneFault, trained := x.trained || old = .training }
    let s := s.recordPort p old.code new.code (s.port p).laneFault.toNat
    let s := if old = .up then s.returnFrames p else s
    let s := if new = .up then s.sprayAll else s
    (if s.portMask ≠ was then s.sendGlints else s).bringupReady

/-- The ports that are still in their first training go DOWN (R496, stage 5). -/
def State.endTraining (s : State) : State :=
  (List.range 16).foldl (fun s p => if (s.port p).st = .training && !(s.port p).trained then s.movePort p .down else s) s

/-- Time passes up to `now`; 50 ms after the self-check the first training of every port is over (R496, stage 5). -/
def State.portTime (s : State) (now : Nat) : State :=
  let limit := s.boot.tSelfCheck + 50 * Config.ms
  if s.alive && s.pkg.stage = .ports && limit < now then (s.advanceTo limit).endTraining.advanceTo now else s.advanceTo now

/-- A tick: one period of the reference clock passes, and a host error of device or system scope goes on (R5). -/
def State.tick (s : State) : State := (s.portTime (s.now + 1)).stray

/-- Whether ports are in service or in their first training. -/
def State.portsLive (s : State) : Bool := s.alive && (s.pkg.stage = .ports || s.pkg.stage = .service)

/-- Whether a port carries or awaits light: neither DISABLED nor DOWN. -/
def Port.lit (p : Port) : Bool := p.st ≠ .disabled && p.st ≠ .down

/-- LASER_POWER_READING (R261), every 1 ms, in hundredths of a dBm. -/
def execLaserPowerReading (now : Nat) (p : PortId) (centiDbm : Int) (s : State) : Host.Outcome State Fault Refusal :=
  let s := s.portTime now
  if !s.portsLive || !isDue Config.ms (s.port p.val).laserAt s.now then .next s
  else
    let s := s.setPort p.val fun x =>
      { x with laserAt := s.now, laserLow := if centiDbm < 1600 then true else if 1650 ≤ centiDbm then false else x.laserLow }
    .next (if centiDbm < 1600 && (s.port p.val).lit then s.movePort p.val .down else s)

/-- PORT_TRAINING_DONE (R286): alignment and lock, or failure; a port without light, or whose engine is dark, fails. -/
def execPortTrainingDone (now : Nat) (p : PortId) (ok : Bool) (s : State) : Host.Outcome State Fault Refusal :=
  let s := s.portTime now
  let x := s.port p.val
  if !s.portsLive || x.st ≠ .training then .next s
  else .next (s.movePort p.val (if ok && !x.laserLow && !x.oeDark then .up else .down))

/-- LANE_FAULT (R286, R287): the lanes are noted, and the port goes DOWN. -/
def execLaneFault (now : Nat) (p : PortId) (lanes : BitVec 8) (s : State) : Host.Outcome State Fault Refusal :=
  let s := s.portTime now
  let x := s.port p.val
  if !s.portsLive || x.st = .disabled then .next s
  else
    let s := s.setPort p.val fun x => { x with laneFault := x.laneFault ||| lanes }
    .next (if x.st = .up || x.st = .degraded then s.movePort p.val .down else s)

/-- UNCORRECTABLE_CODEWORD (R286): an UP port becomes DEGRADED; a DEGRADED one starts its 100 ms afresh. -/
def execUncorrectableCodeword (now : Nat) (p : PortId) (s : State) : Host.Outcome State Fault Refusal :=
  let s := s.portTime now
  let x := s.port p.val
  if !s.portsLive || !(x.st = .up || x.st = .degraded) then .next s
  else
    let s := s.setPort p.val fun x => { x with fecUncorrectable := x.fecUncorrectable + 1 }
    .next (if x.st = .up then s.movePort p.val .degraded else s.setPort p.val fun x => { x with since := s.now })

/-- DEGRADED_TIMER (R286): 100 ms without an uncorrectable codeword. -/
def execDegradedTimer (now : Nat) (p : PortId) (s : State) : Host.Outcome State Fault Refusal :=
  let s := s.portTime now
  let x := s.port p.val
  if s.portsLive && x.st = .degraded && 100 * Config.ms ≤ s.now - x.since then .next (s.movePort p.val .up) else .next s

/-- RETRAIN_TIMER (R286): a DOWN port retrains every 10 ms. -/
def execRetrainTimer (now : Nat) (p : PortId) (s : State) : Host.Outcome State Fault Refusal :=
  let s := s.portTime now
  let x := s.port p.val
  if s.portsLive && x.st = .down && 10 * Config.ms ≤ s.now - x.since then .next (s.movePort p.val .training) else .next s

/-! ## Optical engines (R481) -/

/-- Darken or light an engine's four ports. -/
def State.darken (s : State) (e : Nat) (dark : Bool) : State :=
  (List.range 4).foldl (fun s k =>
    let p := 4 * e + k
    let s := s.setPort p fun x => { x with oeDark := dark }
    if dark && (s.port p).lit && s.portsLive then s.movePort p .down else s) s

def State.setOe (s : State) (e : Nat) (f : OptEngine → OptEngine) : State := { s with oes := vmod s.oes (ix 4 e) f }

/-- Whether a temperature reading in 1/16 °C is valid (R478, R253). -/
def tempOk (t : Int) : Bool := -640 ≤ t && t ≤ 2400

/-- The OE_HOT record (R485). -/
def State.recordHot (s : State) (e temp : Nat) : State := s.recordEvent { code := 0x52, payload := leBytes 2 e ++ leBytes 2 temp }

/-- OE_TEMP_READING (R481), every 1 ms: HOT above 95 °C until 90 °C; an engine whose sensor becomes faulted enters HOT, with the field that
a faulted sensor reads (R484), and leaves it by a valid reading as any other does. -/
def execOeTempReading (now : Nat) (e : EngineId) (reading : Option Int) (s : State) : Host.Outcome State Fault Refusal :=
  let s := s.advanceTo now
  if !s.alive || !isDue Config.ms s.oes[e].readAt s.now then .next s
  else
    let x := s.oes[e]
    match reading.filter tempOk with
    | none =>
      let becomes := x.bad + 1 = 3 && !x.fault
      let s := s.setOe e.val fun x => { x with bad := x.bad + 1, fault := x.fault || becomes, hot := x.hot || becomes, readAt := s.now }
      if becomes then
        let s := s.recordEvent { code := 0x51, payload := leBytes 4 (1 + e.val * 16) }
        .next ((if x.hot then s else s.recordHot e.val 0x8000).darken e.val true)
      else .next s
    | some t =>
      let hot := 1520 < t || (x.hot && 1440 < t)
      let s := s.setOe e.val fun x => { x with temp := t, tempMax := max x.tempMax t, bad := 0, fault := false, hot := hot, readAt := s.now }
      let s := if hot && !x.hot then s.recordHot e.val (twos 16 t) else s
      .next (s.darken e.val hot)

end Sys2Proof.Machine
end

