-- ==== Sys2Proof/Machine/Staging.lean ====
section
/-! DEFINITION. What waits for a seam (02 R42, R62 to R66), and the staging of a value. -/

namespace Sys2Proof.Machine

/-- An item, if it waits. -/
def WaitItem.if (b : Bool) (i : WaitItem) : List WaitItem := if b then [i] else []

/-- Reflections whose other slot holds a push or an answer wait for a seam (R131). -/
def ReflSet.waiting (r : ReflSet) : List WaitItem := (r.held.filter (·.written)).map fun x => .push x.table x.row

/-- What a table lets wait for a seam. -/
def Table.waiting (t : Table) : List WaitItem :=
  WaitItem.if (t.swap = .staged) (.swap t.desc.id) ++ WaitItem.if t.releaseStaged (.release t.desc.id)

/-- The staged values, epochs ready for application and received reflection pushes that wait for a seam (R42, R67, R153). -/
def State.waitItems (s : State) : List WaitItem :=
  WaitItem.if s.fab.cfgStaged.isSome .ports ++ WaitItem.if s.dim.cfgStaged.isSome .dim ++ WaitItem.if s.dim.paceStaged.isSome .pace ++
  WaitItem.if s.dim.drainStaged.isSome .drain ++ WaitItem.if s.sched.brimStaged.isSome .brim ++
  WaitItem.if (!s.tabs.mapStaged.isEmpty) .map ++ WaitItem.if s.model.setStaged.isSome .set ++
  WaitItem.if s.tabs.reflStaged.isSome .reflections ++
  ((List.range 8).filter fun r => s.regions[ix 8 r].ceilStaged.isSome || s.regions[ix 8 r].shadeStaged.isSome).map WaitItem.limits ++
  ((List.range 64).filter fun c => (s.ctx c).gridStaged.isSome).map WaitItem.grid ++
  s.tabs.tables.flatMap Table.waiting ++ (s.tabs.refl.map ReflSet.waiting).getD [] ++
  (s.upd.epochs.filter (·.ready)).map fun e => .epoch e.num

/-- Whether something waits for a seam. -/
def State.seamWaiting (s : State) : Bool := !s.waitItems.isEmpty

/-- When an item that waits arrived. -/
def Sched.arrival (c : Sched) (i : WaitItem) : Option Nat := (c.arrivals.find? (·.1 == i)).map (·.2)

/-- When the first of the items that wait arrived (R42). -/
def State.waitingSince (s : State) : Option Nat :=
  match s.waitItems.filterMap s.sched.arrival with
  | [] => none
  | t :: ts => some (ts.foldl Nat.min t)

/-- Change what waits for a seam: an item that did not wait before arrives now (R42). A setting whose staged value is replaced waits
on from its first arrival (DESIGN CHOICE, assumption 56: the item is the setting). -/
def State.staged (s : State) (f : State → State) : State :=
  let s' := f s
  let before := s.waitItems
  let arrive (i : WaitItem) : WaitItem × Nat :=
    (i, if before.contains i then (s.sched.arrival i).getD s.now else s.now)
  { s' with sched := { s'.sched with arrivals := s'.waitItems.map arrive } }

/-- Whether a command that started after job `j` has staged a setting: of commands that stage one setting the one accepted last wins, and
they are accepted in the order in which they start, though one that waits for the host may come to its staging later (R66, R370). `n`
tells the tables of a map apart. -/
def State.overruled (s : State) (j : JobRef) (i : WaitItem) (n : Nat) : Bool :=
  match s.job? j, s.sched.stagers.find? (·.1 == (i, n)) with
  | some x, some e => x.start < e.2
  | _, _ => false

/-- Note which command has staged a setting. -/
def State.stagedBy (s : State) (j : JobRef) (i : WaitItem) (n : Nat) : State :=
  { s with sched := { s.sched with stagers :=
      ((i, n), ((s.job? j).map (·.start)).getD 0) :: s.sched.stagers.filter (·.1 ≠ (i, n)) } }

/-- A command stages a setting, unless a later one has. -/
def State.stageFor (s : State) (j : JobRef) (i : WaitItem) (f : State → State) : State :=
  if s.overruled j i 0 then s else (s.staged f).stagedBy j i 0

/-- The number of the seam at which a value staged now becomes live, as R64 reports it. -/
def State.nextSeam (s : State) : Nat := s.pkg.seamCount + 1

/-- Complete a staging command (R64). -/
def State.finishStaged (s : State) (j : JobRef) : State := s.finishJob j stOk s.nextSeam 0

/-- A staged value; equal to the live one it cancels the pending change (R66). -/
def stageValue {α : Type} [DecidableEq α] (live new : α) : Option α := if new = live then none else some new

end Sys2Proof.Machine
end

