-- ==== Sys2Proof/Machine/Contexts.lean ====
section
/-! DEFINITION. Contexts: opening, discarding of steps, ABORT_QUEUE, CLOSE_CONTEXT (16 R390, R391; 17; 15 R380), and
fences (15 R378, R379). -/

namespace Sys2Proof.Machine

/-! ## Ending jobs and steps -/

/-- The counts word that a job's record carries when it is ended before its end: a step's is written all the same (R302); an
UPDATE_ROWS holds the records taken (R406), an ATTEST its quotes and leaves (R412). -/
def State.countsOf (s : State) (j : JobRef) : Nat :=
  match s.stepSlot j, s.job? j with
  | some i, _ => ((s.slot i).step.map Step.counts).getD 0
  | none, some x => if x.opcode = 0x38 then x.aux.getD 1 0 else if x.opcode = 0x78 then s.quoteCounts else 0
  | none, none => 0

/-- Abandon what an owner has outstanding with the host and on the tiers. -/
def State.dropOwner (s : State) (p : Owner → Bool) : State :=
  let s := (s.closeWaits fun w => p w.owner).endPartials p
  let gone (r : HostReq) : Bool := p r.owner && r.kind = .page && r.len = 0
  let mark (r : HostReq) : HostReq := if p r.owner && r.kind ≠ .write then { r with abandoned := true } else r
  { s with xlat := { s.xlat with reqs := (s.xlat.reqs.filter (!gone ·)).map mark } }

/-- Abandon what a job has outstanding; its held-page entries go with its last transfer (R348), but for a teardown, which leaves the
context its translations until CLOSE_CONTEXT (R423). -/
def State.dropWork (s : State) (j : JobRef) (keep : Bool := false) : State :=
  let s := s.dropOwner fun o => o.job? == some j
  if keep then s else s.leaveHeld j

/-- A STRICT stall ends: it is counted once, with its length (R299). -/
def State.endStall (s : State) (i : Nat) : State :=
  match (s.slot i).step.bind (·.strictSince) with
  | none => s
  | some t =>
    let g := s.strag
    let s := { s with strag := { g with strictStalls := g.strictStalls + 1, strictStallTime := g.strictStallTime + (s.now - t) } }
    s.setSlot i fun x => { x with strictWait := false, step := x.step.map fun st => { st with strictSince := none } }

/-- A default row has taken the entry's place. -/
def Entry.isDflt (e : Entry) : Bool := e.answer == some .dflt

/-- A row line of the staging cache loses one use; at zero it leaves (R105, R223). -/
def dropUse (pool : List PoolEntry) (u : LineTag) : List PoolEntry :=
  pool.filterMap fun e =>
    match e with
    | .row r t bs n => if t = u then (if n ≤ 1 then none else some (.row r t bs (n - 1))) else some e
    | e => some e

/-- A step leaves LOOKUP: the row lines that it was to read each lose one use (R105). -/
def State.releaseUses (s : State) (i : Nat) : State :=
  let us := ((s.slot i).step.map (·.uses)).getD []
  let s := { s with tiers := { s.tiers with pool := us.foldl dropUse s.tiers.pool } }
  s.setSlot i fun x => { x with step := x.step.map fun st => { st with uses := [] } }

/-- Answers that may still come for an entry that has one. -/
def Entry.late (e : Entry) : List LateReq :=
  if e.answer.isNone then [] else (e.reqs.filter fun r => !e.done.contains r).map fun r => ⟨r, e.row, e.sample, e.isDflt⟩

/-- Answers that come from now on for a slot's entries are told apart without the slot (R60, R297). -/
def State.keepLate (s : State) (i : Nat) : State :=
  let es := ((s.slot i).step.map (·.entries)).getD []
  { s with tabs := { s.tabs with late := s.tabs.late ++ es.flatMap Entry.late } }

/-- A step goes to DISCARD (R46, R299, R422). -/
def State.discardStep (s : State) (i : Nat) : State :=
  let x := s.slot i
  if x.phase = .free || x.phase = .discard then s
  else
    let s := ((s.endStall i).releaseUses i).keepLate i
    let mine (o : Owner) : Bool := match o with
      | .dma c => (s.cl c).owner == .step i
      | .push _ j => (x.step.map (·.job)) == some j
      | .job _ => false
    (s.dropOwner mine).setSlot i fun x => { x with phase := .discard }

/-- A job stops being its class's candidate (R426). -/
def State.unpick (s : State) (j : JobRef) : State :=
  let drop (p : Option JobRef) : Option JobRef := if p = some j then none else p
  { s with sched := { s.sched with rtPick := drop s.sched.rtPick, normPick := drop s.sched.normPick } }

/-- A SWAP_VERSION that waited for its rebuild stages nothing (R159). -/
def State.dropSwap (s : State) (j : JobRef) : State :=
  let f (t : Table) : Table := if t.swap = .waiting j then { t with swap := .none } else t
  { s with tabs := { s.tabs with tables := s.tabs.tables.map f } }

/-- A load or unload begins or ends its wait for contexts: DEV_STATE follows at once, the dim cause at the next seam
(R309, R498). -/
def State.setDrain (s : State) (b : Bool) : State :=
  s.staged fun s => { s with pkg := { s.pkg with draining := b }, dim := { s.dim with drainStaged := stageValue s.dim.drainLive b } }

/-- A load or unload that is ended gives up its wait or its copy (R392, R393), a RETURN_MEMORY its return. -/
def State.endModelJob (s : State) (j : JobRef) : State :=
  match s.job? j with
  | none => s
  | some x =>
    let s := s.dropReturn x
    if (x.opcode = 0x10 || x.opcode = 0x11) && x.phase = .running then
      let s := if s.pkg.draining then s.setDrain false else s
      { s with pkg := { s.pkg with loading := false } }
    else s

/-- Whether the live configuration puts a port in service; before one is live every port is trained as if enabled
(R267, R496). -/
def State.portEnabled (s : State) (p : Nat) : Bool :=
  match s.fab.cfgLive with
  | none => true
  | some c => c.enable.getLsbD p

/-- A LINK_TEST ends: each tested port goes to TRAINING or stays DISABLED (R286, R415). -/
def State.endTest (s : State) (j : JobRef) : State :=
  match s.fab.test with
  | none => s
  | some t =>
    if t.job ≠ j then s
    else
      ((List.range 16).filter fun p => t.ports.getLsbD p).foldl (fun s p =>
        let s := s.setPort p fun x => { x with testing := false }
        if s.portEnabled p then s.movePort p .training else s) { s with fab := { s.fab with test := none } }

/-- What an ended job leaves behind is given up. -/
def State.releaseJob (s : State) (j : JobRef) (keep : Bool := false) : State := ((s.dropWork j keep).unpick j).dropSwap j

/-- End a job without an error: its step, if it is one, goes to DISCARD. -/
def State.endJob (s : State) (j : JobRef) (status detail : Nat) : State :=
  let c := s.countsOf j
  let s := (((s.endModelJob j).endTest j).finishJob j status detail c).releaseJob j
  match s.stepSlot j with
  | some i => s.discardStep i
  | none => s

/-- The status and detail that an error of a class gives a job: a CLUSTER_HUNG of its step that was handled before another
step-class error has fixed them (R438, R440). -/
def State.statusBy (s : State) (j : JobRef) (cls status detail : Nat) : Nat × Nat :=
  let hung := match s.stepSlot j with
    | some i => ((s.slot i).step.map (·.hungFirst)).getD false
    | none => false
  if cls = 1 && hung then (stAborted, dtClusterHung) else (status, detail)

/-- End a job by an error of a class (R440). -/
def State.failJob (s : State) (j : JobRef) (cls status detail : Nat) : State :=
  let c := s.countsOf j
  let (status, detail) := s.statusBy j cls status detail
  let s := (s.endModelJob j).endTest j
  let s := (s.setJob j fun x => Job.fail cls status detail (if x.ended then x else { x with counts := c })).releaseJob j (cls == 2)
  match s.stepSlot j with
  | some i => s.discardStep i
  | none => s

/-- Jobs of a queue that have not ended, in sequence order. -/
def Queue.openSeqs (x : Queue) : List Nat := (x.jobs.filter fun j => !j.ended).map (·.seq)

/-- Give up the entries of a command that is only partly fetched: FETCH goes back to its first slot. -/
def Queue.rewind (x : Queue) : Queue :=
  match x.part with
  | none => { x with backoff := none }
  | some (f, g, _) => { x with part := none, backoff := none, fetch := f, gen := g }

/-! ## ABORT_QUEUE (R380) -/

/-- Submitted slots that are not fetched are skipped: FETCH moves to the latched tail. -/
def Queue.skip (x : Queue) : Queue :=
  let gen := if x.tail < x.fetch then (if x.gen = 255 then 1 else x.gen + 1) else x.gen
  { x with fetch := x.tail, gen := gen, part := none, backoff := none }

/-- Abort a queue, but for one job of its own: the number of jobs aborted. A RUN_SEQUENCE that has been fetched is expanded
first. -/
def State.abortQueue (s : State) (q : Nat) (self : Option Nat) : State × Nat :=
  let s := s.expandNow q
  let seqs := ((s.queue q).openSeqs).filter fun n => some n ≠ self
  let s := seqs.foldl (fun s n => s.endJob ⟨q, n⟩ stAborted dtEndedByHost) s
  let stop (x : Queue) : Queue := if x.st = .unbound then x else { x.skip with st := .stopped, cause := 2 }
  (s.setQueue q stop, seqs.length)

/-- Whether the records of a queue's jobs below a sequence number are all written. -/
def Queue.writtenBelow (x : Queue) (n : Nat) : Bool := x.jobs.all fun j => n ≤ j.seq || j.phase = .written

/-- ABORT_QUEUE completes once the records of the aborted jobs are written. -/
def State.abortRun (s : State) (j : JobRef) (x : Job) : State :=
  if (s.queue (x.aux.getD 0 0)).writtenBelow (x.aux.getD 2 0) then s.finishJob j stOk (x.aux.getD 1 0) 0 else s

/-- Take an ABORT_QUEUE as far as it can go. -/
def State.abortStart (s : State) (j : JobRef) (x : Job) : State :=
  let t := (x.p 0).field 0 6
  if !fits (x.p 0) [(0, 6)] then s.abortJob j dtBadParam
  else if j.q ≠ 0 && s.ctxOf t ≠ s.ctxOf j.q || (j.q ≠ 0 && (s.queue t).st = .unbound) then s.abortJob j dtWrongState
  else
    let (s, n) := s.abortQueue t (if t = j.q then some j.seq else none)
    let upTo := if t = j.q then j.seq else (s.queue t).nextSeq
    let s := s.setJob j fun x => { x with aux := [t, n, upTo] }
    match s.job? j with
    | some x => s.abortRun j x
    | none => s

/-- ABORT_QUEUE (R380, R408). -/
def execAbortQueue (q : QueueId) (s : State) : Host.Outcome State Fault Refusal :=
  .next <| s.runJob q.val (isOp 0x7F) State.abortStart State.abortRun

/-! ## OPEN_CONTEXT and CLOSE_CONTEXT (R390, R391, R418) -/

/-- Queues that a bit mask names. -/
def queuesOf (m : Word) : List Nat := (List.range 64).filter fun i => m.getLsbD i

/-- OPEN_CONTEXT (R390). -/
def execOpenContext (q : QueueId) (s : State) : Host.Outcome State Fault Refusal :=
  .next <| s.runOnce q.val (isOp 0x02) fun s j x =>
    let c := (x.p 0).field 0 6
    let qs := queuesOf (x.p 2)
    if !(fits (x.p 0) [(0, 6), (8, 20)] && fits (x.p 1) [(0, 40)]) || c = 0 || (x.p 1).toNat % 4096 ≠ 0 || qs.contains 0 then
      s.abortJob j dtBadParam
    else if (s.ctx c).st ≠ .closed || qs.any (fun i => (s.queue i).st ≠ .unbound) then s.abortJob j dtWrongState
    else
      let new : Ctx := { st := .opened, pasid := (x.p 0).field 8 20, root := (x.p 1).toNat, grid := Grid.default }
      let s := s.setCtx c fun _ => new
      let s := qs.foldl (fun s i => s.setQueue i (Queue.fresh c)) s
      s.finishJob j stOk 0 0

/-- Queues bound to a context. -/
def State.queuesFor (s : State) (c : Nat) : List Nat :=
  (List.range 64).filter fun q => (s.queue q).st ≠ .unbound && (s.queue q).ctx == c

/-- Borrowed leases of a context. -/
def State.leasesOf (s : State) (c : Nat) : List Borrowed := s.tiers.borrowed.filter (·.ctx == c)

/-- Take the return of a context's leases further: the dirty sectors that were lost are added up (R230, R391). -/
def State.closeLeases (s : State) (j : JobRef) (c : Nat) : State :=
  (s.leasesOf c).foldl (fun s b =>
    let s := s.beginReturn b.lender b.lease
    let lost := ((s.tiers.borrowed.find? fun x => x.lender == b.lender && x.lease == b.lease).map (·.lostDirty)).getD 0
    let s := s.returnStage b.lender b.lease
    if s.tiers.borrowed.any fun x => x.lender == b.lender && x.lease == b.lease then s
    else s.setJob j fun x => { x with aux := [x.aux.getD 0 0, x.aux.getD 1 0 + lost] }) s

/-- The last actions of CLOSE_CONTEXT: sequences, translations and bindings go, and the context is CLOSED. -/
def State.closeEnd (s : State) (j : JobRef) (c : Nat) : State :=
  let pasid := (s.ctx c).pasid
  let s := { s with seqs := s.seqs.filter (·.ctx ≠ c)
                    xlat := { s.xlat with held := s.xlat.held.filter (·.pasid ≠ pasid), atc := s.xlat.atc.filter (·.pasid ≠ pasid) } }
  let s := s.dropTlb c
  let unbind (x : Queue) : Queue := { x with st := .unbound, cause := 0 }
  let s := (s.queuesFor c).foldl (fun s q => s.setQueue q unbind) s
  let s := s.setCtx c fun x => { x with st := .closed, gridStaged := none }
  match s.job? j with
  | none => s
  | some x =>
    let lost := x.aux.getD 1 0
    s.finishJob j (if 0 < lost then stPoisoned else stOk) (x.aux.getD 0 0) lost

/-- CLOSE_CONTEXT goes on: records and slots, then leases, then the rest. An error of the context that waits for its handling
is handled first (DEDUCED: the command processor takes one error at a time, R439). -/
def State.closeRun (s : State) (j : JobRef) (x : Job) : State :=
  let c := (x.p 0).field 0 6
  let jobsLeft := (s.queuesFor c).any fun q => !(s.queue q).writtenBelow (s.queue q).nextSeq
  let slotsLeft := (List.range 8).any fun i => (s.slot i).phase ≠ .free && (s.slot i).ctx == c
  if jobsLeft || slotsLeft || s.errorsOf c 1 then s
  else
    let s := s.closeLeases j c
    if (s.leasesOf c).isEmpty then s.closeEnd j c else s

/-- Begin a CLOSE_CONTEXT: every queue of the context is aborted. A context that is not open, nor torn down, is in the
wrong state (R386, R390, R418). -/
def State.closeStart (s : State) (j : JobRef) (x : Job) : State :=
  let c := (x.p 0).field 0 6
  if !fits (x.p 0) [(0, 6)] || c = 0 then s.abortJob j dtBadParam
  else if (s.ctx c).st = .closed then s.abortJob j dtWrongState
  else
    let (s, n) := (s.queuesFor c).foldl (fun (a : State × Nat) q =>
      let (s, m) := a.1.abortQueue q none
      (s, a.2 + m)) (s, 0)
    (s.setJob j fun x => { x with aux := [n, 0] }).closeRun j x

/-- CLOSE_CONTEXT (R391). -/
def execCloseContext (q : QueueId) (s : State) : Host.Outcome State Fault Refusal :=
  .next <| s.runJob q.val (isOp 0x03) State.closeStart State.closeRun

/-! ## Fences (R378, R379) -/

def State.fence (s : State) (f : Nat) : Nat := s.regs.fences[ix 256 f]

/-- End a FENCE_WAIT whose fence has reached its target. -/
def State.waitRun (s : State) (j : JobRef) (x : Job) : State :=
  if (x.p 1).toNat ≤ s.fence ((x.p 0).field 0 8) then s.finishJob j stOk 0 0 else s

/-- End every wait on a fence that its value satisfies. -/
def State.endWaits (s : State) (f : Nat) : State :=
  (List.range 64).foldl (fun s q =>
    ((s.queue q).jobs.filter fun x => x.opcode == 0x41 && x.phase = .running && (x.p 0).field 0 8 == f).foldl
      (fun s x => s.waitRun ⟨q, x.seq⟩ x) s) s

/-- A fence rises to `v`, if `v` is greater (R378). -/
def State.raiseFence (s : State) (f v : Nat) : State :=
  if s.fence f < v then ({ s with regs := { s.regs with fences := vmod s.regs.fences (ix 256 f) fun _ => v } }).endWaits f else s

/-- FENCE_SIGNAL waits for the records of the earlier jobs of its queue. -/
def State.signalRun (s : State) (j : JobRef) (x : Job) : State :=
  if !(s.queue j.q).writtenBelow j.seq then s
  else
    let f := (x.p 0).field 0 8
    let s := s.raiseFence f (x.p 1).toNat
    s.finishJob j stOk (s.fence f) 0

/-- FENCE_SIGNAL (R378, R408). -/
def execFenceSignal (q : QueueId) (s : State) : Host.Outcome State Fault Refusal :=
  .next <| s.runJob q.val (isOp 0x40)
    (fun s j x => if fits (x.p 0) [(0, 8)] then s.signalRun j x else s.abortJob j dtBadParam) State.signalRun

/-- FENCE_WAIT (R379, R408). -/
def execFenceWait (q : QueueId) (s : State) : Host.Outcome State Fault Refusal :=
  .next <| s.runJob q.val (isOp 0x41)
    (fun s j x => if fits (x.p 0) [(0, 9), (32, 32)] then s.waitRun j x else s.abortJob j dtBadParam) State.waitRun

/-- A queue stops with STOP_CAUSE WAIT_EXPIRED: every later job already fetched completes with ABORTED (R379). -/
def State.expireStop (s : State) (q seq : Nat) : State :=
  let s := s.expandNow q
  let later := ((s.queue q).openSeqs).filter fun n => seq < n
  let s := later.foldl (fun s n => s.endJob ⟨q, n⟩ stAborted dtEndedByHost) s
  s.setQueue q fun x => { x.rewind with st := .stopped, cause := 3 }

/-- FENCE_WAIT_EXPIRY (R379). -/
def execFenceWaitExpiry (now : Nat) (q : QueueId) (s : State) : Host.Outcome State Fault Refusal :=
  let s := s.advanceTo now
  match s.waitingJob q.val (isOp 0x41) with
  | none => .next s
  | some x =>
    let limit := (x.p 0).field 32 32 * Config.us
    let v := s.fence ((x.p 0).field 0 8)
    if !s.alive || limit = 0 || s.now - x.since < limit then .next s
    else
      let s := s.finishJob ⟨q.val, x.seq⟩ stWaitExpired v 0
      .next (if (x.p 0).getLsbD 8 then s.expireStop q.val x.seq else s)

end Sys2Proof.Machine
end

