-- ==== Sys2Proof/Machine/Model.lean ====
section
/-! DEFINITION. The resident model: the container and its checks (16 R395 to R399), LOAD_MODEL, UNLOAD_MODEL and
SWAP_DENSE_SET (R392 to R394), and the source reads that jobs share. -/

namespace Sys2Proof.Machine

/-! ## Sources of jobs (R335, R347) -/

/-- What a job has read of a structure or a source on the package. -/
def State.recall (s : State) (j : JobRef) (key : Nat × Nat × Nat) : Option (List Byte) :=
  ((s.job? j).bind fun x => x.reads.find? (·.1 == key)).map (·.2)

/-- A job keeps what it has read: the rest of it works on that, however long it waits (R387). -/
def State.remember (s : State) (j : JobRef) (key : Nat × Nat × Nat) (bs : List Byte) : State :=
  s.setJob j fun x => { x with reads := (key, bs) :: x.reads }

/-- The data that a job's address word names: from device memory by its DMA engines, or from host memory by a bulk
transfer. They are read once (R387), and the rest runs once they are there. -/
def State.withSource (s : State) (j : JobRef) (w : Word) (len : Nat) (hint : Option Hint)
    (k : State → List Byte → State) (inter : Bool := false) : State :=
  if len = 0 then k s []
  else if w.getLsbD 63 then
    match (s.job? j).bind (·.bulk) with
    | none =>
      let s := s.bulkStart j false (w.field 0 63) len [] inter
      (match (s.job? j).bind (·.bulk) with
       | some b => if b.finished then k s b.data else s
       | none => s)
    | some b => if b.finished then k s b.data else s
  else
    let ag := Agent.dma (s.ctxOf j.q) j
    let key := (1, w.field 0 48, len)
    match s.recall j key with
    | some bs => k s bs
    | none => s.accessDma ag (readDva ag (w.field 0 48) len hint) hint fun s bs => k (s.remember j key bs) bs

/-- Write a job's data at a DVA of its context: the lines written are result lines of the job (R330). -/
def State.putDva (s : State) (j : JobRef) (dva : Nat) (bs : List Byte) (hint : Option Hint) (k : State → State) : State :=
  let ag := Agent.dma (s.ctxOf j.q) j
  s.accessDma ag (writeDva ag dva bs hint) hint fun s _ => k s

/-- Read a structure that a parameter names, once, for the command processor (R387). -/
def State.withStruct (s : State) (j : JobRef) (dva len : Nat) (k : State → List Byte → State) : State :=
  let ag := Agent.struct (s.ctxOf j.q) j
  let key := (0, dva, len)
  match s.recall j key with
  | some bs => k s bs
  | none => s.access ag (readDva ag dva len) fun s bs => k (s.remember j key bs) bs

/-! ## The container -/

/-- Word `i` of a structure, and a field of it. -/
def wordAt (bs : List Byte) (i : Nat) : Nat := leNat ((bs.drop (8 * i)).take 8)
def fieldAt (bs : List Byte) (i lo len : Nat) : Nat := fieldOf (wordAt bs i) lo len

/-- A section entry (R395). -/
structure Section where
  kind : Nat
  id : Nat
  length : Nat
  offset : Nat
  deriving DecidableEq, Repr

def sectionAt (bs : List Byte) (i : Nat) : Section :=
  let w := 8 + 2 * i
  ⟨fieldAt bs w 0 4, fieldAt bs w 8 8, fieldAt bs w 24 40, fieldAt bs (w + 1) 0 40⟩

/-- Instruction words of a stream. -/
def streamAt (bs : List Byte) (off n : Nat) : List (BitVec 128) :=
  (List.range n).map fun i => BitVec.ofNat 128 (leNat ((bs.drop (off + 16 * i)).take 16))

def declAt (bs : List Byte) (off : Nat) : LookupDecl :=
  let b := bs.drop off
  { table := fieldAt b 0 0 12, pool := fieldAt b 0 12 3, fp32 := bitOf (wordAt b 0) 15, resultT0 := fieldAt b 0 16 16,
    indexOff := fieldAt b 1 0 32, bagOff := fieldAt b 1 32 32, weightOff := fieldAt b 2 0 32 }

/-- A PROGRAM section's bytes as a program (R396). -/
def programAt (id dva : Nat) (bs : List Byte) : Program :=
  let n := fieldAt bs 0 16 12
  let o0 := 64 + 32 * n
  let m := fieldAt bs 1 0 32
  let v0 := fieldAt bs 1 32 32
  let v1 := fieldAt bs 2 0 32
  let r := fieldAt bs 2 32 32
  let d := fieldAt bs 3 0 32
  let o1 := o0 + 16 * m
  let o2 := o1 + 16 * v0
  let o3 := o2 + 16 * v1
  let o4 := o3 + 16 * r
  { id := id, dva := dva, bytes := bs.length, share := fieldAt bs 0 0 13, lookups := (List.range n).map fun i => declAt bs (64 + 32 * i),
    mre := streamAt bs o0 m, ve0 := streamAt bs o1 v0, ve1 := streamAt bs o2 v1, ru := streamAt bs o3 r,
    dma := streamAt bs o4 d, denseInOff := fieldAt bs 4 0 32, denseInBytes := fieldAt bs 4 32 32,
    denseInT0 := fieldAt bs 5 0 16, outT0 := fieldAt bs 5 16 16, outBytes := fieldAt bs 5 32 32 }

/-- Bytes that a program's header, declarations and streams take. -/
def programBytes (bs : List Byte) : Nat :=
  64 + 32 * fieldAt bs 0 16 12 +
  16 * (fieldAt bs 1 0 32 + fieldAt bs 1 32 32 + fieldAt bs 2 0 32 + fieldAt bs 2 32 32 + fieldAt bs 3 0 32)

/-- Barrier words of a stream. -/
def barriersIn (ws : List (BitVec 128)) : Nat := (ws.filter isBarrier).length

/-- Bytes of one output row in T0 (R398). -/
def Program.outRow (p : Program) : Nat := 64 * ceilDiv p.outBytes 64

/-- The checks of R399 on a program. -/
def Program.ok (p : Program) : Bool :=
  1 ≤ p.share && p.share ≤ 4096 && p.denseInBytes % 64 == 0 &&
  256 * p.denseInT0 + p.share * p.denseInBytes ≤ Config.t0Bytes && 256 * p.outT0 + p.share * p.outRow ≤ Config.t0Bytes &&
  [p.ve0, p.ve1, p.ru, p.dma].all fun w => barriersIn w == barriersIn p.mre

/-- Whether no two of a list are equal. -/
def distinct {α : Type} [DecidableEq α] (l : List α) : Bool := l.eraseDups.length == l.length

/-- The checks of R399 on the header. -/
def headerOk (bs : List Byte) (len : Nat) : Bool :=
  64 ≤ len && fieldAt bs 0 0 32 == 0x36314B4D && fieldAt bs 0 32 16 == 1 && wordAt bs 1 == len &&
  1 ≤ fieldAt bs 0 48 16 && fieldAt bs 0 48 16 ≤ 512 && 1 ≤ fieldAt bs 3 0 5 && fieldAt bs 3 0 5 ≤ 16 &&
  fieldAt bs 3 5 3 == 0 && fieldAt bs 3 40 24 == 0 && fieldAt bs 3 8 32 ≠ 0 && fieldAt bs 3 8 32 % 4096 == 0 &&
  (List.range 4).all (fun i => wordAt bs (4 + i) == 0) && 64 + 16 * fieldAt bs 0 48 16 ≤ len

/-- The checks of R399 on one section entry. -/
def entryOk (bs : List Byte) (len i : Nat) : Bool :=
  let w := 8 + 2 * i
  let e := sectionAt bs i
  fieldAt bs w 4 4 == 0 && fieldAt bs w 16 8 == 0 && fieldAt bs (w + 1) 40 24 == 0 && (e.kind == 1 || e.kind == 2) &&
  e.offset % 256 == 0 && e.offset + e.length ≤ len

/-- Whether two sections keep apart. -/
def Section.apart (a b : Section) : Bool := a.offset + a.length ≤ b.offset || b.offset + b.length ≤ a.offset

/-- Whether no two sections of a list overlap. -/
def apartAll : List Section → Bool
  | [] => true
  | a :: r => r.all (a.apart ·) && apartAll r

/-- The checks of R399 on a section. -/
def sectionOk (bs : List Byte) (e : Section) : Bool :=
  let body := (bs.drop e.offset).take e.length
  if e.kind = 1 then 64 ≤ e.length && programBytes body ≤ e.length && (programAt e.id 0 body).ok
  else e.id < fieldAt bs 3 0 5 && e.length ≤ fieldAt bs 3 8 32

/-- The container as a resident model, with its dense set images, when it passes R399. -/
def readContainer (bs : List Byte) (image reserve : Nat) : Option (Resident × List (Nat × List Byte)) :=
  let len := bs.length
  if !headerOk bs len then none
  else
    let n := fieldAt bs 0 48 16
    if !((List.range n).all (entryOk bs len)) then none
    else
      let es := (List.range n).map (sectionAt bs)
      if !(es.all (sectionOk bs) && apartAll es && distinct (es.map fun e => (e.kind, e.id))) then none
      else
        let body (e : Section) : List Byte := (bs.drop e.offset).take e.length
        some ({ modelTag := wordAt bs 2, setSlots := fieldAt bs 3 0 5, setBytes := fieldAt bs 3 8 32,
                programs := (es.filter (·.kind == 1)).map fun e => programAt e.id (image + e.offset) (body e), image := image, length := len,
                reserve := reserve },
              (es.filter (·.kind == 2)).map fun e => (e.id, body e))

/-- DVA of a dense set slot in the resident image (R393). -/
def Resident.slotDva (r : Resident) (k : Nat) : Nat := r.image + ceilDiv r.length 4096 * 4096 + k * r.setBytes

/-! ## The reservation (R393) -/

/-- Bytes of retired pages in one region's reservation. -/
def State.retiredIn (s : State) (reserve r : Nat) : Nat :=
  let lo := r * Config.stackBytes + reserve
  4096 * (s.hbm.retired.filter fun p => lo ≤ p * 4096 && p * 4096 < lo + 0xD0000000).length

/-- Update buffer bytes, frame store bytes and spare pages of one region. -/
def regionShare (retired : Nat) : Nat × Nat × Nat :=
  let spare := 0x10000000
  let excess := retired - spare
  (0x40000000 - excess, 0x80000000 - (excess - 0x40000000), (spare - retired) / 4096)

/-- Take the update buffer and the frame store. -/
def State.reserveMemory (s : State) (reserve : Nat) : Model → Model := fun m =>
  let sh := (List.range 8).map fun r => regionShare (s.retiredIn reserve r)
  { m with bufBytes := (sh.map (·.1)).sum, frameCap := (sh.map (·.2.1)).sum / 4096, spares := sh.map (·.2.2) }

/-! ## UNLOAD_MODEL (R392) -/

/-- Whether every context other than context 0 is closed. -/
def State.allClosed (s : State) : Bool := (List.range 63).all fun c => (s.ctx (c + 1)).st = .closed

def zeros32 : List Byte := List.replicate 32 0

/-- The work of UNLOAD_MODEL on a resident model, once its contexts are closed. Requests of peers that wait for an answer meet no table
any more: they are answered NOT_HELD (R392). The counts ESC_OVERRUN of its tables stay as they are (DESIGN CHOICE, assumption 31: R82
gives them no end). -/
def State.unload (s : State) : State :=
  let swaps := (s.queue 0).jobs.filter fun x => x.opcode == 0x24 && x.phase = .running
  let s := swaps.foldl (fun s x => s.abortJob ⟨0, x.seq⟩ dtWrongState) s
  let keep (e : PoolEntry) : Bool := match e with | .line .. => true | _ => false
  let s : State := { s with
    model := {}
    tabs := { escOverrun := s.tabs.escOverrun, mapTagLive := s.tabs.mapTagLive, serve := s.tabs.serve }
    upd := { ctr := s.upd.ctr }
    tiers := { s.tiers with pool := s.tiers.pool.filter keep }
    sec := { s.sec with mrProgram := zeros32, mrTables := zeros32, mrOwnerMap := zeros32, mapPending := none } }
  (s.dropTlb 0).relist

/-- UNLOAD_MODEL waits for contexts to close, then unloads (R392, R420). -/
def State.unloadRun (s : State) (j : JobRef) (_ : Job) : State :=
  if s.model.res.isNone then (s.dropTlb 0).finishJob j stOk 0 0
  else if !s.allClosed then (if s.pkg.draining then s else s.setDrain true)
  else
    let s := if s.pkg.draining then s.setDrain false else s
    s.unload.finishJob j stOk 0 0

/-- UNLOAD_MODEL (R392). -/
def execUnloadModel (q : QueueId) (s : State) : Host.Outcome State Fault Refusal :=
  .next <| s.runJob q.val (isOp 0x11) State.unloadRun State.unloadRun

/-! ## LOAD_MODEL (R393) -/

/-- The dense set images go into their slots; then the model is resident. -/
def State.loadSets (s : State) (j : JobRef) (r : Resident) (sum : List Byte) : List (Nat × List Byte) → State
  | [] =>
    let m : Model := { res := some r, setLive := 0 }
    ({ s with model := s.reserveMemory r.reserve m, pkg := { s.pkg with loading := false }
              sec := { s.sec with mrProgram := sum } }).finishJob j stOk 0 0
  | (k, bs) :: rest => s.putDva j (r.slotDva k) bs none fun s => s.loadSets j r sum rest

/-- The container has been read: copy it to DEST, check it, and install it. -/
def State.loadData (s : State) (j : JobRef) (x : Job) (bs : List Byte) : State :=
  let dest := (x.p 2).toNat
  s.putDva j dest bs none fun s =>
    match readContainer bs dest (x.p 3).toNat with
    | none => ({ s with pkg := { s.pkg with loading := false } }).abortJob j dtBadContainer
    | some (r, sets) => s.loadSets j r (digest bs) sets

/-- LOAD_MODEL goes on: the unload, the copy, the checks. -/
def State.loadRun (s : State) (j : JobRef) (x : Job) : State :=
  if s.model.res.isSome && !s.allClosed then (if s.pkg.draining then s else s.setDrain true)
  else
    let s := if s.pkg.draining then s.setDrain false else s
    let s := if s.model.res.isSome then s.unload else s
    let s := { s with pkg := { s.pkg with loading := true } }
    s.withSource j (x.p 0) (x.p 1).toNat none fun s bs => s.loadData j x bs

def loadOk (x : Job) : Bool :=
  addrOk (x.p 0) && fits (x.p 1) [(0, 40)] && fits (x.p 2) [(0, 48)] && (x.p 2).toNat % 4096 == 0 && fits (x.p 3) [(0, 40)] &&
  (x.p 3).toNat % 2 ^ 21 == 0 && (x.p 3).toNat + 0xD0000000 ≤ Config.stackBytes

/-- LOAD_MODEL (R393). -/
def execLoadModel (q : QueueId) (s : State) : Host.Outcome State Fault Refusal :=
  .next <| s.runJob q.val (isOp 0x10)
    (fun s j x => if loadOk x then s.loadRun j x else s.abortJob j dtBadParam) State.loadRun

/-! ## SWAP_DENSE_SET (R394, R464) -/

/-- Whether a set slot is live, staged, or bound by a step in flight. -/
def State.setBusy (s : State) (k : Nat) : Bool :=
  s.model.setLive == k || s.model.setStaged == some k ||
  (List.range 8).any fun i => (s.slot i).phase ≠ .free && ((s.slot i).step.map (·.set)) == some k

def State.stageSet (s : State) (j : JobRef) (k : Nat) : State :=
  (s.stageFor j .set fun s => { s with model := { s.model with setStaged := stageValue s.model.setLive k } }).finishStaged j

/-- Take a SWAP_DENSE_SET with a source further: where another command has made its slot live or staged it by then, it may not be copied
into (R394). -/
def State.swapSetRun (s : State) (j : JobRef) (x : Job) : State :=
  match s.model.res with
  | none => s.abortJob j dtNoModel
  | some r =>
    let k := (x.p 0).toNat
    s.withSource j (x.p 1) (x.p 2).toNat none fun s bs =>
      if s.setBusy k then s.abortJob j dtWrongState
      else s.putDva j (r.slotDva k) bs none fun s =>
        let sum := digest (s.sec.mrProgram ++ leBytes 1 k ++ digest bs)
        ({ s with sec := { s.sec with mrProgram := sum } }).stageSet j k

/-- SWAP_DENSE_SET (R394). -/
def execSwapDenseSet (q : QueueId) (s : State) : Host.Outcome State Fault Refusal :=
  .next <| s.runJob q.val (isOp 0x12) (fun s j x =>
    match s.model.res with
    | none => s.abortJob j dtNoModel
    | some r =>
      let k := (x.p 0).toNat
      let copies := x.p 1 ≠ 0
      if !(fits (x.p 0) [(0, 4)] && k < r.setSlots && addrOk (x.p 1) && fits (x.p 2) [(0, 40)] && (x.p 2).toNat ≤ r.setBytes &&
          (copies || x.p 2 == 0)) then s.abortJob j dtBadParam
      else if !copies then s.stageSet j k
      else if s.setBusy k then s.abortJob j dtWrongState
      else s.swapSetRun j x) State.swapSetRun

end Sys2Proof.Machine
end

