-- ==== Sys2Proof/Machine/Rows.lean ====
section
/-! DEFINITION. Table rows: placement, storage, decoding and re-coding (03 R77 to R93; 06 R163 to R173), and the row
that a version shows at a seam (05 R154). -/

namespace Sys2Proof.Machine

/-! ## Geometry (R76, R81, R87, R88, R93) -/

/-- Whether a format has 4-bit codes. -/
def Format.four : Format → Bool
  | .i4 => true | .b4 => true | _ => false

/-- Whether a format codes against a bell grid. -/
def Format.bell : Format → Bool
  | .b8 => true | .b4 => true | _ => false

/-- Bytes of a row's codes (R81). -/
def Desc.codeBytes (d : Desc) : Nat := if d.format.four then d.dim / 2 else d.dim

/-- The row stride (R81). -/
def Desc.stride (d : Desc) : Nat := 12 + d.codeBytes

/-- Storage rows: ROWS, or P for a HASHED table (R87). -/
def Desc.storageRows (d : Desc) : Nat := if d.kind = .hashed then d.geom else d.rows

def Desc.shards (d : Desc) : Nat := d.shardsM1 + 1

/-- The missing value of a table's index format (R77). -/
def Desc.missing (d : Desc) : Nat := if d.index64 then 2 ^ 64 - 1 else 2 ^ 32 - 1

/-- Whether a logical index reads the default row (R78). -/
def Desc.isDefault (d : Desc) (i : Nat) : Bool := i == d.missing || d.rows ≤ i

/-- The storage row of a logical index of a CODED or HASHED table (R87). -/
def Desc.storageRow (d : Desc) (i : Nat) : Nat :=
  if d.kind = .hashed then (i * d.mixA + d.mixB) % 2 ^ 64 * d.geom / 2 ^ 64 else i

/-- Shard of a storage row and its position in it (R93). -/
def Desc.place (d : Desc) (row : Nat) : Nat × Nat :=
  match d.placement with
  | .everywhere => (0, row)
  | .range =>
    let w := ceilDiv d.storageRows d.shards
    (row / w, row % w)
  | .hash =>
    let q := row / d.shards
    let h := q * d.shardMult % 2 ^ 64 / 2 ^ 32
    ((row % d.shards + h) % d.shards, q)

/-- A defined table. -/
def State.table? (s : State) (id : Nat) : Option Table := s.tabs.tables.find? (·.desc.id == id)

def State.setTable (s : State) (id : Nat) (f : Table → Table) : State :=
  { s with tabs := { s.tabs with tables := s.tabs.tables.map fun t => if t.desc.id = id then f t else t } }

/-- Versions of a table that this package holds and may serve to a request that names them (R51, R71). -/
def Table.served (t : Table) : List Version := t.lit :: t.retired.toList

/-- The stamp of a version for a step of sequence `seq` (R104). -/
def Version.stampAt (v : Version) (seq : Nat) : Nat := (v.stamps.find? (· ≤ seq)).getD 0

/-! ## Storage (R84, R85) -/

/-- The GEs of a region at work for a step, or for nobody (serving, R112): storage lies in context 0's DVAs (R85). Which of the region's 16
GEs makes an access the spec does not say: fault records name the first (DESIGN CHOICE, assumption 71). -/
def Agent.ge (region cls ctx : Nat) (job : Option JobRef) (slot : Option Nat) : Agent :=
  { kind := 4, unit := Config.firstGeOfRegion region, cls := cls, ctx := ctx, job := job, slot := slot,
    tlb := some (2 * region), space := some 0 }

/-- The UEs of a region at work on an epoch. Of the region's four, fault records name the first (DESIGN CHOICE, assumption 71). -/
def Agent.ue (region : Nat) : Agent :=
  { kind := 5, unit := Config.firstUeOfRegion region, cls := 0, ctx := 0, tlb := some (2 * region) }

/-- The region whose DPA range holds an address of table storage (R98). -/
def homeRegion (ag : Agent) (dva : Nat) : Acc Nat := do
  match ← resolve ag dva false with
  | .dpa a _ => return Config.regionOf a
  | .lease _ _ => return 0

/-- The block table of a shard in a directory: 0 when this package does not hold it (R84). -/
def shardEntry (ag : Agent) (dir shard : Nat) : Acc Nat := do
  let e ← readDva ag (dir + 8 * shard) 8
  return fieldOf (leNat e) 0 48

/-- Where a row stands: DVA of the row, and of its block's side-list area (R84). -/
def rowPlace (ag : Agent) (d : Desc) (dir row : Nat) : Acc (Option (Nat × Nat)) := do
  let (shard, pos) := d.place row
  let bt ← shardEntry ag dir shard
  if bt = 0 then return none
  let e ← readDva ag (bt + 16 * (pos / 65536)) 16
  return some (fieldOf (leNat (e.take 8)) 0 48 + pos % 65536 * d.stride, fieldOf (leNat (e.drop 8)) 0 48)

/-! ## Row bodies: header, codes, side entries (R80, R81, R117) -/

def rowHeader (body : List Byte) : Nat := leNat (body.take 12)
def rowScale (body : List Byte) : F16 := BitVec.ofNat 16 (fieldOf (rowHeader body) 0 16)
def rowOffset (body : List Byte) : F16 := BitVec.ofNat 16 (fieldOf (rowHeader body) 16 16)
def rowEscCount (body : List Byte) : Nat := fieldOf (rowHeader body) 32 8
def rowSideOffset (body : List Byte) : Nat := fieldOf (rowHeader body) 40 24
def rowVersion (body : List Byte) : Nat := fieldOf (rowHeader body) 64 32

/-- The codes of a row, element by element (R81). -/
def Desc.codes (d : Desc) (body : List Byte) : List Nat :=
  let bs := (body.drop 12).take d.codeBytes
  if d.format.four then bs.flatMap fun b => [b.toNat % 16, b.toNat / 16] else bs.map (·.toNat)

/-- The escape code (R82). -/
def Format.escape (f : Format) : Nat := if f.four then 0x8 else 0x80

/-- Side-list entry `k` of a body. -/
def Desc.sideEntry (d : Desc) (body : List Byte) (k : Nat) : BF16 :=
  BitVec.ofNat 16 (leNat ((body.drop (d.stride + 2 * k)).take 2))

/-- Two's complement value of a code. -/
def codeInt (bits c : Nat) : Int := if c < 2 ^ (bits - 1) then c else (c : Int) - 2 ^ bits

/-- An integer as fp32. -/
def intF32 (v : Int) : F32 := intToF32 v 0

/-- The value of a code that is not an escape (R170). -/
def codeValue (f : Format) (g : Grid) (scale offset : F32) (c : Nat) : F32 :=
  match f with
  | .i8 => f32Fma scale (intF32 (codeInt 8 c)) offset
  | .i4 => f32Fma scale (intF32 (codeInt 4 c)) offset
  | .b8 => f32Mul scale (gridF32 (g.b8.getD (c ^^^ 0x80) 0))
  | .b4 => f32Mul scale (gridF32 (g.b4.getD (c ^^^ 0x8) 0))

/-- Decode codes in element order from escape number `k` (R82): the values, and the escapes beyond ESC_COUNT. -/
def decodeCodes (d : Desc) (g : Grid) (body : List Byte) : Nat → List Nat → List F32 × Nat
  | _, [] => ([], 0)
  | k, c :: cs =>
    if c = d.format.escape then
      let (vs, n) := decodeCodes d g body (k + 1) cs
      if k < rowEscCount body then (bf16ToF32 (d.sideEntry body k) :: vs, n) else (0 :: vs, n + 1)
    else
      let (vs, n) := decodeCodes d g body k cs
      (codeValue d.format g (f16ToF32 (rowScale body)) (f16ToF32 (rowOffset body)) c :: vs, n)

/-- A decoded row: its values and its row version (R121). -/
structure Decoded where
  vals : List F32
  ver : Nat
  deriving DecidableEq, Repr

/-- Count escapes beyond ESC_COUNT for a table (R82). -/
def State.countOverrun (s : State) (table n : Nat) : State :=
  if n = 0 then s
  else
    let l := s.tabs.escOverrun
    let old := ((l.find? (·.1 == table)).map (·.2)).getD 0
    { s with tabs := { s.tabs with escOverrun := (table, old + n) :: l.filter (·.1 ≠ table) } }

/-- Decode a row body, and count its overruns on this package, once for each of the `times` that it is decoded (R82). -/
def State.decode (s : State) (d : Desc) (g : Grid) (body : List Byte) (times : Nat := 1) : State × Decoded :=
  let (vs, n) := decodeCodes d g body 0 (d.codes body)
  (s.countOverrun d.id (times * n), ⟨vs, rowVersion body⟩)

/-- The default row (R79). -/
def Table.dfltRow (t : Table) : Decoded := ⟨t.defaultRow.map bf16ToF32, 0⟩

/-- Read a stored row: all its side entries for a cache line, a ROW body or an epoch; for a decode only those that its
escape codes name (R82). `none` when the shard is not held. -/
def readStored (ag : Agent) (d : Desc) (dir row : Nat) (all : Bool) : Acc (Option (List Byte)) := do
  match ← rowPlace ag d dir row with
  | none => return none
  | some (a, side) => do
    let base ← readDva ag a d.stride
    let n := rowEscCount base
    let used := ((d.codes base).filter (· == d.format.escape)).length
    let tail ← readDva ag (side + 2 * rowSideOffset base) (2 * (if all then n else min used n))
    return some (base ++ tail)

/-! ## What a version shows (R154) -/

/-- The overlay row that a read of a version sees when it may see epochs applied at or below seam `bound`. -/
def State.overlayAt (s : State) (table version row bound : Nat) : Option Overlay :=
  s.upd.overlays.foldl (fun best o =>
    match o.seam with
    | none => best
    | some n =>
      if o.table = table ∧ o.version = version ∧ o.row = row ∧ n ≤ bound then
        match best.bind (·.seam) with
        | none => some o
        | some m => if m < n then some o else best
      else best) none

/-- Granules of `n` bytes of the update buffer that begin at a granule. The K16 puts nothing on a retired page (R248). -/
def State.bufGrans (s : State) (first n : Nat) : List Nat :=
  ((List.range (ceilDiv n 64)).map fun i => s.place (first + i)).filter fun g => !s.hbm.isRetired (g / 64)

/-- Read bytes of the update buffer at their controller (R244): the buffer's contents are the lists of Updates. -/
def readBuffer (ag : Agent) (first n : Nat) : Acc Unit := do
  for g in (← get).bufGrans first n do
    let _ ← readGran ag g

/-- Bytes are written into the update buffer at their controller: the granules that they cover whole lose their poison (R27, R245). -/
def State.writeBuffer (s : State) (first n : Nat) : State :=
  (List.range (ceilDiv n 64)).foldl (fun s i =>
    let g := s.place (first + i)
    if s.hbm.isRetired (g / 64) then s else s.overwrite g (64 * i + 64 ≤ n)) s

/-- Where an overlay row begins in the update buffer. -/
def Overlay.gran (o : Overlay) : Nat := Config.overlayGran o.table o.version o.row

/-- The body of a row as a version shows it (R107, R154): an overlay row is read in the update buffer. -/
def rowAt (ag : Agent) (d : Desc) (v : Version) (row bound : Nat) (all : Bool) : Acc (Option (List Byte)) := do
  let s ← get
  match s.overlayAt d.id v.num row bound with
  | some o => do
    readBuffer ag o.gran o.bytes.length
    return some o.bytes
  | none => readStored ag d v.dir row all

/-- A ROW body as a message carries it: padded to a multiple of 4 bytes (R117). -/
def sendBody (body : List Byte) : List Byte := padTo (ceilDiv body.length 4 * 4) body

/-! ## Re-coding (R171 to R173) -/

/-- fp32 values that the rules use. -/
def f32Four : F32 := 0x40800000
def f32TwoHalf : F32 := 0x40200000
def f32Two : F32 := 0x40000000
def f32Largest (neg : Bool) : F32 := if neg then 0xFF7FFFFF else 0x7F7FFFFF

/-- The threshold T (R171, order 1). -/
def escThreshold (f : Format) (xs : List F32) : F32 :=
  let sum := (xs.filter f32IsFinite).foldl (fun a x => f32Add a (f32Mul x x)) 0
  let rms := f32Sqrt (f32Div sum (intF32 xs.length))
  f32Mul (if f.four then f32TwoHalf else f32Four) rms

/-- Rank of a candidate: NaN, then infinities, then finite values by descending magnitude (R171, order 3). -/
def escRank (x : F32) : Int :=
  if f32IsNan x then -2 ^ 34 else if f32IsFinite x then -(f32Key (f32Abs x)) else -2 ^ 33

/-- Insert by rank, behind equals. -/
def rankInsert (e : Nat × F32) : List (Nat × F32) → List (Nat × F32)
  | [] => [e]
  | a :: r => if escRank e.2 < escRank a.2 then e :: a :: r else a :: rankInsert e r

/-- Element numbers that become escapes, and whether a candidate was left (R171, orders 2 to 4). -/
def pickEscapes (f : Format) (cap : Nat) (xs : List F32) : List Nat × Bool :=
  let t := escThreshold f xs
  let cands := ((List.range xs.length).zip xs).filter fun e => !f32IsFinite e.2 || f32Lt t (f32Abs e.2)
  let ranked := cands.foldl (fun l e => rankInsert e l) []
  ((ranked.take cap).map (·.1), cap < cands.length)

/-- An element left to the codes: infinities become the largest finite value, NaN 0.0 (R172). -/
def codable (x : F32) : F32 :=
  if f32IsNan x then 0 else if f32IsFinite x then x else f32Largest (x.getLsbD 31)

/-- gpos × 512 (R172): the smaller of −G[1] and G[N−1]. -/
def gposOf (f : Format) (g : Grid) : Int :=
  let pts := if f.four then g.b4 else g.b8
  let lo := (pts.getD 1 0).toInt
  let hi := (pts.getD (pts.length - 1) 0).toInt
  if -lo < hi then -lo else hi

/-- SCALE and OFFSET of the remaining elements (R172, R173). With none remaining the rule states no value: both are free
(assumption 4), but for a bell format's OFFSET and for the SCALE that R173 gives. -/
def scaleOffset (f : Format) (g : Grid) (r : List F32) : F16 × F16 :=
  if f.bell then
    if gposOf f g ≤ 0 then (0, 0)
    else
      match r with
      | [] => ((Config.emptyRowHeader f.four f.bell).extractLsb' 0 16, 0)
      | x :: xs => (f32ToF16 (f32Div (xs.foldl (fun a y => f32Max a (f32Abs y)) (f32Abs x)) (intToF32 (gposOf f g) 9)), 0)
  else
    match r with
    | [] =>
      let b := Config.emptyRowHeader f.four f.bell
      (b.extractLsb' 0 16, b.extractLsb' 16 16)
    | x :: xs =>
      let lo := xs.foldl f32Min x
      let hi := xs.foldl f32Max x
      (f32ToF16 (f32Div (f32Sub hi lo) (intF32 (if f.four then 14 else 254))), f32ToF16 (f32Div (f32Add hi lo) f32Two))

/-- The code of an element (R172). -/
def codeOf (f : Format) (g : Grid) (scale offset : F16) (x : F32) : Nat :=
  let sc := f16ToF32 scale
  if f32Num sc = 0 then 0
  else if f.bell then
    if f.four then pickIndex (nearestOf x (scaledPts sc 1 g.b4)) ^^^ 0x8 else pickIndex (nearestOf x (scaledPts sc 1 g.b8)) ^^^ 0x80
  else
    let d := f32Sub x (f16ToF32 offset)
    let (bits, top) : Nat × Int := if f.four then (4, 7) else (8, 127)
    ((f32ToCode (f32Div d sc) 0 (-top) top) % 2 ^ bits).toNat

/-- Pack codes (R81). -/
def packCodes (f : Format) : List Nat → List Byte
  | [] => []
  | [a] => [BitVec.ofNat 8 a]
  | a :: b :: r =>
    if f.four then BitVec.ofNat 8 (a + 16 * b) :: packCodes f r
    else BitVec.ofNat 8 a :: BitVec.ofNat 8 b :: packCodes f r

/-- Re-code a row (R171, R172): its body, and whether the escape capacity limited it. -/
def recode (d : Desc) (g : Grid) (old : List Byte) (version : Nat) (xs : List F32) : List Byte × Bool :=
  let cap := rowEscCount old
  let (esc, limited) := pickEscapes d.format cap xs
  let els := (List.range xs.length).zip xs
  let rest := (els.filter fun e => !esc.contains e.1).map fun e => codable e.2
  let (sc, off) := scaleOffset d.format g rest
  let codes := els.map fun e => if esc.contains e.1 then d.format.escape else codeOf d.format g sc off (codable e.2)
  let side := (els.filter fun e => esc.contains e.1).flatMap fun e => leBytes 2 (f32ToBf16 e.2).toNat
  let head := leBytes 12 (packFields [(sc.toNat, 16), (off.toNat, 16), (cap, 8), (rowSideOffset old, 24), (version, 32)])
  (head ++ packCodes d.format codes ++ padTo (2 * cap) side, limited)

end Sys2Proof.Machine
end

