-- ==== Sys2Proof/Machine/Updates.lean ====
section
/-! DEFINITION. Update records and epochs on one package (05 R135 to R147, R149): UPDATE_ROWS, CLOSE_EPOCH, and the
messages UPDATE_RECORD and EPOCH_CLOSE. -/

namespace Sys2Proof.Machine

def State.updCtr (s : State) (f : UpdCounters → UpdCounters) : State := { s with upd := { s.upd with ctr := f s.upd.ctr } }

/-! ## Records and markers as bytes (R135, R143, R273) -/

/-- The payload of a record as fp32 values, exact (R139). -/
def recVals (r : UpdRec) : List F32 :=
  r.payload.map fun v => if r.fp32 then BitVec.ofNat 32 v else bf16ToF32 (BitVec.ofNat 16 v)

/-- A record with its payload in fp32, as it is from its intake on (R139), also in messages that forward it (DEDUCED, assumption
35). -/
def widen (r : UpdRec) : UpdRec := { r with fp32 := true, payload := (recVals r).map (·.toNat) }

/-- A record as it stands in a list of `dim`-element rows. -/
def recAt (bs : List Byte) (dim : Nat) : UpdRec :=
  let w := if bitOf (wordAt bs 0) 13 then 4 else 2
  { table := fieldAt bs 0 0 12, replace := bitOf (wordAt bs 0) 12, fp32 := bitOf (wordAt bs 0) 13,
    mapped := bitOf (wordAt bs 0) 14, contrib := fieldAt bs 0 16 14, epoch := fieldAt bs 0 32 32, index := wordAt bs 1,
    seq := fieldAt bs 2 0 32, payload := (List.range dim).map fun i => leNat ((bs.drop (24 + w * i)).take w) }

/-- A forwarded record's bytes. -/
def recBody (r : UpdRec) : List Byte :=
  leBytes 8 (packFields [(r.table, 12), (b2n r.replace, 1), (b2n r.fp32, 1), (b2n r.mapped, 1), (0, 1), (r.contrib, 14), (0, 2),
    (r.epoch, 32)]) ++ leBytes 8 r.index ++ leBytes 8 r.seq ++ r.payload.flatMap (leBytes (if r.fp32 then 4 else 2))

def updBody (rs : List UpdRec) : List Byte := leBytes 8 rs.length ++ rs.flatMap recBody

def markerBody (m : Marker) : List Byte :=
  leBytes 8 (packFields [(m.epoch, 32), (m.contrib, 14)]) ++ leBytes 8 m.records ++ leBytes 8 m.digest ++ leBytes 8 0

/-! ## Epochs -/

def State.epoch? (s : State) (n : Nat) : Option Epoch := s.upd.epochs.find? (·.num == n)
def State.setEpoch (s : State) (n : Nat) (f : Epoch → Epoch) : State :=
  { s with upd := { s.upd with epochs := s.upd.epochs.map fun e => if e.num = n then f e else e } }

/-- The value of an association list, 0 where it lists none. -/
def countOf (l : List (Nat × Nat)) (k : Nat) : Nat := ((l.find? (·.1 == k)).map (·.2)).getD 0

/-- Add to an entry of an association list. -/
def addCount (l : List (Nat × Nat)) (k n : Nat) : List (Nat × Nat) := (k, countOf l k + n) :: l.filter (·.1 ≠ k)

/-- Whether a contributor is missing: no marker, or a record count other than its marker's (R144, R145). -/
def Epoch.missing (e : Epoch) (c : Nat) : Bool :=
  match e.markers.find? (·.1 == c) with
  | none => true
  | some m => countOf e.received c ≠ m.2

def Epoch.missingCount (e : Epoch) : Nat := (e.contribs.filter e.missing).length

/-- An epoch closes when no contributor is missing (R144). -/
def State.tryClose (s : State) (n : Nat) : State :=
  s.setEpoch n fun e => if !e.closed && e.contribs.all (!e.missing ·) then { e with closed := true } else e

/-- Whether this package holds a shard in a version: the UEs read its directory (R84, R138). -/
def holds (d : Desc) (v : Version) (row : Nat) : Acc Bool := do
  let e ← shardEntry (Agent.ue 0) v.dir (d.place row).1
  return e ≠ 0

/-- In which versions a record is held: lit, shadow (R138). -/
def keptIn (t : Table) (row : Nat) : Acc (Bool × Bool) := do
  let l ← holds t.desc t.lit row
  let sh ← match t.shadow with
    | some x => holds t.desc x.ver row
    | none => pure false
  return (l, sh)

/-- Whether a shadow takes the records of an epoch: its base epoch lies below (R157, R158). -/
def Table.shadowTakes (t : Table) (epoch : Nat) : Bool := match t.shadow with | some x => x.baseEpoch < epoch | none => false

/-- Where a record begins in the update buffer. -/
def updGran (r : UpdRec) : Nat := Config.recGran r.epoch r.contrib r.seq

/-- Keep a record of a declared epoch (R138). A directory that cannot be read loses the record (R244); one whose line the host holds is
waited for (R319). -/
def State.keepRec (s : State) (r : UpdRec) : State :=
  match s.table? r.table with
  | none => s.updCtr fun c => { c with recordsNotHeld := c.recordsNotHeld + 1 }
  | some t =>
    match (keptIn t r.index).go s with
    | (.ok (l, sh), s) =>
      if l || sh then
        let s := s.writeBuffer (updGran r) (recBytes r)
        { s with upd := { s.upd with recs := s.upd.recs ++ [⟨widen r, l, sh && t.shadowTakes r.epoch, false⟩] } }
      else s.updCtr fun c => { c with recordsNotHeld := c.recordsNotHeld + 1 }
    | (.error (.snoop l i), _) =>
      let s := s.sendSnoop l i
      { s with upd := { s.upd with parked := s.upd.parked ++ [widen r] } }
    | (.error f, s) =>
      let s := s.accError (Agent.ue 0) f
      { s with hbm := { s.hbm with updatePoisoned := s.hbm.updatePoisoned + 1 } }

/-- Records that wait for the host are taken up again, in the order in which they came. -/
def State.unpark (s : State) : State :=
  s.upd.parked.foldl State.keepRec { s with upd := { s.upd with parked := [] } }

/-- A record of a declared epoch that is not applied (R141, R144, R145). One that comes from a declared contributor once the epoch has
closed is discarded as late (DESIGN CHOICE, assumption 81: the rules name no effect). -/
def State.takeDeclared (s : State) (e : Epoch) (r : UpdRec) : State :=
  if e.forced then s.updCtr fun c => { c with recordsLate := c.recordsLate + 1 }
  else if !e.contribs.contains r.contrib then s.updCtr fun c => { c with recordsUndeclared := c.recordsUndeclared + 1 }
  else if e.closed then s.updCtr fun c => { c with recordsLate := c.recordsLate + 1 }
  else
    ((s.setEpoch e.num fun e => { e with received := addCount e.received r.contrib 1 }).keepRec r).tryClose e.num

/-- A record has come for combining (R138, R141, R146). -/
def State.takeRecord (s : State) (r : UpdRec) : State :=
  let s := s.updCtr fun c => { c with recordsReceived := c.recordsReceived + 1 }
  if r.epoch ≤ s.upd.lastApplied then s.updCtr fun c => { c with recordsLate := c.recordsLate + 1 }
  else
    match s.epoch? r.epoch with
    | none => { s with upd := { s.upd with earlyRecs := s.upd.earlyRecs ++ [widen r] } }
    | some e => s.takeDeclared e r

/-- A marker of a declared epoch: one whose digest differs is used, counted and recorded (R144). -/
def State.markDeclared (s : State) (e : Epoch) (m : Marker) : State :=
  if e.forced then s.updCtr fun c => { c with recordsLate := c.recordsLate + 1 }
  else if !e.contribs.contains m.contrib then s.updCtr fun c => { c with recordsUndeclared := c.recordsUndeclared + 1 }
  else if e.closed then s.updCtr fun c => { c with recordsLate := c.recordsLate + 1 }
  else
    let s := s.setEpoch e.num fun e => { e with markers := (m.contrib, m.records) :: e.markers.filter (·.1 ≠ m.contrib) }
    let s := if m.digest = e.digest then s
      else (s.updCtr fun c => { c with declMismatch := c.declMismatch + 1 }).recordEvent
        { code := 0x34, payload := leBytes 4 e.num ++ leBytes 4 m.contrib ++ leBytes 8 m.digest ++ leBytes 8 e.digest }
    s.tryClose e.num

/-- A close marker has come (R141, R144, R146). -/
def State.takeMarker (s : State) (m : Marker) : State :=
  if m.epoch ≤ s.upd.lastApplied then s.updCtr fun c => { c with recordsLate := c.recordsLate + 1 }
  else
    match s.epoch? m.epoch with
    | none => { s with upd := { s.upd with earlyMarks := s.upd.earlyMarks ++ [m] } }
    | some e => s.markDeclared e m

/-! ## Sending records (R137, R273) -/

/-- Cut records into messages of at most 8,912 bytes. -/
def chunkRecs (used : Nat) (acc : List UpdRec) : List UpdRec → List (List UpdRec)
  | [] => if acc.isEmpty then [] else [acc]
  | r :: rs =>
    let n := (recBody r).length
    if !acc.isEmpty && 8912 < used + n then acc :: chunkRecs (8 + n) [r] rs else chunkRecs (used + n) (acc ++ [r]) rs

/-- Send records to other packages: (destination, record), in order. -/
def State.sendRecs (s : State) (out : List (Nat × UpdRec)) : State :=
  (out.map (·.1)).eraseDups.foldl (fun s d =>
    (chunkRecs 8 [] ((out.filter (·.1 == d)).map (·.2))).foldl (fun s rs => s.sendMsg d true 4 (updBody rs)) s) s

/-- Count a record as sent to a participant (R143). -/
def State.countSent (s : State) (epoch dst : Nat) : State :=
  let old := ((s.upd.sent.find? fun x => x.1 == epoch && x.2.1 == dst).map (·.2.2)).getD 0
  { s with upd := { s.upd with sent := (epoch, dst, old + 1) :: s.upd.sent.filter fun x => !(x.1 == epoch && x.2.1 == dst) } }

/-- Route a record to its destinations: the copies for other packages are returned, a copy for this one is taken. -/
def State.routeTo (s : State) (r : UpdRec) (dsts : List Nat) : State × List (Nat × UpdRec) :=
  let s := dsts.foldl (fun s d => s.countSent r.epoch d) s
  let s := if dsts.any fun d => some d = s.device then s.takeRecord r else s
  (s, (dsts.filter fun d => some d ≠ s.device).map fun d => (d, r))

/-- The declaration of an epoch here, whether or not it has been applied. -/
def State.declared (s : State) (n : Nat) : Option Epoch :=
  match s.epoch? n with
  | some e => some e
  | none => s.upd.past.find? (·.num == n)

/-- Destinations of a record (R137): `none` while an everywhere table's participants are not known. -/
def State.destinations (s : State) (d : Desc) (r : UpdRec) : Option (List Nat) :=
  if d.placement = .everywhere then (s.declared r.epoch).map (·.parts)
  else some (((s.tabs.mapLive.find? (·.table == d.id)).map fun m => m.shards.getD (d.place r.index).1 []).getD [])

/-! ## UPDATE_ROWS (R135 to R137, R142, R149, R406) -/

/-- Where the intake of a list stands. -/
structure Intake where
  pos : Nat := 0
  taken : Nat := 0
  after : Nat := 0
  /-- a wait for buffer room has been counted -/
  held : Bool := false
  finished : Bool := false
  out : List (Nat × UpdRec) := []
  deriving DecidableEq, Repr

/-- Whether a record of this UPDATE_ROWS comes after the MARK of its epoch (R142). -/
def State.afterMark (s : State) (start epoch : Nat) : Bool := s.upd.marked.any fun m => m.1 == epoch && m.2 < start

/-- One record of a list is taken in (R137, R142, R149): `i` is the state of the intake beyond it. RECORDS_TAKEN counts every record
of known length that the intake reads, also one that it then discards (DESIGN CHOICE, assumption 57). -/
def State.intakeOne (s : State) (me start : Nat) (t : Table) (r : UpdRec) (i : Intake) (size : Nat) : State × Intake :=
  let next : Intake := { i with pos := i.pos + size, taken := i.taken + 1, held := false }
  let took (s : State) : State := s.updCtr fun c => { c with recordsTaken := c.recordsTaken + 1 }
  if t.desc.kind = .composed || t.desc.isDefault r.index then
    ((took s).updCtr fun c => { c with recordsInvalid := c.recordsInvalid + 1 }, next)
  else if s.afterMark start r.epoch then
    ((took s).updCtr fun c => { c with recordsAfterMark := c.recordsAfterMark + 1 }, { next with after := i.after + 1 })
  else
    let r := widen { r with mapped := true, contrib := me, index := t.desc.storageRow r.index }
    let dst := s.destinations t.desc r
    let needs := match dst with | none => true | some l => l.contains me
    if needs && s.bufFree < recBytes r then
      let s := if i.held then s else s.updCtr fun c => { c with bufferFullHolds := c.bufferFullHolds + 1 }
      (s, { i with held := true })
    else
      match dst with
      | none =>
        if r.epoch ≤ s.upd.lastApplied then ((took s).updCtr fun c => { c with recordsLate := c.recordsLate + 1 }, next)
        else ({ took s with upd := { (took s).upd with heldRecs := s.upd.heldRecs ++ [r] } }, next)
      | some l =>
        let (s, out) := (took s).routeTo r l
        (s, { next with out := i.out ++ out })

/-- Take in the records of a list until its end, or until the buffer is full. -/
def State.intake (s : State) (me start : Nat) (bs : List Byte) (i : Intake) : Nat → State × Intake
  | 0 => (s, i)
  | fuel + 1 =>
    let rest := bs.drop i.pos
    if rest.isEmpty then (s, { i with finished := true })
    else
      let bad : State × Intake :=
        (s.updCtr fun c => { c with recordsInvalid := c.recordsInvalid + 1 }, { i with finished := true })
      if rest.length < 24 then bad
      else
        match s.table? (fieldAt rest 0 0 12) with
        | none => bad
        | some t =>
          let size := 24 + (if bitOf (wordAt rest 0) 13 then 4 else 2) * t.desc.dim
          if rest.length < size then bad
          else
            let (s, j) := s.intakeOne me start t (recAt rest t.desc.dim) i size
            if j.held then (s, j) else s.intake me start bs j fuel

/-- UPDATE_ROWS goes on with the list it has read: aux holds position, records taken, records after MARK, held. -/
def State.intakeRun (s : State) (j : JobRef) (bs : List Byte) : State :=
  match s.job? j, s.device with
  | some x, some me =>
    let i : Intake := { pos := x.aux.getD 0 0, taken := x.aux.getD 1 0, after := x.aux.getD 2 0, held := x.aux.getD 3 0 == 1 }
    let (s, i) := s.intake me x.start bs i (bs.length + 1)
    let s := s.sendRecs i.out
    if i.finished then s.finishJob j stOk i.after i.taken
    else s.setJob j fun x => { x with aux := [i.pos, i.taken, i.after, b2n i.held], data := bs }
  | _, _ => s

/-- Take an UPDATE_ROWS further. -/
def State.updateRun (s : State) (j : JobRef) (x : Job) : State :=
  if x.aux.isEmpty then s.withSource j (x.p 0) (x.p 1).toNat none fun s bs => s.intakeRun j bs
  else s.intakeRun j x.data

/-- UPDATE_ROWS (R135, R406). -/
def execUpdateRows (q : QueueId) (s : State) : Host.Outcome State Fault Refusal :=
  .next <| s.runJob q.val (isOp 0x38)
    (fun s j x =>
      if !(addrOk (x.p 0) && fits (x.p 1) [(0, 40)]) then s.abortJob j dtBadParam
      else if s.model.res.isNone then s.abortJob j dtNoModel
      else if s.device.isNone then s.abortJob j dtWrongState
      else s.updateRun j { x with start := s.sched.nextStart - 1 }) State.updateRun

/-! ## CLOSE_EPOCH (R140 to R147, R406, R407) -/

def epochOf (x : Job) : Nat := (x.p 0).field 32 32
def closeMine (op : Nat) (x : Job) : Bool := x.opcode == 0x39 && (x.p 0).field 0 2 == op
def closeOk (x : Job) : Bool := fits (x.p 0) [(0, 2), (32, 32)] && 1 ≤ epochOf x && (if (x.p 0).field 0 2 = 0 then fits (x.p 1) [(0, 48)] else x.p 1 == 0)

/-- The checks that every operation begins with, then the operation. -/
def closeStart (k : State → JobRef → Job → State) (s : State) (j : JobRef) (x : Job) : State :=
  if !closeOk x then s.abortJob j dtBadParam
  else if s.model.res.isNone then s.abortJob j dtNoModel
  else k s j x

/-- Bytes of a declaration with `c` contributors and `p` participants (R140). -/
def declBytes (c p : Nat) : Nat := ceilDiv (16 + 2 * (c + p)) 8 * 8

/-- An epoch as its declaration gives it. -/
def declEpoch (bs : List Byte) : Epoch :=
  let c := fieldAt bs 1 0 15
  let dev (i : Nat) : Nat := leNat ((bs.drop (16 + 2 * i)).take 2) % 2 ^ 14
  { num := fieldAt bs 0 0 32, contribs := (List.range c).map dev, parts := (List.range (fieldAt bs 1 32 15)).map fun i => dev (c + i),
    digest := digest64 bs }

/-- Epochs that were ready are computed again (R146, R159). -/
def State.unready (s : State) : State :=
  { s with upd := { s.upd with overlays := s.upd.overlays.filter (·.seam.isSome)
                               epochs := s.upd.epochs.map fun e => { e with ready := false } } }

/-- What came early for an epoch is taken once it is declared (R141), and records held for its participants are routed
(R137). Early records were counted as received when they came. A higher epoch that was ready waits for this one (R146). -/
def State.openEpoch (s : State) (e : Epoch) : State :=
  let s := if s.upd.epochs.any fun x => x.ready && e.num < x.num then s.unready else s
  let early := s.upd.earlyRecs.filter (·.epoch == e.num)
  let marks := s.upd.earlyMarks.filter (·.epoch == e.num)
  let held := s.upd.heldRecs.filter (·.epoch == e.num)
  let s := { s with upd := { s.upd with
    epochs := s.upd.epochs ++ [e]
    earlyRecs := s.upd.earlyRecs.filter (·.epoch ≠ e.num)
    earlyMarks := s.upd.earlyMarks.filter (·.epoch ≠ e.num)
    heldRecs := s.upd.heldRecs.filter (·.epoch ≠ e.num) } }
  let late (s : State) (r : UpdRec) : State := match s.epoch? e.num with | some x => s.takeDeclared x r | none => s
  let s := early.foldl late s
  let s := marks.foldl (fun s m => match s.epoch? e.num with | some x => s.markDeclared x m | none => s) s
  let (s, out) := held.foldl (fun (a : State × List (Nat × UpdRec)) r =>
    let (s, o) := a.1.routeTo r e.parts
    (s, a.2 ++ o)) (s, [])
  (s.sendRecs out).relist

/-- A DECLARE whose structure has been read. An epoch declared twice, or after a higher-numbered one was applied, is a host error of system
scope (R141). -/
def State.declare (s : State) (j : JobRef) (x : Job) (bs : List Byte) : State :=
  let e := declEpoch bs
  if e.num ≠ epochOf x then s.abortJob j dtBadParam
  else if s.upd.lastApplied = 0xFFFFFFFF then s.abortJob j dtWrongState
  else if 255 ≤ s.upd.epochs.length then s.abortJob j dtNoResource
  else
    let t := (s.openEpoch e).finishJob j stOk 0 0
    if (s.declared e.num).isSome || e.num ≤ s.upd.lastApplied then t.wrecked .system else t

def State.declareRun (s : State) (j : JobRef) (x : Job) : State :=
  let dva := (x.p 1).toNat
  s.withStruct j dva 16 fun s h =>
    s.withStruct j dva (declBytes (fieldAt h 1 0 15) (fieldAt h 1 32 15)) fun s bs => s.declare j x bs

/-- CLOSE_EPOCH DECLARE (R140, R141, R407). -/
def execCloseEpochDeclare (q : QueueId) (s : State) : Host.Outcome State Fault Refusal :=
  .next <| s.runJob q.val (closeMine 0) (closeStart State.declareRun) State.declareRun

/-- Whether an UPDATE_ROWS accepted before start number `n` still routes records. -/
def State.routing (s : State) (n : Nat) : Bool :=
  (List.range 64).any fun q => (s.queue q).jobs.any fun x => x.opcode == 0x38 && x.phase = .running && x.start < n

/-- Whether a marker of the job is still unacknowledged. -/
def State.marksOut (s : State) (j : JobRef) : Bool :=
  s.fab.early.any (·.mark == some j) ||
  s.fab.peers.any fun p => p.txU.unacked.any (·.mark == some j) || p.txS.unacked.any (·.mark == some j)

/-- Send the close markers of an epoch (R142, R143). -/
def State.sendMarks (s : State) (j : JobRef) (e : Epoch) (me : Nat) : State :=
  e.parts.foldl (fun s p =>
    let n := ((s.upd.sent.find? fun x => x.1 == e.num && x.2.1 == p).map (·.2.2)).getD 0
    let m : Marker := ⟨e.num, me, n, e.digest⟩
    if p = me then s.takeMarker m else s.sendMsg p true 5 (markerBody m) false (some j)) s

/-- MARK completes once every marker is acknowledged or abandoned; aux lists the participants that abandoned. -/
def State.markEnd (s : State) (j : JobRef) : State :=
  if s.marksOut j then s
  else match s.job? j with
    | some x => s.finishJob j stOk x.aux.length 0
    | none => s

/-- Take a MARK further (R142). -/
def State.markRun (s : State) (j : JobRef) (x : Job) : State :=
  match s.declared (epochOf x), s.device with
  | some e, some me =>
    if x.data.isEmpty then
      if s.routing x.start then s
      else ((s.sendMarks j e me).setJob j fun x => { x with data := [1] }).markEnd j
    else s.markEnd j
  | _, _ => s.abortJob j dtWrongState

/-- CLOSE_EPOCH MARK (R142, R407). -/
def execCloseEpochMark (q : QueueId) (s : State) : Host.Outcome State Fault Refusal :=
  .next <| s.runJob q.val (closeMine 1) (closeStart fun s j x =>
    let n := s.sched.nextStart - 1
    if (s.declared (epochOf x)).isNone || s.device.isNone then s.abortJob j dtWrongState
    else
      let s := { s with upd := { s.upd with marked := s.upd.marked ++ [(epochOf x, n)] } }
      s.markRun j { x with start := n }) State.markRun

/-- CLOSE_EPOCH FORCE (R145, R407). -/
def execCloseEpochForce (q : QueueId) (s : State) : Host.Outcome State Fault Refusal :=
  .next <| s.runOnce q.val (closeMine 2) (closeStart fun s j x =>
    match s.declared (epochOf x) with
    | none => s.abortJob j dtWrongState
    | some e =>
      if e.forced then s.finishJob j stEpochForced e.missingCount 0
      else if e.closed then s.finishJob j stOk 0 0
      else
        let s := s.setEpoch e.num fun e => { e with closed := true, forced := true }
        (s.updCtr fun c => { c with epochsForced := c.epochsForced + 1 }).finishJob j stEpochForced e.missingCount 0)

/-- The seam that applied the first epoch numbered `n` or higher; 0 for one older than the last 256 (R407). -/
def State.seamOf (s : State) (n : Nat) : Nat :=
  match s.upd.appliedSeams.filter fun a => n ≤ a.1 with
  | [] => 0
  | a :: r =>
    let best := r.foldl (fun b x => if x.1 < b.1 then x else b) a
    if (s.upd.appliedSeams.take 256).contains best then best.2 else 0

/-- AWAIT completes when the epoch has been applied (R147, R407). -/
def State.awaitRun (s : State) (j : JobRef) (x : Job) : State :=
  if epochOf x ≤ s.upd.lastApplied then s.finishJob j stOk (s.seamOf (epochOf x)) 0 else s

/-- CLOSE_EPOCH AWAIT (R147, R407). -/
def execCloseEpochAwait (q : QueueId) (s : State) : Host.Outcome State Fault Refusal :=
  .next <| s.runJob q.val (closeMine 3) (closeStart State.awaitRun) State.awaitRun

/-! ## Messages (R149, R273) -/

/-- Whether an UPDATE_RECORD message turned away counts: it passed the receive checks and is not a duplicate (R149). -/
def State.turnsAway (s : State) (f : Frame) : Bool :=
  match s.rxCheck f false, s.peer? f.srcDev with
  | .pass, some p => !(p.rx f.update).has f.seq
  | _, _ => false

/-- UPDATE_RECORD (R138, R149). -/
def execUpdateRecord (f : Frame) (rs : List UpdRec) (s : State) : Host.Outcome State Fault Refusal :=
  let room := (rs.map recBytes).sum ≤ s.bufFree
  if !room && s.turnsAway f then
    .next ((s.receive f false).1.updCtr fun c => { c with bufferFullHolds := c.bufferFullHolds + 1 })
  else
    match s.receive f room with
    | (s, true) => .next (rs.foldl State.takeRecord s)
    | (s, false) => .next s

/-- EPOCH_CLOSE (R143, R144). -/
def execEpochClose (f : Frame) (m : Marker) (s : State) : Host.Outcome State Fault Refusal :=
  match s.receive f with
  | (s, true) => .next (s.takeMarker m)
  | (s, false) => .next s

end Sys2Proof.Machine
end

