-- ==== Sys2Proof/Machine/Overlays.lean ====
section
/-! DEFINITION. What the UEs do for an epoch (05 R148, R150 to R156): new rows into overlays, write-back, and the catch-up
of a shadow (R158, R159). -/

namespace Sys2Proof.Machine

/-! ## Combining (R150) -/

/-- Insert a record by (CONTRIB, SEQ). -/
def recInsert (r : UpdRec) : List UpdRec → List UpdRec
  | [] => [r]
  | a :: l => if r.contrib < a.contrib ∨ (r.contrib = a.contrib ∧ r.seq < a.seq) then r :: a :: l else a :: recInsert r l

/-- Records in increasing (CONTRIB, SEQ). -/
def recSort (rs : List UpdRec) : List UpdRec := rs.foldr recInsert []

/-- The replacement with the largest (CONTRIB, SEQ). -/
def replacement (rs : List UpdRec) : Option UpdRec := ((recSort rs).filter (·.replace)).getLast?

/-- The new row: base plus the sum of all deltas (R150). -/
def combine (base : List F32) (rs : List UpdRec) : List F32 :=
  let base := match replacement rs with | some r => recVals r | none => base
  let deltas := (recSort rs).filter (!·.replace)
  let sum := deltas.foldl (fun a r => List.zipWith f32Add a (recVals r)) (base.map fun _ => 0)
  List.zipWith f32Add base sum

/-- The update of one row of one version by one epoch. -/
structure RowUpd where
  desc : Desc
  ver : Version
  row : Nat
  recs : List UpdRec
  deriving DecidableEq, Repr

/-- The row updates that records make to a version of a table. -/
def rowUpds (t : Table) (v : Version) (rs : List UpdRec) : List RowUpd :=
  let mine := rs.filter (·.table == t.desc.id)
  ((mine.map (·.index)).eraseDups).map fun i => ⟨t.desc, v, i, mine.filter (·.index == i)⟩

/-- The row updates of an epoch: lit, and a tracking shadow (R153, R159). -/
def State.epochUpds (s : State) (e : Nat) : List RowUpd :=
  let ks := s.upd.recs.filter (·.upd.epoch == e)
  s.tabs.tables.flatMap fun t =>
    rowUpds t t.lit ((ks.filter (·.forLit)).map (·.upd)) ++
    (match t.shadow with
     | some x => if x.tracking then rowUpds t x.ver ((ks.filter (·.forShadow)).map (·.upd)) else []
     | none => [])

/-- Find something out without an effect on the package; `a` where it cannot be found out. -/
def peeked {α : Type} (a : α) (m : Acc α) : Acc α := do
  let s ← get
  let r ← tryCatch m fun _ => return a
  set s
  return r

/-- The region that holds a row, whose UEs compute it (R150): that of its shard directory where the row's place cannot be read. -/
def rowRegion (d : Desc) (dir row : Nat) : Acc Nat := do
  let ag := { Agent.ue 0 with snoops := false }
  let home ← peeked 0 (homeRegion ag dir)
  peeked home (do
    match ← rowPlace ag d dir row with
    | some (a, _) => homeRegion ag a
    | none => return home)

/-- The header of a row whose body cannot be read (R244): 12 bytes, or nothing. -/
def headerOnly (ag : Agent) (x : RowUpd) (bound : Nat) : Acc (List Byte) :=
  forgive ag [] (do
    match (← get).overlayAt x.desc.id x.ver.num x.row bound with
    | some o => do
      readBuffer ag o.gran 12
      return o.bytes.take 12
    | none =>
      match ← rowPlace ag x.desc x.ver.dir x.row with
      | some (a, _) => readDva ag a 12
      | none => return [])

/-- A UE reads a record of the update buffer: one that it cannot read is discarded and counted (R244). -/
def readRec (ag : Agent) (r : UpdRec) : Acc Bool := do
  if !((← get).upd.recs.any (·.upd == r)) then return false
  let ok ← forgive ag false (do
    readBuffer ag (updGran r) (recBytes r)
    return true)
  if !ok then
    modify fun s => { s with upd := { s.upd with recs := s.upd.recs.filter (·.upd ≠ r) }
                             hbm := { s.hbm with updatePoisoned := s.hbm.updatePoisoned + 1 } }
  return ok

/-- A row before an update: the old body, or the header at least; `none` when neither can be read. -/
def rowBase (ag : Agent) (x : RowUpd) (bound : Nat) : Acc (Option (List Byte)) :=
  forgive ag none (do
    match ← rowAt ag x.desc x.ver x.row bound false with
    | some b => return some b
    | none => return some [])

/-- The new body of a row from the records that can be read (R150 to R152, R244); `none` when they are discarded. -/
def newBodyOf (ag : Agent) (x : RowUpd) (bound : Nat) : Acc (Option (List Byte)) := do
  let code (head : List Byte) (base : List F32) : Acc (List Byte) := do
    let s ← get
    let (body, limited) := recode x.desc (s.ctx 0).grid head ((rowVersion head + 1) % 2 ^ 32) (combine base x.recs)
    if limited then set (s.updCtr fun c => { c with escLimited := c.escLimited + 1 })
    return body
  match ← rowBase ag x bound with
  | some b => do
    let s ← get
    let (s, old) := s.decode x.desc (s.ctx 0).grid b
    set s
    return some (← code b old.vals)
  | none => do
    match replacement x.recs with
    | none => do
      modify fun s => { s with hbm := { s.hbm with updatePoisoned := s.hbm.updatePoisoned + 1 } }
      return none
    | some _ => return some (← code (← headerOnly ag x bound) [])

/-- The UEs of its region compute a row (R150); none is written when no record of it can be read. -/
def newBody (x : RowUpd) (bound : Nat) : Acc (Option (List Byte)) := do
  let ag := Agent.ue (← rowRegion x.desc x.ver.dir x.row)
  let recs ← x.recs.filterM (readRec ag)
  if recs.isEmpty then return none
  newBodyOf ag { x with recs := recs } bound

/-! ## EPOCH_READY (R146, R153) -/

/-- The overlays of an epoch. -/
def buildOverlays (e bound : Nat) : List RowUpd → Acc (List Overlay)
  | [] => return []
  | x :: xs => do
    let b ← newBody x bound
    let os ← buildOverlays e bound xs
    match b with
    | some b => return ⟨x.desc.id, x.ver.num, x.row, e, b, none⟩ :: os
    | none => return os

/-- Whether an epoch's overlays may be computed: it is closed, every lower one declared here has been applied, and no record of it waits
for the host. -/
def State.canCompute (s : State) (e : Epoch) : Bool :=
  e.closed && !e.ready && (s.upd.epochs.all fun x => e.num ≤ x.num) && !s.upd.parked.any fun r => r.epoch == e.num

/-- EPOCH_READY (R146, R150, R153). Overlays wait for no room in the update buffer: R149 has the intake of records alone wait, and has closed
epochs free space (DESIGN CHOICE, assumption 81). -/
def execEpochReady (epoch : Nat) (s : State) : Host.Outcome State Fault Refusal :=
  match s.epoch? epoch with
  | none => .next s
  | some e =>
    if !s.alive || !s.canCompute e then .next s
    else .next <| s.access (Agent.ue 0) (buildOverlays epoch s.pkg.seamCount (s.epochUpds epoch)) fun t os =>
      let t := os.foldl (fun s o => s.writeBuffer o.gran o.bytes.length) t
      t.staged fun s => ({ s with upd := { s.upd with overlays := s.upd.overlays ++ os } }).setEpoch epoch fun e => { e with ready := true }

/-! ## Write-back (R155) -/

/-- Pieces of a range cut at 64-byte boundaries. -/
def granPieces (a len : Nat) : List (Nat × Nat) :=
  (granules a len).map fun g =>
    let lo := max a (64 * g)
    (lo, min (a + len) (64 * g + 64) - lo)

/-- Write bytes granule by granule: a granule that cannot be read-modify-written stays as it is (R155). Whether all were
written. -/
def putRow (ag : Agent) (a : Nat) (bs : List Byte) : Acc Bool := do
  let oks ← (granPieces a bs.length).mapM fun (lo, n) =>
    forgive ag false (do
      let _ ← writeDva ag lo ((bs.drop (lo - a)).take n)
      return true)
  return oks.all id

/-- Write a row body into its stored place (R84, R155): whether the whole write was acknowledged. -/
def storeRow (d : Desc) (dir row : Nat) (body : List Byte) : Acc Bool := do
  let ag := Agent.ue (← rowRegion d dir row)
  let place ← forgive ag none (rowPlace ag d dir row)
  match place with
  | none => return false
  | some (a, side) => do
    let x ← putRow ag a (body.take d.stride)
    let y ← putRow ag (side + 2 * rowSideOffset body) (body.drop d.stride)
    return x && y

/-- Versions whose storage this package still has. -/
def Table.versions (t : Table) : List Version := t.lit :: (t.shadow.map (·.ver)).toList ++ t.retired.toList ++ t.dying

def Table.version? (t : Table) (num : Nat) : Option Version := t.versions.find? (·.num == num)

/-- Write one overlay back. Written, it goes, with every older overlay of its row; not written, it stays in place of the
older ones. -/
def writeOverlay (o : Overlay) : Acc Unit := do
  let s ← get
  let done ← match s.table? o.table with
    | none => pure true
    | some t =>
      match t.version? o.version with
      | none => pure true
      | some v => storeRow t.desc v.dir o.row o.bytes
  let gone (x : Overlay) : Bool :=
    x.table == o.table && x.version == o.version && x.row == o.row &&
    match x.seam, o.seam with
    | some a, some b => a < b || (a == b && done)
    | _, _ => false
  modify fun s => { s with upd := { s.upd with overlays := s.upd.overlays.filter (!gone ·) } }

/-- Whether a kept record stays for the catch-up of a shadow (R158). -/
def State.retains (s : State) (k : Kept) : Bool :=
  k.forShadow && match (s.table? k.upd.table).bind (·.shadow) with
    | some x => !x.tracking && x.baseEpoch < k.upd.epoch
    | none => false

/-- Records of an epoch that has been written back are freed, but for those that a shadow retains (R155, R158). -/
def State.freeRecs (s : State) (epoch : Nat) : State :=
  let keep (k : Kept) : Option Kept :=
    if k.upd.epoch ≠ epoch then some k else if s.retains k then some { k with retained := true } else none
  { s with upd := { s.upd with recs := s.upd.recs.filterMap keep } }

/-- Whether a step of a sequence below `n` has not left LOOKUP. -/
def State.lookupBelow (s : State) (n : Nat) : Bool :=
  (List.range 8).any fun i => (s.slot i).stepSeq < n &&
    ((s.slot i).phase = .admitted || (s.slot i).phase = .prefetch || (s.slot i).phase = .lookup)

/-- EPOCH_WRITE_BACK (R155): after every earlier step has left LOOKUP. -/
def execEpochWriteBack (epoch : Nat) (s : State) : Host.Outcome State Fault Refusal :=
  match s.upd.appliedSeams.find? (·.1 == epoch) with
  | none => .next s
  | some (_, n) =>
    if !s.alive || s.lookupBelow n then .next s
    else
      let mine := s.upd.overlays.filter fun o => o.epoch == epoch && o.seam.isSome
      .next <| s.access (Agent.ue 0) (mine.forM writeOverlay) fun s _ => s.freeRecs epoch

/-! ## Catch-up (R158, R159) -/

/-- The shade share of the region that holds a row's storage (R161). -/
def rowShade (x : RowUpd) : Acc Nat := do
  let ag := Agent.ue (← rowRegion x.desc x.ver.dir x.row)
  let place ← forgive ag none (rowPlace ag x.desc x.ver.dir x.row)
  match place with
  | none => return 100
  | some (a, _) => do
    let r ← homeRegion ag a
    return ((← get).regions[ix 8 r]).shadeLive

/-- Insert a number into a rising list, once (for epoch numbers). -/
def risingOf (l : List Nat) : List Nat := l.foldl (fun a n => insNat n a) []

/-- The row updates that a catch-up makes, epoch by epoch. -/
def State.catchUpds (s : State) (t : Table) (x : Shadow) : List RowUpd :=
  let ks := s.upd.recs.filter fun k => k.forShadow && k.upd.table == t.desc.id && x.baseEpoch < k.upd.epoch && k.upd.epoch ≤ s.upd.lastApplied
  (risingOf (ks.map (·.upd.epoch))).flatMap fun e => rowUpds t x.ver ((ks.filter (·.upd.epoch == e)).map (·.upd))

/-- Apply the updates of a catch-up to shadow storage, unless the rebuild of a region that has rows to write is paused: whether it was done.
A region without rows holds nothing up, whatever its share (DESIGN CHOICE, assumption 81). -/
def catchUp (us : List RowUpd) : Acc Bool := do
  let shades ← us.mapM rowShade
  if shades.contains 0 then return false
  us.forM fun x => do
    match ← newBody x 0 with
    | some b => do
      let _ ← storeRow x.desc x.ver.dir x.row b
      return ()
    | none => return ()
  return true

/-- The shadow is tracking: retained records are freed, and the swap is staged (R159). -/
def State.beginTracking (s : State) (id : Nat) (j : JobRef) : State :=
  let keep (k : Kept) : Option Kept :=
    if k.upd.table ≠ id || s.upd.lastApplied < k.upd.epoch then some k
    else if k.retained then none else some { k with forShadow := false }
  let s := ({ s with upd := { s.upd with recs := s.upd.recs.filterMap keep } }).unready
  let track (t : Table) : Table := { t with shadow := t.shadow.map fun x => { x with tracking := true }, swap := .staged }
  (s.staged fun s => s.setTable id track).finishStaged j

/-- Whether a FILL_TABLE on a version of a table, accepted before start number `n`, still runs (R159). -/
def State.filling (s : State) (id ver n : Nat) : Bool :=
  (s.queue 0).jobs.any fun x =>
    x.opcode == 0x22 && x.phase = .running && x.start < n && (x.p 0).field 0 12 == id && (x.p 0).field 32 32 == ver

/-- CATCH_UP_DONE (R159, R161). -/
def execCatchUpDone (table : Nat) (s : State) : Host.Outcome State Fault Refusal :=
  match s.table? table with
  | none => .next s
  | some t =>
    match t.swap, t.shadow with
    | .waiting j, some x =>
      let start := ((s.job? j).map (·.start)).getD 0
      if !s.serving || s.filling table x.ver.num start then .next s
      else .next <| s.access (Agent.ue 0) (catchUp (s.catchUpds t x)) fun s done =>
        if done then s.beginTracking table j else s
    | _, _ => .next s

end Sys2Proof.Machine
end

