-- ==== Sys2Proof/Machine/Tables.lean ====
section
/-! DEFINITION. The table opcodes (16 R400 to R403): DEFINE_TABLE, MAP_SHARDS, FILL_TABLE, BEGIN_SHADOW, SWAP_VERSION,
RELEASE_VERSION and SET_REFLECTIONS. -/

namespace Sys2Proof.Machine

/-- The checks that every table opcode begins with (R385, R400). -/
def tableStart (ok : Job → Bool) (k : State → JobRef → Job → State) (s : State) (j : JobRef) (x : Job) : State :=
  if !ok x then s.abortJob j dtBadParam
  else if s.model.res.isNone then s.abortJob j dtNoModel
  else k s j x

/-- The table that a parameter names. -/
def tableOf (x : Job) : Nat := (x.p 0).field 0 12

/-! ## DEFINE_TABLE (R74 to R76, R520) -/

/-- The codes of a descriptor's word 0, where none is reserved. -/
def formatAt (n : Nat) : Option Format := match n with | 0 => some .i8 | 1 => some .i4 | 2 => some .b8 | 3 => some .b4 | _ => none
def kindAt (n : Nat) : Option Kind := match n with | 0 => some .coded | 1 => some .hashed | 2 => some .composed | _ => none
def placementAt (n : Nat) : Option Placement :=
  match n with | 0 => some .everywhere | 1 => some .range | 2 => some .hash | _ => none

def Format.code : Format → Nat | .i8 => 0 | .i4 => 1 | .b8 => 2 | .b4 => 3
def Kind.code : Kind → Nat | .coded => 0 | .hashed => 1 | .composed => 2
def Placement.code : Placement → Nat | .everywhere => 0 | .range => 1 | .hash => 2

/-- A descriptor's bytes as a descriptor, when its codes are not reserved (R76). -/
def descAt (bs : List Byte) : Option Desc := do
  let f ← formatAt (fieldAt bs 0 16 4)
  let k ← kindAt (fieldAt bs 0 20 4)
  let p ← placementAt (fieldAt bs 0 24 2)
  return { id := fieldAt bs 0 0 12, format := f, kind := k, placement := p, index64 := bitOf (wordAt bs 0) 26,
           tolerant := bitOf (wordAt bs 0) 27, defaultZero := bitOf (wordAt bs 0) 28, multiply := bitOf (wordAt bs 0) 29,
           dim := fieldAt bs 0 32 11, shardsM1 := fieldAt bs 0 48 16, rows := fieldAt bs 1 0 41, geom := fieldAt bs 2 0 41,
           mixA := wordAt bs 3, mixB := wordAt bs 4, quot := fieldAt bs 5 0 12, rem := fieldAt bs 5 16 12,
           hedgeUs := fieldAt bs 5 32 16, shardMult := wordAt bs 6, defaultDva := fieldAt bs 7 0 48, directory := fieldAt bs 8 0 48 }

/-- The descriptor's bytes, with DEFAULT_ROW and DIRECTORY as 0, as the measurement takes them (R464). -/
def Desc.measured (d : Desc) : List Byte :=
  ([packFields [(d.id, 12), (0, 4), (d.format.code, 4), (d.kind.code, 4), (d.placement.code, 2), (b2n d.index64, 1),
      (b2n d.tolerant, 1), (b2n d.defaultZero, 1), (b2n d.multiply, 1), (0, 2), (d.dim, 11), (0, 5), (d.shardsM1, 16)],
    d.rows, d.geom, d.mixA, d.mixB, packFields [(d.quot, 12), (0, 4), (d.rem, 12), (0, 4), (d.hedgeUs, 16)], d.shardMult,
    0, 0, 0, 0, 0]).flatMap (leBytes 8)

/-- The reserved fields of a descriptor (R76). -/
def descReserved (bs : List Byte) : Bool :=
  fieldAt bs 0 12 4 == 0 && fieldAt bs 0 30 2 == 0 && fieldAt bs 0 43 5 == 0 && fieldAt bs 1 41 23 == 0 && fieldAt bs 2 41 23 == 0 &&
  fieldAt bs 5 12 4 == 0 && fieldAt bs 5 28 4 == 0 && fieldAt bs 5 48 16 == 0 && fieldAt bs 7 48 16 == 0 && fieldAt bs 8 48 16 == 0 &&
  wordAt bs 9 == 0 && wordAt bs 10 == 0 && wordAt bs 11 == 0

/-- The checks of R520. -/
def Desc.ok (d : Desc) : Bool :=
  8 ≤ d.dim && d.dim ≤ 1024 && d.dim % 8 == 0 && 1 ≤ d.rows && d.rows ≤ 2 ^ 40 &&
  (d.kind = .coded || (1 ≤ d.geom && d.geom ≤ 2 ^ 40)) && (d.placement ≠ .everywhere || d.shardsM1 == 0) &&
  (d.kind = .composed || d.directory ≠ 0)

/-- Whether a part table of a composed table meets R89. -/
def State.partOk (s : State) (dim need id : Nat) : Bool :=
  match s.table? id with
  | none => false
  | some t => t.desc.kind = .coded && t.desc.dim == dim && need ≤ t.desc.rows

/-- The rule of device scope that a descriptor breaks (R75 to R77, R89, R91, R93); the sizes of side-list areas, which
nothing tells, are left out of R91's sums. -/
def State.descBad (s : State) (bs : List Byte) (d : Desc) : Option Nat :=
  let size (x : Desc) : Nat := if x.placement = .everywhere && x.kind ≠ .composed then x.storageRows * x.stride else 0
  if (s.table? d.id).isSome then some 75
  else if !descReserved bs then some 76
  else if !d.index64 && 0xFFFFFFFF < d.rows then some 77
  else if d.kind = .composed && !(s.partOk d.dim (ceilDiv d.rows d.geom) d.quot && s.partOk d.dim d.geom d.rem) then some 89
  else if 2 ^ 28 < size d || 24 * 2 ^ 30 < size d + (s.tabs.tables.map fun t => size t.desc).sum then some 91
  else if d.kind ≠ .composed && d.placement ≠ .everywhere && d.storageRows < d.shards then some 93
  else none

/-- Insert a table by id. -/
def tableInsert (t : Table) : List Table → List Table
  | [] => [t]
  | a :: r => if t.desc.id < a.desc.id then t :: a :: r else a :: tableInsert t r

/-- What MR_TABLES measures (R464). -/
def measureTables (ts : List Table) : List Byte :=
  ts.flatMap fun t => t.desc.measured ++ (if t.desc.defaultZero then [] else t.defaultRow.flatMap fun v => leBytes 2 v.toNat)

/-- Define a table (R75, R86, R464). -/
def State.define (s : State) (d : Desc) (row : List BF16) : State :=
  let t : Table := { desc := d, defaultRow := row, lit := { num := 1, dir := d.directory } }
  let ts := tableInsert t s.tabs.tables
  { s with tabs := { s.tabs with tables := ts }, sec := { s.sec with mrTables := digest (measureTables ts) } }

/-- BF16 values of a row. -/
def bf16s (n : Nat) (bs : List Byte) : List BF16 := (List.range n).map fun i => BitVec.ofNat 16 (leNat ((bs.drop (2 * i)).take 2))

/-- Take a DEFINE_TABLE further: one that must not be issued is a host error of device scope (R5, R75). -/
def State.defineRun (s : State) (j : JobRef) (x : Job) : State :=
  s.withStruct j (x.p 0).toNat 96 fun s bs =>
    match descAt bs with
    | none => s.abortJob j dtBadParam
    | some d =>
      if !d.ok then s.abortJob j dtBadParam
      else if (s.descBad bs d).isSome then s.wrecked .device
      else if d.defaultZero then (s.define d (List.replicate d.dim 0)).finishJob j stOk 0 0
      else s.withStruct j d.defaultDva (2 * d.dim) fun s row => (s.define d (bf16s d.dim row)).finishJob j stOk 0 0

def oneDva (x : Job) : Bool := fits (x.p 0) [(0, 48)]

/-- DEFINE_TABLE (R75, R400, R520). -/
def execDefineTable (q : QueueId) (s : State) : Host.Outcome State Fault Refusal :=
  .next <| s.runJob q.val (isOp 0x20) (tableStart oneDva State.defineRun) State.defineRun

/-! ## MAP_SHARDS (R94 to R96, R401) -/

/-- The members of a shard entry; `none` for COUNT 0 (R94). -/
def shardMembers (w : Nat) : Option (List Nat) :=
  let n := fieldOf w 14 2
  if n = 0 then none else some ([fieldOf w 0 14, fieldOf w 16 14, fieldOf w 32 14].take n)

/-- Read sections from an offset: `ok` false where R401 is broken. -/
def readSections (ag : Agent) (dva : Nat) : Nat → Nat → Acc (Option (List MapSection))
  | 0, _ => return some []
  | n + 1, off => do
    let h ← readDva ag (dva + off) 16
    let s ← get
    match s.table? (fieldAt h 0 0 12) with
    | none => return none
    | some t =>
      if t.desc.placement = .everywhere || fieldAt h 0 16 16 ≠ t.desc.shardsM1 then return none
      let bs ← readDva ag (dva + off + 16) (8 * t.desc.shards)
      match (List.range t.desc.shards).mapM fun i => shardMembers (wordAt bs i) with
      | none => return none
      | some ms => do
        let rest ← readSections ag dva n (off + 16 + 8 * t.desc.shards)
        return rest.map (⟨t.desc.id, ms⟩ :: ·)

/-- Stage the sections of a map: each replaces the staged one of its table, and one equal to the live one cancels it
(R66, R96). A map whose sections all equal live ones stages nothing, and its MAP_TAG never becomes live (DESIGN CHOICE, assumption
58: no rule says whether a new tag alone is a pending change). -/
def State.stageMap (s : State) (secs : List MapSection) (tag : Nat) : State :=
  let ids := secs.map (·.table)
  let new := s.tabs.mapStaged.filter (fun m => !ids.contains m.table) ++ secs.filter fun m => !s.tabs.mapLive.contains m
  { s with tabs := { s.tabs with mapStaged := new, mapTagStaged := if new.isEmpty then none else some tag } }

/-- A command stages a map: the sections of tables for which no later command has staged one, and its tag likewise (R66, R96). -/
def State.stageMapFor (s : State) (j : JobRef) (secs : List MapSection) (tag : Nat) : State :=
  let mine := secs.filter fun m => !s.overruled j .map (m.table + 1)
  let tag := if s.overruled j .map 0 then s.tabs.mapTagStaged.getD s.tabs.mapTagLive else tag
  let s := s.staged fun s => s.stageMap mine tag
  (mine.map (·.table + 1)).foldl (fun s n => s.stagedBy j .map n) (if s.overruled j .map 0 then s else s.stagedBy j .map 0)

/-- Take a MAP_SHARDS further. A map of more entries than R94's 4,194,304 is staged like any other (DESIGN CHOICE, assumption 58: no
rule says what the K16 does beyond the limit). -/
def State.mapRun (s : State) (j : JobRef) (x : Job) : State :=
  let dva := (x.p 0).toNat
  s.withStruct j dva 32 fun s h =>
    let n := fieldAt h 0 0 32
    if n = 0 || 4096 < n then s.abortJob j dtBadParam
    else
      let ag := Agent.struct (s.ctxOf j.q) j
      s.access ag (readSections ag dva n 32) fun s secs =>
        match secs with
        | none => s.abortJob j dtBadParam
        | some l =>
          if wordAt h 2 ≠ (l.map (·.shards.length)).sum || !distinct (l.map (·.table)) then s.abortJob j dtBadParam
          else (s.stageMapFor j l (wordAt h 1)).finishStaged j

/-- MAP_SHARDS (R96, R401). -/
def execMapShards (q : QueueId) (s : State) : Host.Outcome State Fault Refusal :=
  .next <| s.runJob q.val (isOp 0x21) (tableStart oneDva State.mapRun) State.mapRun

/-! ## FILL_TABLE (R86, R161, R402) -/

def fillOk (x : Job) : Bool :=
  fits (x.p 0) [(0, 12), (32, 32)] && fits (x.p 1) [(0, 40)] && addrOk (x.p 2) && fits (x.p 3) [(0, 33)] &&
  1 ≤ (x.p 3).field 16 17 && (x.p 3).field 0 16 + (x.p 3).field 16 17 ≤ 65536

/-- Rows that a shard may hold (R93). -/
def Desc.shardRows (d : Desc) : Nat := if d.placement = .everywhere then d.storageRows else ceilDiv d.storageRows d.shards

/-- The version that a FILL_TABLE names: version 1 or the shadow, where this package holds it (R402); whether it is the
shadow. -/
def Table.fillVersion (t : Table) (num : Nat) : Option (Version × Bool) :=
  match t.shadow with
  | some x => if x.ver.num = num then some (x.ver, true) else if num = 1 then (t.served.find? (·.num == 1)).map (·, false) else none
  | none => if num = 1 then (t.served.find? (·.num == 1)).map (·, false) else none

/-- The block that a FILL_TABLE writes: DVAs of its first row and of its side-list area; `none` where the directory does
not hold the shard. -/
def fillBlock (ag : Agent) (v : Version) (shard block : Nat) : Acc (Option (Nat × Nat × Nat)) := do
  let bt ← shardEntry ag v.dir shard
  if bt = 0 then return none
  let e ← readDva ag (bt + 16 * block) 16
  let rows := fieldOf (leNat (e.take 8)) 0 48
  return some (rows, fieldOf (leNat (e.drop 8)) 0 48, ← homeRegion ag rows)

/-- Take a FILL_TABLE further: a fill of a shadow waits while its region's rebuild is paused (R161). -/
def State.fillRun (s : State) (j : JobRef) (x : Job) : State :=
  match s.table? (tableOf x) with
  | none => s.abortJob j dtWrongState
  | some t =>
    let shard := (x.p 1).field 0 16
    let block := (x.p 1).field 16 24
    match if t.desc.kind = .composed then none else t.fillVersion ((x.p 0).field 32 32) with
    | none => s.abortJob j dtWrongState
    | some (v, shadow) =>
      if t.desc.shards ≤ shard || ceilDiv t.desc.shardRows 65536 ≤ block then s.abortJob j dtBadParam
      else
        let ag := Agent.dma (s.ctxOf j.q) j
        s.accessDma ag (fillBlock ag v shard block) none fun s b =>
          match b with
          | none => s.abortJob j dtWrongState
          | some (rows, side, region) =>
            if shadow && s.regions[ix 8 region].shadeLive = 0 then s
            else
              let n := (x.p 3).field 16 17 * t.desc.stride
              s.withSource j (x.p 2) (n + 2 * (x.p 4).field 32 32) none fun s bs =>
                s.putDva j (rows + (x.p 3).field 0 16 * t.desc.stride) (bs.take n) none fun s =>
                  s.putDva j (side + 2 * (x.p 4).field 0 32) (bs.drop n) none fun s => s.finishJob j stOk 0 0

/-- Whether a FILL_TABLE that starts targets a first version that a step has bound, or a retired one (R86), or a shadow
whose swap has begun (R159). -/
def State.fillBad (s : State) (x : Job) : Bool :=
  match s.table? (tableOf x) with
  | none => false
  | some t =>
    match if t.desc.kind = .composed then none else t.fillVersion ((x.p 0).field 32 32) with
    | none => false
    | some (v, shadow) => if shadow then t.swap ≠ .none else t.bound || t.lit.num ≠ v.num

/-- FILL_TABLE (R86, R402). One that must not be issued is a host error of system scope (R5). -/
def execFillTable (q : QueueId) (s : State) : Host.Outcome State Fault Refusal :=
  let start (s : State) (j : JobRef) (x : Job) : State :=
    let t := s.fillRun j x
    if s.fillBad x then t.wrecked .system else t
  .next <| s.runJob q.val (isOp 0x22) (tableStart fillOk start) State.fillRun

/-! ## BEGIN_SHADOW (R157, R158) -/

def shadowOk (x : Job) : Bool :=
  fits (x.p 0) [(0, 12), (32, 32)] && fits (x.p 1) [(0, 48)] && x.p 1 ≠ 0 && fits (x.p 2) [(0, 32)]

/-- Records of epochs not yet applied are kept for the new shadow too, where it holds their shards (R138, R158). -/
def joinShadow (t : Table) (v : Version) (base : Nat) (ks : List Kept) : Acc (List Kept) :=
  ks.mapM fun k => do
    if k.upd.table ≠ t.desc.id || k.upd.epoch ≤ base || k.retained then return k
    return { k with forShadow := ← holds t.desc v k.upd.index }

/-- Take a BEGIN_SHADOW further. Where a shadow or a low V and a low base come together, the earlier case gives the detail (DESIGN CHOICE,
assumption 80: R157 does not order its cases). -/
def State.shadowRun (s : State) (j : JobRef) (x : Job) : State :=
  match s.table? (tableOf x) with
  | none => s.abortJob j dtWrongState
  | some t =>
    let v := (x.p 0).field 32 32
    let base := (x.p 2).field 0 32
    if t.desc.kind = .composed then s.abortJob j dtWrongState
    else if t.shadow.isSome || v ≤ t.highest then s.finishJob j stVersionBusy (Config.openDetail stVersionBusy).toNat 0
    else if base < s.upd.lastApplied then s.finishJob j stVersionBusy s.upd.lastApplied 0
    else
      let ver : Version := { num := v, dir := (x.p 1).toNat }
      s.access (Agent.ue 0) (joinShadow t ver base s.upd.recs) fun s ks =>
        let s := { s with upd := { s.upd with recs := ks } }
        let s := s.setTable t.desc.id fun t => { t with shadow := some { ver := ver, baseEpoch := base }, highest := v }
        s.finishJob j stOk 0 0

/-- BEGIN_SHADOW (R157, R158, R403). -/
def execBeginShadow (q : QueueId) (s : State) : Host.Outcome State Fault Refusal :=
  .next <| s.runJob q.val (isOp 0x23) (tableStart shadowOk State.shadowRun) State.shadowRun

/-! ## SWAP_VERSION and RELEASE_VERSION (R159, R403, R71) -/

def oneTable (x : Job) : Bool := fits (x.p 0) [(0, 12)]

/-- Begin a SWAP_VERSION: it waits for its rebuild (CATCH_UP_DONE). -/
def State.swapStart (s : State) (j : JobRef) (x : Job) : State :=
  match s.table? (tableOf x) with
  | none => s.abortJob j dtWrongState
  | some t =>
    if t.swap ≠ .none then s.finishJob j stVersionBusy 1 0
    else if t.shadow.isNone || (t.retired.isSome && !t.releaseStaged) then
      s.finishJob j stVersionBusy (Config.openDetail stVersionBusy).toNat 0
    else s.setTable t.desc.id fun t => { t with swap := .waiting j }

/-- SWAP_VERSION (R159, R403). -/
def execSwapVersion (q : QueueId) (s : State) : Host.Outcome State Fault Refusal :=
  .next <| s.runOnce q.val (isOp 0x24) (tableStart oneTable State.swapStart)

/-- RELEASE_VERSION (R71, R403). -/
def execReleaseVersion (q : QueueId) (s : State) : Host.Outcome State Fault Refusal :=
  .next <| s.runOnce q.val (isOp 0x25) (tableStart oneTable fun s j x =>
    match s.table? (tableOf x) with
    | none => s.abortJob j dtWrongState
    | some t =>
      if t.retired.isNone || t.releaseStaged then s.finishJob j stVersionBusy 0 0
      else (s.staged fun s => s.setTable t.desc.id fun t => { t with releaseStaged := true }).finishStaged j)

/-! ## SET_REFLECTIONS (R127, R400) -/

/-- The reflection set at a DVA (R127). -/
def readSet (ag : Agent) (dva : Nat) : Acc ReflSet := do
  let h ← readDva ag dva 32
  let n := fieldAt h 0 0 21
  let m := fieldAt h 1 0 21
  let hs ← readDva ag (dva + 32) (16 * n)
  let ps ← readDva ag (dva + 32 + 16 * n) (16 * m)
  let gs ← readDva ag (fieldAt h 3 0 48) (8 * fieldAt h 2 0 16)
  let groups ← (List.range (fieldAt h 2 0 16)).mapM fun g => do
    let a := fieldAt gs g 0 48
    let c ← readDva ag a 8
    let bs ← readDva ag (a + 8) (2 * fieldAt c 0 0 14)
    return (List.range (fieldAt c 0 0 14)).map fun i => leNat ((bs.drop (2 * i)).take 2) % 2 ^ 14
  return { dva := dva, groups := groups,
           held := (List.range n).map fun i =>
             { table := fieldAt hs (2 * i) 0 12, row := fieldAt hs (2 * i) 16 41, dva := fieldAt hs (2 * i + 1) 0 48 },
           push := (List.range m).map fun i =>
             (fieldAt ps (2 * i) 0 12, fieldAt ps (2 * i) 16 41, fieldAt ps (2 * i + 1) 0 16) }

/-- Take a SET_REFLECTIONS further: the live set's DVA cancels a pending change (R66). -/
def State.reflRun (s : State) (j : JobRef) (x : Job) : State :=
  let ag := Agent.struct (s.ctxOf j.q) j
  s.access ag (readSet ag (x.p 0).toNat) fun s r =>
    let same := (s.tabs.refl.map (·.dva)) == some r.dva
    (s.stageFor j .reflections fun s => { s with tabs := { s.tabs with reflStaged := if same then none else some r } }).finishStaged j

/-- SET_REFLECTIONS (R127, R400). -/
def execSetReflections (q : QueueId) (s : State) : Host.Outcome State Fault Refusal :=
  .next <| s.runJob q.val (isOp 0x26) (tableStart oneDva State.reflRun) State.reflRun

end Sys2Proof.Machine
end

