-- ==== Sys2Proof/Machine/Settings.lean ====
section
/-! DEFINITION. Settings and sequences: SET_BRIM, SET_REGION_LIMITS, SET_PORT_CONFIG, SET_DIM and SET_GRID (16 R410; 02 R62 to
R67), RECORD_SEQUENCE and RUN_SEQUENCE (15 R374 to R377; 16 R405). -/

namespace Sys2Proof.Machine

/-! ## Settings -/

/-- SET_BRIM (R410). -/
def execSetBrim (q : QueueId) (s : State) : Host.Outcome State Fault Refusal :=
  .next <| s.runOnce q.val (isOp 0x60) fun s j x =>
    let n := (x.p 0).toNat
    if !fits (x.p 0) [(0, 4)] || 8 < n then s.abortJob j dtBadParam
    else (s.staged fun s => { s with sched := { s.sched with brimStaged := stageValue s.sched.brimLive n } }).finishStaged j

/-- The word of a region in SET_REGION_LIMITS: in range when its mask bit is set, 0 otherwise (R410). -/
def limitOk (x : Job) (r : Nat) : Bool :=
  let w := x.p (1 + r)
  if (x.p 0).getLsbD r then
    fits w [(0, 10), (16, 7)] && 600 ≤ w.field 0 10 && w.field 0 10 ≤ 850 && w.field 16 7 ≤ 100
  else w == 0

def limitsOk (x : Job) : Bool := fits (x.p 0) [(0, 8)] && (List.range 8).all (limitOk x)

/-- Stage the limits of the masked regions. -/
def State.stageLimits (s : State) (x : Job) : State :=
  ((List.range 8).filter fun r => (x.p 0).getLsbD r).foldl (fun s r =>
    let w := x.p (1 + r)
    s.setRegion r fun g => { g with ceilStaged := stageValue g.ceilLive (w.field 0 10), shadeStaged := stageValue g.shadeLive (w.field 16 7) }) s

/-- SET_REGION_LIMITS (R410). -/
def execSetRegionLimits (q : QueueId) (s : State) : Host.Outcome State Fault Refusal :=
  .next <| s.runOnce q.val (isOp 0x61) fun s j x =>
    if limitsOk x then (s.staged fun s => s.stageLimits x).finishStaged j else s.abortJob j dtBadParam

/-- A port configuration block (R267). -/
def portCfgAt (bs : List Byte) : PortCfg :=
  { device := fieldAt bs 0 0 14, domain := fieldAt bs 0 16 16, udpPort := fieldAt bs 0 32 16, dscp := fieldAt bs 0 48 6,
    pfx := wordAt bs 1, enable := BitVec.ofNat 16 (fieldAt bs 2 0 16),
    macs := (List.range 16).map fun p => (fieldAt bs (4 + 2 * p) 0 48, fieldAt bs (5 + 2 * p) 0 48), word0 := wordAt bs 0 }

/-- The reserved fields of a port configuration block. -/
def portCfgOk (bs : List Byte) : Bool :=
  fieldAt bs 0 14 2 == 0 && fieldAt bs 0 54 10 == 0 && fieldAt bs 2 16 48 == 0 && wordAt bs 3 == 0 &&
  (List.range 32).all fun i => fieldAt bs (4 + i) 48 16 == 0

/-- Stage a port configuration (R66, R267). -/
def State.stagePorts (s : State) (c : PortCfg) : State :=
  { s with fab := { s.fab with cfgStaged := if s.fab.cfgLive = some c then none else some c } }

/-- Take a SET_PORT_CONFIG further. -/
def State.portsRun (s : State) (j : JobRef) (x : Job) : State :=
  s.withStruct j (x.p 0).toNat 288 fun s bs =>
    if portCfgOk bs then (s.stageFor j .ports fun s => s.stagePorts (portCfgAt bs)).finishStaged j else s.abortJob j dtBadParam

/-- SET_PORT_CONFIG (R267, R410). -/
def execSetPortConfig (q : QueueId) (s : State) : Host.Outcome State Fault Refusal :=
  .next <| s.runJob q.val (isOp 0x62) (fun s j x => if oneDva x then s.portsRun j x else s.abortJob j dtBadParam) State.portsRun

/-- A dim configuration (R308, R410). -/
def dimOk (x : Job) : Bool :=
  let g := (x.p 0).field 8 5
  fits (x.p 0) [(0, 1), (8, 5), (16, 32)] && x.p 1 == 0 && (g == 0 || (12 ≤ g && g ≤ 18))

/-- SET_DIM (R308, R410). -/
def execSetDim (q : QueueId) (s : State) : Host.Outcome State Fault Refusal :=
  .next <| s.runOnce q.val (isOp 0x63) fun s j x =>
    if dimOk x then
      (s.staged fun s => { s with dim := { s.dim with cfgStaged := stageValue s.dim.cfgLive (x.p 0) } }).finishStaged j
    else s.abortJob j dtBadParam

/-- A grid table (R167). -/
def gridAt (bs : List Byte) : Grid :=
  let e (i : Nat) : BitVec 12 := BitVec.ofNat 12 (leNat ((bs.drop (2 * i)).take 2))
  ⟨(List.range 256).map e, (List.range 16).map fun i => e (256 + i)⟩

/-- Take a SET_GRID further. -/
def State.gridRun (s : State) (j : JobRef) (x : Job) : State :=
  s.withStruct j (x.p 0).toNat 544 fun s bs =>
    let c := s.ctxOf j.q
    (s.stageFor j (.grid c) fun s => s.setCtx c fun y => { y with gridStaged := stageValue y.grid (gridAt bs) }).finishStaged j

/-- SET_GRID (R167, R410). -/
def execSetGrid (q : QueueId) (s : State) : Host.Outcome State Fault Refusal :=
  .next <| s.runJob q.val (isOp 0x64) (fun s j x => if oneDva x then s.gridRun j x else s.abortJob j dtBadParam) State.gridRun

/-! ## Sequences -/

/-- Fields of RECORD_SEQUENCE (R405). -/
def seqOk (x : Job) : Bool :=
  let n := (x.p 0).field 16 13
  let m := (x.p 0).field 32 13
  fits (x.p 0) [(0, 10), (16, 13), (32, 13)] && fits (x.p 1) [(0, 48)] && fits (x.p 2) [(0, 48)] && 1 ≤ n && n ≤ 4096 &&
  m ≤ 4096 && (m ≠ 0 || x.p 2 == 0)

/-- The conditions of R374 on a body's entry. -/
def bodyEntryOk (ctx : Nat) (ws : List Word) : Bool :=
  let w := ws.getD 0 0
  w.field 32 16 == ctx && !([0x31, 0x32, 0x7F].contains (w.field 0 16))

/-- A patch slot: (entry, word), when it keeps R374. -/
def patchAt (n v : Nat) : Option (Nat × Nat) :=
  let e := fieldOf v 0 12
  let w := fieldOf v 12 4
  if fieldOf v 16 16 = 0 ∧ e < n ∧ 1 ≤ w then some (e, w) else none

/-- Patch slots on the package, those of sequence `id` apart. -/
def State.patchCount (s : State) (id : Nat) : Nat := ((s.seqs.filter (·.id ≠ id)).map (·.patches.length)).sum

/-- Record a sequence whose body and list have been read. -/
def State.recordSeq (s : State) (j : JobRef) (x : Job) (body list : List Byte) : State :=
  let c := s.ctxOf j.q
  let id := (x.p 0).field 0 10
  let n := (x.p 0).field 16 13
  let m := (x.p 0).field 32 13
  let es := (List.range n).map fun i => wordsOf 16 (body.drop (128 * i))
  match (List.range m).mapM fun i => patchAt n (leNat ((list.drop (4 * i)).take 4)) with
  | none => s.abortJob j dtBadParam
  | some ps =>
    if !es.all (bodyEntryOk c) then s.abortJob j dtBadParam
    else if s.seqs.any fun r => r.id == id && r.ctx ≠ c then s.abortJob j dtWrongState
    else if 65536 < s.patchCount id + m then s.abortJob j dtNoResource
    else
      let r : RecSeq := { id := id, ctx := c, body := es, patches := ps, bodyDva := (x.p 1).toNat }
      ({ s with seqs := r :: s.seqs.filter (·.id ≠ id) }).finishJob j stOk 0 0

/-- Take a RECORD_SEQUENCE further. -/
def State.recordRun (s : State) (j : JobRef) (x : Job) : State :=
  let n := (x.p 0).field 16 13
  let m := (x.p 0).field 32 13
  s.withStruct j (x.p 1).toNat (128 * n) fun s body =>
    if m = 0 then s.recordSeq j x body []
    else s.withStruct j (x.p 2).toNat (4 * m) fun s list => s.recordSeq j x body list

/-- RECORD_SEQUENCE (R374, R375, R405). -/
def execRecordSequence (q : QueueId) (s : State) : Host.Outcome State Fault Refusal :=
  .next <| s.runJob q.val (isOp 0x31) (fun s j x => if seqOk x then s.recordRun j x else s.abortJob j dtBadParam) State.recordRun

/-- An entry's words with its patch slots read from device memory (R376). -/
def patched (ag : Agent) (ws : List Word) (slots : List (Nat × Nat)) : Acc (List Word) := do
  let vs ← slots.mapM fun p => do
    let b ← readDva ag p.2 8
    return (p.1, BitVec.ofNat 64 (leNat b))
  return vs.foldl (fun ws v => ws.set v.1 v.2) ws

/-- The front end takes an entry: R364 applies to the combined command. -/
def State.taken (s : State) (q : Nat) (ws : List Word) (x : Job) : Job :=
  let j := { jobOf ws with seq := x.seq, parent := x.parent }
  match checkJob q (s.ctxOf q) j with
  | some d => { s.rejected d j with parent := x.parent }
  | none => { j with aux := [] }

/-- The first entry of a RUN_SEQUENCE that the front end has not taken. -/
def Queue.nextEntry (x : Queue) : Option (Job × List Word × List (Nat × Nat)) :=
  (x.jobs.find? fun j => j.take.isSome && !j.ended).bind fun j => j.take.map fun t => (j, t.1, t.2)

/-- Take the entries of a RUN_SEQUENCE in turn, at most `fuel` of them. -/
def State.takeEntries (s : State) (q : Nat) : Nat → State
  | 0 => s
  | fuel + 1 =>
    if s.errorsOf (s.ctxOf q) 2 then s
    else
      match (s.queue q).nextEntry with
      | none => s
      | some (j, ws, slots) =>
        let ag := fetchAgent (s.ctxOf q)
        s.access ag (patched ag ws slots) fun s ws => (s.setJob ⟨q, j.seq⟩ (s.taken q ws)).takeEntries q fuel

/-- Why a RUN_SEQUENCE runs nothing: the detail. -/
def badSequence (own : Job) : Nat := if fits (own.p 0) [(0, 10)] then dtWrongState else dtBadParam

/-- RUN_SEQUENCE (R376, R405): it expands in place, and its entries are taken in turn. -/
def execRunSequence (q : QueueId) (s : State) : Host.Outcome State Fault Refusal :=
  let c := s.ctxOf q.val
  if !s.serving || (s.queue q.val).st ≠ .running || (s.ctx c).st ≠ .opened || s.errorsOf c 2 then .next s
  else
    match (s.queue q.val).expand with
    | none => .next (s.takeEntries q.val 4096)
    | some own =>
      match s.seqOf c own with
      | none => .next ((s.expandNow q.val).abortJob ⟨q.val, (s.queue q.val).nextSeq⟩ (badSequence own))
      | some r => .next ((s.expandNow q.val).takeEntries q.val r.body.length)

end Sys2Proof.Machine
end

