-- ==== Sys2Proof/Machine/Monitors.lean ====
section
/-! DEFINITION. READ_MONITORS (16 R411, R413, R414) and the words of its groups (R133, R162, R238, R259, R292, R312, R333,
R356, R484). -/

namespace Sys2Proof.Machine

def LookupCounters.words (c : LookupCounters) : List Nat :=
  [c.indices, c.defaultReads, c.dedupMerged, c.dedupOverflow, c.prefetchReused, c.prefetchSkipped, c.reflectionReads,
   c.remoteEntries, c.entriesServed, c.partialsSent, c.partialsDiscarded, c.notHeldSent, c.pushesHeld, c.pushesStale]

/-- Group 0x01 (R162). -/
def State.updWords (s : State) : List Nat :=
  let c := s.upd.ctr
  [c.recordsTaken, c.recordsReceived, c.recordsInvalid, c.recordsNotHeld, c.recordsLate, c.recordsAfterMark, c.recordsUndeclared,
   c.bufferFullHolds, c.epochsApplied, c.epochsForced, c.rowsApplied, c.declMismatch, c.escLimited, s.bufInUse]

/-- Group 0x02 (R238). -/
def Tiers.words (t : Tiers) : List Nat :=
  t.stalls.toList ++ t.stallTime.toList ++
  [t.evictions, t.writebackSectors, t.discardedDirty, t.poisonedPages, t.stallLimits, t.leaseRefused]

def Stack.words (k : Stack) : List Nat :=
  [k.corrected, k.uncorrectable, k.poisonTouches, packFields [(twos 16 k.temp, 16), (k.level.code, 2), (b2n k.sensorFault, 1)],
   k.timeL75, k.timeL50, k.servePoisoned, k.pagesWeak]

/-- Group 0x03 (R259). -/
def Hbm.words (h : Hbm) : List Nat := h.stk.toList.flatMap Stack.words ++ [h.retired.length, h.updatePoisoned]

def Port.words (p : Port) : List Nat :=
  [packFields [(p.st.code, 3), (p.laneFault.toNat, 8), (b2n p.laserLow, 1)], p.fecCorrected, p.fecUncorrectable, p.downEvents]

/-- Group 0x04 (R292). -/
def State.fabWords (s : State) : List Nat :=
  let c := s.fab.ctr
  [c.messagesSent, c.messagesDelivered, c.retransmits, c.duplicates, c.framesForeign, c.framesDroppedCheck, c.framesStaleInc,
   c.rxDropped, c.ceReceived, c.windowReductions, c.messagesAbandoned, packFields [(s.pkg.incarnation, 32), (s.peerList.length, 32)],
   0, 0, 0, 0] ++ s.fab.ports.toList.flatMap Port.words ++ s.fab.ports.toList.flatMap (·.laneSymbols)

/-- Group 0x05 (R312). -/
def StragglerCounters.words (c : StragglerCounters) : List Nat :=
  [c.hedgesThreshold, c.hedgesNotHeld, c.hedgesLost, c.entriesExhausted, c.answersRedundant, c.lateReplies, c.rowsDefaulted,
   c.stepsWithDefaults, c.skewAnswers, c.stepsWithSkew, c.strictStalls, c.strictStallTime, c.strictUnreachable, c.peersLost,
   c.dimEntries, c.dimTime]

/-- Group 0x06 (R333). -/
def Cxl.words (x : Cxl) : List Nat :=
  let c := x.ctr
  [c.linkRecoveries, packFields [(x.width, 5), (x.rate, 3)], c.biInvSent, c.biDataSent, c.sfEvictions, c.hostPoisonWrites,
   c.hostPoisonReads, c.p2pRejected, c.d2hReadLines, c.d2hWriteLines]

/-- Group 0x07 (R356). -/
def Xlat.words (x : Xlat) : List Nat :=
  let c := x.ctr
  [c.tlbMisses, c.walkReads, c.dvaFaults, c.atsRequests, c.atcMisses, x.held.length, c.heldWaits, c.priRequests, c.priUnresolved,
   c.invalidations, c.invalidationsDelayed, c.withdrawals, c.invalidateHoldTime]

/-- Sixteen times the target pace in DERATE, temperatures in 1/16 °C (R479). -/
def derate16 (t : Int) : Int := 625 * 16 - 25 * (t - 1600)

/-- A number of sixteenths rounded to the nearest whole number, a tie to the even one (R180). -/
def roundSixteenth (v : Int) : Int := if 8 < v % 16 ∨ v % 16 = 8 ∧ v / 16 % 2 = 1 then v / 16 + 1 else v / 16

/-- The TARGET field (R479, R484); every rounding in the K16 is to nearest even (R180). -/
def Region.target (r : Region) : Nat :=
  match r.state with
  | .normal => 625
  | .over => 0
  | .derate => (roundSixteenth (derate16 r.temp)).toNat

def RegState.code : RegState → Nat
  | .normal => 0 | .derate => 1 | .over => 2

/-- The reading of a sensor as a field: 0x8000 when it is faulted. -/
def sensorField (fault : Bool) (t : Int) : Nat := if fault then 0x8000 else twos 16 t

/-- Words of one region (R484). -/
def Region.words (r : Region) : List Nat :=
  let t (i : Nat) : Nat × Nat := (sensorField (r.faulted.getD i false) (r.temps.getD i 0), 16)
  let f (i : Nat) : Nat × Nat := (b2n (r.faulted.getD i false), 1)
  [packFields [(r.setpoint, 10), (0, 6), (r.vmon0, 10), (0, 6), (r.vmon1, 10), (0, 6), (r.ceilLive, 10)],
   packFields [t 0, t 1, t 2, t 3],
   packFields [(r.paceMre, 16), (r.paceGe, 16), (r.target, 16), (r.vBase, 10)],
   packFields [(r.proc0, 16), (r.proc1, 16), (r.state.code, 2), (b2n r.idle, 1), (b2n r.limiting, 1), f 0, f 1, f 2, f 3, (0, 8),
     (twos 16 r.tempMax, 16)],
   packFields [(r.current, 16)], r.timeHot, r.timeLimiting, r.energy]

def OptEngine.word (e : OptEngine) : Nat :=
  packFields [(sensorField e.fault e.temp, 16), (twos 16 e.tempMax, 16), (b2n e.hot, 1), (b2n e.fault, 1)]

/-- Group 0x08 (R484). -/
def State.powerWords (s : State) : List Nat :=
  s.regions.toList.flatMap Region.words ++ s.oes.toList.map OptEngine.word ++
  [s.power.pkgEnergy, packFields [(s.power.pkgCurrent, 16), (s.power.vinMv, 16)]]

/-- A setting's pair of words: live, and staged where one is. -/
def pairOf (live : Nat) (staged : Option Nat) : List Nat := [live, staged.getD live]

/-- Group 0x0C (R413). -/
def State.settingWords (s : State) : List Nat :=
  let cfg := (s.fab.cfgLive.map (·.word0)).getD 0
  let refl := (s.tabs.refl.map (·.dva)).getD 0
  pairOf s.sched.brimLive s.sched.brimStaged ++ pairOf s.dim.cfgLive.toNat (s.dim.cfgStaged.map (·.toNat)) ++
  pairOf cfg (s.fab.cfgStaged.map (·.word0)) ++ pairOf s.model.setLive s.model.setStaged ++
  pairOf s.tabs.mapTagLive s.tabs.mapTagStaged ++ pairOf refl (s.tabs.reflStaged.map (·.dva)) ++
  s.regions.toList.flatMap fun r =>
    let w (c h : Nat) : Nat := packFields [(c, 10), (0, 6), (h, 7)]
    [w r.ceilLive r.shadeLive, w (r.ceilStaged.getD r.ceilLive) (r.shadeStaged.getD r.shadeLive)]

/-- The two words of a table in group 0x0D. -/
def State.versionWords (s : State) (id : Nat) : List Nat :=
  match s.table? id with
  | none => [0, 0]
  | some t =>
    [packFields [(t.lit.num, 32), ((t.shadow.map (·.ver.num)).getD 0, 32)],
     packFields [((t.retired.map (·.num)).getD 0, 32), (b2n (t.swap ≠ .none), 1), (b2n t.releaseStaged, 1)]]

/-- A grid table's bytes (R167). -/
def Grid.bytes (g : Grid) : List Byte := (g.b8 ++ g.b4).flatMap fun v => leBytes 2 v.toNat

/-- Words that bytes spell. -/
def natWords (bs : List Byte) : List Nat := (wordsOf (bs.length / 8) bs).map (·.toNat)

/-- Group 0x0E (R413). -/
def Ctx.gridWords (c : Ctx) : List Nat := natWords c.grid.bytes ++ natWords (c.gridStaged.getD c.grid).bytes

/-- Insert an epoch by number. -/
def epochInsert (e : Epoch) : List Epoch → List Epoch
  | [] => [e]
  | a :: r => if e.num < a.num then e :: a :: r else a :: epochInsert e r

/-- Group 0x10 (R413). -/
def State.epochWords (s : State) : List Nat :=
  let es := s.upd.epochs.foldl (fun l e => epochInsert e l) []
  s.upd.lastApplied :: es.length :: es.map fun e =>
    packFields [(e.num, 32), (b2n e.closed, 1), (b2n e.ready, 1), (0, 14), (min 0xFFFF e.missingCount, 16)]

/-- The words of a group, for a queue of context `c` (R413). -/
def State.group (s : State) (c : Nat) : Nat → List Nat
  | 0x00 => s.lookups.words
  | 0x01 => s.updWords
  | 0x02 => s.tiers.words
  | 0x03 => s.hbm.words
  | 0x04 => s.fabWords
  | 0x05 => s.strag.words
  | 0x06 => s.cxl.words
  | 0x07 => s.xlat.words
  | 0x08 => s.powerWords
  | 0x09 => s.hbm.retired.length :: s.hbm.retired.map (· * 4096)
  | 0x0A => (List.range 4096).map fun t => countOf s.tabs.escOverrun t
  | 0x0B => s.ctxs.toList.flatMap fun x => [x.submitted, x.completed, x.faulted]
  | 0x0C => s.settingWords
  | 0x0D => (List.range 4096).flatMap s.versionWords
  | 0x0E => (s.ctx c).gridWords
  | 0x0F => s.hbm.report.length :: s.hbm.report.map (· * 4096)
  | _ => s.epochWords

/-- Write a job's result, then end it (R388). -/
def State.writeResult (s : State) (j : JobRef) (dva : Nat) (bs : List Byte) (detail counts : Nat) : State :=
  s.putDva j dva bs none fun s => s.finishJob j stOk detail counts

def monitorsOk (x : Job) : Bool :=
  fits (x.p 0) [(0, 8)] && (x.p 0).toNat ≤ 0x10 && fits (x.p 1) [(0, 48)] && (x.p 1).toNat % 8 == 0 && fits (x.p 2) [(0, 32)]

/-- Take a READ_MONITORS further: its words are read in ascending order, each at an instant of its own, up to `words` of them in this
run (R414); what has been read stands in the job's data. -/
def State.monitorsRun (words : Nat) (s : State) (j : JobRef) (x : Job) : State :=
  let ws := s.group (s.ctxOf j.q) (x.p 0).toNat
  let n := min ws.length (x.p 2).toNat
  let got := x.data ++ ((ws.drop (x.data.length / 8)).take words).flatMap (leBytes 8)
  if got.length < 8 * n then s.setJob j fun x => { x with data := got }
  else (s.setJob j fun x => { x with data := got }).writeResult j (x.p 1).toNat (got.take (8 * n)) ws.length n

/-- READ_MONITORS (R411, R413, R414). -/
def execReadMonitors (r : MonitorsRun) (s : State) : Host.Outcome State Fault Refusal :=
  .next <| s.runJob r.q.val (isOp 0x70)
    (fun s j x => if monitorsOk x then s.monitorsRun r.words j x else s.abortJob j dtBadParam) (State.monitorsRun r.words)

end Sys2Proof.Machine
end

