-- ==== Sys2Proof/Machine/Xmss.lean ====
section
/-! DEFINITION. The verification of XMSS and XMSS^MT signatures with SHAKE256, n = 32 and w = 16 (19 R457 check 4, R469 check
6). The manual names SP 800-208 and gives no text of it: the functions below are PRESUMED from it and from RFC 8391
(assumption 9). -/

namespace Sys2Proof.Machine.Xmss

/-- The standard's hash functions: `tag` 0 is F, 1 is H, 2 is H_msg, 3 is PRF. -/
def hash (tag : Nat) (key m : List Byte) : List Byte := digest (beBytes 32 tag ++ key ++ m)

def xor (a b : List Byte) : List Byte := List.zipWith (· ^^^ ·) a b

/-- A place in the structure: layer, tree, type (0: one-time key, 1: L-tree, 2: hash tree), and the three words that the type gives
their meaning. -/
structure Place where
  layer : Nat := 0
  tree : Nat := 0
  kind : Nat := 0
  a : Nat := 0
  b : Nat := 0
  c : Nat := 0
  deriving DecidableEq, Repr

/-- The 32-byte address of a place; `part` says whether the key or a mask is derived there. -/
def Place.bytes (p : Place) (part : Nat) : List Byte :=
  beBytes 4 p.layer ++ beBytes 8 p.tree ++ beBytes 4 p.kind ++ beBytes 4 p.a ++ beBytes 4 p.b ++ beBytes 4 p.c ++ beBytes 4 part

/-- What the public seed derives at a place. -/
def derive (seed : List Byte) (p : Place) (part : Nat) : List Byte := hash 3 seed (p.bytes part)

/-- `n` links of a chain, from link number `i`; `p.b` is the chain. -/
def links (seed : List Byte) (p : Place) : Nat → Nat → List Byte → List Byte
  | 0, _, x => x
  | n + 1, i, x =>
    let here := { p with c := i }
    links seed p n (i + 1) (hash 0 (derive seed here 0) (xor x (derive seed here 1)))

/-- The parent of two nodes. -/
def parent (seed : List Byte) (p : Place) (l r : List Byte) : List Byte :=
  hash 1 (derive seed p 0) (xor l (derive seed p 1) ++ xor r (derive seed p 2))

/-- The digits in base 16 that a one-time signature signs: 64 of the message, 3 of the checksum. -/
def digits (m : List Byte) : List Nat :=
  let ds := m.flatMap fun b => [b.toNat / 16, b.toNat % 16]
  let sum := (ds.map fun d => 15 - d).sum
  ds ++ [sum / 256, sum / 16 % 16, sum % 16]

/-- The `i`-th 32 bytes. -/
def part32 (bs : List Byte) (i : Nat) : List Byte := (bs.drop (32 * i)).take 32

/-- The one-time public key that a signature of 67 parts gives for a message. -/
def oneTimeKey (seed : List Byte) (p : Place) (sig m : List Byte) : List (List Byte) :=
  (digits m).mapIdx fun i d => links seed { p with b := i } (15 - d) d (part32 sig i)

/-- One level of an L-tree: nodes are joined in pairs, and an odd one goes up as it is. -/
def lLevel (seed : List Byte) (p : Place) : Nat → List (List Byte) → List (List Byte)
  | i, l :: r :: rest => parent seed { p with c := i } l r :: lLevel seed p (i + 1) rest
  | _, rest => rest

/-- The root of an L-tree over at most `2^n` nodes, from level `h` up. -/
def lTree (seed : List Byte) (p : Place) : Nat → Nat → List (List Byte) → List Byte
  | 0, _, ns => ns.headD []
  | n + 1, h, ns => lTree seed p n (h + 1) (lLevel seed { p with b := h } 0 ns)

/-- From a node at height `k` and its index up `n` heights of the tree, by the authentication path. -/
def climb (seed : List Byte) (p : Place) : Nat → Nat → Nat → List Byte → List Byte → List Byte
  | 0, _, _, _, node => node
  | n + 1, k, i, path, node =>
    let here := { p with b := k, c := i / 2 }
    let up := if i % 2 = 0 then parent seed here node (path.take 32) else parent seed here (path.take 32) node
    climb seed p n (k + 1) (i / 2) (path.drop 32) up

/-- The root that a tree's signature gives for a message: 67 parts of the one-time signature, then the path of height `h`. -/
def rootOf (seed : List Byte) (layer tree h leaf : Nat) (sig m : List Byte) : List Byte :=
  let key := oneTimeKey seed { layer := layer, tree := tree, kind := 0, a := leaf } sig m
  let node := lTree seed { layer := layer, tree := tree, kind := 1, a := leaf } 7 0 key
  climb seed { layer := layer, tree := tree, kind := 2 } h 0 leaf (sig.drop 2144) node

/-- From layer `layer` up through `n` layers of trees of height `h`; `i` is the index within them. -/
def layers (seed : List Byte) (h : Nat) : Nat → Nat → Nat → List Byte → List Byte → List Byte
  | 0, _, _, _, m => m
  | n + 1, layer, i, sig, m =>
    layers seed h n (layer + 1) (i / 2 ^ h) (sig.drop (2144 + 32 * h))
      (rootOf seed layer (i / 2 ^ h) h (i % 2 ^ h) sig m)

/-- Whether a signature of `d` layers of trees of height `h`, with an index of `idx` bytes, verifies over `m` under a public key of 68
bytes: the OID, the root and the seed. -/
def verify (d h idx : Nat) (key sig m : List Byte) : Bool :=
  let root := part32 (key.drop 4) 0
  let seed := part32 (key.drop 4) 1
  let n := leNat (sig.take idx).reverse
  let r := part32 (sig.drop idx) 0
  layers seed h d 0 n (sig.drop (idx + 32)) (hash 2 (r ++ root ++ beBytes 32 n) m) == root

end Sys2Proof.Machine.Xmss
end

