-- ==== Sys2Proof/Machine/Security.lean ====
section
/-! DEFINITION. The security engine and the recorder's opcodes: ATTEST, GET_CERTIFICATE, MR_OWNER_MAP_COMPUTED, READ_RECORDER and
CLEAR_RECORDER (19 R460 to R470; 18 R454, R455; 16 R411, R412). -/

namespace Sys2Proof.Machine

/-! ## The leaf index (R460, R461) -/

/-- The bytes of a copy. -/
def Copy.leafBytes (c : Copy) : List Byte := leBytes 4 c.value ++ leBytes 4 c.crc

/-- The engine reads N: it repairs a copy that is not valid; where neither is, the index is lost (R460). -/
def State.readLeaf (s : State) : State :=
  let m := s.mram
  if m.leafLost then s
  else match m.leafA.leafOk, m.leafB.leafOk with
    | true, true => s
    | true, false => { s with mram := { m with leafB := Copy.leaf m.leafA.value } }
    | false, true => { s with mram := { m with leafA := Copy.leaf m.leafB.value } }
    | false, false =>
      ({ s with mram := { m with leafLost := true } }).recordEvent { code := 0x63, payload := m.leafA.leafBytes ++ m.leafB.leafBytes }

/-- Write N + 1 to both copies (R461, order 2): whether both read back. -/
def State.writeLeaf (s : State) (n : Nat) (w : LeafWorld) : State × Bool :=
  let failed (c : Nat) : Event := { code := 0x64, payload := leBytes 4 n ++ leBytes 1 c }
  if !w.readBackA then (({ s with mram := { s.mram with leafA := Copy.bad 0 (n + 1) 0 } }).recordEvent (failed 0), false)
  else
    let s := { s with mram := { s.mram with leafA := Copy.leaf (n + 1) } }
    if !w.readBackB then (({ s with mram := { s.mram with leafB := Copy.bad 1 (n + 1) 0 } }).recordEvent (failed 1), false)
    else ({ s with mram := { s.mram with leafB := Copy.leaf (n + 1) } }, true)

/-! ## ATTEST (R411, R412, R461, R466) -/

/-- The signed part of a quote (R466). -/
def State.quoteBody (s : State) (n : Nat) (nonce : List Byte) : List Byte :=
  [0x36315451 + 2 ^ 32].flatMap (leBytes 8) ++ padTo 8 s.fuses.serial ++
  [s.pkg.seamCount, packFields [(s.recorder.powerCycles, 32), (s.pkg.incarnation, 32)],
   packFields [(n, 20), (0, 12), (s.sec.quotesLeft, 5)], (s.model.res.map (·.modelTag)).getD 0, s.tabs.mapTagLive,
   s.recorder.hours % 2 ^ 32].flatMap (leBytes 8) ++
  padTo 32 nonce ++ padTo 32 s.sec.mrFirmware ++ padTo 32 s.sec.mrProgram ++ padTo 32 s.sec.mrTables ++ padTo 32 s.sec.mrOwnerMap

/-- A quote by leaf `n`: the signed part and its signature. -/
def State.quote (s : State) (n : Nat) (nonce : List Byte) : List Byte :=
  let b := s.quoteBody n nonce
  b ++ padTo 2820 (Config.xmssSign n b)

def attestOk (x : Job) : Bool :=
  fits (x.p 0) [(0, 48)] && fits (x.p 1) [(0, 48)] && fits (x.p 2) [(0, 32)] && Config.quoteBytes ≤ (x.p 2).toNat

/-- End an ATTEST that signs nothing. -/
def State.attestEnd (s : State) (j : JobRef) (status detail : Nat) : State := s.finishJob j status detail s.quoteCounts

/-- The signed quote goes to DEST. -/
def State.attestWrite (s : State) (j : JobRef) : State :=
  match s.job? j with
  | none => s
  | some x => s.putDva j (x.p 1).toNat x.data none fun s => s.attestEnd j stOk (x.aux.getD 0 0)

/-- The engine signs one quote (R461). -/
def State.attestSign (s : State) (j : JobRef) (w : LeafWorld) (nonce : List Byte) : State :=
  let s := s.readLeaf
  match s.mram.leaf with
  | none => s.attestEnd j stAborted dtWrongState
  | some n =>
    if s.sec.quotesLeft = 0 || n = Config.leaves then s.attestEnd j stExhausted (Config.leaves - n)
    else
      match s.writeLeaf n w with
      | (s, false) => s.attestEnd j stAborted dtWrongState
      | (s, true) =>
        let s := { s with sec := { s.sec with quotesLeft := s.sec.quotesLeft - 1 } }
        (s.setJob j fun x => { x with data := s.quote n nonce, aux := [Config.leaves - (n + 1)] }).attestWrite j

/-- Whether the engine is free for an ATTEST: none that started before it still runs (R461). -/
def State.engineFree (s : State) (j : JobRef) : Bool :=
  let mine := ((s.job? j).map (·.start)).getD 0
  s.queues.toList.all fun q => q.jobs.all fun x => !(x.opcode == 0x78 && x.phase = .running && x.start < mine)

/-- Take an ATTEST further: the nonce is read once, when it starts (R387); then the engine signs, one quote at a time (R461), and not while
MR_OWNER_MAP is pending (R467). -/
def State.attestRun (w : LeafWorld) (s : State) (j : JobRef) (x : Job) : State :=
  if !x.data.isEmpty then s.attestWrite j
  else
    s.withStruct j (x.p 0).toNat 32 fun s nonce =>
      if s.sec.mapPending.isSome || !s.engineFree j then s else s.attestSign j w nonce

/-- ATTEST (R412, R461). -/
def execAttest (q : QueueId) (w : LeafWorld) (s : State) : Host.Outcome State Fault Refusal :=
  .next <| s.runJob q.val (isOp 0x78)
    (fun s j x => if attestOk x then s.attestRun w j x else s.attestEnd j stAborted dtBadParam) (State.attestRun w)

/-! ## GET_CERTIFICATE (R463) -/

/-- The identity certificate (R463). -/
def Fuses.certificate (f : Fuses) : List Byte :=
  leBytes 8 (0x36314344 + 2 ^ 32) ++ padTo 8 f.serial ++ leBytes 8 Config.devId ++ leBytes 8 0 ++ padTo 32 f.issuerId ++
  padTo 68 f.identityKey ++ leBytes 4 0 ++ padTo 9893 f.certSignature

def certOk (x : Job) : Bool := x.p 0 == 0 && fits (x.p 1) [(0, 48)] && fits (x.p 2) [(0, 32)]

/-- Take a GET_CERTIFICATE further. -/
def State.certRun (s : State) (j : JobRef) (x : Job) : State :=
  s.writeResult j (x.p 1).toNat (s.fuses.certificate.take (x.p 2).toNat) Config.certBytes 0

/-- GET_CERTIFICATE (R411, R463). -/
def execGetCertificate (q : QueueId) (s : State) : Host.Outcome State Fault Refusal :=
  .next <| s.runJob q.val (isOp 0x79) (fun s j x => if certOk x then s.certRun j x else s.abortJob j dtBadParam) State.certRun

/-! ## MR_OWNER_MAP (R464, R465) -/

/-- The bytes that MR_OWNER_MAP measures (R464): live sections in ascending table id. -/
def measureMap (ms : List MapSection) : List Byte :=
  let ids := risingOf (ms.map (·.table))
  ids.flatMap fun id =>
    match ms.find? (·.table == id) with
    | none => []
    | some m =>
      leBytes 8 (packFields [(id, 12), (0, 4), (m.shards.length - 1, 16)]) ++ leBytes 8 0 ++
      m.shards.flatMap fun l => leBytes 8 (packFields [(l.getD 0 0, 14), (l.length, 2), (l.getD 1 0, 14), (0, 2), (l.getD 2 0, 14)])

/-- MR_OWNER_MAP_COMPUTED (R465). -/
def execMrOwnerMapComputed (s : State) : Host.Outcome State Fault Refusal :=
  match s.sec.mapPending with
  | none => .next s
  | some m =>
    if !s.alive then .next s
    else .next { s with sec := { s.sec with mapPending := none, mrOwnerMap := if m.isEmpty then zeros32 else digest m } }

/-! ## READ_RECORDER (R454) -/

def recorderOk (x : Job) : Bool :=
  let n := (x.p 0).field 32 13
  fits (x.p 0) [(0, 16), (32, 13)] && fits (x.p 1) [(0, 48)] && 1 ≤ n && n ≤ 4096

/-- Take a READ_RECORDER further: aux holds HELD and REFUSED, data the records, as they stood when it started. -/
def State.recorderRun (s : State) (j : JobRef) (x : Job) : State :=
  s.writeResult j (x.p 1).toNat x.data (x.aux.getD 0 0) (x.aux.getD 1 0)

/-- READ_RECORDER (R411, R454). -/
def execReadRecorder (q : QueueId) (s : State) : Host.Outcome State Fault Refusal :=
  .next <| s.runJob q.val (isOp 0x71)
    (fun s j x =>
      if !recorderOk x then s.abortJob j dtBadParam
      else
        let bs := ((s.recorder.records.drop ((x.p 0).field 0 16)).take ((x.p 0).field 32 13)).flatMap EventRec.bytes
        let x := { x with data := bs, aux := [s.recorder.held, s.recorder.refused] }
        (s.setJob j fun y => { y with data := x.data, aux := x.aux }).recorderRun j x)
    State.recorderRun

/-! ## CLEAR_RECORDER (R455, R468, R469) -/

/-- Whether a copy of the selector is valid. -/
def Copy.ok (c : Copy) : Bool := c.crc == crc32 (leBytes 4 c.value ++ leBytes 4 c.seq)

/-- The selector's valid copy with the higher sequence number (R469). -/
def Mram.selector (m : Mram) : Option Copy :=
  match m.selA.ok, m.selB.ok with
  | true, true => some (if m.selA.seq < m.selB.seq then m.selB else m.selA)
  | true, false => some m.selA
  | false, true => some m.selB
  | false, false => none

/-- A read of the selector repairs a copy that is not valid from the one that is (R469). -/
def Mram.mendSelector (m : Mram) : Mram :=
  match m.selA.ok, m.selB.ok with
  | true, false => { m with selB := m.selA }
  | false, true => { m with selA := m.selB }
  | _, _ => m

/-- The key enrolled: `none` without a valid selector, `some none` when no key is enrolled. -/
def Mram.enrolled (m : Mram) : Option (Option (List Byte)) :=
  m.selector.map fun c => if c.value = 0 then some m.opKey0 else if c.value = 1 then some m.opKey1 else none

/-- Signature length of a key's parameter set, by its OID (R468). -/
def sigLength (key : List Byte) : Option Nat :=
  let o := key.take 4
  if o = oidBytes Config.oidXmss10 then some 2500
  else if o = oidBytes Config.oidXmss16 then some 2692
  else if o = oidBytes Config.oidXmss20 then some 2820
  else none

/-- An authorisation's fields (R468). -/
def authEnrol (a : List Byte) : Bool := bitOf (wordAt a 0) 48
def authSigner (a : List Byte) : List Byte := (a.drop 32).take 68
def authNew (a : List Byte) : List Byte := (a.drop 100).take 68

/-- Check 1 (R469): a length that belongs to no parameter set fails; a key of another set is left to check 5. -/
def authForm (a : List Byte) (len : Nat) : Bool :=
  (match sigLength (authSigner a) with
   | some n => len == 176 + n
   | none => len == 2676 || len == 2868 || len == 2996) &&
  fieldAt a 0 0 48 == 0x36315541 + 2 ^ 32 && fieldAt a 0 49 15 == 0 && fieldAt a 2 32 32 == 0 && wordAt a 3 == 0 && wordAt a 21 == 0 &&
  (authEnrol a || (authNew a).all (· == 0))

/-- Height of a key's parameter set, by its OID (R468). -/
def keyHeight (key : List Byte) : Nat :=
  match sigLength key with
  | some n => (n - 2180) / 32
  | none => 0

/-- Check 6 (R469): the signature, from byte 176 on, verifies over the signed part. -/
def authVerifies (a : List Byte) (len : Nat) : Bool :=
  Xmss.verify 1 (keyHeight (authSigner a)) 4 (authSigner a) ((a.take len).drop 176) (a.take 176)

/-- The first check of R469 that an authorisation fails; 0 when it passes. -/
def State.authReason (s : State) (a : List Byte) (len : Nat) (w : AuthWorld) : Nat :=
  if !authForm a len then 1
  else if (a.drop 8).take 8 ≠ padTo 8 s.fuses.serial then 2
  else if fieldAt a 2 0 32 ≠ s.recorder.clearCount then 3
  else
    let ok4 := match s.mram.enrolled with
      | none => false
      | some (some k) => authSigner a == k
      | some none => authEnrol a && authNew a == authSigner a
    if !ok4 then 4
    else if (sigLength (authSigner a)).isNone || (authEnrol a && (sigLength (authNew a)).isNone) then 5
    else if !authVerifies a len then 6
    else if authEnrol a && !w.keyWriteOk then 7
    else 0

/-- Enrol a key: it goes to the slot that does not hold the enrolled key, then both selector copies name that slot; the write of copy B
may fail (R469). -/
def Mram.enrol (m : Mram) (key : List Byte) (copyBOk : Bool) : Mram :=
  let cur := (m.selector.map (·.value)).getD 2
  let seq := ((m.selector.map (·.seq)).getD 0 + 1) % 2 ^ 32
  let slot := if cur = 0 then 1 else 0
  let m := if slot = 0 then { m with opKey0 := key } else { m with opKey1 := key }
  { m with selA := Copy.of slot seq, selB := if copyBOk then Copy.of slot seq else Copy.bad 2 slot seq }

/-- Clear the log (R455), and enrol the new key where the authorisation asks for it. -/
def State.clearLog (s : State) (a : List Byte) (copyBOk : Bool) : State :=
  let r := s.recorder
  let count := (r.clearCount + 1) % 2 ^ 32
  let old := match s.mram.enrolled with | some (some k) => digest k | _ => zeros32
  let e : Event := { code := 0x1, payload := leBytes 8 r.held ++ leBytes 8 r.refused ++ leBytes 4 count ++ List.replicate 12 0 ++ digest (authSigner a) }
  let s := { s with recorder := { r with records := [], clearCount := count, refused := 0, kept := [] } }
  let s := s.recordEvent e
  if authEnrol a then
    ({ s with mram := s.mram.enrol (authNew a) copyBOk }).recordEvent { code := 0x62, payload := old ++ digest (authNew a) }
  else s

/-- The record of an authorisation that fails check `why` (R470). -/
def authRefused (a : List Byte) (why : Nat) : Event :=
  { code := 0x61
    payload := leBytes 4 why ++ leBytes 4 (fieldAt a 2 0 32) ++ (a.drop 8).take 8 ++ List.replicate 16 0 ++
      (if why = 1 then zeros32 else digest (authSigner a)) }

/-- Take a CLEAR_RECORDER further. -/
def State.clearRun (w : AuthWorld) (s : State) (j : JobRef) (x : Job) : State :=
  let len := (x.p 1).toNat
  s.withStruct j (x.p 0).toNat (min len 2996) fun s bs =>
    let a := padTo 2996 bs
    let s := { s with mram := s.mram.mendSelector }
    let why := s.authReason a len w
    if why = 0 then
      let n := s.recorder.held
      (s.clearLog a w.copyBOk).finishJob j stOk n 0
    else
      (s.recordEvent (authRefused a why)).finishJob j stAuthFailed (Config.openDetail stAuthFailed).toNat 0

def clearOk (x : Job) : Bool := fits (x.p 0) [(0, 48)] && fits (x.p 1) [(0, 32)]

/-- CLEAR_RECORDER (R411, R455, R469). -/
def execClearRecorder (q : QueueId) (w : AuthWorld) (s : State) : Host.Outcome State Fault Refusal :=
  .next <| s.runJob q.val (isOp 0x72) (fun s j x => if clearOk x then s.clearRun w j x else s.abortJob j dtBadParam)
    (State.clearRun w)

end Sys2Proof.Machine
end

