-- ==== Sys2Proof/Machine/Operands.lean ====
section
/-! DEFINITION. Operand forms that commands and engines share: the hint field (R224), T0 ranges, the data types of the
vector engines (R200), and which pool entries an access touched. -/

namespace Sys2Proof.Machine

/-! ## The hint field (R224) -/

/-- A hint field as the hint it gives and its RELEASE bit, when it keeps R224's table. -/
def hintAt (n : Nat) : Option (Option Hint × Bool) :=
  let uses := fieldOf n 8 8
  if fieldOf n 3 5 ≠ 0 then none
  else
    match fieldOf n 0 2 with
    | 3 => if uses = 0 then none else some (some (.last uses), bitOf n 2)
    | k => if uses ≠ 0 then none
           else some (if k = 0 then none else if k = 1 then some .stream else some .keep, bitOf n 2)

/-- The 256-byte blocks and the borrowed pages that a DVA range touches. -/
def touched (ag : Agent) (dva len : Nat) : Acc (List Nat × List (Nat × Nat × Nat)) := do
  let parts ← (pieces dva len).mapM fun (a, n) => do
    match ← resolve ag a false with
    | .dpa d _ => return ((granules d n).map (· / 4), [])
    | .lease b off => return ([], [(b.lender, b.lease, off / 4096)])
  return ((parts.flatMap (·.1)).eraseDups, parts.flatMap (·.2))

/-- RELEASE: every KEEP line and frame that the access touched takes the oldest position (R223, R224). -/
def State.releaseRange (s : State) (ag : Agent) (dva len : Nat) : State :=
  match ((touched ag dva len).go s).1 with
  | .error _ => s
  | .ok (blocks, pages) =>
    let mine (e : PoolEntry) : Bool := match e with
      | .frame l i p _ _ .keep _ => pages.contains (l, i, p)
      | _ => false
    let s := releaseLines s blocks
    { s with tiers := { s.tiers with pool := s.tiers.pool.filter mine ++ s.tiers.pool.filter (!mine ·) } }

/-! ## Elements (R17) -/

/-- The elements of a range that a DMA engine moves: the parts of its 64-byte lines, with their places in the range (assumption 63). -/
def lineParts (dva len : Nat) : List (Nat × Nat) :=
  (granules dva len).map fun g =>
    let lo := max (64 * g) dva
    (lo - dva, min (64 * g + 64) (dva + len) - lo)

/-- The bytes that the elements of a range before its first faulting one hold, and that element's number. -/
def readSound (ag : Agent) (dva : Nat) (s : State) : List (Nat × Nat) → List Byte × Nat
  | [] => ([], 0)
  | (o, n) :: rest =>
    match ((readDva ag (dva + o) n).go s).1 with
    | .error _ => ([], 0)
    | .ok bs => let r := readSound ag dva s rest; (bs ++ r.1, r.2 + 1)

/-- The number of the first element of a range that cannot be written. -/
def writeSound (ag : Agent) (dva : Nat) (bs : List Byte) (s : State) : Nat :=
  ((lineParts dva bs.length).takeWhile fun p =>
    match ((writeDva ag (dva + p.1) ((bs.drop p.1).take p.2)).go s).1 with
    | .error _ => false
    | .ok _ => true).length

end Sys2Proof.Machine
end

