-- ==== Sys2Proof/Machine/Maintenance.lean ====
section
/-! DEFINITION. Copies, page retirement and tests: DMA_COPY (16 R408), RETIRE_PAGES (10 R246 to R248), RUN_TRAFFIC_TEST
(R254 to R256, 16 R415), LINK_TEST with its frames and its end (11 R290, R291, 16 R415). -/

namespace Sys2Proof.Machine

/-! ## DMA_COPY (R408) -/

def copyHint (x : Job) : Option (Option Hint × Bool) := hintAt ((x.p 2).field 48 16)
def copyLen (x : Job) : Nat := (x.p 2).field 0 40

def copyOk (x : Job) : Bool :=
  addrOk (x.p 0) && addrOk (x.p 1) && fits (x.p 2) [(0, 40), (48, 16)] && copyLen x ≠ 0 && (copyHint x).isSome

/-- Whether source and destination of a copy overlap: both in one space, their ranges meeting (R408). -/
def copyOverlaps (x : Job) : Bool :=
  let a := (x.p 0).field 0 63
  let b := (x.p 1).field 0 63
  ((x.p 0).getLsbD 63 == (x.p 1).getLsbD 63) && a < b + copyLen x && b < a + copyLen x

/-- The end of a copy: RELEASE for the ranges in device memory, then OK. -/
def State.copyEnd (s : State) (j : JobRef) (x : Job) (release : Bool) : State :=
  let ag := Agent.dma (s.ctxOf j.q) j
  let give (s : State) (w : Word) : State := if release && !w.getLsbD 63 then s.releaseRange ag (w.field 0 48) (copyLen x) else s
  (give (give s (x.p 0)) (x.p 1)).finishJob j stOk 0 0

/-- Copy one piece of a range: where its read faults, the elements before the faulting one are copied (R17). -/
def copyPiece (ag : Agent) (a n dst : Nat) (hint : Option Hint) : Acc Unit := do
  let bs ← tryCatch (readDva ag a n hint) fun f => do
    match f with
    | .snoop .. | .page .. | .hold => throw f
    | f => do
      let _ ← writeDva ag dst (readSound ag a (← get) (lineParts a n)).1 hint
      throw f
  let _ ← notingPart ⟨ag.owner, false, a, n, n, bs⟩ (writeDva ag dst bs hint)

/-- The pieces of a copy in order; what is done when one waits stays done (R229). No range is as long as its key. -/
def copyPieces (ag : Agent) (src dst len : Nat) (hint : Option Hint) : List (Nat × Nat) → Acc Unit
  | [] => return ()
  | (a, n) :: rest => do
    notingPart ⟨ag.owner, false, src, 2 ^ 64 + len, a - src, []⟩ (copyPiece ag a n (dst + (a - src)) hint)
    copyPieces ag src dst len hint rest

/-- A copy within device memory. -/
def copyWithin (ag : Agent) (src dst len : Nat) (hint : Option Hint) : Acc Unit := do
  let done := ((← get).partDone ag false src (2 ^ 64 + len)).1
  copyPieces ag src dst len hint (pieces (src + done) (len - done))

/-- The number of the element at which a copy within device memory faults: the first that cannot be read, or else the first that cannot
be written. -/
def copySound (ag : Agent) (src dst len : Nat) (s : State) : Nat :=
  let r := readSound ag src s (lineParts src len)
  if r.2 < (lineParts src len).length then r.2 else writeSound ag dst r.1 s

/-- Take a DMA_COPY further: a copy within device memory is one access; a transfer with the host goes in bulk. -/
def State.copyRun (s : State) (j : JobRef) (x : Job) : State :=
  match copyHint x with
  | none => s
  | some (hint, release) =>
    let ag := Agent.dma (s.ctxOf j.q) j
    let len := copyLen x
    let ended (s : State) : Bool := (((s.job? j).bind (·.bulk)).map (·.finished)).getD false
    if x.aux = [1] then (if ended s then s.copyEnd j x release else s)
    else if (x.p 1).getLsbD 63 then
      s.withSource j (x.p 0) len hint fun s bs =>
        let s := (s.setJob j fun x => { x with aux := [1] }).bulkStart j true ((x.p 1).field 0 63) len bs
        if ended s then s.copyEnd j x release else s
    else if (x.p 0).getLsbD 63 then
      s.withSource j (x.p 0) len hint fun s bs => s.putDva j ((x.p 1).field 0 48) bs hint fun s => s.copyEnd j x release
    else
      let src := (x.p 0).field 0 48
      let dst := (x.p 1).field 0 48
      s.accessOr ag (copyWithin ag src dst len hint) hint (fun s _ => s.copyEnd j x release) fun s f =>
        s.accError { ag with elem := copySound ag src dst len s } f

/-- Whether a DMA_COPY about to run overlaps itself. -/
def State.copyBad (s : State) (q : Nat) : Bool :=
  match s.jobNow q (isOp 0x50) with
  | some x => copyOk x && copyOverlaps x
  | none => false

/-- DMA_COPY (R408). What a copy leaves whose source and destination overlap is unpredictable, as all that its context writes from
then on (R5). -/
def execDmaCopy (q : QueueId) (s : State) : Host.Outcome State Fault Refusal :=
  let s := if s.copyBad q.val then s.upset (s.ctxOf q.val) else s
  .next <| s.runJob q.val (isOp 0x50) (fun s j x => if copyOk x then s.copyRun j x else s.abortJob j dtBadParam) State.copyRun

/-! ## RETIRE_PAGES (R246 to R248) -/

/-- The region whose reservation holds a page, for a resident model (R393). -/
def Resident.regionOfPage (r : Resident) (page : Nat) : Option Nat :=
  (List.range 8).find? fun i =>
    let lo := i * Config.stackBytes + r.reserve
    lo ≤ page * 4096 && page * 4096 < lo + 0xD0000000

/-- Whether `n` bytes of the update buffer that begin at granule `g` lie in part on a page. -/
def State.onPage (s : State) (page g n : Nat) : Bool := (List.range (ceilDiv n 64)).any fun i => s.place (g + i) / 64 == page

/-- A page of the update buffer is withdrawn: the records and overlay rows that it held, routed or not, are lost as poisoned records
are (R248). -/
def State.withdrawBuffer (s : State) (page : Nat) : State :=
  let rec' (r : UpdRec) : Bool := !s.onPage page (updGran r) (recBytes r)
  let row (o : Overlay) : Bool := !s.onPage page o.gran o.bytes.length
  let u := s.upd
  let u' := { u with recs := u.recs.filter (rec' ·.upd), heldRecs := u.heldRecs.filter rec', earlyRecs := u.earlyRecs.filter rec',
                     overlays := u.overlays.filter row }
  let size (u : Updates) : Nat := u.recs.length + u.heldRecs.length + u.earlyRecs.length + u.overlays.length
  { s with upd := u', hbm := { s.hbm with updatePoisoned := s.hbm.updatePoisoned + (size u - size u') } }

/-- The frame on a page of the frame store is written back if dirty, and withdrawn (R248). -/
def State.withdrawFrame (s : State) (page : Nat) : State :=
  let here (e : PoolEntry) : Option (Nat × Nat × Nat × BitVec 64) := match e with
    | .frame l i p d _ _ none => if s.place (64 * Config.framePage l i p) / 64 = page then some (l, i, p, d) else none
    | _ => none
  match s.tiers.pool.findSome? here with
  | none => s
  | some (l, i, p, d) => if d = 0 then { s with tiers := s.tiers.dropFrame l i p } else s.writeBackFrame l i p

/-- What a page of the reservation serves as now (R248, R393): 0 a spare, 1 the update buffer, otherwise the frame store. -/
def Model.pageUse (m : Model) (page : Nat) : Nat :=
  if m.moved.any (·.1 == page) then 3 else Config.pageUse (originPage m.moved m.moved.length page) % 3

/-- A spare page of a region's reservation: the lowest (which of them the K16 takes is DESIGN CHOICE, assumption 82). -/
def State.sparePage (s : State) (first : Nat) : Option Nat :=
  ((List.range 0xD0000).map (first + ·)).find? fun p =>
    s.model.pageUse p = 0 && !s.hbm.isRetired p && !(s.model.moved.any (·.2 == p))

/-- A retired page of the reservation leaves use: a spare takes its place, or the store shrinks (R248). -/
def State.withdrawPage (s : State) (page : Nat) : State :=
  match s.model.res with
  | none => s
  | some res =>
    match res.regionOfPage page with
    | none => s
    | some r =>
      let left := s.model.spares.getD r 0
      let first := (r * Config.stackBytes + res.reserve) / 4096
      let takeSpare (s : State) : State :=
        let next := (s.sparePage first).map fun p => (page, p)
        { s with model := { s.model with spares := s.model.spares.set r (left - 1), moved := next.toList ++ s.model.moved } }
      match s.model.pageUse page with
      | 0 => { s with model := { s.model with spares := s.model.spares.set r (left - 1) } }
      | 1 =>
        let s := s.withdrawBuffer page
        if 0 < left then takeSpare s else { s with model := { s.model with bufBytes := s.model.bufBytes - 4096 } }
      | 2 =>
        let s := s.withdrawFrame page
        if 0 < left then takeSpare s else { s with model := { s.model with frameCap := s.model.frameCap - 1 } }
      | _ => s

/-- Add a page to the retired-page list: its granules are poisoned, and cached lines of it are dropped (R247). -/
def State.retire (s : State) (page : Nat) : State :=
  let s := s.withdrawPage page
  let h := { s.hbm with retired := s.hbm.retired ++ [page] }
  let h := (List.range 64).foldl (fun h i => h.poisonGran (64 * page + i)) h
  let keep (e : PoolEntry) : Bool := match e with | .line b .. => b / 16 ≠ page | _ => true
  let s := { s with hbm := h, tiers := { s.tiers with pool := s.tiers.pool.filter keep } }
  s.recordEvent { code := 0x22, payload := leBytes 8 (page * 4096) }

/-- One entry of RETIRE_PAGES (R246): the state, and whether the list was full for it. -/
def State.retireEntry (s : State) (dpa : Nat) : State × Bool :=
  if s.hbm.isRetired (dpa / 4096) && dpa % 4096 = 0 then (s, false)
  else if Config.maxRetired ≤ s.hbm.retired.length then (s, true)
  else if dpa % 4096 ≠ 0 || Config.memBytes ≤ dpa || dpa = s.regs.adminRoot then (s, false)
  else (s.retire (dpa / 4096), false)

/-- Take a RETIRE_PAGES further: its list is a small host read, of the interactive class (R321). -/
def State.retireRun (s : State) (j : JobRef) (x : Job) : State :=
  s.withSource j (x.p 0) (8 * (x.p 1).toNat) none (inter := true) fun s bs =>
    let (s, full) := ((List.range (x.p 1).toNat).map (wordAt bs)).foldl
      (fun (a : State × Bool) d => let r := a.1.retireEntry d; (r.1, a.2 || r.2)) (s, false)
    s.finishJob j (if full then stAborted else stOk) s.hbm.retired.length 0

def retireOk (x : Job) : Bool := addrOk (x.p 0) && fits (x.p 1) [(0, 15)] && 1 ≤ (x.p 1).toNat && (x.p 1).toNat ≤ Config.maxRetired

/-- RETIRE_PAGES (R246, R409). -/
def execRetirePages (q : QueueId) (s : State) : Host.Outcome State Fault Refusal :=
  .next <| s.runJob q.val (isOp 0x7A) (fun s j x => if retireOk x then s.retireRun j x else s.abortJob j dtBadParam) State.retireRun

/-! ## RUN_TRAFFIC_TEST (R254 to R256) -/

/-- A test descriptor (R254). KACTS, the activations of HAMMER's aggressor rows, acts on the cells alone: what it brings about is what
the checkers report. -/
structure TestDesc where
  region : Nat
  pattern : Nat
  raw : Bool
  iter : Nat
  channels : Nat
  first : Nat
  length : Nat
  seed : Nat
  kacts : Nat
  deriving DecidableEq, Repr

/-- The descriptor's rules (R254, R415); `none` where one is broken. -/
def testAt (bs : List Byte) : Option TestDesc :=
  let d : TestDesc := { region := fieldAt bs 0 0 3, pattern := fieldAt bs 0 4 2, raw := fieldAt bs 0 6 1 = 1,
                        iter := max 1 (fieldAt bs 0 16 16), channels := fieldAt bs 0 32 32, first := fieldAt bs 1 0 40,
                        length := fieldAt bs 2 0 40, seed := max 1 (fieldAt bs 3 0 32), kacts := fieldAt bs 3 32 16 }
  if fieldAt bs 0 3 1 = 0 ∧ fieldAt bs 0 7 9 = 0 ∧ fieldAt bs 1 40 24 = 0 ∧ fieldAt bs 2 40 24 = 0 ∧ fieldAt bs 3 48 16 = 0 ∧
     d.first % 4096 = 0 ∧ d.length % 4096 = 0 ∧ d.length ≠ 0 ∧ d.first + d.length ≤ Config.stackBytes then some d else none

/-- DPA of the test's first byte. -/
def TestDesc.base (d : TestDesc) : Nat := d.region * Config.stackBytes + d.first

/-- Retired pages in the range. -/
def State.testSkipped (s : State) (d : TestDesc) : Nat :=
  (s.hbm.retired.filter fun p => d.base ≤ p * 4096 && p * 4096 < d.base + d.length).length

/-- Whether each iteration of a test checks a granule: its page is in the range and not retired, its channel is selected, and for
HAMMER it lies in a victim row (R254; the victims are a free value, assumption 4). -/
def State.testCovers (s : State) (d : TestDesc) (g : Nat) : Bool :=
  d.base ≤ 64 * g && 64 * g < d.base + d.length && bitOf d.channels (Config.channel (64 * g)) && !s.hbm.isRetired (g / 64) &&
  (d.pattern ≠ 3 || Config.victim d.base d.length g)

/-- Granules that one iteration checks. -/
def State.testGranules (s : State) (d : TestDesc) : Nat :=
  ((List.range (d.length / 64)).filter fun i => s.testCovers d (d.base / 64 + i)).length

/-- `n` bits of the PRBS31 sequence x³¹ + x²⁸ + 1, the first bit lowest, from the 31 bits before them, the latest lowest (the order of
the bits is DESIGN CHOICE, assumption 60). -/
def prbs31 : Nat → Nat → Nat
  | 0, _ => 0
  | n + 1, st =>
    let b := (st / 2 ^ 30 + st / 2 ^ 27) % 2
    b + 2 * prbs31 n ((2 * st + b) % 2 ^ 31)

/-- The word that a test's pattern puts at a DPA in an iteration (R254). -/
def TestDesc.word (d : TestDesc) (iter a : Nat) : Word :=
  let gran := a % Config.stackBytes / 64
  let w := a / 8 % 8
  BitVec.ofNat 64 <|
    match d.pattern with
    | 1 => 2 ^ ((w + gran + iter) % 64)
    | 2 => if iter % 2 = 0 then a else 2 ^ 64 - 1 - a
    | _ => prbs31 512 ((d.seed ^^^ gran ^^^ iter) % 2 ^ 31) / 2 ^ (64 * w)

/-- What a test meets (R254, R256): of what the checkers report, the checks that it makes; with that, what the errors that had struck
granules of the test before it show in its first iteration, which reads them (R241). -/
def State.testMeets (s : State) (d : TestDesc) (r : TrafficResult) : TrafficResult :=
  let made (iter a : Nat) : Bool := iter < d.iter && s.testCovers d (a / 64)
  let halves := ((s.hbm.latent.map (·.1 / 32)).eraseDups).filter fun h => s.testCovers d (h / 2)
  let bad (h : Nat) : Bool := s.hbm.latent.any fun e => e.1 / 32 == h && e.2 == .uncorrectable
  let fixed := (halves.filter (!bad ·)).map fun h => (0, 32 * h, 1)
  { r with reads := r.reads.filter fun x => made x.iter x.wordAddr
           corrected := (r.corrected.filter fun x => made x.1 x.2.1) ++ fixed
           uncorrectable := (((r.uncorrectable.filter fun x : Nat × Nat => made x.1 x.2).map fun x : Nat × Nat => (x.1, x.2 / 64 * 64)) ++
             (halves.filter bad).map fun h => (0, h / 2 * 64)).eraseDups }

/-- The words of a test that compare unequal, in its order of checks (R254): words read back otherwise than the pattern put them, those in
a half that the controller has corrected only where the comparison is before correction. In a half that a report has no word for, its
first word differs, and what was read of it is a free value (DEDUCED, assumption 53). -/
def TestDesc.differs (d : TestDesc) (r : TrafficResult) : List TestFinding :=
  let mended (iter a : Nat) : Bool :=
    !d.raw && (r.corrected.any fun c => c.1 == iter && c.2.1 / 32 == a / 32) && !r.uncorrectable.contains (iter, a / 64 * 64)
  let told (iter h : Nat) : Bool := r.reads.any fun x => x.iter == iter && x.wordAddr / 32 == h
  let free (iter a : Nat) : TestFinding := ⟨iter, a, Config.testRead iter a⟩
  let read := r.reads.filter fun x => x.observed ≠ d.word x.iter x.wordAddr && !mended x.iter x.wordAddr
  let raw := if d.raw then (r.corrected.filter fun c => !told c.1 (c.2.1 / 32)).map fun c => free c.1 (c.2.1 / 32 * 32) else []
  let bad := (r.uncorrectable.filter fun u => !(told u.1 (u.2 / 32) || told u.1 (u.2 / 32 + 1))).map fun u => free u.1 u.2
  (read ++ raw ++ bad).foldl (fun l x => findInsert x l) []
where
  /-- Insert by iteration and address. -/
  findInsert (x : TestFinding) : List TestFinding → List TestFinding
    | [] => [x]
    | y :: l => if x.iter < y.iter || (x.iter == y.iter && x.wordAddr < y.wordAddr) then x :: y :: l else y :: findInsert x l

/-- The result record (R256). A mismatch is a granule of one iteration. -/
def State.testRecord (s : State) (d : TestDesc) (r : TrafficResult) : List Byte :=
  let ms := d.differs r
  let f := ms.head?
  let bad := (ms.map fun x => (x.iter, x.wordAddr / 64)).eraseDups
  ([s.testGranules d * d.iter, bad.length, (r.corrected.map (·.2.2)).sum, r.uncorrectable.length,
    (f.map (·.wordAddr)).getD 0, (f.map fun x => (d.word x.iter x.wordAddr).toNat).getD 0, (f.map (·.observed.toNat)).getD 0,
    packFields [(s.testSkipped d, 32), (r.time, 32)]].flatMap (leBytes 8)) ++
  (List.range 32).flatMap fun c => leBytes 4 (bad.filter fun m => Config.channel (64 * m.2) = c).length

/-- The generator and checker of a channel, working for a test. -/
def testAgent : Agent := { kind := 0, cls := 0, ctx := 0 }

/-- What the checkers saw goes to the counters and records (R241 to R243): each iteration writes anew what the one before has found
uncorrectable, and finds it anew. The range ends as zeros (R254, R256). -/
def State.testEffect (s : State) (d : TestDesc) (r : TrafficResult) : State :=
  let s := { s with hbm := { s.hbm with latent := s.hbm.latent.filter fun e => !s.testCovers d (e.1 / 64) } }
  let s := r.corrected.foldl (fun s c => s.corrected testAgent c.2.1 c.2.2) s
  let s := r.uncorrectable.foldl (fun s u =>
    let s := s.setStack (Config.regionOf u.2) fun k => { k with uncorrectable := k.uncorrectable + 1 }
    ({ s with hbm := s.hbm.poisonGran (u.2 / 64) }).accError testAgent (.poison u.2 true testAgent.unit)) s
  s.zeroRange d.base d.length

/-- Run the test of a descriptor, and write its result: with a model resident it waits while the region's shade share is 0 (R161,
R255), and until the host has given up what it holds of the range (R319). The result record is kept until it has been written. -/
def State.trafficGo (r : TrafficResult) (s : State) (j : JobRef) (d : TestDesc) (result : Nat) : State :=
  let held := s.cxl.heldIn d.base d.length
  if s.model.res.isSome && s.regions[ix 8 d.region].shadeLive = 0 then s
  else if !held.isEmpty then held.foldl (fun s l => s.sendSnoop l true) s
  else
    let r := s.testMeets d r
    let rec' := s.testRecord d r
    let s := (s.testEffect d r).setJob j fun x => { x with aux := [1], data := rec' }
    s.putDva j result rec' none fun s => s.finishJob j stOk 0 0

/-- Take a RUN_TRAFFIC_TEST further: its descriptor is copied once (R387). -/
def State.trafficRun (r : TrafficResult) (s : State) (j : JobRef) (x : Job) : State :=
  let result := (x.p 1).toNat
  if x.aux = [1] then s.putDva j result x.data none fun s => s.finishJob j stOk 0 0
  else if x.aux = [2] then (match testAt x.data with | some d => s.trafficGo r j d result | none => s)
  else
    s.withStruct j (x.p 0).toNat 32 fun s bs =>
      match testAt bs with
      | none => s.abortJob j dtBadParam
      | some d => (s.setJob j fun x => { x with aux := [2], data := bs }).trafficGo r j d result

def trafficOk (x : Job) : Bool := fits (x.p 0) [(0, 48)] && fits (x.p 1) [(0, 48)]

/-- RUN_TRAFFIC_TEST (R254 to R256, R415). -/
def execRunTrafficTest (q : QueueId) (r : TrafficResult) (s : State) : Host.Outcome State Fault Refusal :=
  .next <| s.runJob q.val (isOp 0x7C)
    (fun s j x => if trafficOk x then s.trafficRun r j x else s.abortJob j dtBadParam) (State.trafficRun r)

/-! ## LINK_TEST (R290, R291) -/

def linkMode (x : Job) : Nat := (x.p 0).field 16 2

def linkOk (x : Job) : Bool :=
  fits (x.p 0) [(0, 16), (16, 3), (32, 14)] && (x.p 0).field 0 16 ≠ 0 && (linkMode x = 3 || (x.p 0).field 32 14 = 0) &&
  fits (x.p 1) [(0, 32)] && x.p 1 ≠ 0 && fits (x.p 2) [(0, 48)]

/-- Begin a LINK_TEST, once no other holds ports: its ports are DISABLED for traffic; in FRAME mode each starts its first test frame
and goes on at line rate (R415). -/
def State.linkRun (s : State) (j : JobRef) (x : Job) : State :=
  if s.fab.test.isSome then s
  else
    let t : LinkTest := { job := j, ports := (x.p 0).setWidth 16, mode := linkMode x, prbs13 := (x.p 0).getLsbD 18,
                          peer := (x.p 0).field 32 14, start := s.now, duration := (x.p 1).toNat * Config.us, results := (x.p 2).toNat }
    let s := t.portList.foldl (fun s p => (s.setPort p fun y => { y with testing := true, busy := 0 }).movePort p .disabled)
      { s with fab := { s.fab with test := some t } }
    if t.mode = 3 then t.portList.foldl (fun s p => s.runTest p 0 1) s else s

/-- LINK_TEST (R290, R415). FRAME mode needs a live port configuration to address its frames (R269). -/
def execLinkTest (q : QueueId) (s : State) : Host.Outcome State Fault Refusal :=
  .next <| s.runJob q.val (isOp 0x7D)
    (fun s j x =>
      if !linkOk x then s.abortJob j dtBadParam
      else if linkMode x = 3 && s.fab.cfgLive.isNone then s.abortJob j dtWrongState
      else s.linkRun j x) State.linkRun

/-- A frame of the test is counted. -/
def State.testSaw (s : State) (p : Nat) (good : Bool) : State :=
  let f (t : LinkTest) : LinkTest := if good then { t with good := addPort t.good p } else { t with bad := addPort t.bad p }
  { s with fab := { s.fab with test := s.fab.test.map f } }

/-- Whether a port runs a test in FRAME mode. -/
def State.frameTest (s : State) (p : Nat) : Bool :=
  match s.fab.test with
  | none => false
  | some t => t.mode = 3 && t.ports.getLsbD p

/-- LINK_TEST_FRAME (R290, R282): checks 3 and 4 of R272, then the payload. A frame of this package itself comes back
over a loopback. Outside a test the message has no user. -/
def execLinkTestFrame (f : Frame) (payloadOk : Bool) (s : State) : Host.Outcome State Fault Refusal :=
  if !s.frameTest f.port.val then .next (s.receivePlain f false).1
  else
    let s := s.countFec f.port.val f.fec
    match s.fab.cfgLive with
    | none => .next s
    | some c =>
      let known := if f.srcDev = c.device then f.srcInc = s.pkg.incarnation
        else (s.peer? f.srcDev).any fun p => p.inc = f.srcInc && !p.lost
      if !s.alive then .next s
      else if f.domain ≠ c.domain || f.dstDev ≠ c.device then
        .next (s.fabCtr fun k => { k with framesDroppedCheck := k.framesDroppedCheck + 1 })
      else if f.dstInc ≠ s.pkg.incarnation || !known then
        .next (s.fabCtr fun k => { k with framesStaleInc := k.framesStaleInc + 1 })
      else
        let s := if f.ce then s.fabCtr fun k => { k with ceReceived := k.ceReceived + 1 } else s
        .next (s.testSaw f.port.val payloadOk)

/-- A result record of one port (R291): in FRAME mode the frames are those that the port has sent and checked. -/
def LinkTest.record (t : LinkTest) (time p : Nat) (r : LinkResult) : List Byte :=
  let sent := if t.mode = 3 then portCount t.sent p else if t.mode = 2 then 0 else r.sent
  let good := if t.mode = 3 then portCount t.good p else r.good
  let bad := if t.mode = 3 then portCount t.bad p else r.bad
  ([sent, good, bad, r.fecCorrected, r.fecUncorrectable] ++ padLanes r.laneErrors ++
    [packFields [(time, 32), (r.laneLock.toNat, 8)], 0, 0]).flatMap (leBytes 8)
where
  /-- Eight lane counts. -/
  padLanes (l : List Nat) : List Nat := l.take 8 ++ List.replicate (8 - l.length) 0

/-- The codeword and lane counts of a test go to the port's counters (R292); in FRAME mode what was corrected has come with the
frames. -/
def Port.addTest (mode : Nat) (r : LinkResult) (p : Port) : Port :=
  let p := { p with fecUncorrectable := p.fecUncorrectable + r.fecUncorrectable }
  if mode = 3 then p else p.corrected ⟨r.fecCorrected, if mode = 2 then [] else r.laneErrors⟩

/-- LINK_TEST_END (R291, R415): the records are written, the job completes, the ports return. -/
def execLinkTestEnd (now : Nat) (results : List LinkResult) (s : State) : Host.Outcome State Fault Refusal :=
  let s := s.advanceTo now
  match s.fab.test with
  | none => .next s
  | some t =>
    let ps := t.portList
    if !s.alive || s.now - t.start < t.duration || results.length ≠ ps.length ||
       ((s.job? t.job).map (·.halted)).getD true then .next s
    else
      let bs := (ps.zip results).flatMap fun e => t.record (nearest t.duration 1000) e.1 e.2
      .next <| s.putDva t.job t.results bs none fun s =>
        let s := (ps.zip results).foldl (fun s e => s.setPort e.1 (Port.addTest t.mode e.2)) s
        (s.endTest t.job).finishJob t.job stOk 0 0

end Sys2Proof.Machine
end

