-- ==== Sys2Proof/Machine/Boot.lean ====
section
/-! DEFINITION. The windows and the boot ROM: what register reads return and which writes have an effect (15 R356 to
R360, 13 R315, 21 R495, 18 R446), the boot window, the verification of the firmware (19 R456 to R459), power, reset and
bring-up (21). -/

namespace Sys2Proof.Machine

/-! ## Reading registers -/

/-- A STEP_SLOT register (R45). -/
def Slot.word (x : Slot) : Nat :=
  packFields [(x.phase.code, 4), (b2n x.rt, 1), (b2n x.penumbra, 1), (b2n x.strictWait, 1), (b2n x.deadlinePast, 1), (x.ctx, 6),
    (0, 2), (x.stepSeq, 48)]

/-- QSTATE (R360). -/
def Queue.stateWord (x : Queue) : Nat :=
  packFields [(x.st.code, 2), (0, 2), (x.cause, 4), (x.gen, 8), (x.fetch, 16), (x.ctx, 6)]

/-- The value a register of the control window holds. -/
def State.regValue (s : State) : Reg → Nat
  | .devId => Config.devId
  | .devState => s.devState.code
  | .seamCount => s.pkg.seamCount
  | .elapsed => s.pkg.elapsed
  | .adminRoot => s.regs.adminRoot
  | .fqBase => s.regs.fqBase.toNat
  | .fqHead => s.regs.fqHead
  | .fqTail => s.regs.fqTail
  | .fqOverflow => s.regs.fqOverflow
  | .stepSlot i => (s.slot i).word
  | .fence f => s.fence f
  | .qdb _ => 0
  | .qcmp q => (s.queue q).cmpSeq
  | .qstate q => (s.queue q).stateWord
  | .qbase q => (s.queue q).qbase
  | .qsize q => (s.queue q).qsize
  | .qcmpBase q => (s.queue q).qcmpBase
  | .unlisted => 0

/-- Registers that read while FAILED (R446), and before the firmware starts (R495). -/
def Reg.inFailed : Reg → Bool
  | .devId | .devState | .seamCount | .elapsed | .fqBase | .fqHead | .fqTail | .fqOverflow | .stepSlot _ | .qcmp _ => true
  | _ => false
def Reg.inBoot : Reg → Bool
  | .devId | .devState | .elapsed => true
  | _ => false

/-- What an 8-byte read of the control window returns (R357, R446, R495). -/
def State.readControl (s : State) (o : Nat) : Nat :=
  let r := regAt o
  if s.err.failed.isSome then (if r.inFailed then s.regValue r else 0)
  else if s.pkg.stage = .off ∨ s.pkg.stage = .rom ∨ s.pkg.stage = .linked then (if r.inBoot then s.regValue r else 0)
  else s.regValue r

/-- BOOT_STATUS (R358). -/
def Boot.status (b : Boot) : Nat := packFields [(b.state.code, 4), (0, 4), (b.reason, 8)]

/-- What an 8-byte read of the boot window returns (R358). -/
def Boot.read (b : Boot) (o : Nat) : Nat :=
  if o = 8 then b.status else if o = 0x10 then b.imageAddr else if o = 0x18 then b.imageLen else 0

/-- Whether an access to a window is one that R315 allows: 4 or 8 bytes, naturally aligned. -/
def windowAccess (offset size : Nat) : Bool := (size = 4 || size = 8) && offset % size = 0

/-- What a read of a window returns; `none` is Unsupported Request (R315). The registers of the component window are read by
CONFIG_REQUEST (assumption 21). -/
def State.readWindow (s : State) (bar : Bar) (offset size : Nat) : Option (List Byte) :=
  let word (f : Nat → Nat) : List Byte := ((leBytes 8 (f (offset / 8 * 8))).drop (offset % 8)).take size
  if !windowAccess offset size then none
  else match bar with
    | .control => some (word s.readControl)
    | .boot => some (word s.boot.read)
    | .component => some (List.replicate size 0)

/-! ## The boot window (R358, R494, R457, R458) -/

/-- Whether the windows answer: powered, out of reset, link in L0 (R493). -/
def State.windows (s : State) : Bool := s.pkg.powered && s.pkg.perstN && s.cxl.linkUp

/-- Whether the boot window takes writes other than DISCARD (R446, R458). -/
def State.bootOpen (s : State) : Bool := s.windows && s.alive && (s.boot.state = .waiting || s.boot.state = .chunkTaken)

/-- The image is rejected. -/
def Boot.reject (reason : Nat) (b : Boot) : Boot := { b with state := .rejected, reason := reason, lastReason := reason }

/-- BOOT_CHUNK (R494): BOOT_STATUS reads BUSY, and writes are ignored, until the copy into image memory is done. -/
def execBootChunk (s : State) : Host.Outcome State Fault Refusal :=
  if !s.bootOpen then .next s
  else if s.boot.imageAddr % 32768 ≠ 0 || 2 ^ 24 ≤ s.boot.imageAddr then .next { s with boot := s.boot.reject 1 }
  else .next { s with boot := { s.boot with state := .busy } }

/-- BOOT_FINISH (R457): the length is latched, and verification begins. -/
def execBootFinish (s : State) : Host.Outcome State Fault Refusal :=
  if !s.bootOpen then .next s
  else .next { s with boot := { s.boot with state := .verifying, latchedLen := s.boot.imageLen } }

/-- BOOT_DISCARD (R458): every chunk is forgotten; after a rejection the rejected image is counted. -/
def execBootDiscard (s : State) : Host.Outcome State Fault Refusal :=
  if !(s.bootOpen || (s.windows && s.alive && s.boot.state = .rejected)) then .next s
  else
    .next { s with boot := { s.boot with state := .waiting, reason := 0, image := [], received := [],
                                         rejected := s.boot.rejected + b2n (s.boot.state = .rejected) } }

/-- Write bytes of a word to the chunk buffer or to a boot register. -/
def Boot.write (b : Boot) (o size : Nat) (v : Word) : Boot :=
  if 0x8000 ≤ o then { b with chunkBuf := memWrite b.chunkBuf (o - 0x8000) (leBytes size v.toNat) }
  else if o = 0x10 then { b with imageAddr := v.toNat % 2 ^ 32 }
  else if o = 0x18 then { b with imageLen := v.toNat % 2 ^ 32 }
  else b

/-- A write to the boot window. -/
def State.writeBoot (s : State) (o size : Nat) (v : Word) : Host.Outcome State Fault Refusal :=
  if o = 0 then
    match v.field 0 4 with
    | 1 => execBootChunk s
    | 2 => execBootFinish s
    | 15 => execBootDiscard s
    | _ => .next s
  else if s.bootOpen then .next { s with boot := s.boot.write o size v }
  else .next s

/-- Bytes of a window (R315). -/
def Bar.size : Bar → Nat
  | .control => 2 ^ 25
  | _ => 2 ^ 16

/-- REGISTER_WRITE (R62, R315, R357, R446, R495). The component window's registers are CXL's: the fields that the manual
names are written by CONFIG_REQUEST, and no other write there has an effect the manual gives (assumption 21). -/
def execRegisterWrite (bar : Bar) (offset size : Nat) (value : Word) (s : State) : Host.Outcome State Fault Refusal :=
  if !s.windows || Bar.size bar ≤ offset then .next s
  else if !windowAccess offset size then .next s.unsupported
  else
    match bar with
    | .control => if s.serving then s.writeControl offset size value else .next s
    | .boot => s.writeBoot offset size value
    | .component => .next s

/-! ## Firmware verification (R456, R457, R459, R453) -/

/-- Bytes of the image. -/
def Boot.bytes (b : Boot) (a n : Nat) : List Byte := memRead b.image a n
def Boot.num (b : Boot) (a n : Nat) : Nat := leNat (b.bytes a n)
def Boot.codeLen (b : Boot) : Nat := b.num 8 4
/-- The signed part. -/
def Boot.signed (b : Boot) : List Byte := b.bytes 0 (256 + b.codeLen)
def Boot.key (b : Boot) : List Byte := b.bytes 64 68

/-- Check 1: every chunk has been received. -/
def Boot.complete (b : Boot) : Bool := (List.range (ceilDiv b.latchedLen 32768)).all b.received.contains

/-- Check 2: the header's form and the length. -/
def Boot.formed (b : Boot) : Bool :=
  b.num 0 4 == 0x36315746 && b.num 4 2 == 1 && b.num 6 2 == 0 && b.num 16 48 == 0 && b.num 132 124 == 0 &&
  1 ≤ b.codeLen && b.codeLen ≤ 16767067 && b.latchedLen == b.codeLen + 10149

/-- Check 4: the signature, which follows the signed part, verifies under a key of the parameter set (R456, R457). -/
def Boot.signatureOk (b : Boot) : Bool :=
  b.key.take 4 == oidBytes Config.oidXmssMt40_4 && Xmss.verify 4 10 5 b.key (b.bytes (256 + b.codeLen) 9893) b.signed

/-- The REASON of the first check that fails, 0 when all pass (R457). -/
def State.bootReason (s : State) : Nat :=
  let b := s.boot
  if !b.complete then 2
  else if !b.formed then 1
  else if digest b.key ≠ s.fuses.fwKeyHash then 4
  else if !b.signatureOk then 3
  else 0

/-- The firmware starts: it checks the last record held (R453), then link completion, stage 1 of R496, which ends at `linked`, and its
record (R459). -/
def State.startFirmware (s : State) (linked : Nat) : State :=
  let s := ({ s with boot := { s.boot with tVerified := s.now } }).checkTorn.advanceTo linked
  let s := { s with pkg := { s.pkg with stage := .hbmTraining, memInfoValid := true }, boot := { s.boot with tLink := s.now } }
  s.recordEvent
    { code := 0x60,
      payload := leBytes 4 s.boot.fwVersion ++ leBytes 4 s.boot.latchedLen ++ leBytes 4 s.boot.rejected ++
                 leBytes 1 s.boot.lastReason ++ List.replicate 19 0 ++ s.sec.mrFirmware }

/-- FIRMWARE_VERIFIED (R457, R459, R496): the boot ROM's verification ends at `now`, and the firmware's link completion, where it starts,
at `linked`. -/
def execFirmwareVerified (now linked : Nat) (s : State) : Host.Outcome State Fault Refusal :=
  let s := s.advanceTo now
  if !s.alive || s.boot.state ≠ .verifying then .next s
  else
    match s.bootReason with
    | 0 =>
      let b := { s.boot with state := .verified, reason := 0, fwVersion := s.boot.num 12 4 }
      .next (State.startFirmware { s with boot := b, sec := { s.sec with mrFirmware := digest s.boot.signed } } linked)
    | r => .next { s with boot := s.boot.reject r }

/-! ## Power and reset (R486 to R492, R499) -/

/-- The package in reset: everything at its reset value but for MRAM, fuses and recorder (R492), and what lies outside
the block. -/
def State.afresh (s : State) (powered : Bool) : State :=
  { State.reset with
    pkg := { powered := powered, cxlTx := if powered then .idle else .highZ }
    recorder := { s.recorder with kept := [], hoursMark := 0, checked := false, writes := 0, badWrites := [],
                                      wroteAt := none }
    mram := s.mram
    fuses := s.fuses
    tap := if powered then s.tap else State.reset.tap
    out := s.out
    pending := s.pending }

/-- POWER_UP (R486, R499): the rails come up with PERST_N low. -/
def execPowerUp (s : State) : Host.Outcome State Fault Refusal :=
  if s.pkg.powered then .next s
  else .next { s with pkg := { s.pkg with powered := true, cxlTx := .idle } }

/-- The last record held was being written when power went: its slot holds free bytes (R453). A record written before that instant is
whole (R488). -/
def Recorder.tear (now : Nat) (r : Recorder) : Recorder :=
  if r.wroteAt ≠ some now || r.records.isEmpty then r else { r with records := r.records.dropLast ++ [EventRec.torn (r.held - 1)] }

/-- Whether the security engine may be writing the leaf index: an ATTEST runs that has not signed. -/
def State.leafInWrite (s : State) : Bool :=
  s.alive && s.sec.quotesLeft ≠ 0 && s.queues.toList.any fun q => q.jobs.any fun j => j.opcode == 0x78 && j.phase = .running && j.data.isEmpty

/-- The copies of the leaf index N that a write of N + 1 leaves when it comes as far as `Config.cutLeaf` says (R461, R488). -/
def Mram.cut (m : Mram) (n : Nat) : Fin 4 → Mram
  | 0 => m
  | 1 => { m with leafA := Copy.bad 0 (n + 1) 0 }
  | 2 => { m with leafA := Copy.leaf (n + 1) }
  | 3 => { m with leafA := Copy.leaf (n + 1), leafB := Copy.bad 1 (n + 1) 0 }

/-- The MRAM writes that a loss of power cuts off: of the last record (R453) and of the leaf index (R488). What it cuts off is a free
value (assumption 4). -/
def State.cutWrites (s : State) : State :=
  { s with
    recorder := if Config.cutOff s.now then s.recorder.tear s.now else s.recorder
    mram := match s.mram.leaf with
      | some n => if s.leafInWrite && n < Config.leaves then s.mram.cut n (Config.cutLeaf s.now) else s.mram
      | none => s.mram }

/-- POWER_LOSS (R488, R492): what it cuts off in the MRAM is handled in the next power cycle. -/
def execPowerLoss (s : State) : Host.Outcome State Fault Refusal := .next (s.cutWrites.afresh false)

/-- PERST_ASSERT (R490): everything stops where it stands; ignored after a trip until power is removed (R480). -/
def execPerstAssert (s : State) : Host.Outcome State Fault Refusal :=
  if !s.pkg.powered || !s.pkg.perstN || s.pkg.tripped then .next s else .next (s.afresh true)

/-- The incarnation drawn (R275): the first draw that is not zero and not the last one. -/
def Mram.draw (m : Mram) (draws : List (BitVec 32)) : Option Nat :=
  (draws.find? fun d => d ≠ 0 && d.toNat ≠ m.lastIncarnation).map (·.toNat)

/-- PERST_RELEASE (R448, R275, R472, R493, R512): orders 1 to 3 of the boot ROM, and link training begins; the ports leave reset for
TRAINING (R286). With no draw that R275 allows, the engine is still drawing. Which of the recorder's MRAM writes of this
power cycle will fail their read-back comes with the row (R444). The straps are sampled: STRAP_TEST, bit 3, is to read 0, and anything
may happen where it does not (R512, R5). -/
def execPerstRelease (w : CycleWorld) (straps : BitVec 4) (s : State) : Host.Outcome State Fault Refusal :=
  if !s.pkg.powered || s.pkg.perstN then .next s
  else
    match s.mram.draw w.draws with
    | none => .next s
    | some inc =>
      let start (r : Region) : Region := { r with setpoint := 750, output := 7500, searching := true }
      let train (x : Port) : Port := { x with st := .training }
      let s := State.recorderWrite { s with
        pkg := { s.pkg with perstN := true, straps := straps, stage := .rom, readyPin := .low, cxlTx := .active, incarnation := inc }
        recorder := { s.recorder with badWrites := w.badWrites }
        mram := { s.mram with lastIncarnation := inc }
        fab := { s.fab with ports := s.fab.ports.map train }
        regions := s.regions.map start } fun r => { r with powerCycles := r.powerCycles + 1 }
      .next (if straps.getLsbD 3 then s.wrecked .device else s)

/-- LINK_TRAINED (R493): the link is in L0; at a width or rate outside R313 it counts as lost (R314). -/
def execLinkTrained (now width rate : Nat) (s : State) : Host.Outcome State Fault Refusal :=
  let s := s.advanceTo now
  if !s.alive || s.pkg.stage ≠ .rom then .next s
  else if !((width = 4 || width = 8 || width = 16) && (rate = 1 || rate = 2)) then .next (s.raiseFatal 5 none)
  else .next { s with pkg := { s.pkg with stage := .linked }, cxl := { s.cxl with linkUp := true, width := width, rate := rate } }

/-- STACK_TRAINING_DONE (R496, R258): a failed stack, or more than 100 ms, is package-fatal. No stack trains while a region still searches
V_BASE (R472). -/
def execStackTrainingDone (now : Nat) (failed : Bool) (s : State) : Host.Outcome State Fault Refusal :=
  let s := s.advanceTo now
  if !s.alive || s.pkg.stage ≠ .hbmTraining || s.regions.any (·.searching) then .next s
  else if failed || 100 * Config.ms < s.now - s.boot.tLink then .next (s.raiseFatal 3 none)
  else
    let train (k : Stack) : Stack := { k with trained := true }
    .next { s with pkg := { s.pkg with stage := .selfCheck }, boot := { s.boot with tStacks := s.now },
                   hbm := { s.hbm with stk := s.hbm.stk.map train } }

/-- The lowest page of region 0 that the report does not list (R419). -/
def lowestPage (report : List Nat) : Nat :=
  ((List.range (report.length + 1)).find? fun p => !report.contains p).getD 0

/-- SELF_CHECK_DONE (R257, R258, R419, R496 stages 3 and 4, R500): the failing pages, and whether a pseudo-channel showed
more than 1,024 bad granules. -/
def execSelfCheckDone (now : Nat) (badPages : List Nat) (pcOverLimit : Bool) (s : State) : Host.Outcome State Fault Refusal :=
  let s := s.advanceTo now
  let pages := (badPages.filter fun p => p * 4096 < Config.memBytes).eraseDups
  if !s.alive || s.pkg.stage ≠ .selfCheck then .next s
  else if pcOverLimit || Config.maxRetired < pages.length then .next (s.raiseFatal 4 none)
  else
    let poison := pages.foldl (fun l p => (List.range 64).foldl (fun l i => insNat (64 * p + i) l) l) []
    let s : State := { s with
      hbm := { s.hbm with mem := [], poison := poison, report := pages }
      regs := { s.regs with adminRoot := lowestPage pages * 4096 }
      pkg := { s.pkg with stage := .ports, memActive := true }
      boot := { s.boot with tSelfCheck := s.now } }
    let s := if pages.isEmpty then s
      else s.recordEvent { code := 0x71, payload := leBytes 4 pages.length ++ leBytes 4 0 ++ (pages.take 20).flatMap fun p => leBytes 8 (p * 4096) }
    .next s.bringupReady

end Sys2Proof.Machine
end

