-- ==== Sys2Proof/Machine/Power.lean ====
section
/-! DEFINITION. Power and temperature: stack throttling (10 R250 to R253), the regions' control loops, sensors and pace
samples (20 R471 to R483), the pace cause of dim (12 R309), operating hours (18 R448), and the package-fatal sequence (18
R444 to R446). -/

namespace Sys2Proof.Machine

/-! ## The fatal controller (R444, R445, R517) -/

/-- The largest of a list of readings; 0 for none. -/
def maxInt (l : List Int) : Int :=
  match l with
  | [] => 0
  | a :: r => r.foldl max a

/-- POWER: the input power over the last 1 ms, of which none has passed at reset (R517). -/
def State.inputPower (s : State) : Nat := if s.now < Config.ms then 0 else Config.inputPower s.now

/-- The sixteen status bytes of the sideband target (R517), outside FAILED. -/
def State.liveBytes (s : State) : List Byte :=
  leBytes 1 s.devState.code ++ leBytes 1 0 ++
  [twos 16 (maxInt (s.regions.toList.map (·.temp))), twos 16 (maxInt (s.hbm.stk.toList.map (·.temp))),
   twos 16 (maxInt (s.oes.toList.map (·.temp))), s.inputPower, s.power.vinMv, s.portMask.toNat, 0].flatMap (leBytes 2)

/-- The payload of PACKAGE_FATAL (R450). -/
def fatalPayload (cause seen : Nat) (frec : Option FaultRec) : List Byte :=
  leBytes 8 cause ++ leBytes 8 seen ++ List.replicate 48 0 ++ (match frec with | some r => r.bytes | none => [])

/-- FATAL_SEQUENCE (R445, R446, R499). -/
def execFatalSequence (now : Nat) (s : State) : Host.Outcome State Fault Refusal :=
  let s := s.advanceTo now
  match s.err.fatal with
  | none => .next s
  | some (cause, frec) =>
    if s.err.failed.isSome then .next s
    else
      let frozen := s.liveBytes
      let s : State := { s with
        err := { s.err with failed := some cause, fatal := none, pending := [], handling := [] }
        pkg := { s.pkg with faultN := .low, readyPin := .released,
                            thermtripN := if s.pkg.tripped then .low else s.pkg.thermtripN }
        i3c := { s.i3c with frozen := some frozen } }
      if cause = 9 then .next s
      else
        let written := s.recorder.takes 0xF0
        let i := s.recorder.held
        let s := s.recordEvent { code := 0xF0, cls := 3, payload := fatalPayload cause s.err.causesSeen frec, at' := some s.err.fatalAt }
        .next (if written then { s with err := { s.err with fatalRecord := some i } } else s)

/-- Whether the package is powered and out of reset: its sensors and its fatal controller work, failed or not (R445). -/
def State.watched (s : State) : Bool := s.pkg.powered && s.pkg.perstN

/-- A package-fatal cause that a part of the package reports. -/
def State.fatalReport (s : State) (cause : Nat) : State :=
  if s.watched then s.raiseFatal cause none else s

/-- A reading gives an event, which nobody records once the package has failed (R445). -/
def State.noteEvent (s : State) (e : Event) : State := if s.alive then s.recordEvent e else s

/-- CP_LIVENESS_TIMEOUT (R444): the command processor has not answered for 100 ms by ELAPSED_NS; what it does answers (assumption 79). -/
def execCpLivenessTimeout (now : Nat) (s : State) : Host.Outcome State Fault Refusal :=
  let s := s.advanceTo now
  .next (if s.now < s.pkg.cpAt + 100 * Config.ms then s else s.fatalReport 7)

/-- SECURITY_ENGINE_FAILURE (R444). -/
def execSecurityEngineFailure (s : State) : Host.Outcome State Fault Refusal := .next (s.fatalReport 8)

/-- BRIDGE_UNCORRECTABLE (R13, R444). -/
def execBridgeUncorrectable (s : State) : Host.Outcome State Fault Refusal := .next (s.fatalReport 1)

/-! ## Stacks (R250 to R253) -/

/-- The level after a report of `t` °C (R250): entered above its threshold, left 3 °C below it; STOP is never left. -/
def Level.next (l : Level) (t : Int) : Level :=
  if 105 < t || l = .stop then .stop
  else if 95 < t || (l = .l50 && 92 < t) then .l50
  else if 85 < t || ((l = .l75 || l = .l50) && 82 < t) then .l75
  else .full

/-- Whether a stack report in °C is valid (R253). -/
def stackTempOk (t : Int) : Bool := -40 ≤ t && t ≤ 150

/-- HBM_TEMP_READING (R250, R252, R253), every 1 ms, in °C. -/
def execHbmTempReading (now : Nat) (r : RegionId) (reading : Option Int) (s : State) : Host.Outcome State Fault Refusal :=
  let s := s.advanceTo now
  let k := s.hbm.stk[r]
  if !s.watched || !k.trained || !isDue Config.ms k.readAt s.now then .next s
  else
    match reading.filter stackTempOk with
    | none =>
      let becomes := 3 ≤ k.badReads + 1 && !k.sensorFault
      let s := s.setStack r.val fun k =>
        { k with badReads := k.badReads + 1, sensorFault := k.sensorFault || becomes, level := if becomes && k.level ≠ .stop then .l50 else k.level, readAt := s.now }
      .next (if becomes then s.noteEvent { code := 0x23, payload := leBytes 4 r.val } else s)
    | some t =>
      let l := k.level.next t
      let s := s.setStack r.val fun k => { k with temp := t, badReads := 0, sensorFault := false, level := l, readAt := s.now }
      .next (if l = .stop && k.level ≠ .stop then s.raiseFatal 2 none else s)

/-! ## Thermal states (R478 to R480) -/

/-- The thermal state at a temperature in 1/16 °C (R479). -/
def thermalAt (t : Int) : RegState := if t ≤ 1600 then .normal else if t ≤ 1680 then .derate else .over

/-- A region's thermal state follows its temperature; entering OVER writes a record (R479, R485). -/
def State.thermal (s : State) (r : Nat) : State :=
  let g := s.regions[ix 8 r]
  let new := thermalAt g.temp
  let s' := s.setRegion r fun g => { g with state := new }
  if new = .over ∧ g.state ≠ .over then
    s'.noteEvent { code := 0x50, payload := leBytes 2 r ++ leBytes 2 (twos 16 g.temp) ++ leBytes 2 g.setpoint }
  else s'

/-- Readings of the valid sensors of a region. -/
def Region.valid (g : Region) : List Int := ((g.temps.zip g.faulted).filter fun e => !e.2).map (·.1)

/-- The region temperature (R478): the highest valid reading; with one valid sensor at least 101 °C. -/
def Region.heat (g : Region) : Option Int :=
  match g.valid with
  | [] => none
  | [t] => some (max t 1616)
  | l => some (maxInt l)

/-- The region temperature after a reading; with no valid sensor the package fails (R478). The thermal state follows at the next loop
(R479). -/
def State.reheat (s : State) (r : Nat) : State :=
  match (s.regions[ix 8 r]).heat with
  | none => s.raiseFatal 0x0C none
  | some t => s.setRegion r fun g => { g with temp := t, tempMax := max g.tempMax t }

/-- The trip (R480): fixed logic turns every regulator off, and the stacks stop; in a package that has failed already THERMTRIP_N falls at once. -/
def State.trip (s : State) : State :=
  let off (g : Region) : Region := { g with output := 0 }
  let pin := if s.err.failed.isSome then .low else s.pkg.thermtripN
  let stop (k : Stack) : Stack := { k with level := .stop }
  ({ s with regions := s.regions.map off, hbm := { s.hbm with stk := s.hbm.stk.map stop }, pkg := { s.pkg with tripped := true, thermtripN := pin } }).raiseFatal 0x0A none

/-- TEMP_SENSOR_READING (R478 to R480), every 10 µs, in 1/16 °C. -/
def execTempSensorReading (now : Nat) (r : RegionId) (sensor : Fin 4) (reading : Option Int) (s : State) :
    Host.Outcome State Fault Refusal :=
  let s := s.advanceTo now
  let i := sensor.val
  let g := s.regions[r]
  if !s.watched || !isDue (10 * Config.us) (g.readAt.getD i 0) s.now then .next s
  else
    let s := s.setRegion r.val fun g => { g with readAt := g.readAt.set i s.now }
    match reading.filter tempOk with
    | none =>
      let bad := g.bad.getD i 0 + 1
      let becomes := 3 ≤ bad && !g.faulted.getD i false
      let s := s.setRegion r.val fun g =>
        { g with bad := g.bad.set i bad, hot := g.hot.set i 0, faulted := g.faulted.set i (g.faulted.getD i false || becomes) }
      if becomes then
        let left := ((s.regions[r]).valid).length
        let s := s.noteEvent
          { code := 0x51, payload := leBytes 4 (packFields [(0, 4), (r.val, 3), (0, 1), (i, 2)]) ++ leBytes 2 left }
        .next (s.reheat r.val)
      else .next s
    | some t =>
      let hot := if 1760 ≤ t then g.hot.getD i 0 + 1 else 0
      let s := s.setRegion r.val fun g =>
        { g with temps := g.temps.set i t, bad := g.bad.set i 0, faulted := g.faulted.set i false, hot := g.hot.set i hot }
      let s := s.reheat r.val
      .next (if 2 ≤ hot then s.trip else s)

/-! ## The control loop (R472 to R476) -/

/-- Sixteen times the target pace; none in OVER (R473, R479). -/
def Region.target16 (g : Region) : Option Int :=
  match g.state with
  | .normal => some 10000
  | .derate => some (derate16 g.temp)
  | .over => none

/-- The set point after a comparison, before the clamp, in millivolts (R473). -/
def Region.step (g : Region) (pace : Nat) : Nat :=
  match g.target16 with
  | none => g.setpoint - 5
  | some t =>
    if (1600 * pace : Int) < 99 * t then g.setpoint + 5
    else if 101 * t < (1600 * pace : Int) then g.setpoint - 5
    else g.setpoint

/-- The clamp of R473. -/
def Region.clampTo (g : Region) (v : Nat) : Nat := min (max 600 v) (min 850 g.ceilLive)

/-- What the monitors read over a loop (R484). A region's regulator draws at most 30 A, for which it lowers its output below the set
point, by `limit`; the package regulator stays within 20 A (R16, R475). -/
def State.meter (s : State) (r current : Nat) (limit : Option Nat) : State :=
  let s := s.setRegion r fun g =>
    { g with current := min current Config.regionCurrentMax, limiting := limit.isSome,
             limitTo := 10 * g.setpoint - max 1 (limit.getD 0), loopAt := s.now }
  { s with power := { s.power with
                      vinMv := Config.vinReading s.now
                      pkgCurrent := min (Config.packageCurrent s.now) Config.packageCurrentMax } }

/-- CONTROL_LOOP (R473, R475, R476, R479), every 10 µs: after idle the loop resumes when the output has reached the set point, and an interval
through which it has not run as a whole gives no measurement (R474, R482). `limit` tells that the regulator limits its current, and by how many
tenths of a millivolt below the set point it lowers its output for that (R475). -/
def execControlLoop (now : Nat) (r : RegionId) (paceMre paceGe current : Nat) (limit : Option Nat) (s : State) :
    Host.Outcome State Fault Refusal :=
  let s := s.advanceTo now
  let g := s.regions[r]
  if !s.alive || s.now % (10 * Config.us) ≠ 0 || s.now = g.loopAt || g.idle || g.searching || (g.resumed && g.output ≠ g.heading) then .next s
  else
    let s := (s.meter r.val current limit).thermal r.val
    if g.resumed || g.loopAt + 10 * Config.us ≠ s.now then .next (s.setRegion r.val fun g => { g with resumed := false })
    else
      .next (s.setRegion r.val fun g =>
        { g with setpoint := g.clampTo (g.step (min paceMre paceGe)), meas := g.meas ++ [(s.now, paceMre, paceGe)] })

/-- REGION_WAKE (R474). -/
def execRegionWake (now : Nat) (r : RegionId) (s : State) : Host.Outcome State Fault Refusal :=
  let s := s.advanceTo now
  if !s.alive || !(s.regions[r]).idle then .next s
  else .next (s.setRegion r.val fun g => { g with idle := false, resumed := true })

/-- V_BASE_FOUND (R472): the search, which steps the supply down from 0.750 V, ends at a step that it has come to; the loop starts with its
set point at V_BASE. What the fused coefficients make of the delay lines' speed comes with the row (assumption 75). -/
def execVBaseFound (r : RegionId) (vBase proc0 proc1 : Nat) (s : State) : Host.Outcome State Fault Refusal :=
  let g := s.regions[r]
  if !s.alive || !g.searching || vBase < 600 || 750 < vBase || vBase % 5 ≠ 0 || 10 * vBase < g.output then .next s
  else
    .next (s.setRegion r.val fun g => { g with searching := false, vBase := vBase, setpoint := vBase, ramp := 0, proc0 := proc0, proc1 := proc1 })

/-- Since when a supply monitor has read outside its window (R483). -/
def outsideSince (since : Option Nat) (now v : Nat) : Option Nat := if v < 550 || 900 < v then some (since.getD now) else none

/-- The voltage monitors of a region are read (R483, R484). -/
def Region.supply (now vmon0 vmon1 : Nat) (g : Region) : Region :=
  { g with vmon0 := vmon0, vmon1 := vmon1
           outside := [outsideSince (g.outside.getD 0 none) now vmon0, outsideSince (g.outside.getD 1 none) now vmon1] }

/-- REGION_SUPPLY (R483): the voltage monitors' readings; one that has read out of range for 10 µs by ELAPSED_NS is package-fatal, while the
region is powered. -/
def execRegionSupply (now : Nat) (r : RegionId) (vmon0 vmon1 : Nat) (s : State) : Host.Outcome State Fault Refusal :=
  let s := s.advanceTo now
  if !s.watched then .next s
  else
    let s := s.setRegion r.val (Region.supply s.now vmon0 vmon1)
    let long := (s.regions[r]).outside.any fun o => o.any (· + 10 * Config.us ≤ s.now)
    .next (if long && !s.pkg.tripped then s.raiseFatal 0x0B none else s)

/-! ## Pace samples and the pace cause of dim (R482, R309) -/

/-- The mean of a millisecond's measurements, rounded down. -/
def meanOf (l : List Nat) : Nat := l.sum / l.length

/-- A floor of the dim configuration (R308). -/
def Dim.floorMre (d : Dim) : Nat := d.cfgLive.field 16 16
def Dim.floorGe (d : Dim) : Nat := d.cfgLive.field 32 16

/-- A region's sample joins its millisecond's. The millisecond is complete once every region has given one, and good where none is
low; a second sample of a region begins the next, and leaves an incomplete one behind, which shows nothing good. -/
def Dim.count (d : Dim) (r : Nat) (low : Bool) : Dim :=
  let d := { d with low := d.low.set r (if low then d.low.getD r 0 + 1 else 0) }
  let d := if d.sampled.contains r then { d with sampled := [], lowNow := false, good := 0 } else d
  let seen := insNat r d.sampled
  let bad := d.lowNow || low
  if seen.length = 8 then { d with sampled := [], lowNow := false, good := if bad then 0 else d.good + 1 }
  else { d with sampled := seen, lowNow := bad }

/-- One region's sample is counted: the pace cause begins with the third low one of a region in a row, and ends with the tenth
millisecond in a row in which no region is low (R309). -/
def State.countPace (s : State) (r : Nat) (low : Bool) : State :=
  let s := { s with dim := s.dim.count r low }
  if low && 3 ≤ s.dim.low.getD r 0 then
    s.staged fun s => { s with dim := { s.dim with paceStaged := stageValue s.dim.paceLive true } }
  else if s.dim.sampled.isEmpty && 10 ≤ s.dim.good then
    s.staged fun s => { s with dim := { s.dim with paceStaged := stageValue s.dim.paceLive false } }
  else s

/-- The measurements of the millisecond that ended last: of the intervals that ended in it (R482). -/
def Region.lastMs (g : Region) (now : Nat) : List (Nat × Nat × Nat) :=
  let stop := now / Config.ms * Config.ms
  g.meas.filter fun m => stop < m.1 + Config.ms && m.1 ≤ stop

/-- PACE_SAMPLE (R482, R309), every 1 ms: a millisecond without a measurement keeps the old samples and counts as above both floors. -/
def execPaceSample (now : Nat) (r : RegionId) (s : State) : Host.Outcome State Fault Refusal :=
  let s := s.advanceTo now
  let g := s.regions[r]
  if !s.alive || !isDue Config.ms g.sampleAt s.now then .next s
  else
    let ms := g.lastMs s.now
    let s := s.setRegion r.val fun g => { g with sampleAt := s.now, meas := g.meas.filter fun m => s.now / Config.ms * Config.ms < m.1 }
    if ms.isEmpty then .next (s.countPace r.val false)
    else
      let a := meanOf (ms.map (·.2.1))
      let b := meanOf (ms.map (·.2.2))
      let s := s.setRegion r.val fun g => { g with paceMre := a, paceGe := b }
      .next (s.countPace r.val (a < s.dim.floorMre || b < s.dim.floorGe))

/-- HOURS_TICK (R448): 1/256 hour since the last increment, or since the release of PERST_N, in the failed state too. -/
def execHoursTick (now : Nat) (s : State) : Host.Outcome State Fault Refusal :=
  let s := s.advanceTo now
  if !s.watched || s.now - s.recorder.hoursMark < 1406250000 then .next s
  else .next (s.recorderWrite fun r => { r with hours := r.hours + 1, hoursMark := r.hoursMark + 1406250000 })

end Sys2Proof.Machine
end

