-- ==== Sys2Proof/Machine/Engines.lean ====
section
/-! DEFINITION. What the engines of a cluster share: the step they work for, their instruction words, T0 and tile
streams, element formats, and faults (01 R17 to R24, 06 R180, 08 R195 to R203). -/

namespace Sys2Proof.Machine

/-! ## Work -/

/-- The slot and step that a cluster works for in DENSE: its share is not discarded, and no error of the step waits. -/
def State.working (s : State) (c : Nat) : Option (Nat × Step) :=
  if !s.serving then none
  else
    match s.slotOfCluster c with
    | none => none
    | some i =>
      match (s.slot i).step with
      | none => none
      | some st => if (s.slot i).phase = .dense && !st.halted && !st.hung.contains c then some (i, st) else none

/-- A field of an instruction word (R186, R203). -/
def wf128 (w : BitVec 128) (lo len : Nat) : Nat := fieldOf w.toNat lo len

/-- A fault of a unit: a context-class error of the step (R193, R201, R212, R397). -/
def State.unitFault (s : State) (kind unit i : Nat) (st : Step) (cause instr operand e0 e1 : Nat) : State :=
  let ag : Agent := { kind := kind, unit := unit, cls := 2, ctx := (s.slot i).ctx, job := some st.job, slot := some i, instr := instr }
  let r := { s.agentRec ag cause 2 with operand := operand, elem0 := e0, elem1 := e1 }
  s.detect { cls := 2, frec := some r, job := some st.job, slot := some i, ctx := ag.ctx, status := stContextLost,
             detail := (Config.openDetail stContextLost).toNat }

/-- Whether RU `c` is reserved for diagnostics (R208). -/
def State.ruReserved (s : State) (c : Nat) : Bool := s.pkg.ruReserved || (s.cl c).owner == .check

/-! ## Streams of elements (R188, R195, R196) -/

/-- An operand: a tile register or T0, the space's key, its limit, and the stream's first byte. -/
structure Opnd where
  tile : Option Nat
  start : Nat
  deriving DecidableEq, Repr

/-- The bytes that an engine sees: T0 and its own tile registers. -/
structure EngMem where
  t0 : List Host.Cell
  tiles : List Host.Cell
  deriving DecidableEq, Repr

/-- End of the operand's space. -/
def Opnd.limit (o : Opnd) : Nat := if o.tile.isSome then 32768 else Config.t0Bytes

/-- First byte and number of bytes of element `e` of `w` bits. -/
def Opnd.bytes (o : Opnd) (w e : Nat) : Nat × Nat := if w = 4 then (o.start + e / 2, 1) else (o.start + e * (w / 8), w / 8)

/-- Whether an element lies within its space (R196). -/
def Opnd.ok (o : Opnd) (w e : Nat) : Bool := (o.bytes w e).1 + (o.bytes w e).2 ≤ o.limit

/-- Read `n` bytes at a byte of an operand's space. -/
def EngMem.get (m : EngMem) (o : Opnd) (a n : Nat) : Nat :=
  match o.tile with
  | some t => leNat (memRead m.tiles (32768 * t + a) n)
  | none => leNat (memRead m.t0 a n)

/-- Write bytes at a byte of an operand's space. -/
def EngMem.put (m : EngMem) (o : Opnd) (a : Nat) (bs : List Byte) : EngMem :=
  match o.tile with
  | some t => { m with tiles := memWrite m.tiles (32768 * t + a) bs }
  | none => { m with t0 := memWrite m.t0 a bs }

/-- Element `e` of `w` bits of a stream. -/
def EngMem.elem (m : EngMem) (o : Opnd) (w e : Nat) : Nat :=
  let (a, n) := o.bytes w e
  let v := m.get o a n
  if w = 4 then fieldOf v (4 * (e % 2)) 4 else v

/-- Write element `e`: a nibble leaves the other one of its byte. -/
def EngMem.setElem (m : EngMem) (o : Opnd) (w e v : Nat) : EngMem :=
  let (a, n) := o.bytes w e
  if w = 4 then
    let old := m.get o a 1
    m.put o a (leBytes 1 (if e % 2 = 0 then old / 16 * 16 + v % 16 else old % 16 + 16 * (v % 16)))
  else m.put o a (leBytes n v)

/-- Bytes `[lo, hi)` of an operand's space become free: the result of an instruction whose destination meets its sources is
unpredictable (R188, R206, R5). -/
def EngMem.scramble (m : EngMem) (now c : Nat) (o : Opnd) (lo hi : Nat) : EngMem :=
  let n := min hi o.limit - lo
  m.put o lo ((List.range n).map fun k => Config.upsetByte now (2 ^ 64 + c + 16 * (32768 * (o.tile.getD 512) + lo + k)))

/-- The key of a stream's space and the bytes that its first `n` elements take. -/
def Opnd.range (o : Opnd) (w n : Nat) : Nat × Nat × Nat :=
  (match o.tile with | some t => t + 1 | none => 0, o.start, o.start + ceilDiv (n * w) 8)

/-- Whether two ranges of one space meet. -/
def rangesMeet (a b : Nat × Nat × Nat) : Bool := a.1 == b.1 && a.2.1 < b.2.2 && b.2.1 < a.2.2

/-! ## Formats (R203) -/

/-- Bits of an element by format code: BF16, fp32, I8, I4, B8, B4, U32. -/
def fmtBits (f : Nat) : Nat :=
  match f with
  | 0 => 16 | 1 => 32 | 2 => 8 | 3 => 4 | 4 => 8 | 5 => 4 | _ => 32

def isF (f : Nat) : Bool := f ≤ 1

/-- A BF16 or fp32 element as fp32 (R204). -/
def loadF (f v : Nat) : F32 := if f = 0 then bf16ToF32 (BitVec.ofNat 16 v) else BitVec.ofNat 32 v

/-- An fp32 result as an element of BF16 or fp32 (R180). -/
def storeF (f : Nat) (x : F32) : Nat := if f = 0 then (f32ToBf16 x).toNat else x.toNat

/-- Points of a context's grid for a bell format code. -/
def Grid.points (g : Grid) (f : Nat) : List (BitVec 12) := if f = 4 then g.b8 else g.b4

/-! ## Reductions (R207, R211) -/

/-- The result of one segment: `xs` are its elements in order, `none` where masked. KIND 0 SUM, 1 MAX, 2 MIN, 3 ARGMAX,
4 ARGMIN, 5 SUMSQ. Arg kinds give a position. -/
def reduceSeg (kind : Nat) (xs : List (Option F32)) : Nat :=
  let act := ((List.range xs.length).zip xs).filterMap fun e => e.2.map fun x => (e.1, x)
  let vals := act.map (·.2)
  let best (pick : F32 → F32 → F32) : Option F32 := match vals with
    | [] => none
    | v :: r => some (r.foldl pick (if f32IsNan v then 0x7FC00000 else v))
  let first (b : F32) : Nat :=
    ((act.find? fun e => if f32IsNan b then f32IsNan e.2 else f32Key e.2 == f32Key b).map (·.1)).getD 0xFFFFFFFF
  match kind with
  | 0 => (vals.foldl f32Add 0).toNat
  | 5 => (vals.foldl (fun a x => f32Add a (f32Mul x x)) 0).toNat
  | 1 => ((best f32Max).getD 0xFF800000).toNat
  | 2 => ((best f32Min).getD 0x7F800000).toNat
  | 3 => (match best f32Max with | some b => first b | none => 0xFFFFFFFF)
  | _ => (match best f32Min with | some b => first b | none => 0xFFFFFFFF)

/-- Whether a kind is an arg kind. -/
def argKind (k : Nat) : Bool := k == 3 || k == 4

/-- A reduction's result as it is written: a position, or the fp32 value converted once. -/
def reduceOut (kind fmt v : Nat) : Nat := if argKind kind then v else storeF fmt (BitVec.ofNat 32 v)

/-- CLUSTER_BARRIER (R22, R397): all five streams stand at a barrier word. -/
def execClusterBarrier (c : ClusterId) (s : State) : Host.Outcome State Fault Refusal :=
  let x := s.cls[c]
  let heads := [x.mre.stream, x.ve0.stream, x.ve1.stream, x.ru.stream, x.dma.stream].map List.head?
  let stopped := x.mre.faulted || x.ve0.faulted || x.ve1.faulted || x.ru.faulted || x.dma.faulted
  if (s.working c.val).isNone || stopped || !(heads.all fun h => (h.map isBarrier).getD false) then .next s
  else
    .next (s.setCl c.val fun x => { x with
      mre := { x.mre with stream := x.mre.stream.drop 1, pos := x.mre.pos + 1 }
      ve0 := { x.ve0 with stream := x.ve0.stream.drop 1, pos := x.ve0.pos + 1 }
      ve1 := { x.ve1 with stream := x.ve1.stream.drop 1, pos := x.ve1.pos + 1 }
      ru := { x.ru with stream := x.ru.stream.drop 1, pos := x.ru.pos + 1 }
      dma := { x.dma with stream := x.dma.stream.drop 1, pos := x.dma.pos + 1 }
      barriers := x.barriers + 1 })

end Sys2Proof.Machine
end

