-- ==== Sys2Proof/Machine/Matrix.lean ====
section
/-! DEFINITION. The matrix row engine: MATMUL and READ_ACC (06 R174 to R178; 07 R181 to R193). -/

namespace Sys2Proof.Machine

/-! ## Lane values and sums (R174, R175) -/

/-- The integer that a code of a format stands for in a lane: I8, B8, I4, B4 by a grid (R174). -/
def laneInt (g : Grid) (bits : Nat) (bell : Bool) (v : Nat) : Int :=
  if bell then
    (if bits = 8 then g.b8.getD (v ^^^ 0x80) 0 else g.b4.getD (v ^^^ 0x8) 0).toInt
  else (BitVec.ofNat bits v).toInt

/-- Reduce an exact sum to the 40-bit two's complement entry (R183). -/
def wrap40 (v : Int) : Int := (BitVec.ofInt 40 v).toInt

/-- Clamp to the 40-bit range (R177). -/
def clamp40 (v : Int) : Int := clampInt v (-(2 ^ 39)) (2 ^ 39 - 1)

/-- One level of the product tree: adjacent results are added, an odd last one passes (R175, R181). -/
def pairUp : List F32 → List F32
  | a :: b :: r => f32Add a b :: pairUp r
  | l => l

/-- The tree sum of the products of one pass. -/
def treeSum (l : List F32) : F32 := ((List.range 7).foldl (fun l _ => pairUp l) l).headD 0

/-- Accumulate the passes of one lane: each chunk's tree sum is added to the accumulator (R175). `n` bounds the chunks. -/
def passes : Nat → F32 → List F32 → F32
  | 0, acc, _ => acc
  | n + 1, acc, ps => if ps.isEmpty then acc else passes n (f32Add acc (treeSum (ps.take 128))) (ps.drop 128)

/-! ## The instruction (R186 to R188) -/

/-- A MATMUL's or READ_ACC's word, field by field. -/
structure MreOp where
  w : BitVec 128
  deriving DecidableEq, Repr

def MreOp.op (x : MreOp) : Nat := wf128 x.w 0 4
def MreOp.afmt (x : MreOp) : Nat := wf128 x.w 4 2
def MreOp.wfmt (x : MreOp) : Nat := wf128 x.w 6 3
def MreOp.ofmt (x : MreOp) : Nat := wf128 x.w 9 2
def MreOp.accIn (x : MreOp) : Bool := bitOf x.w.toNat 11
def MreOp.hold (x : MreOp) : Bool := bitOf x.w.toNat 12
def MreOp.point (x : MreOp) : Nat := wf128 x.w 14 6
def MreOp.m (x : MreOp) : Nat := wf128 x.w 20 14 + 1
def MreOp.k (x : MreOp) : Nat := wf128 x.w 34 14 + 1
def MreOp.n (x : MreOp) : Nat := wf128 x.w 48 14 + 1
def MreOp.aBase (x : MreOp) : Nat := 256 * wf128 x.w 64 16
def MreOp.wBase (x : MreOp) : Nat := 256 * wf128 x.w 80 16
def MreOp.yBase (x : MreOp) : Nat := 256 * wf128 x.w 96 16
def MreOp.cBase (x : MreOp) : Nat := 256 * wf128 x.w 112 16

/-- The BF16 path. -/
def MreOp.bf (x : MreOp) : Bool := x.afmt == 2
def MreOp.aBits (x : MreOp) : Nat := if x.afmt = 2 then 16 else 8
def MreOp.wBits (x : MreOp) : Nat := match x.wfmt with | 0 => 8 | 1 => 8 | 4 => 16 | _ => 4
def MreOp.yBits (x : MreOp) : Nat := match x.ofmt with | 0 => 8 | 1 => 4 | 2 => 16 | _ => 32
/-- Logical lanes and accumulator entries of each (R182, R183). -/
def MreOp.lanes (x : MreOp) : Nat := if x.wBits = 4 then 256 else 128
def MreOp.group (x : MreOp) : Nat := if x.wBits = 4 then 4096 else 8192

/-- Whether a reserved bit is set (R186). -/
def MreOp.reserved (x : MreOp) : Bool := bitOf x.w.toNat 13 || wf128 x.w 62 2 ≠ 0

/-- MRE_BAD_INSTRUCTION of a MATMUL (R187, R193). -/
def MreOp.bad (x : MreOp) : Bool :=
  x.reserved || x.afmt == 3 || 5 ≤ x.wfmt || (x.afmt == 2) != (x.wfmt == 4) || (x.bf && x.ofmt ≤ 1) ||
  (!x.bf && 40 ≤ x.point)

/-- MRE_CHAIN of a MATMUL (R189, R193). The last of a chain, with HOLD 0, is held to the form of G x L as well (DESIGN CHOICE, assumption 83:
R193 names HOLD 1 only). -/
def MreOp.chainBad (x : MreOp) (c : Option MreChain) : Bool :=
  ((x.hold || x.accIn) && (x.group < x.m || x.lanes < x.n)) ||
  (x.accIn && match c with
    | none => true
    | some c => c.m ≠ x.m || c.n ≠ x.n || c.bf ≠ x.bf)

/-- Bytes of a row of `n` elements of `b` bits in T0 (R188). -/
def rowBytes (n b : Nat) : Nat := 64 * ceilDiv (n * b) 512

/-- Row `r` of an operand as a stream. -/
def rowOf (base n b r : Nat) : Opnd := ⟨none, base + r * rowBytes n b⟩

/-- T0 range of `rows` rows of `n` elements of `b` bits. -/
def rowsRange (base rows n b : Nat) : Nat × Nat := (base, base + rows * rowBytes n b)

def meet2 (a b : Nat × Nat) : Bool := a.1 < b.2 && b.1 < a.2

/-- The ranges of a MATMUL's operands; C only where it is read. -/
def MreOp.inputs (x : MreOp) : List (Nat × Nat) :=
  [rowsRange x.aBase x.m x.k x.aBits, rowsRange x.wBase x.n x.k x.wBits] ++
  (if x.bf || x.hold then [] else [(x.cBase, x.cBase + 8 * x.n)])

/-- A MATMUL that writes over an operand of its chain is unpredictable (R188). -/
def MreOp.overlaps (x : MreOp) (c : Option MreChain) : Bool :=
  let old := if x.accIn then ((c.map (·.ranges)).getD []) else []
  !x.hold && (x.inputs ++ old).any (meet2 (rowsRange x.yBase x.m x.n x.yBits))

/-! ## Folding (R184) -/

/-- The elements of a tile in the order of R184: m-groups, n-blocks, vectors, rows. -/
def tileOrder (m n g l : Nat) : List (Nat × Nat) :=
  (List.range (ceilDiv m g)).flatMap fun gi =>
    (List.range (ceilDiv n l)).flatMap fun b =>
      (List.range (min g (m - gi * g))).flatMap fun mi =>
        (List.range (min l (n - b * l))).map fun ji => (gi * g + mi, b * l + ji)

/-- Whether element (m, j) can be completed: its block's weight rows, its vector, its record and its output are within
T0 (R193). -/
def MreOp.elemOk (x : MreOp) (e : Nat × Nat) : Bool :=
  let last := min x.n ((e.2 / x.lanes + 1) * x.lanes) - 1
  (rowOf x.wBase x.k x.wBits last).ok x.wBits (x.k - 1) && (rowOf x.aBase x.k x.aBits e.1).ok x.aBits (x.k - 1) &&
  (x.hold || ((x.bf || x.cBase + 8 * e.2 + 8 ≤ Config.t0Bytes) && (rowOf x.yBase x.n x.yBits e.1).ok x.yBits e.2))

/-- The lane values of a row. -/
def MreOp.codes (x : MreOp) (mem : EngMem) (base b r : Nat) : List Nat :=
  (List.range x.k).map ((mem.elem (rowOf base x.k b r) b) ·)

def MreOp.aInts (x : MreOp) (mem : EngMem) (g : Grid) (m : Nat) : List Int :=
  (x.codes mem x.aBase x.aBits m).map (laneInt g 8 (x.afmt == 1))
def MreOp.wInts (x : MreOp) (mem : EngMem) (g : Grid) (j : Nat) : List Int :=
  (x.codes mem x.wBase x.wBits j).map (laneInt g x.wBits (x.wfmt == 1 || x.wfmt == 3))

/-- The accumulator of (m, j) after the instruction's passes, from what the chain held (R181, R183). -/
def MreOp.acc (x : MreOp) (mem : EngMem) (g : Grid) (c : Option MreChain) (m j : Nat) : MreAcc :=
  let held := if x.accIn then c.bind fun c => c.accs[m * x.n + j]? else none
  if x.bf then
    let start : F32 := match held with | some (.flt v) => v | _ => 0
    let ps := ((x.codes mem x.aBase 16 m).zip (x.codes mem x.wBase 16 j)).map fun (a, w) =>
      f32Mul (bf16ToF32 (BitVec.ofNat 16 a)) (bf16ToF32 (BitVec.ofNat 16 w))
    .flt (passes 128 start ps)
  else
    let start : Int := match held with | some (.int v) => v | _ => 0
    .int (wrap40 (start + (((x.aInts mem g m).zip (x.wInts mem g j)).map fun (a, w) => a * w).sum))

/-- S_a of vector `m`, kept across a chain (R177, R189). -/
def MreOp.sumA (x : MreOp) (mem : EngMem) (g : Grid) (c : Option MreChain) (m : Nat) : Int :=
  let held := if x.accIn then ((c.bind fun c => c.sums[m]?).getD 0) else 0
  if x.bf then 0 else held + (x.aInts mem g m).sum

/-- The correction record of row `j`: CORR and WZP (R176). -/
def MreOp.corr (x : MreOp) (mem : EngMem) (j : Nat) : Int × Int :=
  let v := mem.get ⟨none, 0⟩ (x.cBase + 8 * j) 8
  ((BitVec.ofNat 40 v).toInt, (BitVec.ofNat 8 (v / 2 ^ 40)).toInt)

/-- Output (m, j) as its code or bits (R177, R178). -/
def MreOp.output (x : MreOp) (mem : EngMem) (reserved : Bool) (sumA : Int) (j : Nat) : MreAcc → Nat
  | .flt v => if x.ofmt = 2 then (f32ToBf16 v).toNat else v.toNat
  | .int v =>
    let (corr, wzp) := x.corr mem j
    let a := clamp40 (if reserved then v + corr else v - wzp * sumA + corr)
    match x.ofmt with
    | 0 => (BitVec.ofInt 8 (clampInt (roundShift a x.point) (-128) 127)).toNat
    | 1 => (BitVec.ofInt 4 (clampInt (roundShift a x.point) (-8) 7)).toNat
    | 2 => (intToBf16 a x.point).toNat
    | _ => (intToF32 a x.point).toNat

/-- Write the outputs of the given elements. The operands do not overlap the output, so they are read as they stood. -/
def MreOp.write (x : MreOp) (mem : EngMem) (g : Grid) (c : Option MreChain) (reserved : Bool) (es : List (Nat × Nat)) : EngMem :=
  if x.hold then mem
  else es.foldl (fun out e =>
    out.setElem (rowOf x.yBase x.n x.yBits e.1) x.yBits e.2
      (x.output mem reserved (x.sumA mem g c e.1) e.2 (x.acc mem g c e.1 e.2))) mem

/-- The chain that a HOLD leaves (R189). A MATMUL that does not take up the held chain ends it, and with HOLD puts its own in its place
(DESIGN CHOICE, assumption 83). -/
def MreOp.chain (x : MreOp) (mem : EngMem) (g : Grid) (c : Option MreChain) (stamp : Nat × Nat) : Option MreChain :=
  if !x.hold then none
  else
    let old := if x.accIn then ((c.map (·.ranges)).getD []) else []
    some { m := x.m, n := x.n, lanes := x.lanes, bf := x.bf,
           accs := (List.range x.m).flatMap fun m => (List.range x.n).map fun j => x.acc mem g c m j,
           sums := (List.range x.m).map (x.sumA mem g c), ranges := old ++ x.inputs, stamp := stamp }

/-! ## Meanings -/

/-- The word at the head of an MRE's stream, when the cluster works, the unit is not stopped, and it is no barrier. -/
def State.mreHead (s : State) (c : Nat) : Option (Nat × Step × MreOp) :=
  match s.working c, (s.cl c).mre.stream.head? with
  | some (i, st), some w => if (s.cl c).mre.faulted || isBarrier w then none else some (i, st, ⟨w⟩)
  | _, _ => none

/-- An MRE fault at element (m, j) (R193). -/
def State.mreFault (s : State) (c i : Nat) (st : Step) (cause m j : Nat) : State :=
  let pos := (s.cl c).mre.pos
  (s.setCl c fun x => { x with mre := { x.mre with faulted := true } }).unitFault 1 c i st cause pos 0 m j

/-- An instruction has been carried out: T0 and the chain as it leaves them (R191). -/
def State.mreDone (s : State) (c : Nat) (t0 : List Host.Cell) (chain : Option MreChain) : State :=
  s.setCl c fun x => { x with
    t0 := t0
    mre := { x.mre with stream := x.mre.stream.drop 1, pos := x.mre.pos + 1, chain := chain } }

/-- The reserved OP values (R186). -/
def MreOp.opReserved (x : MreOp) : Bool := x.op ≠ 1 && x.op ≠ 2

/-- MATMUL (R184 to R193). One whose output meets its operands, or its chain's, is a host error of its context: its output is free
(R188, R5). -/
def execMatmul (c : ClusterId) (s : State) : Host.Outcome State Fault Refusal :=
  match s.mreHead c.val with
  | none => .next s
  | some (i, st, x) =>
    let cl := s.cls[c]
    let held := cl.mre.chain
    if x.op = 2 then .next s
    else if x.opReserved || x.bad then .next (s.mreFault c.val i st 0x01 0 0)
    else if x.chainBad held then .next (s.mreFault c.val i st 0x03 0 0)
    else
      let mem : EngMem := ⟨cl.t0, []⟩
      let es := tileOrder x.m x.n x.group x.lanes
      let done := es.takeWhile x.elemOk
      let out := x.write mem st.grid held (s.ruReserved c.val) done
      let y := rowsRange x.yBase x.m x.n x.yBits
      let (s, out) := if x.overlaps held then (s.upset (s.slot i).ctx, out.scramble s.now c.val ⟨none, 0⟩ y.1 y.2) else (s, out)
      match es.find? fun e => !x.elemOk e with
      | some e => .next ((s.setCl c.val fun y => { y with t0 := out.t0 }).mreFault c.val i st 0x02 e.1 e.2)
      | none => .next (s.mreDone c.val out.t0 (x.chain mem st.grid held (s.now, cl.mre.pos)))

/-- Entry (m, l) of cluster `c`'s held chain as READ_ACC writes it: 40 bits sign-extended, or fp32 with its upper half 0 (R183, R188).
A lane that holds no row has a free value, the same until the chain changes. -/
def accEntry (c : Nat) (h : MreChain) (m l : Nat) : List Byte :=
  leBytes 8 <|
    if l < h.n then
      match h.accs[m * h.n + l]? with
      | some (.int v) => (BitVec.ofInt 64 v).toNat
      | some (.flt v) => v.toNat
      | none => 0
    else
      let v := Config.idleAcc c h.stamp m l
      if h.bf then v.toNat % 2 ^ 32 else (v.signExtend 64).toNat

/-- READ_ACC (R188, R189, R193). An entry out of range is found in row order of the M x L entries, and is the faulting element (DESIGN CHOICE,
assumption 83). -/
def execReadAcc (c : ClusterId) (s : State) : Host.Outcome State Fault Refusal :=
  match s.mreHead c.val with
  | none => .next s
  | some (i, st, x) =>
    if x.op = 1 then .next s
    else if x.opReserved || x.reserved then .next (s.mreFault c.val i st 0x01 0 0)
    else
      match s.cls[c].mre.chain with
      | none => .next (s.mreFault c.val i st 0x03 0 0)
      | some h =>
        let es := (List.range h.m).flatMap fun m => (List.range h.lanes).map fun l => (m, l)
        let addr (e : Nat × Nat) : Nat := x.yBase + 8 * (e.1 * h.lanes + e.2)
        let ok (e : Nat × Nat) : Bool := addr e + 8 ≤ Config.t0Bytes
        let t0 := (es.takeWhile ok).foldl (fun t e => memWrite t (addr e) (accEntry c.val h e.1 e.2)) s.cls[c].t0
        match es.find? fun e => !ok e with
        | some e => .next ((s.setCl c.val fun y => { y with t0 := t0 }).mreFault c.val i st 0x02 e.1 e.2)
        | none => .next (s.mreDone c.val t0 (some h))

end Sys2Proof.Machine
end

