-- ==== Sys2Proof/Machine/Vector.lean ====
section
/-! DEFINITION. The vector engines: their instruction word, masks, checks, and the 27 operations; the reduction unit
(06 R179, R180; 08 R195 to R214). -/

namespace Sys2Proof.Machine

/-! ## The instruction (R195, R203) -/

structure VeOp where
  w : BitVec 128
  deriving DecidableEq, Repr

def VeOp.op (x : VeOp) : Nat := wf128 x.w 0 6
def VeOp.sfmt (x : VeOp) : Nat := wf128 x.w 6 3
def VeOp.dfmt (x : VeOp) : Nat := wf128 x.w 9 3
def VeOp.count (x : VeOp) : Nat := wf128 x.w 12 13 + 1
def VeOp.mask (x : VeOp) : Nat := wf128 x.w 25 3
def VeOp.mneg (x : VeOp) : Bool := bitOf x.w.toNat 28
def VeOp.mzero (x : VeOp) : Bool := bitOf x.w.toNat 29
def VeOp.mdst (x : VeOp) : Nat := wf128 x.w 30 3
def VeOp.param (x : VeOp) : Nat := wf128 x.w 33 6
def VeOp.fD (x : VeOp) : Nat := wf128 x.w 39 20
def VeOp.fA (x : VeOp) : Nat := wf128 x.w 64 20
def VeOp.fB (x : VeOp) : Nat := wf128 x.w 84 20
def VeOp.fC (x : VeOp) : Nat := wf128 x.w 104 20

/-- An operand field as the stream it names (R195, R196). -/
def opndAt (f : Nat) : Opnd := if bitOf f 19 then ⟨some (fieldOf f 0 5), 256 * fieldOf f 5 7⟩ else ⟨none, 256 * fieldOf f 0 16⟩

/-- Whether an operand field has its reserved bits 0 (R195). -/
def opndOk (f : Nat) : Bool := if bitOf f 19 then fieldOf f 12 7 == 0 else fieldOf f 16 3 == 0

def VeOp.a (x : VeOp) : Opnd := opndAt x.fA
def VeOp.b (x : VeOp) : Opnd := opndAt x.fB
def VeOp.c (x : VeOp) : Opnd := opndAt x.fC
def VeOp.d (x : VeOp) : Opnd := opndAt x.fD

/-- Bits of a source and of a destination element. -/
def VeOp.sw (x : VeOp) : Nat := fmtBits x.sfmt
def VeOp.dw (x : VeOp) : Nat := fmtBits x.dfmt

/-- The OP codes that R205 defines. -/
def veOps : List Nat :=
  [0x01, 0x02, 0x03, 0x04, 0x05, 0x06, 0x07, 0x08, 0x09, 0x0A, 0x0B, 0x0C, 0x10, 0x11, 0x12, 0x18, 0x19, 0x1A, 0x1B,
   0x20, 0x21, 0x22, 0x23, 0x28, 0x29, 0x30, 0x31]

/-- Whether a reserved bit or format code stands in the word (R203). -/
def VeOp.reserved (x : VeOp) : Bool :=
  wf128 x.w 59 5 ≠ 0 || wf128 x.w 124 4 ≠ 0 || x.sfmt == 7 || x.dfmt == 7 ||
  !([x.fA, x.fB, x.fC, x.fD].all opndOk)

/-- F → F, codes, and any → same (R205). -/
def VeOp.ff (x : VeOp) : Bool := isF x.sfmt && isF x.dfmt
def VeOp.same (x : VeOp) : Bool := x.sfmt == x.dfmt
def isCode (f : Nat) : Bool := 2 ≤ f && f ≤ 5

/-- A scalar record (R198). -/
structure Scalars where
  s0 : F32
  s1 : F32
  p : Nat
  z : Int
  deriving DecidableEq, Repr

/-- A scalar record's fields (R198); its reserved bits have no effect (DESIGN CHOICE, assumption 83). -/
def Scalars.at (n : Nat) : Scalars :=
  ⟨BitVec.ofNat 32 n, BitVec.ofNat 32 (n / 2 ^ 32), fieldOf n 64 32, (BitVec.ofNat 8 (n / 2 ^ 96)).toInt⟩

/-- What an operation works with: its word, its scalars, the step's grid, the masks (R199). -/
structure VeCtx where
  x : VeOp
  sc : Scalars
  g : Grid
  masks : Vector Nat 8
  deriving DecidableEq, Repr

/-- Bit `e` of a mask register; M0 is all ones (R199). -/
def maskBit (ms : Vector Nat 8) (k e : Nat) : Bool := if k % 8 = 0 then true else bitOf ms[ix 8 k] e

/-- Whether element `e` is active (R199). -/
def VeCtx.active (v : VeCtx) (e : Nat) : Bool := maskBit v.masks v.x.mask e != v.x.mneg

/-! ## Units and their state -/

def State.ve (s : State) (u : Nat) : Ve := if u % 2 = 0 then (s.cl (u / 2)).ve0 else (s.cl (u / 2)).ve1
def State.setVe (s : State) (u : Nat) (f : Ve → Ve) : State :=
  s.setCl (u / 2) fun c => if u % 2 = 0 then { c with ve0 := f c.ve0 } else { c with ve1 := f c.ve1 }

/-- The word at the head of a VE's stream, when its cluster works, it is not stopped, and the word is no barrier. -/
def State.veHead (s : State) (u : Nat) : Option (Nat × Step × VeOp) :=
  match s.working (u / 2), (s.ve u).stream.head? with
  | some (i, st), some w => if (s.ve u).faulted || isBarrier w then none else some (i, st, ⟨w⟩)
  | _, _ => none

/-- A VE fault at an element (R201). -/
def State.veFault (s : State) (u i : Nat) (st : Step) (cause operand e : Nat) : State :=
  let pos := (s.ve u).pos
  (s.setVe u fun v => { v with faulted := true }).unitFault 2 u i st cause pos operand e 0

/-- T0 and the tiles as an instruction leaves them. -/
def State.putEng (s : State) (u : Nat) (m : EngMem) : State :=
  (s.setCl (u / 2) fun c => { c with t0 := m.t0 }).setVe u fun v => { v with tiles := m.tiles }

/-- The bytes that a VE sees. -/
def State.engOf (s : State) (u : Nat) : EngMem := ⟨(s.cl (u / 2)).t0, (s.ve u).tiles⟩

/-- The instruction has been carried out: the VE goes on with the next word (R213, R214). -/
def State.veNext (s : State) (u : Nat) : State :=
  s.setVe u fun v => { v with stream := v.stream.drop 1, pos := v.pos + 1 }

/-- The checks before element 0 (R198, R201; an operand C that is no T0 address where it names a scalar record is one of them by DESIGN
CHOICE, assumption 83), then the rest: `ok` is the operation's list of formats and parameters,
`scalar` whether it reads a scalar record, `pOk` the range of P. -/
def State.veFront (s : State) (op u : Nat) (ok scalar : VeOp → Bool) (pOk : VeCtx → Bool)
    (k : Nat → Step → VeCtx → Host.Outcome State Fault Refusal) : Host.Outcome State Fault Refusal :=
  match s.veHead u with
  | none => .next s
  | some (i, st, x) =>
    if x.op ≠ op ∧ veOps.contains x.op then .next s
    else if x.op ≠ op || x.reserved || !ok x || (scalar x && x.c.tile.isSome) then .next (s.veFault u i st 0x11 0 0)
    else if scalar x && Config.t0Bytes < x.c.start + 16 then .next (s.veFault u i st 0x12 2 0)
    else
      let n := if scalar x then (s.engOf u).get x.c x.c.start 16 else 0
      let v : VeCtx := ⟨x, Scalars.at n, st.grid, (s.ve u).masks⟩
      if !pOk v then .next (s.veFault u i st 0x11 0 0) else k i st v

/-! ## Elements -/

/-- One element read: operand code (0 A, 1 B, 2 C, 3 D), stream, width, element. -/
abbrev ElemRef := Nat × Opnd × Nat × Nat

/-- The first reference out of range, as a fault (R196, R201). -/
def rangeChk (l : List ElemRef) : Option (Nat × Nat) :=
  (l.find? fun r => !(r.2.1.ok r.2.2.1 r.2.2.2)).map fun r => (0x12, r.1)

/-- Elements in ascending order, each checked and written, up to the first that faults: what is left in the engine's
bytes, and the fault (R17, R200, R201). -/
def veLoop (v : VeCtx) (chk : EngMem → Nat → Option (Nat × Nat)) (value : EngMem → Nat → Nat) (mem : EngMem) :
    EngMem × Option (Nat × Nat × Nat) :=
  (List.range v.x.count).foldl (fun r e =>
    match r.2 with
    | some _ => r
    | none =>
      if v.active e then
        match chk r.1 e with
        | some (cause, o) => (r.1, some (cause, o, e))
        | none => (r.1.setElem v.x.d v.x.dw e (value r.1 e), none)
      else if v.x.mzero && v.x.d.ok v.x.dw e then (r.1.setElem v.x.d v.x.dw e 0, none)
      else r) (mem, none)

/-- What the loop left, and the fault or the next instruction. -/
def State.veEnd (s : State) (u i : Nat) (st : Step) (r : EngMem × Option (Nat × Nat × Nat)) : Host.Outcome State Fault Refusal :=
  let s := s.putEng u r.1
  match r.2 with
  | some (cause, o, e) => .next (s.veFault u i st cause o e)
  | none => .next (s.veNext u)

/-- R206: a destination that meets a source range other than by coinciding with it exactly; `exact` allows that. -/
def clash (d : Nat × Nat × Nat) (dw : Nat) (l : List ((Nat × Nat × Nat) × Nat × Bool)) : Bool :=
  l.any fun (r, w, ex) => rangesMeet d r && !(ex && r.1 == d.1 && r.2.1 == d.2.1 && w == dw)

/-- What an instruction left whose destination of `n` elements met its sources, if it did: a host error of its context, whose destination
is free (R206, R5). -/
def State.veClash (s : State) (u i : Nat) (v : VeCtx) (n : Nat) (bad : Bool) (r : EngMem × Option (Nat × Nat × Nat)) :
    State × EngMem × Option (Nat × Nat × Nat) :=
  let d := v.x.d.range v.x.dw n
  if bad then (s.upset (s.slot i).ctx, r.1.scramble s.now (u / 2) v.x.d d.2.1 d.2.2, r.2) else (s, r.1, r.2)

/-- How an element-wise operation reads: the streams of element `e`, in the order that they are checked; and the source
ranges that its destination must keep clear of. -/
structure VeForm where
  refs : VeCtx → Nat → List ElemRef
  srcs : VeCtx → List ((Nat × Nat × Nat) × Nat × Bool)

def VeCtx.refA (v : VeCtx) (e : Nat) : ElemRef := (0, v.x.a, v.x.sw, e)
def VeCtx.refB (v : VeCtx) (e : Nat) : ElemRef := (1, v.x.b, v.x.sw, e)
def VeCtx.refC (v : VeCtx) (e : Nat) : ElemRef := (2, v.x.c, v.x.sw, e)
def VeCtx.refD (v : VeCtx) (e : Nat) : ElemRef := (3, v.x.d, v.x.dw, e)
def VeCtx.srcA (v : VeCtx) : (Nat × Nat × Nat) × Nat × Bool := (v.x.a.range v.x.sw v.x.count, v.x.sw, true)
def VeCtx.srcB (v : VeCtx) : (Nat × Nat × Nat) × Nat × Bool := (v.x.b.range v.x.sw v.x.count, v.x.sw, true)
def VeCtx.srcC (v : VeCtx) : (Nat × Nat × Nat) × Nat × Bool := (v.x.c.range v.x.sw v.x.count, v.x.sw, false)
def VeCtx.srcS (v : VeCtx) : (Nat × Nat × Nat) × Nat × Bool := (v.x.c.range 128 1, 128, false)

/-- One source, two, three; one with scalars; and the broadcast pair. -/
def formA : VeForm := ⟨fun v e => [v.refA e, v.refD e], fun v => [v.srcA]⟩
def formAB : VeForm := ⟨fun v e => [v.refA e, v.refB e, v.refD e], fun v => [v.srcA, v.srcB]⟩
def formABC : VeForm := ⟨fun v e => [v.refA e, v.refB e, v.refC e, v.refD e], fun v => [v.srcA, v.srcB, v.srcC]⟩
def formAS : VeForm := ⟨fun v e => [v.refA e, v.refD e], fun v => [v.srcA, v.srcS]⟩
def formCast : VeForm :=
  ⟨fun v e => [v.refA e, v.refB (e % v.sc.p), v.refD e],
   fun v => [v.srcA, (v.x.b.range v.x.sw (min v.sc.p v.x.count), v.x.sw, true), v.srcS]⟩

/-- An element-wise operation: the checks, then each element's value. -/
def State.veRun (s : State) (op u : Nat) (ok scalar : VeOp → Bool) (pOk : VeCtx → Bool) (form : VeForm)
    (value : VeCtx → EngMem → Nat → Nat) : Host.Outcome State Fault Refusal :=
  s.veFront op u ok scalar pOk fun i st v =>
    let (s, r) := s.veClash u i v v.x.count (clash (v.x.d.range v.x.dw v.x.count) v.x.dw (form.srcs v))
      (veLoop v (fun _ e => rangeChk (form.refs v e)) (value v) (s.engOf u))
    s.veEnd u i st r

/-- Elements of A, B and C as they are read. -/
def VeCtx.rawA (v : VeCtx) (m : EngMem) (e : Nat) : Nat := m.elem v.x.a v.x.sw e
def VeCtx.rawB (v : VeCtx) (m : EngMem) (e : Nat) : Nat := m.elem v.x.b v.x.sw e
def VeCtx.fa (v : VeCtx) (m : EngMem) (e : Nat) : F32 := loadF v.x.sfmt (v.rawA m e)
def VeCtx.fb (v : VeCtx) (m : EngMem) (e : Nat) : F32 := loadF v.x.sfmt (v.rawB m e)
def VeCtx.fc (v : VeCtx) (m : EngMem) (e : Nat) : F32 := loadF v.x.sfmt (m.elem v.x.c v.x.sw e)

def noScalar : VeOp → Bool := fun _ => false
def hasScalar : VeOp → Bool := fun _ => true
def anyP : VeCtx → Bool := fun _ => true

/-- An operation on one source, and one on two, in fp32 (R204). -/
def State.veUnary (s : State) (op u : Nat) (f : F32 → F32) : Host.Outcome State Fault Refusal :=
  s.veRun op u VeOp.ff noScalar anyP formA fun v m e => storeF v.x.dfmt (f (v.fa m e))
def State.veBinary (s : State) (op u : Nat) (f : F32 → F32 → F32) : Host.Outcome State Fault Refusal :=
  s.veRun op u VeOp.ff noScalar anyP formAB fun v m e => storeF v.x.dfmt (f (v.fa m e) (v.fb m e))

/-- A broadcast over a period of B. -/
def State.veCast (s : State) (op u : Nat) (f : F32 → F32 → F32) : Host.Outcome State Fault Refusal :=
  s.veRun op u VeOp.ff hasScalar (fun v => 1 ≤ v.sc.p && v.sc.p ≤ 8192) formCast fun v m e =>
    storeF v.x.dfmt (f (v.fa m e) (v.fb m (e % v.sc.p)))

/-! ## Arithmetic -/

/-- ADD (R205). -/
def execAdd (u : VeId) (s : State) : Host.Outcome State Fault Refusal := s.veBinary 0x01 u.val f32Add
/-- SUB (R205). -/
def execSub (u : VeId) (s : State) : Host.Outcome State Fault Refusal := s.veBinary 0x02 u.val f32Sub
/-- MUL (R205). -/
def execMul (u : VeId) (s : State) : Host.Outcome State Fault Refusal := s.veBinary 0x03 u.val f32Mul
/-- FMA (R204, R205). -/
def execFma (u : VeId) (s : State) : Host.Outcome State Fault Refusal :=
  s.veRun 0x04 u.val VeOp.ff noScalar anyP formABC fun v m e => storeF v.x.dfmt (f32Fma (v.fa m e) (v.fb m e) (v.fc m e))
/-- MAX (R204, R205). -/
def execMax (u : VeId) (s : State) : Host.Outcome State Fault Refusal := s.veBinary 0x05 u.val f32Max
/-- MIN (R204, R205). -/
def execMin (u : VeId) (s : State) : Host.Outcome State Fault Refusal := s.veBinary 0x06 u.val f32Min
/-- RELU (R204, R205). -/
def execRelu (u : VeId) (s : State) : Host.Outcome State Fault Refusal := s.veUnary 0x07 u.val f32Relu
/-- EXP (R204, R205). -/
def execExp (u : VeId) (s : State) : Host.Outcome State Fault Refusal := s.veUnary 0x08 u.val f32Exp
/-- SIGMOID (R204, R205). -/
def execSigmoid (u : VeId) (s : State) : Host.Outcome State Fault Refusal := s.veUnary 0x09 u.val f32Sigmoid
/-- TANH (R204, R205). -/
def execTanh (u : VeId) (s : State) : Host.Outcome State Fault Refusal := s.veUnary 0x0A u.val f32Tanh
/-- RECIP (R204, R205). -/
def execRecip (u : VeId) (s : State) : Host.Outcome State Fault Refusal := s.veUnary 0x0B u.val f32Recip
/-- RSQRT (R204, R205). -/
def execRsqrt (u : VeId) (s : State) : Host.Outcome State Fault Refusal := s.veUnary 0x0C u.val f32Rsqrt
/-- BCAST_ADD (R205). -/
def execBcastAdd (u : VeId) (s : State) : Host.Outcome State Fault Refusal := s.veCast 0x10 u.val f32Add
/-- BCAST_MUL (R205). -/
def execBcastMul (u : VeId) (s : State) : Host.Outcome State Fault Refusal := s.veCast 0x11 u.val f32Mul
/-- SCALE (R204, R205). -/
def execScale (u : VeId) (s : State) : Host.Outcome State Fault Refusal :=
  s.veRun 0x12 u.val VeOp.ff hasScalar anyP formAS fun v m e => storeF v.x.dfmt (f32Fma (v.fa m e) v.sc.s0 v.sc.s1)
/-- CONVERT (R205). -/
def execConvert (u : VeId) (s : State) : Host.Outcome State Fault Refusal := s.veUnary 0x18 u.val id

/-! ## Codes (06, VE quantise and rotation) -/

/-- The grid index nearest to `y` by exact distance, ties going to the even index; an infinity is nearest to the end of
its sign (DEDUCED), a NaN's index is a free value. -/
def gridIndex (pts : List (BitVec 12)) (y : F32) : Nat :=
  let near (neg : Bool) (m : Nat) (e : Int) : Nat :=
    let e0 : Int := if e < -9 then e else -9
    let yi : Int := (if neg then -(m : Int) else m) * 2 ^ (e - e0).toNat
    let ds := ((List.range pts.length).zip pts).map fun (i, g) => (i, (yi - g.toInt * 2 ^ (-9 - e0).toNat).natAbs)
    let least := (ds.map (·.2)).foldl min ((ds.headD (0, 0)).2)
    pickIndex ((ds.filter (·.2 == least)).map (·.1))
  match f32Val y with
  | .nan => Config.nanGridIndex pts.length y % pts.length
  | .inf n => near n (2 ^ 24 - 1) 104
  | .fin n m e => near n m e

/-- The code of `x` for a target format (06, VE quantise). -/
def quantCode (v : VeCtx) (x : F32) : Nat :=
  let y := f32Mul x v.sc.s0
  match v.x.dfmt with
  | 2 => (BitVec.ofInt 8 (f32ToCode y v.sc.z (-128) 127)).toNat
  | 3 => (BitVec.ofInt 4 (f32ToCode y v.sc.z (-8) 7)).toNat
  | 4 => gridIndex v.g.b8 y ^^^ 0x80
  | _ => gridIndex v.g.b4 y ^^^ 0x8

/-- QUANTISE (R205; 06). -/
def execQuantise (u : VeId) (s : State) : Host.Outcome State Fault Refusal :=
  s.veRun 0x19 u.val (fun x => isF x.sfmt && isCode x.dfmt) hasScalar anyP formAS fun v m e => quantCode v (v.fa m e)

/-- The value of a code (R205): S0 × (q − Z), or S0 × G[i] × 2⁻⁹. -/
def dequantVal (v : VeCtx) (q : Nat) : F32 :=
  match v.x.sfmt with
  | 2 => f32Mul v.sc.s0 (intToF32 ((BitVec.ofNat 8 q).toInt - v.sc.z) 0)
  | 3 => f32Mul v.sc.s0 (intToF32 ((BitVec.ofNat 4 q).toInt - v.sc.z) 0)
  | 4 => f32Mul v.sc.s0 (gridF32 (v.g.b8.getD (q ^^^ 0x80) 0))
  | _ => f32Mul v.sc.s0 (gridF32 (v.g.b4.getD (q ^^^ 0x8) 0))

/-- DEQUANT (R205). -/
def execDequant (u : VeId) (s : State) : Host.Outcome State Fault Refusal :=
  s.veRun 0x1A u.val (fun x => isCode x.sfmt && isF x.dfmt) hasScalar anyP formAS fun v m e =>
    storeF v.x.dfmt (dequantVal v (v.rawA m e))

/-- One butterfly stage of distance `d` (R179). -/
def butterfly (d : Nat) (xs : List F32) : List F32 :=
  (List.range xs.length).map fun j =>
    if bitOf (j / d) 0 then f32Sub (xs.getD (j - d) 0) (xs.getD j 0) else f32Add (xs.getD j 0) (xs.getD (j + d) 0)

/-- The rotation of one block of 2^lg elements (R179). -/
def rotateBlock (lg : Nat) (xs : List F32) : List F32 :=
  let ys := (List.range lg).foldl (fun l st => butterfly (2 ^ st) l) xs
  ys.map (f32Mul (if lg = 6 then 0x3E000000 else 0x3D800000))

/-- The rotation of a list, block by block; a short last block passes. `n` bounds the blocks. -/
def rotateAll (lg : Nat) : Nat → List F32 → List F32
  | 0, xs => xs
  | n + 1, xs => if xs.length < 2 ^ lg then xs else rotateBlock lg (xs.take (2 ^ lg)) ++ rotateAll lg n (xs.drop (2 ^ lg))

/-- What the rotation takes for element `e`: a masked or unreadable one is a free value. -/
def VeCtx.rotIn (v : VeCtx) (now : Nat) (m : EngMem) (e : Nat) : F32 :=
  if v.active e && v.x.a.ok v.x.sw e then v.fa m e else Config.absentInput now e

/-- ROTATE (R179, R205). The blocks are read before they are written: D is A itself or lies apart (R206). -/
def execRotate (u : VeId) (s : State) : Host.Outcome State Fault Refusal :=
  s.veFront 0x1B u.val (fun x => x.ff && fieldOf x.param 0 2 ≠ 3) noScalar anyP fun i st v =>
    let m := s.engOf u.val
    let out := rotateAll (6 + fieldOf v.x.param 0 2) 128 ((List.range v.x.count).map (v.rotIn s.now m))
    let (s, r) := s.veClash u.val i v v.x.count (clash (v.x.d.range v.x.dw v.x.count) v.x.dw (formA.srcs v))
      (veLoop v (fun _ e => rangeChk (formA.refs v e)) (fun _ e => storeF v.x.dfmt (out.getD e 0)) m)
    s.veEnd u.val i st r

/-! ## Masks and moves -/

/-- A predicate of CMP on fp32 values and on unsigned integers (R204, R205). -/
def cmpF (p : Nat) (a b : F32) : Bool :=
  match p with
  | 0 => f32Eq a b
  | 1 => !f32Eq a b
  | 2 => f32Lt a b
  | 3 => f32Lt a b || f32Eq a b
  | 4 => f32Lt b a
  | _ => f32Lt b a || f32Eq a b
def cmpU (p a b : Nat) : Bool :=
  match p with
  | 0 => a == b
  | 1 => a != b
  | 2 => a < b
  | 3 => a ≤ b
  | 4 => b < a
  | _ => b ≤ a

/-- Bits of a mask, lowest first, up to the first element that faults. -/
def maskLoop (v : VeCtx) (chk : Nat → Option (Nat × Nat)) (bit : Nat → Bool) (masked : Nat → Bool) (old : Nat) :
    List Bool × Option (Nat × Nat × Nat) :=
  let stop := (List.range v.x.count).findSome? fun e =>
    if v.active e then (chk e).map fun (c, o) => (c, o, e) else none
  let upto := match stop with | some (_, _, e) => e | none => v.x.count
  let head := (List.range upto).map fun e => if v.active e then bit e else masked e
  match stop with
  | some _ => (head ++ (List.range (8192 - upto)).map fun k => bitOf old (upto + k), stop)
  | none => (head, none)

/-- Bits as a number. -/
def bitsNat : List Bool → Nat
  | [] => 0
  | b :: r => b2n b + 2 * bitsNat r

/-- Write mask MDST, then the fault or the next instruction. -/
def State.maskEnd (s : State) (u i : Nat) (st : Step) (k : Nat) (r : List Bool × Option (Nat × Nat × Nat)) :
    Host.Outcome State Fault Refusal :=
  let s := s.setVe u fun v => { v with masks := vmod v.masks (ix 8 k) fun _ => bitsNat r.1 }
  match r.2 with
  | some (cause, o, e) => .next (s.veFault u i st cause o e)
  | none => .next (s.veNext u)

/-- CMP (R204, R205): masked bits and those beyond the count become 0; DFMT and D are ignored. -/
def execCmp (u : VeId) (s : State) : Host.Outcome State Fault Refusal :=
  s.veFront 0x20 u.val
    (fun x => (isF x.sfmt || x.sfmt == 6) && x.mdst ≠ 0 && fieldOf x.param 0 3 ≤ 5)
    (fun x => bitOf x.param 3) anyP fun i st v =>
    let m := s.engOf u.val
    let sc := bitOf v.x.param 3
    let bit (e : Nat) : Bool :=
      if v.x.sfmt = 6 then cmpU (fieldOf v.x.param 0 3) (v.rawA m e) (if sc then v.sc.p else v.rawB m e)
      else cmpF (fieldOf v.x.param 0 3) (v.fa m e) (if sc then v.sc.s0 else v.fb m e)
    let refs (e : Nat) : List ElemRef := if sc then [v.refA e] else [v.refA e, v.refB e]
    s.maskEnd u.val i st v.x.mdst (maskLoop v (fun e => rangeChk (refs e)) bit (fun _ => false) (v.masks[ix 8 v.x.mdst]))

/-- SELECT (R205). -/
def execSelect (u : VeId) (s : State) : Host.Outcome State Fault Refusal :=
  s.veRun 0x21 u.val VeOp.same noScalar anyP formAB fun v m e =>
    if maskBit v.masks (fieldOf v.x.param 0 3) e then v.rawA m e else v.rawB m e

/-- The byte of a packed bit stream that holds bit `e`. -/
def packedRef (o : Nat) (s : Opnd) (e : Nat) : ElemRef := (o, s, 8, e / 8)

/-- MLOAD (R205): bits beyond the count become 0; SFMT and DFMT are ignored. -/
def execMload (u : VeId) (s : State) : Host.Outcome State Fault Refusal :=
  s.veFront 0x22 u.val (fun x => x.mask == 0 && x.mdst ≠ 0) noScalar anyP fun i st v =>
    let m := s.engOf u.val
    let old := v.masks[ix 8 v.x.mdst]
    s.maskEnd u.val i st v.x.mdst
      (maskLoop v (fun e => rangeChk [packedRef 0 v.x.a e]) (fun e => bitOf (m.elem v.x.a 8 (e / 8)) (e % 8))
        (fun e => !v.x.mzero && bitOf old e) old)

/-- Put bit `e` of a packed stream. -/
def EngMem.setBit (m : EngMem) (o : Opnd) (e : Nat) (b : Bool) : EngMem :=
  let old := m.elem o 8 (e / 8)
  let cleared := if bitOf old (e % 8) then old - 2 ^ (e % 8) else old
  m.setElem o 8 (e / 8) (cleared + b2n b * 2 ^ (e % 8))

/-- MSTORE (R205): the unused high bits of the last byte become 0; SFMT and DFMT are ignored. -/
def execMstore (u : VeId) (s : State) : Host.Outcome State Fault Refusal :=
  s.veFront 0x23 u.val (fun _ => true) noScalar anyP fun i st v =>
    let n := v.x.count
    let d := v.x.d
    let r := (List.range n).foldl (fun (r : EngMem × Option (Nat × Nat × Nat)) e =>
      match r.2 with
      | some _ => r
      | none =>
        if v.active e then
          match rangeChk [packedRef 3 d e] with
          | some (c, o) => (r.1, some (c, o, e))
          | none => (r.1.setBit d e (maskBit v.masks (fieldOf v.x.param 0 3) e), none)
        else if v.x.mzero && d.ok 8 (e / 8) then (r.1.setBit d e false, none)
        else r) (s.engOf u.val, none)
    let last := (List.range ((8 - n % 8) % 8)).foldl (fun m k => m.setBit d (n + k) false)
    s.veEnd u.val i st (if r.2.isNone && d.ok 8 ((n - 1) / 8) then (last r.1, none) else r)

/-- MOVE (R205). -/
def execMove (u : VeId) (s : State) : Host.Outcome State Fault Refusal :=
  s.veRun 0x28 u.val VeOp.same noScalar anyP formA fun v m e => v.rawA m e

/-- The checks of one element of TAKE: the index, its range, the element that it names, the destination (R201). -/
def takeChk (v : VeCtx) (m : EngMem) (e : Nat) : Option (Nat × Nat) :=
  let k := m.elem v.x.b 32 e
  match rangeChk [(1, v.x.b, 32, e)] with
  | some f => some f
  | none => if v.sc.p ≤ k then some (0x13, 1) else rangeChk [(0, v.x.a, v.x.sw, k), v.refD e]

/-- TAKE (R205, R206). -/
def execTake (u : VeId) (s : State) : Host.Outcome State Fault Refusal :=
  s.veFront 0x29 u.val VeOp.same hasScalar (fun v => 1 ≤ v.sc.p) fun i st v =>
    let srcs := [(v.x.a.range v.x.sw v.sc.p, v.x.sw, false), (v.x.b.range 32 v.x.count, 32, true), v.srcS]
    let (s, r) := s.veClash u.val i v v.x.count (clash (v.x.d.range v.x.dw v.x.count) v.x.dw srcs)
      (veLoop v (takeChk v) (fun m e => v.rawA m (m.elem v.x.b 32 e)) (s.engOf u.val))
    s.veEnd u.val i st r

/-! ## Tile-axis reduction (R207) -/

/-- Elements of a tile row in BF16 or fp32. -/
def VeOp.rowWidth (x : VeOp) : Nat := if x.sfmt = 0 then 128 else 64

/-- The segments of a TILE_REDUCE: rows, or columns. -/
def tileSegs (v : VeCtx) (m : EngMem) : List (List (Option F32)) :=
  let w := v.x.rowWidth
  let rows := v.x.count / w
  let el (e : Nat) : Option F32 := if v.active e then some (v.fa m e) else none
  if bitOf v.x.param 3 then (List.range w).map fun c => (List.range rows).map fun r => el (r * w + c)
  else (List.range rows).map fun r => (List.range w).map fun c => el (r * w + c)

/-- TILE_REDUCE (R207). -/
def execTileReduce (u : VeId) (s : State) : Host.Outcome State Fault Refusal :=
  s.veFront 0x31 u.val
    (fun x => isF x.sfmt && fieldOf x.param 0 3 ≤ 5 && (if argKind (fieldOf x.param 0 3) then x.dfmt == 6 else isF x.dfmt) &&
      x.a.tile.isSome && x.count % x.rowWidth == 0) noScalar anyP fun i st v =>
    if 128 < v.x.a.start / 256 + v.x.count / v.x.rowWidth then .next (s.veFault u.val i st 0x12 0 0)
    else
      let m := s.engOf u.val
      let kind := fieldOf v.x.param 0 3
      let out := (tileSegs v m).map (reduceSeg kind)
      let r := ((List.range out.length).zip out).foldl (fun (r : EngMem × Option (Nat × Nat × Nat)) (e, y) =>
        match r.2 with
        | some _ => r
        | none =>
          match rangeChk [v.refD e] with
          | some (c, o) => (r.1, some (c, o, e))
          | none => (r.1.setElem v.x.d v.x.dw e (reduceOut kind v.x.dfmt y), none)) (m, none)
      let (s, r) := s.veClash u.val i v out.length (clash (v.x.d.range v.x.dw out.length) v.x.dw [v.srcA]) r
      s.veEnd u.val i st r

/-! ## The reduction unit (R208 to R214) -/

structure RuOp where
  w : BitVec 128
  deriving DecidableEq, Repr

def RuOp.op (x : RuOp) : Nat := wf128 x.w 0 4
def RuOp.src (x : RuOp) : Nat := wf128 x.w 4 2
def RuOp.kind (x : RuOp) : Nat := wf128 x.w 6 3
def RuOp.sfmt (x : RuOp) : Nat := wf128 x.w 9 3
def RuOp.ofmt (x : RuOp) : Nat := wf128 x.w 12 2
def RuOp.seg (x : RuOp) : Nat := wf128 x.w 14 13 + 1
def RuOp.count (x : RuOp) : Nat := wf128 x.w 27 13 + 1
def RuOp.sBase (x : RuOp) : Nat := 256 * wf128 x.w 64 16
def RuOp.dBase (x : RuOp) : Nat := 256 * wf128 x.w 80 16

/-- RU_BAD_INSTRUCTION (R210, R212). -/
def RuOp.bad (x : RuOp) : Bool :=
  x.op ≠ 1 || x.src == 3 || 6 ≤ x.kind || (x.src == 2 && 2 ≤ x.sfmt) || (!argKind x.kind && 2 ≤ x.ofmt) ||
  wf128 x.w 40 24 ≠ 0 || wf128 x.w 96 32 ≠ 0

/-- The format code that results have (R203's codes): U32 for the arg kinds. -/
def RuOp.out (x : RuOp) : Nat := if argKind x.kind then 6 else if x.ofmt = 1 then 0 else 1

/-- Cut a stream into segments; `n` bounds them. -/
def segments (seg : Nat) {α : Type} : Nat → List α → List (List α)
  | 0, _ => []
  | n + 1, xs => if xs.isEmpty then [] else xs.take seg :: segments seg n (xs.drop seg)

/-- RU_RANGE for a stream of `n` elements (R212). -/
def RuOp.rangeBad (x : RuOp) (n : Nat) : Bool :=
  Config.t0Bytes < x.dBase + ceilDiv n x.seg * (fmtBits x.out / 8) ||
  (x.src == 2 && Config.t0Bytes < x.sBase + n * (fmtBits x.sfmt / 8))

/-- Write the results of a stream's segments, contiguously (R211). -/
def RuOp.write (x : RuOp) (t0 : List Host.Cell) (xs : List (Option F32)) : List Host.Cell :=
  let out := (segments x.seg 8192 xs).map fun g => reduceOut x.kind x.out (reduceSeg x.kind g)
  ((List.range out.length).zip out).foldl (fun t (k, y) =>
    memWrite t (x.dBase + k * (fmtBits x.out / 8)) (leBytes (fmtBits x.out / 8) y)) t0

/-- The word at the head of an RU's stream. -/
def State.ruHead (s : State) (c : Nat) : Option (Nat × Step × RuOp) :=
  match s.working c, (s.cl c).ru.stream.head? with
  | some (i, st), some w => if (s.cl c).ru.faulted || isBarrier w then none else some (i, st, ⟨w⟩)
  | _, _ => none

def State.ruNext (s : State) (c : Nat) : State :=
  s.setCl c fun x => { x with ru := { x.ru with stream := x.ru.stream.drop 1, pos := x.ru.pos + 1 } }
def State.ruStop (s : State) (c : Nat) : State := s.setCl c fun x => { x with ru := { x.ru with faulted := true } }
def State.veStop (s : State) (u : Nat) : State := s.setVe u fun v => { v with faulted := true }

/-- An RU fault at result 0 (R212). -/
def State.ruFault (s : State) (c i : Nat) (st : Step) (cause : Nat) : State :=
  let pos := (s.cl c).ru.pos
  (s.ruStop c).unitFault 3 c i st cause pos 0 0 0

/-- The check of an RU instruction that needs no stream: its cause. -/
def State.ruCheck (s : State) (c : Nat) (x : RuOp) : Option Nat :=
  if s.ruReserved c then some 0x23 else if x.bad then some 0x21 else none

/-- The RU instruction that is ready to accept a stream of VE `u` (R209). -/
def State.ruReady (s : State) (u : Nat) : Option RuOp :=
  match s.ruHead (u / 2) with
  | some (_, _, x) => if x.op = 1 ∧ x.src = u % 2 then some x else none
  | none => none

/-- A REDUCE's format list: F; DFMT and D are ignored (R205). -/
def VeOp.reduceOk (x : VeOp) : Bool := isF x.sfmt

/-- The stream that a REDUCE hands over, up to its first element out of range (R209). -/
def reduceStream (v : VeCtx) (m : EngMem) : List (Option F32) × Option Nat :=
  let bad := (List.range v.x.count).find? fun e => v.active e && !(v.x.a.ok v.x.sw e)
  let n := bad.getD v.x.count
  ((List.range n).map fun e => if v.active e then some (v.fa m e) else none, bad)

/-- A REDUCE and its RU instruction together (R209, R211, R212): a fault of either stops both. -/
def State.pairRun (s : State) (u i : Nat) (st : Step) (v : VeCtx) (x : RuOp) : State :=
  let c := u / 2
  match s.ruCheck c x with
  | some cause => (s.veStop u).ruFault c i st cause
  | none =>
    if x.rangeBad v.x.count then (s.veStop u).ruFault c i st 0x22
    else
      let (xs, bad) := reduceStream v (s.engOf u)
      match bad with
      | none => ((s.setCl c fun y => { y with t0 := x.write y.t0 xs }).veNext u).ruNext c
      | some e =>
        let whole := xs.take (e / x.seg * x.seg)
        ((s.setCl c fun y => { y with t0 := x.write y.t0 whole }).ruStop c).veFault u i st 0x12 0 e

/-- REDUCE (R205, R209): it waits for its RU instruction; its own check faults both when they are paired. -/
def execReduce (u : VeId) (s : State) : Host.Outcome State Fault Refusal :=
  let c := u.val / 2
  match s.veHead u.val with
  | none => .next s
  | some (i, st, x) =>
    if x.op ≠ 0x30 ∧ veOps.contains x.op then .next s
    else
      let s' := if x.op = 0x30 ∧ (s.ruReady u.val).isSome then s.ruStop c else s
      if x.op ≠ 0x30 || x.reserved || !x.reduceOk then .next (s'.veFault u.val i st 0x11 0 0)
      else if s.ruReserved c then .next (s'.veFault u.val i st 0x14 0 0)
      else
        match s.ruReady u.val with
        | none => .next s
        | some r => .next (s.pairRun u.val i st ⟨x, Scalars.at 0, st.grid, (s.ve u.val).masks⟩ r)

/-- RU_REDUCE (R209 to R212): from T0 at once, from a VE when its REDUCE stands ready. -/
def execRuReduce (c : ClusterId) (s : State) : Host.Outcome State Fault Refusal :=
  match s.ruHead c.val with
  | none => .next s
  | some (i, st, x) =>
    let u := 2 * c.val + x.src
    let paired : Option VeOp := if 2 ≤ x.src then none else
      match s.veHead u with
      | some (_, _, y) => if y.op = 0x30 then some y else none
      | none => none
    match s.ruCheck c.val x with
    | some cause => .next ((if paired.isSome then s.veStop u else s).ruFault c.val i st cause)
    | none =>
      if x.src = 2 then
        if x.rangeBad x.count then .next (s.ruFault c.val i st 0x22)
        else
          let m : EngMem := ⟨s.cls[c].t0, []⟩
          let xs := (List.range x.count).map fun e => some (loadF x.sfmt (m.elem ⟨none, x.sBase⟩ (fmtBits x.sfmt) e))
          .next ((s.setCl c.val fun y => { y with t0 := x.write y.t0 xs }).ruNext c.val)
      else
        match paired with
        | none => .next s
        | some y =>
          if y.reserved || !y.reduceOk then .next ((s.ruStop c.val).veFault u i st 0x11 0 0)
          else .next (s.pairRun u i st ⟨y, Scalars.at 0, st.grid, (s.ve u).masks⟩ x)

end Sys2Proof.Machine
end

