-- ==== Sys2Proof/Machine/DmaWords.lean ====
section
/-! DEFINITION. The words of a cluster's DMA stream: SET, READ, WRITE, GATHER (R397). -/

namespace Sys2Proof.Machine

/-- A DMA stream word. -/
structure DmaOp where
  w : BitVec 128
  deriving DecidableEq, Repr

def DmaOp.kind (x : DmaOp) : Nat := wf128 x.w 126 2
def DmaOp.offset (x : DmaOp) : Nat := wf128 x.w 0 40
def DmaOp.dva (x : DmaOp) : Nat := wf128 x.w 0 48
def DmaOp.tableOff (x : DmaOp) : Nat := wf128 x.w 0 32
def DmaOp.elem (x : DmaOp) : Nat := wf128 x.w 32 16
def DmaOp.t0 (x : DmaOp) : Nat := 256 * wf128 x.w 64 16
def DmaOp.length (x : DmaOp) : Nat := wf128 x.w 80 24
def DmaOp.hint (x : DmaOp) : Option (Option Hint × Bool) := hintAt (wf128 x.w 104 16)

/-- Samples of the share that a cluster works on: first, and how many (R398). -/
def Step.share (st : Step) (c : Nat) : Nat × Nat :=
  let lo := st.clusters.findIdx (· == c) * st.program.share
  (lo, min st.program.share (st.samples - lo))

/-- DMA_BAD_WORD of each kind (R397). -/
def DmaOp.badSet (x : DmaOp) (setBytes : Nat) : Bool :=
  wf128 x.w 40 24 ≠ 0 || wf128 x.w 104 22 ≠ 0 || x.length == 0 || Config.t0Bytes < x.t0 + x.length ||
  setBytes < x.offset + x.length
def DmaOp.badMove (x : DmaOp) : Bool :=
  wf128 x.w 48 16 ≠ 0 || wf128 x.w 120 6 ≠ 0 || x.length == 0 || Config.t0Bytes < x.t0 + x.length || x.hint.isNone
def DmaOp.badGather (x : DmaOp) (n : Nat) : Bool :=
  wf128 x.w 48 16 ≠ 0 || wf128 x.w 80 24 ≠ 0 || wf128 x.w 120 6 ≠ 0 || x.elem == 0 ||
  Config.t0Bytes < x.t0 + n * x.elem || x.hint.isNone

/-- The word at the head of a cluster's DMA stream, when the cluster works and the engine is not stopped. -/
def State.dmaHead (s : State) (c : Nat) : Option (Nat × Step × DmaOp) :=
  match s.working c, (s.cl c).dma.stream.head? with
  | some (i, st), some w => if (s.cl c).dma.faulted || isBarrier w then none else some (i, st, ⟨w⟩)
  | _, _ => none

/-- DMA_BAD_WORD, before the word moves any byte (R397). -/
def State.dmaBad (s : State) (c i : Nat) (st : Step) : State :=
  let pos := (s.cl c).dma.pos
  (s.setCl c fun x => { x with dma := { x.dma with faulted := true } }).unitFault 6 c i st 0x61 pos 0 0 0

/-- The word has moved its bytes: T0 as it leaves it, and the next word. -/
def State.dmaNext (s : State) (c : Nat) (t0 : List Host.Cell → List Host.Cell) : State :=
  s.setCl c fun x => { x with
    t0 := t0 x.t0
    dma := { x.dma with stream := x.dma.stream.drop 1, pos := x.dma.pos + 1 } }

/-- The DMA engine of cluster `c` at work for its step; `space` as in R85 for the bound set. Outside DENSE no instruction is at work. -/
def State.dmaAgent (s : State) (c i : Nat) (st : Step) (space : Option Nat) : Agent :=
  { kind := 6, unit := c, cls := 1, ctx := (s.slot i).ctx, job := some st.job, slot := some i,
    instr := if (s.slot i).phase = .dense then (s.cl c).dma.pos else 0, tlb := some c, space := space }

/-- RELEASE for the ranges of a word (R224). -/
def State.releaseAll (s : State) (release : Bool) (ag : Agent) (rs : List (Nat × Nat)) : State :=
  if release then rs.foldl (fun s r => s.releaseRange ag r.1 r.2) s else s

/-! ## Moves -/

/-- A word's access fails: its engine stops at the faulting element, which the record names; the bytes of those before it are in T0
(R17, R433). -/
def State.dmaFail (s : State) (c : Nat) (ag : Agent) (t0 : Nat) (done : List Byte × Nat) (f : AccFail) : State :=
  (s.setCl c fun x => { x with t0 := memWrite x.t0 t0 done.1, dma := { x.dma with faulted := true } }).accError { ag with elem := done.2 } f

/-- A word reads a range into T0. -/
def State.dmaIn (s : State) (c : Nat) (ag : Agent) (dva len t0 : Nat) (hint : Option Hint) (k : State → State) : State :=
  s.accessOr ag (readDva ag dva len hint) hint (fun s bs => (k s).dmaNext c (memWrite · t0 bs)) fun s f =>
    s.dmaFail c ag t0 (readSound ag dva s (lineParts dva len)) f

/-- SET (R397): from the bound dense set into T0. -/
def execDmaSet (c : ClusterId) (s : State) : Host.Outcome State Fault Refusal :=
  match s.dmaHead c.val, s.model.res with
  | some (i, st, x), some r =>
    if x.kind ≠ 0 then .next s
    else if x.badSet r.setBytes then .next (s.dmaBad c.val i st)
    else
      let ag := s.dmaAgent c.val i st (some 0)
      .next <| s.dmaIn c.val ag (r.slotDva st.set + x.offset) x.length x.t0 none id
  | _, _ => .next s

/-- READ (R397): from a DVA of the step's context into T0. -/
def execDmaRead (c : ClusterId) (ecc : EccList) (s : State) : Host.Outcome State Fault Refusal :=
  match s.dmaHead c.val with
  | none => .next s
  | some (i, st, x) =>
    if x.kind ≠ 1 then .next s
    else
      match if x.badMove then none else x.hint with
      | none => .next (s.dmaBad c.val i st)
      | some (h, rel) =>
        let ag := s.dmaAgent c.val i st none
        .next <| (s.strike ecc).dmaIn c.val ag x.dva x.length x.t0 h fun s => s.releaseAll rel ag [(x.dva, x.length)]

/-- WRITE (R397): from T0 to a DVA of the step's context. The lines written are result lines of the step (R330). The writes of one
word take effect in the order of their addresses, whatever their regions: one of the orders that R29 allows (DESIGN CHOICE,
assumption 64). -/
def execDmaWrite (c : ClusterId) (s : State) : Host.Outcome State Fault Refusal :=
  match s.dmaHead c.val with
  | none => .next s
  | some (i, st, x) =>
    if x.kind ≠ 2 then .next s
    else
      match if x.badMove then none else x.hint with
      | none => .next (s.dmaBad c.val i st)
      | some (h, rel) =>
        let ag := s.dmaAgent c.val i st none
        let bs := memRead s.cls[c].t0 x.t0 x.length
        .next <| s.accessOr ag (writeDva ag x.dva bs h) h (fun s _ =>
            (s.releaseAll rel ag [(x.dva, x.length)]).dmaNext c.val id) fun s f =>
          s.dmaFail c.val ag 0 ([], writeSound ag x.dva bs s) f

/-- One sample of a GATHER: its entry's DVA and data; an entry of 0 gives zeros. -/
def gatherOne (ag : Agent) (table elem : Nat) (h : Option Hint) (sample : Nat) : Acc (Nat × List Byte) := do
  let a := leNat (← readDva ag (table + 8 * sample) 8)
  if a = 0 then return (0, List.replicate elem 0) else return (a, ← readDva ag a elem h)

/-- The samples of a GATHER of key `n` in order, behind the `done` ones; what is done when the next meets a borrowed page that is not
there stays done (R229). -/
def gatherLoop (ag : Agent) (table elem n : Nat) (h : Option Hint) : List Nat → Nat → List Byte → Acc (List Byte)
  | [], _, got => return got
  | k :: rest, done, got => do
    let p ← notingPart ⟨ag.owner, false, table, n, done, got⟩ (gatherOne ag table elem h k)
    gatherLoop ag table elem n h rest (done + 1) (got ++ p.2)

/-- The data of a GATHER over `samples`; no range is as long as its key. -/
def gatherRead (ag : Agent) (table elem : Nat) (h : Option Hint) (samples : List Nat) : Acc (List Byte) := do
  let key := 2 ^ 64 + samples.length * elem
  let (done, got) := (← get).partDone ag false table key
  gatherLoop ag table elem key h (samples.drop done) done got

/-- The ranges that a GATHER's entries name. -/
def gatherRanges (ag : Agent) (table elem : Nat) (samples : List Nat) (s : State) : List (Nat × Nat) :=
  samples.filterMap fun k =>
    match ((readDva ag (table + 8 * k) 8).go s).1 with
    | .ok bs => if leNat bs = 0 then none else some (leNat bs, elem)
    | .error _ => none

/-- The samples of a GATHER that are complete before its first faulting one. -/
def gatherSound (ag : Agent) (table elem : Nat) (s : State) : List Nat → List Byte × Nat
  | [] => ([], 0)
  | k :: rest =>
    match ((gatherOne ag table elem none k).go s).1 with
    | .error _ => ([], 0)
    | .ok p => let r := gatherSound ag table elem s rest; (p.2 ++ r.1, r.2 + 1)

/-- GATHER (R397): ELEM bytes for each sample of the cluster's share. -/
def execDmaGather (c : ClusterId) (s : State) : Host.Outcome State Fault Refusal :=
  match s.dmaHead c.val with
  | none => .next s
  | some (i, st, x) =>
    if x.kind ≠ 3 then .next s
    else
      let (lo, n) := st.share c.val
      match if x.badGather n then none else x.hint with
      | none => .next (s.dmaBad c.val i st)
      | some (h, rel) =>
        let ag := s.dmaAgent c.val i st none
        let table := st.input + x.tableOff
        let samples := (List.range n).map (lo + ·)
        .next <| s.accessOr ag (gatherRead ag table x.elem h samples) h (fun s bs =>
            (s.releaseAll rel ag (gatherRanges ag table x.elem samples s)).dmaNext c.val (memWrite · x.t0 bs)) fun s f =>
          s.dmaFail c.val ag x.t0 (gatherSound ag table x.elem s samples) f

end Sys2Proof.Machine
end

