-- ==== Sys2Proof/Machine/Steps.lean ====
section
/-! DEFINITION. Steps before and around their work: candidates and admission (17 R425 to R431), RUN_STEP (16 R404), request
messages and their rounds (04 R108 to R111; 12 R293 to R296). -/

namespace Sys2Proof.Machine

/-! ## Candidates (R425, R426) -/

/-- The queues of a class, in ascending order; queue 0 stands after queue 63 (R426). -/
def classQueues (rt : Bool) : List Nat := if rt then (List.range 8).map (· + 1) else (List.range 55).map (· + 9) ++ [0]

/-- The queues of a class from the first after the pointer, the pointer's own last. -/
def ringAfter (l : List Nat) (p : Nat) : List Nat := (l.dropWhile (· ≠ p)).drop 1 ++ l.takeWhile (· ≠ p) ++ [p]

/-- The earliest RUN_STEP of a queue that has neither been admitted nor ended. -/
def State.nextStep (s : State) (q : Nat) : Option Job :=
  (s.queue q).jobs.find? fun j => j.opcode == 0x30 && !j.ended && (s.stepSlot ⟨q, j.seq⟩).isNone

/-- The admission candidate of a queue (R425). -/
def State.candidate (s : State) (q : Nat) : Option Job :=
  if (s.ctx (s.ctxOf q)).st = .opened then (s.nextStep q).filter fun j => j.phase = .running && !j.halted else none

/-- Whether a job is still the candidate of its queue. -/
def State.stillPick (s : State) (j : JobRef) : Bool := ((s.candidate j.q).map (·.seq)) == some j.seq

/-- A class keeps its candidate while it is one, and otherwise takes the first after its pointer (R426). -/
def State.choosePick (s : State) (rt : Bool) (ptr : Nat) (old : Option JobRef) : Option JobRef :=
  match old.filter s.stillPick with
  | some j => some j
  | none => (ringAfter (classQueues rt) ptr).findSome? fun q => (s.candidate q).map fun j => ⟨q, j.seq⟩

/-- Each class chooses its candidate. -/
def State.choose (s : State) : State :=
  let c := s.sched
  { s with sched := { c with rtPick := s.choosePick true c.rtPtr c.rtPick, normPick := s.choosePick false c.normPtr c.normPick } }

/-! ## Clusters and slots (R427 to R429) -/

/-- Clusters that a step of a class may take when the first `brim` of R428's order are the brim. -/
def State.openCls (s : State) (rt : Bool) (brim : Nat) : List Nat :=
  (if rt then Config.clusterOrder else Config.clusterOrder.drop brim).filter fun c => (s.cl c).owner = .free

/-- Clusters of a step of `n` samples (R398). -/
def Program.clusters (p : Program) (n : Nat) : Nat := ceilDiv n p.share

/-- A RUN_STEP's program. -/
def State.programOf (s : State) (x : Job) : Option Program :=
  match s.model.res with
  | none => none
  | some r => r.programs.find? (·.id == (x.p 0).field 16 8)

def samplesOf (x : Job) : Nat := (x.p 0).field 0 13

/-- Whether a candidate of a class meets R427: a FREE slot, its clusters, and for a normal step the slots that a brim
keeps back. A staged brim governs the assignment at this very seam (R431), so it must fit under that one too. -/
def State.admissible (s : State) (rt : Bool) (j : JobRef) : Bool :=
  match s.job? j with
  | none => false
  | some x =>
    match s.programOf x with
    | none => false
    | some p =>
      let slots := (List.range 8).filter fun i => (s.slot i).phase = .free
      let normal := ((List.range 8).filter fun i => (s.slot i).phase ≠ .free && !(s.slot i).rt).length
      let fits (brim : Nat) : Bool :=
        (rt || brim == 0 || normal < 7) && p.clusters (samplesOf x) ≤ (s.openCls rt brim).length
      !slots.isEmpty && fits s.sched.brimLive && fits (s.sched.brimStaged.getD s.sched.brimLive)

/-- The admission that R427 makes now: real time first. -/
def State.admission (s : State) : Option (Bool × JobRef) :=
  match s.sched.rtPick.filter (s.admissible true) with
  | some j => some (true, j)
  | none => (s.sched.normPick.filter (s.admissible false)).map fun j => (false, j)

/-! ## RUN_STEP (R404) -/

/-- The checks of R385 and R404 on a RUN_STEP. -/
def State.stepOk (s : State) (x : Job) : Bool :=
  fits (x.p 0) [(0, 13), (16, 8)] && 1 ≤ samplesOf x && samplesOf x ≤ 4096 && fits (x.p 2) [(0, 48)] &&
  (x.p 2).toNat % 256 == 0 && fits (x.p 3) [(0, 48)] && fits (x.p 4) [(0, 48)] && (x.p 5 == 0 || (x.p 5).getLsbD 63) &&
  (s.model.res.isNone ||
    (match s.programOf x with
     | none => false
     | some p => p.clusters (samplesOf x) ≤ 16))

/-- RUN_STEP (R404): a step that passes the checks waits for its admission (SEAM). -/
def execRunStep (q : QueueId) (s : State) : Host.Outcome State Fault Refusal :=
  .next <| (s.choose.runOnce q.val (isOp 0x30) fun s j x =>
    if !s.stepOk x then s.abortJob j dtBadParam
    else if s.model.res.isNone then s.abortJob j dtNoModel
    else s).choose

/-! ## Accesses of a step's units -/

/-- Work of several units: where it stops, the unit that stopped it. -/
abbrev Work (α : Type) := ExceptT (Agent × AccFail) (StateM State) α

/-- An access of one unit as a part of such work. -/
def accOf {α : Type} (ag : Agent) (m : Acc α) : Work α := ExceptT.adapt (fun f => (ag, f)) m

/-- Run such work of the step in a slot: on success go on; a wait sends its request and leaves the state as it was, and the step's clusters
wait with it; a failure raises the error of the unit that met it, and stops a DMA engine (R433). -/
def State.work {α : Type} (s : State) (i : Nat) (m : Work α) (k : State → α → State) : State :=
  match (ExceptT.run m).run s with
  | (.ok a, s') => k s' a
  | (.error (_, .snoop l inv), _) => (((s.slot i).step.map (·.clusters)).getD []).foldl (fun s c => s.awaitLine c l) (s.sendSnoop l inv)
  | (.error (ag, .page l i p dva fetch data), s') => s'.requestPage ag.owner l i p dva fetch data
  | (.error (_, .hold), s') => s'
  | (.error (ag, f), s') => (s'.stopEngine ag).accError ag f

/-- The GEs of a region at work for a step on the step's own data, in the step's DVAs. -/
def State.geInput (s : State) (region i : Nat) (st : Step) : Agent :=
  { Agent.ge region 1 (s.slot i).ctx (some st.job) (some i) with space := none }

/-- The GEs of a region at work for a step on table storage (R85). -/
def State.geTable (s : State) (region i : Nat) (st : Step) : Agent := Agent.ge region 1 (s.slot i).ctx (some st.job) (some i)

/-- A step's bound version of a table (R48). -/
def Step.version (st : Step) (table : Nat) : Option Version := (st.versions.find? (·.1 == table)).map (·.2)

/-- The version whose directory names the gather region of a table: the quotient part's for a composed table (R98). -/
def Step.gatherVersion (st : Step) (d : Desc) : Option Version := st.version (if d.kind = .composed then d.quot else d.id)

/-- The gather region of a table for a step (R98). -/
def State.gather (s : State) (i : Nat) (st : Step) (d : Desc) : Work Nat :=
  match st.gatherVersion d with
  | none => return 0
  | some v => let ag := s.geTable 0 i st; accOf ag (homeRegion ag v.dir)

/-! ## Request messages (R108 to R111) -/

def poolAt (n : Nat) : Pool := match n with | 1 => .sum | 2 => .wsum | 3 => .mean | 4 => .max | _ => .none
def poolCode : Pool → Nat | .none => 0 | .sum => 1 | .wsum => 2 | .mean => 3 | .max => 4

/-- A request message's body (R111). -/
def reqBody (m : ReqMsg) : List Byte :=
  leBytes 8 (packFields [(m.stepSeq, 48), (m.slot.val, 3), (b2n m.reissue, 1), (b2n m.fill, 1)]) ++
  leBytes 8 (packFields [(m.table, 12), (poolCode m.pool, 3), (0, 1), (m.entries.length, 10), (0, 6), (m.version, 32)]) ++
  leBytes 8 (m.reqId % 2 ^ 32) ++
  m.entries.flatMap fun e =>
    leBytes 8 (packFields [(e.row, 41), (e.sample, 12)]) ++
    leBytes 4 (if m.pool = .wsum then e.weight else Config.unusedWeight m.reqId).toNat

/-- REQ_IDs of requests that are not answered: of steps' entries, also of steps that have gone, and of fills (R111). -/
def State.openReqs (s : State) : List Nat :=
  let of (x : Slot) : List Nat := ((x.step.map (·.entries)).getD []).flatMap fun e => e.reqs.filter fun r => !e.done.contains r
  s.slots.toList.flatMap of ++ s.tabs.late.map (·.reqId) ++
    ((s.tabs.refl.map (·.held)).getD []).filterMap fun r => r.fill.map (·.1)

/-- The first number from `n` on that none of `l` is, within `l.length` steps. -/
def freshFrom (l : List Nat) : Nat → Nat → Nat
  | 0, n => n
  | fuel + 1, n => if l.contains n then freshFrom l fuel ((n + 1) % 2 ^ 32) else n

/-- A new REQ_ID: none of a request that is not answered (R111). -/
def State.newReqId (s : State) : State × Nat :=
  let l := s.openReqs
  let id := freshFrom l l.length s.fab.nextReqId
  ({ s with fab := { s.fab with nextReqId := (id + 1) % 2 ^ 32 } }, id)

/-- Whether a device is presumed lost (R305). -/
def State.isLost (s : State) (dev : Nat) : Bool := ((s.peer? dev).map (·.lost)).getD false

/-- Whether the latest glint of a device says that it is dim (R293). -/
def State.isDim (s : State) (dev : Nat) : Bool := ((s.peer? dev).map (·.dim)).getD false

/-- The replica order of a row under a map (R293). -/
def State.orderOf (s : State) (map : List MapSection) (d : Desc) (row : Nat) : List Nat :=
  let set := ((map.find? (·.table == d.id)).map fun m => m.shards.getD (d.place row).1 []).getD []
  let l := set.filter fun m => some m ≠ s.device && !s.isLost m
  l.filter (!s.isDim ·) ++ l.filter (s.isDim ·)

def State.setStep (s : State) (i : Nat) (f : Step → Step) : State := s.setSlot i fun x => { x with step := x.step.map f }

/-- Change entry `k` of a step. -/
def Step.onEntry (st : Step) (k : Nat) (f : Entry → Entry) : Step := { st with entries := st.entries.modify k f }

/-- Entries of a step that have not been issued and still want an answer (R109, R120). -/
def Step.unissued (st : Step) : List Nat :=
  (List.range st.entries.length).filter fun k =>
    match st.entries[k]? with
    | some e => e.answer.isNone && e.asked.isEmpty && !e.exhausted
    | none => false

/-- Count entries that became exhausted (R296). -/
def State.countExhausted (s : State) (n : Nat) : State :=
  { s with strag := { s.strag with entriesExhausted := s.strag.entriesExhausted + n } }

/-- The members of an entry's shard in the order in which they are asked, by number of entry. -/
def State.stepOrder (s : State) (st : Step) (e : Entry) : List Nat :=
  match s.table? e.table with
  | some t => s.orderOf st.map t.desc e.row
  | none => []

/-- Entries for one message: destination, table, pooling mode, entry numbers. -/
structure Batch where
  dst : Nat
  table : Nat
  pool : Pool
  idxs : List Nat
  deriving DecidableEq, Repr

/-- Place of a batch in R109's order; two pooling modes of one table go in the order of their codes. -/
def State.batchKey (s : State) (seq : Nat) (b : Batch) : Nat :=
  let rot := ((b.dst : Int) - (s.device.getD 0 : Nat) - (seq : Nat)) % 16384
  (rot.toNat * 4096 + b.table) * 8 + poolCode b.pool

/-- Insert by key, behind equals. -/
def batchInsert (key : Batch → Nat) (b : Batch) : List Batch → List Batch
  | [] => [b]
  | a :: r => if key b < key a then b :: a :: r else a :: batchInsert key b r

/-- Cut a list into pieces of at most `n`. -/
def chunks {α : Type} (n : Nat) : Nat → List α → List (List α)
  | 0, _ => []
  | fuel + 1, l => if l.isEmpty then [] else l.take n :: chunks n fuel (l.drop n)

/-- Group entries by (destination, table, pooling mode), at most 640 to a message (R108). The entries of two declarations that name one
table with one pooling mode are not told apart: those of one sample form one bag group, whose partial goes to the bag of the first
(DESIGN CHOICE, assumption 65). -/
def batchesOf (items : List (Nat × Nat × Pool × Nat)) : List Batch :=
  (items.map fun x => (x.1, x.2.1, x.2.2.1)).eraseDups.flatMap fun (d, t, p) =>
    let ks := (items.filter fun x => x.1 == d && x.2.1 == t && x.2.2.1 == p).map (·.2.2.2)
    (chunks 640 ks.length ks).map fun c => ⟨d, t, p, c⟩

/-- Whole messages in order until they hold 1 MiB (R109). -/
def takeRound (got : Nat) : List Batch → List Batch
  | [] => []
  | b :: r => if 2 ^ 20 ≤ got then [] else b :: takeRound (got + 24 + 12 * b.idxs.length) r

/-- Send one request message of a step. -/
def State.sendBatch (s : State) (i : Nat) (st : Step) (reissue : Bool) (b : Batch) : State :=
  let (s, id) := s.newReqId
  let es := b.idxs.filterMap fun k => st.entries[k]?
  let m : ReqMsg := { stepSeq := (s.slot i).stepSeq % 2 ^ 48, slot := ix 8 i, reissue := reissue, fill := false, table := b.table,
                      pool := b.pool, version := ((st.version b.table).map (·.num)).getD 0, reqId := id,
                      entries := es.map fun e => ⟨e.row, e.sample, e.weight⟩ }
  let now := s.now
  let mark (e : Entry) : Entry :=
    { e with asked := e.asked ++ [b.dst], reqs := id :: e.reqs, sentAt := some now,
             exhausted := e.exhausted || e.order.getLast? == some b.dst }
  let newly := (es.filter fun e => !e.exhausted && e.order.getLast? == some b.dst).length
  let s := (s.setStep i fun st => b.idxs.foldl (fun st k => st.onEntry k mark) st).countExhausted newly
  s.sendMsg b.dst false 1 (reqBody m) (!reissue)

/-- Bytes of request messages that rounds have released and no port has begun to send (R109). -/
def State.unsent (s : State) : Nat :=
  let waits (l : List TxMsg) : Nat := ((l.filter fun m => m.round && m.sentAt.isNone).map (·.body.length)).sum
  (s.fab.peers.map fun p => waits p.txS.unacked).sum + ((s.fab.early.filter (·.round)).map (·.body.length)).sum

/-- Whether every earlier step has issued all its rounds (R54). -/
def State.roundTurn (s : State) (i : Nat) : Bool :=
  (List.range 8).all fun k =>
    let x := s.slot k
    (s.slot i).stepSeq ≤ x.stepSeq ||
    !(x.phase = .admitted || x.phase = .prefetch || (x.phase = .lookup && !((x.step.map (·.unissued)).getD []).isEmpty))

/-- An entry that no answer can reach any more (R296). -/
def Entry.unreachable (e : Entry) : Bool := e.answer.isNone && e.exhausted && e.asked.all (e.dead.contains ·)

/-- During a STRICT stall, entries that have become unreachable are counted; the first of a step writes an event (R299,
R300). -/
def State.strictCheck (s : State) (i : Nat) : State :=
  match (s.slot i).step with
  | none => s
  | some st =>
    if st.strictSince.isNone then s
    else
      let new := (List.range st.entries.length).filter fun k =>
        !st.unreach.contains k && ((st.entries[k]?).map (·.unreachable)).getD false
      match new with
      | [] => s
      | k :: _ =>
        let s := { s with strag := { s.strag with strictUnreachable := s.strag.strictUnreachable + new.length } }
        let s := s.setStep i fun st => { st with unreach := st.unreach ++ new }
        if !st.unreach.isEmpty then s
        else
          let table := ((st.entries[k]?).map (·.table)).getD 0
          let asked := ((st.entries[k]?).map (·.asked)).getD []
          s.recordEvent { code := 0x13, ctx := (s.slot i).ctx, payload := leBytes 8 (s.slot i).stepSeq ++ leBytes 2 table ++ padTo 6 (asked.flatMap (leBytes 2)) }

/-- Release a round of a step: fix the orders of its entries, and send whole messages of 1 MiB in all (R109, R293). -/
def State.releaseRound (s : State) (i : Nat) : State :=
  match (s.slot i).step with
  | none => s
  | some st =>
    let orders := st.unissued.filterMap fun k => (st.entries[k]?).map fun e => (k, e, s.stepOrder st e)
    let empty := (orders.filter (·.2.2.isEmpty)).map (·.1)
    let st := empty.foldl (fun st k => st.onEntry k fun e => { e with exhausted := true }) st
    let items := orders.filterMap fun (k, e, l) => l.head?.map fun d => (d, e.table, e.pool, k)
    let all := (batchesOf items).foldl (fun l b => batchInsert (s.batchKey (s.slot i).stepSeq) b l) []
    let round := takeRound 0 all
    let st := orders.foldl (fun st (k, _, l) => st.onEntry k fun e => { e with order := l }) st
    let sent := (round.map (·.idxs.length)).sum
    let s := (s.setStep i fun _ => st).countExhausted empty.length
    let s := { s with lookups := { s.lookups with remoteEntries := s.lookups.remoteEntries + sent } }
    (round.foldl (fun s b => s.sendBatch i st false b) s).strictCheck i

/-- Whether a step's next round may go out (R54, R109). -/
def State.roundOpen (s : State) (i : Nat) : Bool :=
  match (s.slot i).step with
  | none => false
  | some st => (s.slot i).phase = .lookup && !st.halted && !st.unissued.isEmpty && s.roundTurn i && s.unsent < 2 ^ 19

/-- ROUND_RELEASE (R109). -/
def execRoundRelease (slot : SlotId) (s : State) : Host.Outcome State Fault Refusal :=
  if s.alive && s.roundOpen slot.val then .next (s.releaseRound slot.val) else .next s

/-! ## Reissues (R110, R294 to R296) -/

/-- The three causes of a reissue. -/
inductive Cause where
  | loss | notHeld | threshold
  deriving DecidableEq, Repr

/-- The member that an entry is reissued to: the next of its order that is not presumed lost. -/
def State.nextMember (s : State) (e : Entry) : Option Nat :=
  let rest := match e.asked.getLast? with
    | none => e.order
    | some m => (e.order.dropWhile (· ≠ m)).drop 1
  rest.find? fun m => !s.isLost m

/-- Count reissued entries under their cause (R312), and for the step (R303). -/
def State.countHedges (s : State) (i : Nat) (c : Cause) (n : Nat) : State :=
  let g := s.strag
  let g := match c with
    | .loss => { g with hedgesLost := g.hedgesLost + n }
    | .notHeld => { g with hedgesNotHeld := g.hedgesNotHeld + n }
    | .threshold => { g with hedgesThreshold := g.hedgesThreshold + n }
  ({ s with strag := g }).setStep i fun st => { st with hedges := st.hedges + n }

/-- Reissue entries of a step, unpooled, each to the next member of its order; one that has none is exhausted. -/
def State.reissue (s : State) (i : Nat) (c : Cause) (ks : List Nat) : State :=
  match (s.slot i).step with
  | none => s
  | some st =>
    let want := ks.filterMap fun k => (st.entries[k]?).bind fun e =>
      if e.answer.isNone && !e.exhausted && !e.asked.isEmpty then some (k, e, s.nextMember e) else none
    let dry := (want.filter (·.2.2.isNone)).map (·.1)
    let items := want.filterMap fun (k, e, m) => m.map fun d => (d, e.table, Pool.none, k)
    let st := dry.foldl (fun st k => st.onEntry k fun e => { e with exhausted := true }) st
    let s := (s.setStep i fun _ => st).countExhausted dry.length
    let s := s.countHedges i c items.length
    (batchesOf items).foldl (fun s b => s.sendBatch i st true b) s

/-! ## Reflection fills (R129) -/

/-- Whether reflection `r` is the one of a table and row. -/
def Reflection.is (r : Reflection) (table row : Nat) : Bool := r.table == table && r.row == row

def State.reflection? (s : State) (table row : Nat) : Option Reflection := s.tabs.refl.bind fun x => x.held.find? (·.is table row)

def State.setReflection (s : State) (table row : Nat) (f : Reflection → Reflection) : State :=
  let g (r : Reflection) : Reflection := if r.is table row then f r else r
  { s with tabs := { s.tabs with refl := s.tabs.refl.map fun x => { x with held := x.held.map g } } }

/-- Ask the first member of a list for the row of a held reflection that has none; with nobody left the fill ends. A request that is not a
reissue (R110) counts as sent (R133). -/
def State.askFill (s : State) (table row : Nat) (again : Bool) (members : List Nat) : State :=
  match members, s.table? table with
  | d :: _, some t =>
    let (s, id) := s.newReqId
    let m : ReqMsg := { stepSeq := Config.fillSeq id % 2 ^ 48, slot := ix 8 (Config.fillSlot id), reissue := again, fill := true,
                        table := table, pool := .none, version := t.lit.num, reqId := id,
                        entries := [⟨row, Config.fillSample id % 2 ^ 12, 0⟩] }
    let s := { s with lookups := { s.lookups with remoteEntries := s.lookups.remoteEntries + b2n (!again) } }
    (s.setReflection table row fun r => { r with fill := some (id, members) }).sendMsg d false 1 (reqBody m)
  | _, _ => s.setReflection table row fun r => { r with fill := none }

/-- Begin the fill of a row that enters the live held list: its live replica set is asked in the order of R293. -/
def State.beginFill (s : State) (table row : Nat) : State :=
  match s.table? table with
  | some t => s.askFill table row false (s.orderOf s.tabs.mapLive t.desc row)
  | none => s

/-- A fill that its member cannot give goes to the next member that is not presumed lost. -/
def State.nextFill (s : State) (table row : Nat) (members : List Nat) : State :=
  s.askFill table row true ((members.drop 1).filter fun m => !s.isLost m)

end Sys2Proof.Machine
end

