-- ==== Sys2Proof/Machine/Lookup.lean ====
section
/-! DEFINITION. PREFETCH and LOOKUP on the requesting package (04 R98 to R107, R119 to R126; 02 R53 to R60): classification,
deduplication, row lines, budgets, and the pooled results in T0. -/

namespace Sys2Proof.Machine

/-! ## Classification (R99 to R102) -/

/-- The tag of a reflection's live slot. -/
def Reflection.tag? (r : Reflection) : Option ReflSlot :=
  match r.live with
  | none => none
  | some 0 => r.slot0
  | some _ => r.slot1

/-- Where a storage row comes from (R99, tests 3 to 5). -/
inductive Origin where
  | stored | refl | remote
  deriving DecidableEq, Repr

/-- The source of a storage row of a table for a step. -/
def originOf (ag : Agent) (st : Step) (t : Table) (v : Version) (row : Nat) : Acc Origin := do
  if t.desc.placement = .everywhere then return .stored
  let e ← shardEntry ag v.dir (t.desc.place row).1
  if e ≠ 0 then return .stored
  match (st.refl.bind fun x => x.held.find? (·.is t.desc.id row)).bind (·.tag?) with
  | some g => return if g.version = v.num then .refl else .remote
  | none => return .remote

/-- Where the classification of a step stands: occurrences newest first; keys by gather region; rows to be fetched here. -/
structure Sorting where
  occs : List Occ := []
  entries : List Entry := []
  keys : List (Nat × Nat × Nat × Src) := []
  fetches : List Src := []
  merged : Nat := 0
  overflow : Nat := 0
  deriving DecidableEq, Repr

/-- The source of one storage row of an occurrence: merged with its key's fetch, unless it is a pooled remote one (R100 to
R102). An occurrence past the region's limit of keys has a read of its own. -/
def partSource (ag : Agent) (st : Step) (region : Nat) (t : Table) (v : Version) (row sample : Nat) (weight : F32)
    (pool : Pool) (z : Sorting) : Acc (Sorting × Src) := do
  let o ← originOf ag st t v row
  let pooled := o = .remote && pool ≠ .none
  let known := if pooled then none else z.keys.find? fun k => k.1 == region && k.2.1 == t.desc.id && k.2.2.1 == row
  match known with
  | some k => return ({ z with merged := z.merged + 1 }, k.2.2.2)
  | none =>
    let full := !pooled && Config.dedupKeys ≤ (z.keys.filter (·.1 == region)).length
    let copy := if full then z.overflow + 1 else 0
    let src : Src := match o with
      | .stored => .stored region t.desc.id row copy
      | .refl => .refl region t.desc.id row copy
      | .remote => .entry z.entries.length
    let z := match o with
      | .remote => { z with entries := z.entries ++ [{ table := t.desc.id, row, sample, weight, pool, order := [], region }] }
      | _ => { z with fetches := z.fetches ++ [src] }
    if pooled then return (z, src)
    else if full then return ({ z with overflow := z.overflow + 1 }, src)
    else return ({ z with keys := (region, t.desc.id, row, src) :: z.keys }, src)

/-- One index occurrence of a declaration (R78, R87, R88, R99). A composed row whose part is not defined is a free value (R89). -/
def sortIndex (ag : Agent) (st : Step) (region di : Nat) (l : LookupDecl) (t : Table) (idx sample : Nat) (weight : F32)
    (z : Sorting) : Acc Sorting := do
  let add (z : Sorting) (srcs : List Src) : Sorting := { z with occs := { decl := di, sample, weight, srcs } :: z.occs }
  if t.desc.isDefault idx then return add z [.dflt]
  else if t.desc.kind = .composed then do
    let s ← get
    match s.table? t.desc.quot, s.table? t.desc.rem with
    | some a, some b => do
      let (z, x) ← partSource ag st region a ((st.version a.desc.id).getD a.lit) (idx / t.desc.geom) sample weight .none z
      let (z, y) ← partSource ag st region b ((st.version b.desc.id).getD b.lit) (idx % t.desc.geom) sample weight .none z
      return add z [x, y]
    | _, _ => return add z [.free t.desc.id idx]
  else do
    let (z, x) ← partSource ag st region t ((st.version t.desc.id).getD t.lit) (t.desc.storageRow idx) sample weight (poolAt l.pool) z
    return add z [x]

/-! ## Inputs of a step (R122, R126, R396) -/

/-- Little-endian numbers of `w` bytes. -/
def numsOf (w n : Nat) (bs : List Byte) : List Nat := (List.range n).map fun i => leNat ((bs.drop (w * i)).take w)

/-- The bag ends of a declaration. -/
def readBags (ag : Agent) (st : Step) (l : LookupDecl) : Acc (List Nat) := do
  let bs ← readDva ag (st.input + l.bagOff) (4 * st.samples)
  return numsOf 4 st.samples bs

/-- Whether the bag between two ends breaks R126. -/
def bagBad (e p : Nat) : Bool := e < p || p + 1024 < e

/-- Bag ends that R126 forbids. -/
def bagsBad (ends : List Nat) : Bool := (ends.zip (0 :: ends)).any fun (e, p) => bagBad e p

/-- Indices of the bag between two ends: a free number where they break R126. -/
def bagLen (e p : Nat) : Nat := if bagBad e p then Config.brokenBag p e % 1025 else e - p

/-- The indices and weights of a declaration, and for each its sample. -/
def readIndices (ag : Agent) (st : Step) (l : LookupDecl) (t : Table) (ends : List Nat) : Acc (List (Nat × Nat × F32)) := do
  let lens := (ends.zip (0 :: ends)).map fun (e, p) => bagLen e p
  let n := lens.sum
  let w := if t.desc.index64 then 8 else 4
  let is ← readDva ag (st.input + l.indexOff) (w * n)
  let ws ← if l.pool = 2 then readDva ag (st.input + l.weightOff) (4 * n) else pure []
  let samples := ((List.range st.samples).zip lens).flatMap fun (s, n) => List.replicate n s
  return samples.zip ((numsOf w n is).zip (if l.pool = 2 then (numsOf 4 n ws).map (BitVec.ofNat 32) else List.replicate n 0))

/-- Whether a step breaks R126, as its inputs stand. -/
def State.bagFault (s : State) (i : Nat) : Bool :=
  match (s.slot i).step with
  | none => false
  | some st =>
    let ag := { s.geInput 0 i st with snoops := false }
    st.program.lookups.any fun l =>
      match (readBags ag st l).go s with
      | (.ok e, _) => bagsBad e
      | _ => false

/-! ## Row lines (R103 to R107) -/

/-- The row line with a tag. -/
def Tiers.rowLine (t : Tiers) (u : LineTag) : Option (List Byte) :=
  t.pool.findSome? fun e =>
    match e with
    | .row _ t bs _ => if t = u then some bs else none
    | _ => none

/-- One more step will read a row line. -/
def addUse (u : LineTag) (e : PoolEntry) : PoolEntry :=
  match e with
  | .row r t bs n => if t = u then .row r t bs (n + 1) else e
  | e => e

/-- Bytes of a reflection slot (R127). -/
def Desc.slotBytes (d : Desc) : Nat := 64 * ceilDiv (16 + d.stride + 510) 64

/-- Where the row of a reflection's live slot stands. -/
def Reflection.rowDva (r : Reflection) (d : Desc) : Nat := r.dva + (r.live.getD 0) * d.slotBytes + 16

/-- A reflection's row body in its live slot: all its side entries for a cache line (R219), for a decode only those that its escape codes
name (R82). -/
def reflRow (ag : Agent) (d : Desc) (r : Reflection) (all : Bool) : Acc (List Byte) := do
  let a := r.rowDva d
  let base ← readDva ag a d.stride
  let used := ((d.codes base).filter (· == d.format.escape)).length
  let n := rowEscCount base
  let side ← readDva ag (a + d.stride) (2 * (if all then n else min used n))
  return base ++ side

/-- The reflection that a step reads for a row, under the set that it bound (R48). -/
def Step.reflection? (st : Step) (table row : Nat) : Option Reflection := st.refl.bind fun x => x.held.find? (·.is table row)

/-- Tag of the row line of a source that this package reads, and its table (R104). -/
def State.lineTag (s : State) (st : Step) (seq : Nat) (x : Src) : Option (Table × LineTag) :=
  let tag (t : Table) (row slot : Nat) : Table × LineTag :=
    let v := (st.version t.desc.id).getD t.lit
    (t, { table := t.desc.id, version := v.num, row, stamp := v.stampAt seq, slot })
  match x with
  | .stored _ table row _ => (s.table? table).map fun t => tag t row 0
  | .refl _ table row _ => (s.table? table).bind fun t => (st.reflection? table row).map fun r => tag t row (r.rowDva t.desc)
  | _ => none

/-- Read the row of such a source for PREFETCH: its address and its body. -/
def fetchRow (ag : Agent) (st : Step) (seq : Nat) (t : Table) (x : Src) : Acc (Option (Nat × List Byte)) := do
  match x with
  | .stored _ table row _ => do
    let v := (st.version table).getD t.lit
    match ← rowPlace ag t.desc v.dir row, ← rowAt ag t.desc v row seq true with
    | some (a, _), some body => return some (a, body)
    | _, _ => return none
  | .refl _ table row _ =>
    match st.reflection? table row with
    | some r => return some (r.rowDva t.desc, ← reflRow ag t.desc r true)
    | none => return none
  | _ => return none

/-- Prefetch the row of a source: `none` when it is skipped, otherwise its tag and whether a matching line was there (R103, R104, R106,
R219, R244). -/
def prefetchRow (ag : Agent) (st : Step) (seq : Nat) (x : Src) : Acc (Option (LineTag × Bool)) := do
  let s ← get
  match s.lineTag st seq x with
  | none => return none
  | some (t, u) =>
    match s.tiers.rowLine u with
    | some _ => do
      set { s with tiers := { s.tiers with pool := s.tiers.pool.map (addUse u) } }
      return some (u, true)
    | none =>
      forgive ag none (do
        match ← fetchRow ag st seq t x with
        | some (a, body) => do
          let r ← homeRegion ag a
          let s ← get
          match makeRoom s r ((8 + body.length + 3) / 4 * 4) (s.tiers.pool.length + 1) with
          | none => return none
          | some s => do
            let e := PoolEntry.row r u body 1
            set { s with tiers := { s.tiers with pool := s.tiers.pool ++ [e] } }
            return some (u, false)
        | none => return none)

/-- The gather region whose GEs read a source here. -/
def Src.region : Src → Nat
  | .stored r .. => r
  | .refl r .. => r
  | _ => 0

/-- What PREFETCH leaves: the classification, the lines that the step will read, lines reused and skipped. -/
structure Prefetched where
  z : Sorting
  uses : List LineTag
  reused : Nat
  skipped : Nat
  deriving DecidableEq, Repr

/-- Classify every index of a step. -/
def State.sortStep (s : State) (i : Nat) (st : Step) : Work Sorting := do
  let mut z : Sorting := {}
  for (di, l) in (List.range st.program.lookups.length).zip st.program.lookups do
    match s.table? l.table with
    | none => pure ()
    | some t => do
      let region ← s.gather i st t.desc
      let inp := s.geInput region i st
      let ag := s.geTable region i st
      let ends ← accOf inp (readBags inp st l)
      let is ← accOf inp (readIndices inp st l t ends)
      for (sample, idx, w) in is do
        z ← accOf ag (sortIndex ag st region di l t idx sample w z)
  return { z with occs := z.occs.reverse }

/-- Classify, then prefetch every local row and every reflection (R53, R103). -/
def State.prefetch (s : State) (i : Nat) (st : Step) (seq : Nat) : Work Prefetched := do
  let z ← s.sortStep i st
  let mut p : Prefetched := ⟨z, [], 0, 0⟩
  for x in z.fetches do
    let ag := { s.geTable x.region i st with cls := 0 }
    match ← accOf ag (prefetchRow ag st seq x) with
    | none => p := { p with skipped := p.skipped + 1 }
    | some (u, r) => p := { p with uses := u :: p.uses, reused := p.reused + b2n r }
  return p

/-! ## Budgets (R57 to R61, R90, R120, R298 to R300) -/

/-- Whether a declaration's table is TOLERANT; a composed table's marking governs its parts (R89), whatever the composed table's own
PLACEMENT is (DESIGN CHOICE, assumption 66). -/
def State.declTolerant (s : State) (st : Step) (di : Nat) : Bool :=
  (((st.program.lookups[di]?).bind fun l => s.table? l.table).map (·.desc.tolerant)).getD false

/-- Whether entry `k` of a step wants an answer. -/
def Step.open (st : Step) (k : Nat) : Bool := ((st.entries[k]?).map (·.answer.isNone)).getD false

/-- Entries that an occurrence reads. -/
def Occ.entries (o : Occ) : List Nat := o.srcs.filterMap fun x => match x with | .entry k => some k | _ => none

/-- A STRICT stall ends when the step's last open entry is answered. -/
def State.stallCheck (s : State) (i : Nat) : State :=
  match (s.slot i).step with
  | none => s
  | some st => if st.entries.any (·.answer.isNone) then s.strictCheck i else s.endStall i

/-- Add to the missing counts of samples. -/
def addMissing (counts : List Nat) (samples : List Nat) : List Nat := samples.foldl (fun c k => c.modify k (· + 1)) counts

/-- The lookup budget has expired: missing rows of TOLERANT tables become default rows, STRICT ones begin a stall. -/
def State.expire (s : State) (i : Nat) : State :=
  match (s.slot i).step with
  | none => s
  | some st =>
    let gone (o : Occ) : Bool := !o.missing && s.declTolerant st o.decl && o.entries.any st.open
    let lost := (st.occs.filter gone).map (·.sample)
    let occs := st.occs.map fun o => if gone o then { o with missing := true } else o
    let wanted := (occs.filter (!·.missing)).flatMap (·.entries)
    let entries := ((List.range st.entries.length).zip st.entries).map fun (k, e) =>
      if e.answer.isNone && !wanted.contains k then { e with answer := some .dflt } else e
    let strict := entries.any (·.answer.isNone)
    let new := { st with occs, entries, missingCounts := addMissing st.missingCounts lost, defaulted := st.defaulted + lost.length,
                         strictSince := if strict then some s.now else none, strictWaited := strict }
    let s := s.setSlot i fun x => { x with step := some new, penumbra := x.penumbra || !lost.isEmpty, strictWait := strict }
    ({ s with strag := { s.strag with rowsDefaulted := s.strag.rowsDefaulted + lost.length } }).strictCheck i

/-- LOOKUP_BUDGET_EXPIRY (R58, R59): in PREFETCH the expiry takes hold when the step enters LOOKUP. -/
def execLookupBudgetExpiry (now : Nat) (slot : SlotId) (s : State) : Host.Outcome State Fault Refusal :=
  let s := s.advanceTo now
  match (s.slot slot.val).step with
  | none => .next s
  | some st =>
    let x := s.slot slot.val
    if !s.alive || st.halted || st.expired || st.budget = 0 || s.now - st.tAdm < 100 * st.budget ||
        !(x.phase = .prefetch || x.phase = .lookup) then .next s
    else
      let s := s.setStep slot.val fun st => { st with expired := true }
      .next (if x.phase = .lookup then s.expire slot.val else s)

/-- A step whose deadline has passed is marked (R58, R61). -/
def State.deadlineCheck (s : State) (i : Nat) : State :=
  match (s.slot i).step with
  | none => s
  | some st =>
    if st.deadline = 0 || s.now - st.tAdm < 100 * st.deadline then s
    else s.setSlot i fun x => { x with deadlinePast := true, step := x.step.map fun st => { st with deadlineMissed := true } }

/-- DEADLINE_PASS (R45, R61): until its slot is FREE. -/
def execDeadlinePass (now : Nat) (slot : SlotId) (s : State) : Host.Outcome State Fault Refusal :=
  let s := s.advanceTo now
  let x := s.slot slot.val
  if !s.alive || x.phase = .free then .next s else .next (s.deadlineCheck slot.val)

/-! ## PREFETCH_DONE (R53) -/

/-- Whether a step's PREFETCH is the first in admission order (R53). -/
def State.prefetchTurn (s : State) (i : Nat) : Bool :=
  (List.range 8).all fun k =>
    let x := s.slot k
    (s.slot i).stepSeq ≤ x.stepSeq || !(x.phase = .admitted || x.phase = .prefetch)

/-- Parts of an occurrence that a reflection serves. -/
def Occ.reflParts (o : Occ) : Nat := (o.srcs.filter fun x => match x with | .refl .. => true | _ => false).length

/-- What a step's PREFETCH adds to the lookup counters (R133). An occurrence of a composed row counts once as an index, and once for each of
its part rows where keys, fetches and reflections are counted (DESIGN CHOICE, assumption 67). -/
def LookupCounters.prefetched (c : LookupCounters) (p : Prefetched) : LookupCounters :=
  { c with indices := c.indices + p.z.occs.length
           defaultReads := c.defaultReads + (p.z.occs.filter fun o => o.srcs == [Src.dflt]).length
           dedupMerged := c.dedupMerged + p.z.merged
           dedupOverflow := c.dedupOverflow + p.z.overflow
           prefetchReused := c.prefetchReused + p.reused
           prefetchSkipped := c.prefetchSkipped + p.skipped
           reflectionReads := c.reflectionReads + (p.z.occs.map Occ.reflParts).sum }

/-- A step enters LOOKUP. -/
def State.enterLookup (s : State) (i : Nat) (p : Prefetched) : State :=
  let enter (st : Step) : Step := { st with occs := p.z.occs, entries := p.z.entries, uses := p.uses }
  let s := { s with lookups := s.lookups.prefetched p }
  let s := (s.setSlot i fun x => { x with phase := .lookup, step := x.step.map enter }).progressOf i
  let s := if ((s.slot i).step.map (·.expired)).getD false then s.expire i else s
  if s.roundOpen i then s.releaseRound i else s

/-- PREFETCH_DONE (R53, R99): the step moves to LOOKUP and begins its rounds. Bags that break R126 leave the context's results open
(assumption 5). -/
def execPrefetchDone (slot : SlotId) (s : State) : Host.Outcome State Fault Refusal :=
  let i := slot.val
  match (s.slot i).step with
  | none => .next s
  | some st =>
    if !s.serving || (s.slot i).phase ≠ .prefetch || st.halted || !s.prefetchTurn i then .next s
    else
      let s := if s.bagFault i then s.upset (s.slot i).ctx else s
      .next <| s.work i (s.prefetch i st (s.slot i).stepSeq) fun s p => s.enterLookup i p

/-! ## Values and pooling (R121 to R125) -/

/-- The row of a source as LOOKUP reads it: from a matching line of the staging cache, or from where it stands (R107). -/
def localRow (ag : Agent) (st : Step) (seq : Nat) (x : Src) : Acc (Option (List Byte)) := do
  let s ← get
  match (s.lineTag st seq x).bind fun (_, u) => s.tiers.rowLine u with
  | some b => return some b
  | none =>
    match x with
    | .stored _ table row _ =>
      match s.table? table with
      | some t => rowAt ag t.desc ((st.version table).getD t.lit) row seq false
      | none => return none
    | .refl _ table row _ =>
      match s.table? table, st.reflection? table row with
      | some t, some r => return some (← reflRow ag t.desc r false)
      | _, _ => return none
    | _ => return none

/-- Decode a row for a step, counting its overruns (R82): its values and its version (R121). -/
def decodeFor (d : Desc) (g : Grid) (body : List Byte) : Acc Decoded := do
  let (s, x) := (← get).decode d g body
  set s
  return x

/-- A row of a table whose bytes the spec does not name: free values, and a free version. -/
def freeRow (d : Desc) (row : Nat) : Decoded :=
  ⟨(List.range d.dim).map (Config.missingStored d.id row), (Config.missingStored d.id row d.dim).toNat⟩

/-- The row of one source that this package reads itself. -/
def sourceVals (ag : Agent) (st : Step) (seq : Nat) (x : Src) : Acc Decoded := do
  let s ← get
  match x with
  | .stored _ table row _ | .refl _ table row _ =>
    match s.table? table with
    | none => return ⟨[], 0⟩
    | some t => do
      match ← localRow ag st seq x with
      | some body => decodeFor t.desc st.grid body
      | none => return freeRow t.desc row
  | _ => return ⟨[], 0⟩

/-- A term of a bag: its values and version, and whether its weights are in them already (R122). -/
structure Term where
  vals : List F32
  weight : F32
  whole : Bool
  ver : Nat
  deriving DecidableEq, Repr

/-- Rows known for sources. -/
abbrev Known := List (Src × Decoded)

/-- The row of one source of an occurrence of a table, and whether it is a partial: `none` where another entry's partial covers it. -/
def Step.srcTerm (st : Step) (known : Known) (t : Table) (x : Src) : Option (Decoded × Bool) :=
  match x with
  | .dflt => some (t.dfltRow, false)
  | .free _ row => some (freeRow t.desc row, false)
  | .entry k =>
    match (st.entries[k]?).bind (·.answer) with
    | some (.row v vs) => some (⟨vs, v⟩, false)
    | some (.covered true v vs) => some (⟨vs, v⟩, true)
    | some (.covered false _ _) => none
    | _ => some (t.dfltRow, false)
  | x => some (((known.find? (·.1 == x)).map (·.2)).getD ⟨[], 0⟩, false)

/-- A composed row: its parts are combined element by element, and its version is the larger of theirs (R88). -/
def Desc.compose (d : Desc) (a b : Decoded) : Decoded :=
  ⟨List.zipWith (if d.multiply then f32Mul else f32Add) a.vals b.vals, max a.ver b.ver⟩

/-- The term of an occurrence: a composed row's parts are combined (R88), a missing one is the default row (R120). -/
def Step.term (st : Step) (known : Known) (t : Table) (o : Occ) : Option Term :=
  let of (x : Decoded) (whole : Bool) : Term := ⟨x.vals, o.weight, whole, x.ver⟩
  if o.missing then some (of t.dfltRow false)
  else
    match o.srcs with
    | [x] => (st.srcTerm known t x).map fun (r, w) => of r w
    | [x, y] =>
      match st.srcTerm known t x, st.srcTerm known t y with
      | some (a, _), some (b, _) => some (of (t.desc.compose a b) false)
      | _, _ => none
    | _ => none

/-- Sum of terms, from +0.0 and in order (R123). -/
def sumTerms (dim : Nat) (ts : List (List F32)) : List F32 := ts.foldl (List.zipWith f32Add) (List.replicate dim 0)

/-- Element-wise maximum (R124); a single term passes through the same rule. -/
def maxTerms (dim : Nat) : List (List F32) → List F32
  | [] => List.replicate dim 0
  | t :: ts => ts.foldl (List.zipWith f32Max) (t.map fun x => f32Max x x)

/-- Pool a bag of length `n` (R122). -/
def poolBag (pool dim n : Nat) (ts : List Term) : List F32 :=
  match pool with
  | 2 => sumTerms dim (ts.map fun t => if t.whole then t.vals else t.vals.map (f32Mul t.weight))
  | 3 => if n = 0 then List.replicate dim 0 else (sumTerms dim (ts.map (·.vals))).map fun x => f32Div x (intF32 n)
  | 4 => maxTerms dim (ts.map (·.vals))
  | _ => sumTerms dim (ts.map (·.vals))

/-- The rows that a declaration leaves in the T0 of the share of samples `[lo, lo + n)` (R122, R396, R398). -/
def Step.results (st : Step) (known : Known) (di : Nat) (l : LookupDecl) (t : Table) (lo n : Nat) : List (List F32) :=
  let mine := st.occs.filter fun o => o.decl == di && lo ≤ o.sample && o.sample < lo + n
  if l.pool = 0 then mine.filterMap fun o => (st.term known t o).map (·.vals)
  else
    (List.range st.program.share).map fun k =>
      let bag := mine.filter (·.sample == lo + k)
      poolBag l.pool t.desc.dim bag.length (bag.filterMap (st.term known t))

/-- A row of results as bytes (R125, R188). -/
def resultBytes (fp32 : Bool) (dim : Nat) (vs : List F32) : List Byte :=
  padTo (rowBytes dim (if fp32 then 32 else 16))
    (vs.flatMap fun v => if fp32 then leBytes 4 v.toNat else leBytes 2 (f32ToBf16 v).toNat)

/-- Rows that a declaration writes for a share. -/
def Step.resultRows (st : Step) (di : Nat) (l : LookupDecl) (lo n : Nat) : Nat :=
  if l.pool = 0 then (st.occs.filter fun o => o.decl == di && lo ≤ o.sample && o.sample < lo + n).length else st.program.share

/-- The shares of a step: cluster, first sample, samples (R398). -/
def Step.shares (st : Step) : List (Nat × Nat × Nat) := st.clusters.map fun c => (c, st.share c)

/-- Whether some result row lies beyond T0: R396 gives a declaration no room there, and the context's results are left open (assumption
5). -/
def State.resultsPast (s : State) (st : Step) : Bool :=
  ((List.range st.program.lookups.length).zip st.program.lookups).any fun (di, l) =>
    match s.table? l.table with
    | none => false
    | some t => st.shares.any fun (_, lo, n) =>
        Config.t0Bytes < 256 * l.resultT0 + st.resultRows di l lo n * rowBytes t.desc.dim (if l.fp32 then 32 else 16)

/-- A source that this package reads. -/
def Src.isLocal : Src → Bool
  | .stored .. => true
  | .refl .. => true
  | _ => false

/-- The distinct sources that this package reads for a step, in the order of its occurrences. -/
def Step.localSources (st : Step) : List Src :=
  ((st.occs.filter (!·.missing)).flatMap (·.srcs.filter (·.isLocal))).eraseDups

/-- Results that go to a cluster's T0 from an offset on: those past its end are lost, and those of a context under a host error are free
values (R5, R396, assumption 5). -/
def State.t0Results (s : State) (i c off : Nat) (bs : List Byte) : List Byte :=
  let bs := bs.take (Config.t0Bytes - off)
  if (s.ctx (s.slot i).ctx).upset then (List.range bs.length).map fun k => Config.upsetByte s.now (2 ^ 64 + c + 16 * (off + k)) else bs

/-- T0 of cluster `c` as LOOKUP leaves it: pooled results and dense inputs, written into `t0`. -/
def State.lookupT0 (s : State) (i c : Nat) (st : Step) (known : Known) (lo n : Nat) (dense : List Byte) (t0 : List Host.Cell) :
    List Host.Cell :=
  let t0 := ((List.range st.program.lookups.length).zip st.program.lookups).foldl (fun m (di, l) =>
    match s.table? l.table with
    | none => m
    | some t =>
      let bs := (st.results known di l t lo n).flatMap (resultBytes l.fp32 t.desc.dim)
      memWrite m (256 * l.resultT0) (s.t0Results i c (256 * l.resultT0) bs)) t0
  memWrite t0 (256 * st.program.denseInT0) (padTo (st.program.share * st.program.denseInBytes) dense)

/-- Read a range whose bytes stay with their owner while another access waits for a borrowed page (R229). -/
def readKept (ag : Agent) (dva len : Nat) : Acc (List Byte) := do
  let bs ← readDva ag dva len
  modify fun s => s.notePart ⟨ag.owner, false, dva, len, len, bs⟩
  return bs

/-- The dense input of a share: where its copy faults, the element that it faults at (R17). -/
def readDense (ag : Agent) (dva len : Nat) : Work (List Byte) :=
  tryCatch (accOf ag (readKept ag dva len)) fun (_, f) => do
    throw ({ ag with elem := (readSound ag dva (← get) (lineParts dva len)).2 }, f)

/-- The last reads of LOOKUP: the dense input of each share that is not discarded (R398, R438), then local rows and reflections, once for
each source. -/
def State.finishReads (s : State) (i : Nat) (st : Step) : Work (Known × List (Nat × Nat × Nat × List Byte)) := do
  let seq := (s.slot i).stepSeq
  let mut dense : List (Nat × Nat × Nat × List Byte) := []
  for (c, lo, n) in st.shares.filter fun x => !st.hung.contains x.1 do
    let w := st.program.denseInBytes
    let bs ← readDense (s.dmaAgent c i st none) (st.input + st.program.denseInOff + lo * w) (n * w)
    dense := dense ++ [(c, lo, n, bs)]
  let mut known : Known := []
  for x in st.localSources do
    let ag := s.geTable x.region i st
    let vs ← accOf ag (sourceVals ag st seq x)
    known := (x, vs) :: known
  return (known, dense)

/-- A cluster begins its share of DENSE: its streams, and tile registers and masks cleared (R197, R396). -/
def Cluster.load (p : Program) (t0 : List Host.Cell) (x : Cluster) : Cluster :=
  { x with t0 := t0, mre := { stream := p.mre }, ve0 := { stream := p.ve0 }, ve1 := { stream := p.ve1 },
           ru := { stream := p.ru }, dma := { stream := p.dma }, barriers := 0 }

/-- Every row of a step is there: results go to T0 and DENSE begins. -/
def State.enterDense (s : State) (i : Nat) (st : Step) (known : Known) (shares : List (Nat × Nat × Nat × List Byte)) : State :=
  let s := shares.foldl (fun s (c, lo, n, bs) =>
    let t0 := s.lookupT0 i c st known lo n bs (s.cl c).t0
    s.setCl c (Cluster.load st.program t0)) s
  let s := (s.endStall i).releaseUses i
  let mine (o : Owner) : Bool := match o with | .dma c => st.clusters.contains c | _ => false
  ((s.endPartials mine).closeWaits fun w => mine w.owner).setSlot i fun x => { x with phase := .dense }

/-- LOOKUP_DONE (R53): every request entry is answered or replaced. -/
def execLookupDone (slot : SlotId) (s : State) : Host.Outcome State Fault Refusal :=
  let i := slot.val
  match (s.slot i).step with
  | none => .next s
  | some st =>
    if !s.serving || (s.slot i).phase ≠ .lookup || st.halted || st.entries.any (·.answer.isNone) then .next s
    else
      let s := if s.resultsPast st then s.upset (s.slot i).ctx else s
      .next <| s.work i (s.finishReads i st) fun s (known, dense) => s.enterDense i st known dense

end Sys2Proof.Machine
end

