-- ==== Sys2Proof/Machine/Replies.lean ====
section
/-! DEFINITION. Answers to request entries: LOOKUP_REPLY, POOLED_REPLY, HEDGE_THRESHOLD, and the answers of fills (04 R118 to
R120, R129; 12 R295 to R297). -/

namespace Sys2Proof.Machine

/-- HEDGE_US of a table, in reference-clock periods; 0 selects 20 µs (R76). -/
def State.hedgeTime (s : State) (table : Nat) : Nat :=
  let us := ((s.table? table).map (·.desc.hedgeUs)).getD 0
  (if us = 0 then 20 else us) * Config.us

/-- Entries whose latest request is `r`. -/
def Step.carriedBy (st : Step) (r : Nat) : List Nat :=
  (List.range st.entries.length).filter fun k => (((st.entries[k]?).map (·.reqs.head?)).getD none) == some r

/-- HEDGE_THRESHOLD (R110, R295): the unanswered entries of the request are reissued. -/
def execHedgeThreshold (now : Nat) (slot : SlotId) (entry : Nat) (s : State) : Host.Outcome State Fault Refusal :=
  let s := s.advanceTo now
  let i := slot.val
  match (s.slot i).step with
  | none => .next s
  | some st =>
    match st.entries[entry]? with
    | none => .next s
    | some e =>
      let due := match e.sentAt with | some t => t + s.hedgeTime e.table ≤ s.now | none => false
      if !s.alive || (s.slot i).phase ≠ .lookup || st.halted || e.answer.isSome || e.exhausted || !due then .next s
      else .next ((s.reissue i .threshold (((e.reqs.head?).map st.carriedBy).getD [])).strictCheck i)

/-! ## Answers for a step in a slot (R118, R119) -/

/-- The step that waits for, or has had, answers to a request. -/
def State.slotOfReq (s : State) (m : RepMsg) : Option Nat :=
  let i := m.slot.val
  let x := s.slot i
  match x.step with
  | none => none
  | some st =>
    if x.phase ≠ .free && x.phase ≠ .discard && x.stepSeq % 2 ^ 48 == m.stepSeq && st.entries.any (·.reqs.contains m.reqId) then some i
    else none

/-- Count answers that came too late (R60) or after another (R297). -/
def State.countLate (s : State) (n : Nat) : State := { s with strag := { s.strag with lateReplies := s.strag.lateReplies + n } }
def State.countRedundant (s : State) (n : Nat) : State :=
  { s with strag := { s.strag with answersRedundant := s.strag.answersRedundant + n } }

/-- An answer entry is accepted; with SKEW it is counted (R303, R312), and the step with the first of them (DESIGN CHOICE, assumption
69: R312 does not say when in its life a step is counted). -/
def State.countSkew (s : State) (i : Nat) (skew : Bool) : State :=
  if !skew then s
  else
    let first := (((s.slot i).step).map (·.skewed)) == some 0
    let g := { s.strag with skewAnswers := s.strag.skewAnswers + 1, stepsWithSkew := s.strag.stepsWithSkew + b2n first }
    ({ s with strag := g }).setStep i fun st => { st with skewed := st.skewed + 1 }

/-- Entries of a request, of a table, that satisfy `p`. -/
def Step.reqEntries (st : Step) (m : RepMsg) (p : Entry → Bool) : List Nat :=
  (List.range st.entries.length).filter fun k =>
    match st.entries[k]? with
    | some e => e.reqs.contains m.reqId && e.table == m.table && p e
    | none => false

/-- The answer of request `r` for an entry has come. -/
def Entry.heard (r : Nat) (e : Entry) : Entry := { e with done := r :: e.done }

/-- A ROW entry (R118, R119): it answers every entry of its request that names the row and that no partial of the request
has covered. It is decoded once for each gather region of the entries that it answers (R82, R98). -/
def State.rowAnswer (s : State) (i : Nat) (m : RepMsg) (row : Nat) (body : List Byte) : State :=
  match (s.slot i).step, s.table? m.table with
  | some st, some t =>
    let ks := st.reqEntries m fun e => !e.done.contains m.reqId && e.row == row
    let es := ks.filterMap fun k => st.entries[k]?
    let late := (es.filter (·.isDflt)).length
    let open' := es.filter (·.answer.isNone)
    let fresh := open'.length
    let s := (s.countLate late).countRedundant (es.length - late - fresh)
    if fresh = 0 then s.setStep i fun st => ks.foldl (fun st k => st.onEntry k (Entry.heard m.reqId)) st
    else
      let (s, x) := s.decode t.desc st.grid body ((open'.map (·.region)).eraseDups.length)
      let put (e : Entry) : Entry := let e := e.heard m.reqId; if e.answer.isNone then { e with answer := some (.row x.ver x.vals) } else e
      (s.setStep i fun st => ks.foldl (fun st k => st.onEntry k put) st).countSkew i m.skew
  | _, _ => s

/-- Count a PARTIAL that is discarded for `dflt` entries that a default row has replaced and `answered` ones (R60, R119, R297): the first are
each a late reply, the second each an answer behind another, and then the partial counts as discarded (DESIGN CHOICE, assumption 68). -/
def State.countPartial (s : State) (dflt answered : Nat) : State :=
  let s := (s.countLate dflt).countRedundant answered
  if answered = 0 then s
  else { s with lookups := { s.lookups with partialsDiscarded := s.lookups.partialsDiscarded + 1 } }

/-- A PARTIAL entry (R119, R123): accepted only if no entry of its bag group has been answered. -/
def State.partialAnswer (s : State) (i : Nat) (m : RepMsg) (sample version : Nat) (vals : List F32) : State :=
  match (s.slot i).step with
  | none => s
  | some st =>
    let ks := st.reqEntries m fun e => e.sample == sample
    let es := ks.filterMap fun k => st.entries[k]?
    let s := s.setStep i fun st => ks.foldl (fun st k => st.onEntry k (Entry.heard m.reqId)) st
    if es.isEmpty then s
    else if es.all (·.answer.isNone) then
      let cover (lead : Bool) (e : Entry) : Entry := { e with answer := some (.covered lead version (if lead then vals else [])) }
      (s.setStep i fun st => ks.foldl (fun st k => st.onEntry k (cover (ks.head? == some k))) st).countSkew i m.skew
    else
      let late := (es.filter (·.isDflt)).length
      s.countPartial late ((es.filter (·.answer.isSome)).length - late)

/-- A NOT_HELD entry (R72, R119, R295): where it answers the latest request of an entry, the entries of that request are to be reissued
(R110). -/
def State.notHeldAnswer (s : State) (i : Nat) (m : RepMsg) (src row : Nat) : State × Bool :=
  match (s.slot i).step with
  | none => (s, false)
  | some st =>
    let ks := st.reqEntries m fun e => !e.done.contains m.reqId && e.row == row
    let mark (e : Entry) : Entry := { e.heard m.reqId with dead := src :: e.dead }
    let again := ks.any fun k =>
      ((st.entries[k]?).map fun e => e.answer.isNone && e.reqs.head? == some m.reqId).getD false
    (s.setStep i fun st => ks.foldl (fun st k => st.onEntry k mark) st, again)

/-- Take the entries of a reply in order; where one of them is NOT_HELD, every entry of the request that is still unanswered then is
reissued (R110). -/
def State.stepReply (s : State) (i src : Nat) (m : RepMsg) : State :=
  let (s, again) := m.entries.foldl (fun (a : State × Bool) e =>
    match e with
    | .row row body => (a.1.rowAnswer i m row body, a.2)
    | .partialSum sample _ ver vals => (a.1.partialAnswer i m sample ver vals, a.2)
    | .notHeld row =>
      let (s, b) := a.1.notHeldAnswer i m src row
      (s, a.2 || b)) (s, false)
  let ks := ((s.slot i).step.map (·.carriedBy m.reqId)).getD []
  let s := if again && (s.slot i).phase = .lookup then s.reissue i .notHeld ks else s
  (s.progressOf i).stallCheck i

/-! ## Answers for steps that are torn down or over -/

/-- An answer to a request of a step that has left its slot, or is being torn down, for an entry that had an answer then. -/
def State.lateAnswer (s : State) (m : RepMsg) (e : RepEntry) : State :=
  let of (p : LateReq → Bool) : List LateReq := s.tabs.late.filter fun x => x.reqId == m.reqId && p x
  let drop (p : LateReq → Bool) (s : State) : State :=
    { s with tabs := { s.tabs with late := s.tabs.late.filter fun x => !(x.reqId == m.reqId && p x) } }
  match e with
  | .row row _ =>
    let l := of (·.row == row)
    drop (·.row == row) ((s.countLate (l.filter (·.dflt)).length).countRedundant (l.filter (!·.dflt)).length)
  | .partialSum sample _ _ _ =>
    let l := of (·.sample == sample)
    (drop (·.sample == sample) s).countPartial (l.filter (·.dflt)).length (l.filter (!·.dflt)).length
  | .notHeld row => drop (·.row == row) s

/-! ## Fills (R129, R131) -/

/-- The slot of a reflection that is not live: the other one, or slot 0 of a row that has none. -/
def Reflection.spare (r : Reflection) : Nat := if r.live = some 0 then 1 else 0

/-- The seam in the newest written slot of a reflection (R131). -/
def Reflection.newest (r : Reflection) : Option Nat :=
  match r.slot0, r.slot1 with
  | none, none => none
  | some a, none => some a.seam
  | none, some b => some b.seam
  | some a, some b => some (max a.seam b.seam)

/-- A slot's bytes (R127). -/
def slotBody (g : ReflSlot) (body : List Byte) : List Byte := leBytes 8 (g.version % 2 ^ 32) ++ leBytes 8 g.seam ++ body

/-- A row waits for the host to give up a line of its slot (R319). -/
def State.waitSlot (s : State) (fill : Bool) (table row : Nat) (g : ReflSlot) (body : List Byte) : State :=
  { s with tabs := { s.tabs with slotWrites := s.tabs.slotWrites ++ [(fill, table, row, g, body)] } }

/-- Whether a step that may still read reflections reads the slot that is not live: the step may have bound another set, whose slots stand
elsewhere, or a version that the slot does not hold (R132). -/
def State.spareRead (s : State) (r : Reflection) : Bool :=
  (List.range 8).any fun i =>
    let x := s.slot i
    let reads (st : Step) : Bool :=
      match st.reflection? r.table r.row with
      | some l => l.dva == r.dva && l.live == some r.spare && l.tag?.map (·.version) == (st.version r.table).map (·.num)
      | none => false
    (x.phase = .admitted || x.phase = .prefetch || x.phase = .lookup) && (x.step.map reads).getD false

/-- Whether a row waits so. -/
def State.slotWaits (s : State) (table row : Nat) : Bool := s.tabs.slotWrites.any fun w => w.2.1 == table && w.2.2.1 == row

/-- Write a row, a push's or a fill's, into the slot of a reflection that is not live; it becomes live at a seam (R131). -/
def State.writeSlot (s : State) (fill : Bool) (table row : Nat) (g : ReflSlot) (body : List Byte) : State :=
  match s.reflection? table row, s.table? table with
  | some r, some t =>
    let ag := Agent.ge 0 0 0 none none
    match (writeDva ag (r.dva + r.spare * t.desc.slotBytes) (slotBody g body)).go s with
    | (.error (.snoop l i), _) => (s.sendSnoop l i).waitSlot fill table row g body
    | (.error f, s) => s.accError ag f
    | (.ok _, s) =>
      s.staged fun s => s.setReflection table row fun r =>
        { r with written := true, slot0 := if r.spare = 0 then some g else r.slot0, slot1 := if r.spare = 1 then some g else r.slot1 }
  | _, _ => s

/-- Write the answer of a fill to the slot that is not live (R129), whatever a push has written there before; it waits while steps still read
that slot, as a push does (DEDUCED, assumption 41). -/
def State.writeFill (s : State) (table row : Nat) (g : ReflSlot) (body : List Byte) : State :=
  match s.reflection? table row with
  | none => s
  | some r =>
    if s.slotWaits table row || s.spareRead r then s.waitSlot true table row g body
    else s.writeSlot true table row g body

/-- The answer to a fill: a row goes to the slot; a member that does not hold it is followed by the next. -/
def State.fillReply (s : State) (r : Reflection) (members : List Nat) (m : RepMsg) : State :=
  m.entries.foldl (fun s e =>
    match e with
    | .row row body =>
      if row ≠ r.row then s
      else
        let s := s.setReflection r.table r.row fun r => { r with fill := none }
        s.writeFill r.table r.row ⟨m.version, Config.fillSeam m.reqId⟩ body
    | .notHeld row => if row = r.row then s.nextFill r.table r.row members else s
    | .partialSum .. => s) s

/-- The reflection whose fill a reply answers. -/
def State.fillOf (s : State) (m : RepMsg) : Option (Reflection × List Nat) :=
  match s.tabs.refl with
  | none => none
  | some x => x.held.findSome? fun r =>
    match r.fill with
    | some (id, ms) => if id = m.reqId ∧ r.table = m.table then some (r, ms) else none
    | none => none

/-- A reply message that the transport has delivered. -/
def State.takeReply (s : State) (src : Nat) (m : RepMsg) : State :=
  match s.slotOfReq m with
  | some i => s.stepReply i src m
  | none =>
    match s.fillOf m with
    | some (r, ms) => s.fillReply r ms m
    | none => m.entries.foldl (fun s e => s.lateAnswer m e) s

/-- LOOKUP_REPLY (R119). -/
def execLookupReply (f : Frame) (m : RepMsg) (s : State) : Host.Outcome State Fault Refusal :=
  match s.receive f with
  | (s, true) => .next (s.takeReply f.srcDev m)
  | (s, false) => .next s

/-- POOLED_REPLY (R119). -/
def execPooledReply (f : Frame) (m : RepMsg) (s : State) : Host.Outcome State Fault Refusal :=
  match s.receive f with
  | (s, true) => .next (s.takeReply f.srcDev m)
  | (s, false) => .next s

end Sys2Proof.Machine
end

