-- ==== Sys2Proof/Machine/Serve.lean ====
section
/-! DEFINITION. Serving other packages: request messages and their answers (04 R112 to R118), and reflection pushes, sent
and received (04 R127, R130, R131). -/

namespace Sys2Proof.Machine

/-! ## One row (R114, R116, R244) -/

/-- What the read of one distinct row gives: its body, a row that is not held, or one behind poison in a region. -/
inductive RowRead where
  | held (body : List Byte)
  | gone
  | bad (region : Nat)
  deriving DecidableEq, Repr

/-- Read a row to serve it: a row line with the served version and the current stamp is used, and none is allocated. -/
def serveRow (ag : Agent) (t : Table) (v : Version) (row : Nat) : Acc RowRead :=
  tryCatch (do
    if t.desc.storageRows ≤ row then return .gone
    let e ← shardEntry ag v.dir (t.desc.place row).1
    if e = 0 then return .gone
    let s ← get
    match s.tiers.rowLine { table := t.desc.id, version := v.num, row, stamp := v.stampAt s.pkg.seamCount } with
    | some b => return .held b
    | none =>
      match ← rowAt ag t.desc v row s.pkg.seamCount true with
      | some b => return .held b
      | none => return .gone) fun f =>
    match f with
    | .poison dpa .. => do
      modify fun s => s.accError ag f
      return .bad (Config.regionOf dpa)
    | f => throw f

/-- The region whose GEs serve a version (R98). -/
def serveRegion (ag : Agent) (v : Version) : Acc Nat :=
  forgive ag 0 (homeRegion ag v.dir)

/-! ## One request message (R113 to R117) -/

/-- The version that answers a request (R51, R113): the named one where it is still served, otherwise lit. -/
def Table.serves (t : Table) (num : Nat) : Version := (t.served.find? (·.num == num)).getD t.lit

/-- Whether the partial of a bag group is sent, for `k` entries (R115). -/
def partialPays (d : Desc) (k : Nat) : Bool := 12 + 4 * d.dim < k * (8 + d.stride)

/-- The partial of a group's decoded rows and weights, in message order (R115, R124). -/
def partialOf (pool : Pool) (dim : Nat) (terms : List (List F32 × F32)) : List F32 :=
  match pool with
  | .wsum => sumTerms dim (terms.map fun t => t.1.map (f32Mul t.2))
  | .max => maxTerms dim (terms.map (·.1))
  | _ => sumTerms dim (terms.map (·.1))

/-- An answer in the making: the version served, its partials, rows and rows not held, and the request entries that ROW and
PARTIAL entries answer. -/
structure Answering where
  version : Nat
  partials : List RepEntry := []
  rows : List RepEntry := []
  gone : List RepEntry := []
  answered : Nat := 0
  /-- a fill whose row lies behind poison is not answered (R244) -/
  silent : Bool := false
  deriving DecidableEq, Repr

/-- Read every distinct row of a message, once each. -/
def readRows (ag : Agent) (t : Table) (v : Version) (rows : List Nat) : Acc (List (Nat × RowRead)) :=
  rows.mapM fun r => do return (r, ← serveRow ag t v r)

/-- The body of a row among those read. -/
def bodyOf (read : List (Nat × RowRead)) (row : Nat) : Option (List Byte) :=
  match read.find? (·.1 == row) with
  | some (_, .held b) => some b
  | _ => none

/-- Decode distinct rows with context 0's grid, counting overruns here (R82, R121). -/
def decodeRows (d : Desc) (rows : List (Nat × List Byte)) : Acc (List (Nat × Decoded)) :=
  rows.mapM fun r => do
    let s ← get
    let (s, x) := s.decode d (s.ctx 0).grid r.2
    set s
    return (r.1, x)

/-- The bag groups of a message that one PARTIAL answers, with their entries. -/
def partialGroups (d : Desc) (m : ReqMsg) (read : List (Nat × RowRead)) : List (Nat × List ReqEntry) :=
  if m.pool = .none then []
  else
    let groups := ((m.entries.map (·.sample)).eraseDups).map fun x => (x, m.entries.filter (·.sample == x))
    groups.filter fun g => partialPays d g.2.length && g.2.all fun e => (bodyOf read e.row).isSome

/-- The PARTIAL entry of a group. -/
def partialEntry (pool : Pool) (dim : Nat) (dec : List (Nat × Decoded)) (g : Nat × List ReqEntry) : RepEntry :=
  let rows := g.2.filterMap fun e => (dec.find? (·.1 == e.row)).map fun x => (x.2, e.weight)
  .partialSum g.1 g.2.length ((rows.map (·.1.ver)).foldl Nat.max 0) (partialOf pool dim (rows.map fun x => (x.1.vals, x.2)))

/-- Count the entries that poison keeps from being answered (R244). -/
def State.countServePoison (s : State) (m : ReqMsg) (read : List (Nat × RowRead)) : State :=
  read.foldl (fun s r =>
    match r.2 with
    | .bad region =>
      let n := (m.entries.filter (·.row == r.1)).length
      s.setStack region fun k => { k with servePoisoned := k.servePoisoned + n }
    | _ => s) s

/-- The answer to a message of a table that is defined. -/
def serveTable (t : Table) (m : ReqMsg) : Acc Answering := do
  let v := t.serves m.version
  let region ← serveRegion (Agent.ge 0 0 0 none none) v
  let ag := Agent.ge region 0 0 none none
  let read ← readRows ag t v ((m.entries.map (·.row)).eraseDups)
  let bad := read.any fun r => match r.2 with | .bad _ => true | _ => false
  if m.fill && bad then return { version := v.num, silent := true }
  modify fun s => s.countServePoison m read
  let groups := partialGroups t.desc m read
  let covered := groups.flatMap (·.2)
  let need := (covered.map (·.row)).eraseDups.filterMap fun r => (bodyOf read r).map fun b => (r, b)
  let dec ← decodeRows t.desc need
  let left := m.entries.filter fun e => !groups.any (·.1 == e.sample)
  let held := left.filter fun e => (bodyOf read e.row).isSome
  let gone := left.filter fun e => (bodyOf read e.row).isNone
  return { version := v.num
           partials := groups.map (partialEntry m.pool t.desc.dim dec)
           rows := ((held.map (·.row)).eraseDups).filterMap fun r => (bodyOf read r).map fun b => RepEntry.row r b
           gone := ((gone.map (·.row)).eraseDups).map RepEntry.notHeld
           answered := covered.length + held.length }

/-- The answer to a request message (R113). A table that is not defined here, or a composed one, holds no row (R116). -/
def serveMsg (m : ReqMsg) : Acc Answering := do
  let s ← get
  match (s.table? m.table).filter (·.desc.kind ≠ .composed) with
  | some t => serveTable t m
  | none => return { version := Config.noVersion m.reqId % 2 ^ 32, gone := ((m.entries.map (·.row)).eraseDups).map RepEntry.notHeld }

/-! ## Reply messages (R117, R118) -/

/-- An entry of a reply as bytes. -/
def RepEntry.bytes : RepEntry → List Byte
  | .row r body => leBytes 8 (packFields [(0, 2), (r, 41)]) ++ sendBody body
  | .partialSum sample count ver vals =>
    leBytes 8 (packFields [(1, 2), (sample, 12), (count, 11)]) ++ leBytes 4 ver ++ vals.flatMap fun v => leBytes 4 v.toNat
  | .notHeld r => leBytes 8 (packFields [(2, 2), (r, 41)])

/-- A reply message's body. -/
def repBody (m : RepMsg) : List Byte :=
  leBytes 8 (packFields [(m.stepSeq, 48), (m.slot.val, 3), (b2n m.skew, 1), (b2n m.final, 1)]) ++
  leBytes 8 (packFields [(m.table, 12), (0, 4), (m.entries.length, 10), (0, 6), (m.version, 32)]) ++
  leBytes 8 (m.reqId % 2 ^ 32) ++ m.entries.flatMap RepEntry.bytes

/-- Cut entries into messages whose bodies hold at most 8,912 bytes (R117, R270). -/
def cutReply (used : Nat) (acc : List RepEntry) : List RepEntry → List (List RepEntry)
  | [] => [acc]
  | e :: es =>
    let n := (RepEntry.bytes e).length
    if !acc.isEmpty && 8912 < used + n then acc :: cutReply (24 + n) [e] es else cutReply (used + n) (acc ++ [e]) es

/-- Whether an entry is a PARTIAL. -/
def isPartial : RepEntry → Bool
  | .partialSum .. => true
  | _ => false

/-- Send the reply messages of an answer: PARTIALs stand first, and the last message has FINAL (R118). -/
def State.sendReply (s : State) (src : Nat) (m : ReqMsg) (a : Answering) : State :=
  let cuts := cutReply 24 [] (a.partials ++ a.rows ++ a.gone)
  let c := s.lookups
  let s := { s with lookups := { c with entriesServed := c.entriesServed + a.answered, partialsSent := c.partialsSent + a.partials.length
                                        notHeldSent := c.notHeldSent + a.gone.length } }
  ((List.range cuts.length).zip cuts).foldl (fun s (i, es) =>
    let r : RepMsg := { stepSeq := m.stepSeq, slot := m.slot, skew := a.version != m.version, final := i + 1 == cuts.length,
                        table := m.table, version := a.version, reqId := m.reqId, entries := es }
    s.sendMsg src false (if es.any isPartial then 3 else 2) (repBody r)) s

/-- The region whose GEs serve a message (R98). -/
def State.msgRegion (s : State) (m : ReqMsg) : Nat :=
  match s.table? m.table with
  | none => 0
  | some t =>
    match ((serveRegion (Agent.ge 0 0 0 none none) (t.serves m.version)).go s).1 with
    | .ok r => r
    | .error _ => 0

/-- Serve messages in order of arrival, each region's for itself (R112): one that needs a line that the host holds asks for it, and waits
with those of its region that came later. The messages that wait are left. -/
def State.serveAll (s : State) (blocked : List Nat) : List (Nat × ReqMsg) → State × List (Nat × ReqMsg)
  | [] => (s, [])
  | (src, m) :: rest =>
    let waits (r : State × List (Nat × ReqMsg)) : State × List (Nat × ReqMsg) := (r.1, (src, m) :: r.2)
    let region := s.msgRegion m
    if !s.alive || blocked.contains region then waits (s.serveAll blocked rest)
    else
      match (serveMsg m).go s with
      | (.ok a, s) => (if a.silent then s else s.sendReply src m a).serveAll blocked rest
      | (.error (.snoop l i), _) => waits ((s.sendSnoop l i).serveAll (region :: blocked) rest)
      | (.error f, s) => (s.accError (Agent.ge 0 0 0 none none) f).serveAll blocked rest

/-- Serve the messages that wait as far as they can be (R112). -/
def State.servePump (s : State) : State :=
  let (s, l) := s.serveAll [] s.tabs.serve
  { s with tabs := { s.tabs with serve := l } }

/-- LOOKUP_REQUEST (R112 to R118). -/
def execLookupRequest (f : Frame) (m : ReqMsg) (ecc : EccList) (s : State) : Host.Outcome State Fault Refusal :=
  match s.receive f with
  | (s, false) => .next s
  | (s, true) =>
    let q := s.tabs.serve ++ [(f.srcDev, m)]
    .next ({ s with tabs := { s.tabs with serve := q } }.strike ecc).servePump

/-! ## Pushes received (R131) -/

/-- A push for a row: stale, held, or written (R131). A row that is not held here has no place for it. -/
def State.takePush (s : State) (table row : Nat) (g : ReflSlot) (body : List Byte) : State :=
  match s.reflection? table row with
  | none => s
  | some r =>
    let c := s.lookups
    if s.slotWaits table row then s.waitSlot false table row g body
    else if r.newest.any (g.seam ≤ ·) then { s with lookups := { c with pushesStale := c.pushesStale + 1 } }
    else if s.spareRead r then
      let held := s.tabs.heldPushes ++ [(table, row, g, body)]
      { s with lookups := { c with pushesHeld := c.pushesHeld + 1 }, tabs := { s.tabs with heldPushes := held } }
    else s.writeSlot false table row g body

/-- Rows that wait for lines of their slots are taken up again, in the order in which they came. -/
def State.slotPump (s : State) : State :=
  s.tabs.slotWrites.foldl (fun s (fill, table, row, g, body) =>
    if fill then s.writeFill table row g body else s.takePush table row g body) { s with tabs := { s.tabs with slotWrites := [] } }

/-- REFLECTION_PUSH (R131). -/
def execReflectionPush (f : Frame) (p : Push) (s : State) : Host.Outcome State Fault Refusal :=
  match s.receive f with
  | (s, false) => .next s
  | (s, true) => .next (s.takePush p.table p.row ⟨p.version, p.seam⟩ p.body)

/-- The held pushes of a row are taken up, in the order in which they came. -/
def State.releasePushes (s : State) (table row : Nat) : State :=
  let mine (p : Nat × Nat × ReflSlot × List Byte) : Bool := p.1 == table && p.2.1 == row
  let ps := s.tabs.heldPushes.filter mine
  let s := { s with tabs := { s.tabs with heldPushes := s.tabs.heldPushes.filter (!mine ·) } }
  ps.foldl (fun s p => s.takePush table row p.2.2.1 p.2.2.2) s

/-- PUSH_RELEASE (R131): the steps that may read the slot have left LOOKUP. -/
def execPushRelease (table row : Nat) (s : State) : Host.Outcome State Fault Refusal :=
  match s.reflection? table row with
  | none => .next s
  | some r => if !s.alive || s.spareRead r then .next s else .next (s.releasePushes table row)

/-! ## Pushes sent (R130) -/

/-- The body of a push message (R273). -/
def pushBody (table row : Nat) (g : ReflSlot) (body : List Byte) : List Byte :=
  leBytes 8 (packFields [(table, 12), (0, 4), (row, 41)]) ++ leBytes 8 (g.version % 2 ^ 32) ++ leBytes 8 g.seam ++ sendBody body

/-- The row that a push carries: as the version showed it after the owner's seam; `none` where poison or an absent shard keeps
it from being formed (R244). -/
def pushRow (t : Table) (v : Version) (row seam : Nat) : Acc (Option (List Byte)) := do
  let region ← serveRegion (Agent.ge 0 0 0 none none) v
  let ag := Agent.ge region 0 0 none none
  forgive ag none (rowAt ag t.desc v row seam true)

/-- Send the pushes that wait. -/
def State.pushPump (s : State) : Nat → State
  | 0 => s
  | fuel + 1 =>
    match s.tabs.pushOut with
    | [] => s
    | (table, row, num, seam, members) :: rest =>
      let pop (s : State) : State := { s with tabs := { s.tabs with pushOut := rest } }
      let read : Acc (Option (List Byte)) :=
        match (s.table? table).bind fun t => (t.version? num).map fun v => (t, v) with
        | some (t, v) => pushRow t v row seam
        | none => return none
      let send (s : State) (body : List Byte) : State :=
        members.foldl (fun s d =>
          if some d = s.device then s.takePush table row ⟨num, seam⟩ body
          else s.sendMsg d false 6 (pushBody table row ⟨num, seam⟩ body)) s
      match read.go s with
      | (.ok (some b), s) => (send (pop s) b).pushPump fuel
      | (.ok none, s) => (pop s).pushPump fuel
      | (.error (.snoop l i), _) => s.sendSnoop l i
      | (.error f, s) => ((pop s).accError (Agent.ge 0 0 0 none none) f).pushPump fuel

end Sys2Proof.Machine
end

