-- ==== Sys2Proof/Machine/Settle.lean ====
section
/-! DEFINITION. What goes on by itself when something that was waited for has come: waiting jobs, requests to serve, pushes to
send; the host's answers and lent pages that bring it; status records and QCMP_SEQ (13 R329, R330; 15 R371 to R376). -/

namespace Sys2Proof.Machine

/-! ## Waiting jobs -/

/-- Take a waiting job further, as a further run of its row would. Rows whose operands come from the surroundings (ATTEST,
CLEAR_RECORDER, READ_MONITORS, RUN_TRAFFIC_TEST) go on only by being run again. -/
def State.goOn (s : State) (j : JobRef) (x : Job) : State :=
  if x.opcode = 0x03 then s.closeRun j x
  else if x.opcode = 0x10 then s.loadRun j x
  else if x.opcode = 0x11 then s.unloadRun j x
  else if x.opcode = 0x12 then s.swapSetRun j x
  else if x.opcode = 0x20 then s.defineRun j x
  else if x.opcode = 0x21 then s.mapRun j x
  else if x.opcode = 0x22 then s.fillRun j x
  else if x.opcode = 0x23 then s.shadowRun j x
  else if x.opcode = 0x26 then s.reflRun j x
  else if x.opcode = 0x31 then s.recordRun j x
  else if x.opcode = 0x38 then s.updateRun j x
  else if closeMine 0 x then s.declareRun j x
  else if closeMine 1 x then s.markRun j x
  else if closeMine 3 x then s.awaitRun j x
  else if x.opcode = 0x40 then s.signalRun j x
  else if x.opcode = 0x41 then s.waitRun j x
  else if x.opcode = 0x50 then s.copyRun j x
  else if returnMine x then s.returnRun j ((x.p 0).field 0 14) ((x.p 0).field 16 6)
  else if x.opcode = 0x62 then s.portsRun j x
  else if x.opcode = 0x64 then s.gridRun j x
  else if x.opcode = 0x71 then s.recorderRun j x
  else if x.opcode = 0x79 then s.certRun j x
  else if x.opcode = 0x7A then s.retireRun j x
  else if x.opcode = 0x7D then s.linkRun j x
  else if x.opcode = 0x7F then s.abortRun j x
  else s

/-- Whether a job waits and may go on. -/
def Job.waits (x : Job) : Bool := x.phase = .running && !x.halted

/-- Take every waiting job further, in the order in which they started (R432). -/
def State.goOnAll (s : State) : State :=
  (s.startedJobs fun _ => true).foldl (fun s j =>
    match (s.job? j).filter Job.waits with
    | some x => s.goOn j x
    | none => s) s

/-- Everything that waits goes on as far as it can (DESIGN CHOICE). -/
def State.settle (s : State) : State :=
  if !s.serving then s
  else
    let s := s.unpark.bulkPoke.goOnAll.goOnAll
    s.slotPump.servePump.pushPump s.tabs.pushOut.length

/-! ## Answers of the host -/

/-- BISNP_RESPONSE (R319, R322): what waited for the line goes on. -/
def execBisnpResponse (line : Nat) (modified : Option LineBack) (s : State) : Host.Outcome State Fault Refusal :=
  .next (s.bisnpAnswer line modified).settle

/-- ATS_COMPLETION (R348 to R350). -/
def execAtsCompletion (id : Nat) (a : AtsAnswer) (s : State) : Host.Outcome State Fault Refusal :=
  .next (s.atsAnswer id a).settle

/-- The data of a transfer's reads go to it in the order of their addresses, as far as they have come. -/
def Bulk.flush (b : Bulk) : List (Nat × Option (List Byte)) → Bulk
  | (_, some bs) :: rest => ({ b with data := b.data ++ bs }).flush rest
  | l => { b with flights := l }

/-- The data of one of a transfer's reads have come. -/
def Bulk.arrive (id : Nat) (bs : List Byte) (b : Bulk) : Bulk :=
  b.flush (b.flights.map fun x => if x.1 = id then (id, some bs) else x)

/-- The data of a host read arrive for a job's transfer; with the last read of a job that has ended, its held-page entries go
(R348). -/
def State.readBack (s : State) (r : HostReq) (data : List Byte) : State :=
  let s := (s.closeWaits fun w => w.owner == r.owner && w.addr == r.iova).releaseLeaving
  match r.owner with
  | .dma _ | .push .. => s
  | .job j =>
    if r.abandoned then s
    else (s.setBulk j (Bulk.arrive r.id (padTo r.len data))).bulkRun j bulkFuel

/-- Data of a small host read come with the poison indication (R313): the job ends as one whose touch of poison R244 ends, with no page of
the K16's to name (DESIGN CHOICE, assumption 76). -/
def State.hostPoison (s : State) (r : HostReq) : State :=
  let s := s.closeWaits fun w => w.owner == r.owner && w.addr == r.iova
  match r.owner with
  | .job j =>
    if r.abandoned then s
    else s.detect { cls := 1, job := some j, ctx := s.ctxOf j.q, status := stPoisoned, detail := (Config.openDetail stPoisoned).toNat }
  | .dma _ | .push .. => s

/-- HOST_READ_COMPLETION (R313, R329, R348, R352, R353): data of an abandoned read are discarded. Poison travels with data on CXL.cache
alone. -/
def execHostReadCompletion (now id : Nat) (back : LineBack) (s : State) : Host.Outcome State Fault Refusal :=
  let s := s.advanceTo now
  match s.xlat.reqs.find? fun r => r.id == id && (r.kind = .read || r.kind = .zero) with
  | none => .next s
  | some r =>
    if !s.alive then .next s
    else
      let s := s.dropReq id
      let s := match r.kind, r.owner with
        | .zero, .job j => s.setJob j fun x => { x with lastWrite := none, zeroRead := none }
        | _, _ => if r.inter && back.poison then s.hostPoison r else s.readBack r back.data
      .next s.bulkPoke.settle

/-- LENT_RESPONSE (R228 to R232, R235). -/
def execLentResponse (f : Frame) (lease result tag : Nat) (data : Option (List Byte)) (s : State) :
    Host.Outcome State Fault Refusal :=
  match s.receiveAny f 9 (lentResponseBody lease result tag data) with
  | (s, false) => .next s
  | (s, true) => .next (s.lentAnswer f lease result tag data).settle

/-! ## Versions that nothing binds any more (R71) -/

/-- Whether a step in flight binds a version of a table. -/
def State.versionBound (s : State) (table num : Nat) : Bool :=
  (List.range 8).any fun i =>
    let x := s.slot i
    x.phase ≠ .free && ((x.step.map (·.versions)).getD []).any fun v => v.1 == table && v.2.num == num

/-- Released versions that no step binds go, with their overlays. -/
def State.pruneVersions (s : State) : State :=
  let keep (t : Table) : Table := { t with dying := t.dying.filter fun v => s.versionBound t.desc.id v.num }
  let s := { s with tabs := { s.tabs with tables := s.tabs.tables.map keep } }
  let has (o : Overlay) : Bool := ((s.table? o.table).bind (·.version? o.version)).isSome
  { s with upd := { s.upd with overlays := s.upd.overlays.filter has } }

/-! ## Slots that become FREE (R46) -/

/-- A slot becomes FREE; `heard`: answers that come for its entries from now on are still told apart (R60, R297). -/
def State.freeSlot (s : State) (i : Nat) (heard : Bool) : State :=
  ((if heard then s.keepLate i else s).setSlot i fun _ => {}).pruneVersions

/-! ## Status records (R371 to R373, R376) -/

/-- The first job of a queue whose record is not written. -/
def Queue.nextRecord (x : Queue) : Option Job := x.jobs.find? (·.phase ≠ .written)

/-- A RUN_SEQUENCE whose entries have all their records ends (R376). -/
def State.endSequence (s : State) (j : JobRef) (x : Job) : State :=
  if x.opcode ≠ 0x32 || x.phase ≠ .running then s
  else if x.aux.getD 2 0 = 1 then s.finishJob j stAborted dtEndedByHost 0
  else s.finishJob j stOk 0 0

/-- Opcodes whose rules give COUNTS a content (R303, R376, R391, R406, R411, R412). -/
def givesCounts (opcode : Nat) : Bool := [0x03, 0x30, 0x38, 0x70, 0x71, 0x78].contains opcode

/-- COUNTS of a job's record; a STALE_ENTRY record's is 0 (R367). -/
def Job.countsWord (x : Job) : Nat :=
  if x.opcode = 0x32 then packFields [(x.aux.getD 0 0, 32), (x.aux.getD 1 0, 32)]
  else if givesCounts x.opcode || x.status = stStaleEntry then x.counts
  else (Config.openCounts x.opcode x.status).toNat

/-- Where the record of a job stands (R372). -/
def Queue.recordAt (x : Queue) (seq : Nat) : Nat := x.cmp + 32 * (seq % x.size)

/-- Whether R329 holds for what a job has written; what is still missing is asked for: BISnpInv for the lines that the host
holds, a zero-length read behind bulk writes. -/
def State.makeVisible (s : State) (j : JobRef) (x : Job) : State × Bool :=
  let held := x.lines.filter fun l => s.cxl.filter.any (·.line == l)
  let waits := x.lines.any fun l => s.cxl.filter.any (·.line == l) || s.cxl.snoops.any (·.1 == l)
  let s := held.foldl (fun s l => s.sendSnoop l true) s
  match x.lastWrite, x.zeroRead with
  | none, _ => (s, !waits && x.observe.isEmpty)
  | some _, some _ => (s, false)
  | some a, none =>
    let pasid := (s.ctx (s.ctxOf j.q)).pasid
    let (s, id) := s.newReq .zero (.job j) pasid 0 0 a false
    ((s.emit (.hostRead id pasid a 0)).setJob j fun x => { x with zeroRead := some id }, false)

/-- The record of a RUN_SEQUENCE's entry is tallied for it (R376). -/
def State.tally (s : State) (q : Nat) (x : Job) : State :=
  match x.parent with
  | none => s
  | some p =>
    let mine := x.status ≠ stAborted && x.status ≠ stContextLost
    let host := x.status = stAborted && x.detail = dtEndedByHost
    s.setJob ⟨q, p⟩ fun y => { y with aux := [y.aux.getD 0 0, y.aux.getD 1 0 + b2n mine, if host then 1 else y.aux.getD 2 0] }

/-- A job's record has been written: its context counts it (R435), its RUN_SEQUENCE tallies it, its step's slot becomes FREE
(R46). -/
def State.recordDone (s : State) (q : Nat) (x : Job) : State :=
  let f := statusFaulted x.status x.detail x.cls
  let s := s.cpActs
  let s := if x.status = stPageFault then s.xctr fun c => { c with priUnresolved := c.priUnresolved + 1 } else s
  let s := s.setCtx (s.ctxOf q) fun c =>
    { c with completed := (c.completed + 1) % 2 ^ 64, faulted := (c.faulted + b2n f) % 2 ^ 64 }
  let line := (s.queue q).recordAt x.seq / 64 * 64
  let s := (s.setJob ⟨q, x.seq⟩ fun y => { y with phase := .written, lines := [line] }).tally q x
  match (s.stepSlot ⟨q, x.seq⟩).filter fun i => (s.slot i).phase = .emit with
  | some i => (s.freeSlot i true).choose.settle
  | none => s.settle

/-- What the record of a step that has run to its end says in its detail field is as the step stands at the end of EMIT: a deadline that
has passed by then is missed (R61, R303). -/
def State.lastDetail (s : State) (j : JobRef) (x : Job) : Job :=
  match (s.stepSlot j).bind fun i => (s.slot i).step with
  | some st => if x.status ≤ stOkSkew then { x with detail := st.detail } else x
  | none => x

/-- Write the record of an ended job, once R329 holds for what it has written (R434). A poisoned granule of the ring keeps the
record out of memory and raises its error (R244); the queue goes on. -/
def State.writeRecord (s : State) (q : Nat) (x : Job) : State :=
  let j : JobRef := ⟨q, x.seq⟩
  match s.makeVisible j x with
  | (s, false) => s
  | (s, true) =>
    let s := match s.stepSlot j with | some i => s.deadlineCheck i | none => s
    let x := s.lastDetail j x
    let ag := Agent.cp 2 (s.ctxOf q) j
    let rec' := statusRecord x.seq x.status x.opcode x.detail x.tag x.countsWord
    match (writeDpa ag ((s.queue q).recordAt x.seq) rec').go s with
    | (.ok _, s) => s.recordDone q x
    | (.error (.snoop l i), _) => s.sendSnoop l i
    | (.error f, s) => (s.accError ag f).recordDone q x

/-- STATUS_RECORD_WRITE (R56, R372, R376). -/
def execStatusRecordWrite (q : QueueId) (s : State) : Host.Outcome State Fault Refusal :=
  if !s.serving then .next s
  else
    let s := s.settle
    match (s.queue q.val).nextRecord with
    | none => .next s
    | some x =>
      let s := s.endSequence ⟨q.val, x.seq⟩ x
      match s.job? ⟨q.val, x.seq⟩ with
      | none => .next s
      | some x => .next (if x.phase = .done then s.writeRecord q.val x else s)

/-- QCMP_SEQ_ADVANCE (R329, R373). -/
def execQcmpSeqAdvance (q : QueueId) (s : State) : Host.Outcome State Fault Refusal :=
  let n := (s.queue q.val).cmpSeq + 1
  match s.job? ⟨q.val, n⟩ with
  | none => .next s
  | some x =>
    if !s.serving || x.phase ≠ .written then .next s
    else
      match s.makeVisible ⟨q.val, n⟩ x with
      | (s, false) => .next s
      | (s, true) => .next (s.setQueue q.val fun y => { y with cmpSeq := n, jobs := y.jobs.filter (·.seq ≠ n) })

end Sys2Proof.Machine
end

