-- ==== Sys2Proof/Machine/Emit.lean ====
section
/-! DEFINITION. The end of a step: DENSE_DONE, CLUSTER_RELEASE, DISCARD_DONE (02 R46, R53, R61; 12 R301 to R303; 16 R398, R404;
17 R430, R433; 18 R438). -/

namespace Sys2Proof.Machine

/-! ## DENSE_DONE -/

/-- Whether a cluster has run every stream to its end. -/
def Cluster.dense (x : Cluster) : Bool :=
  x.mre.stream.isEmpty && x.ve0.stream.isEmpty && x.ve1.stream.isEmpty && x.ru.stream.isEmpty && x.dma.stream.isEmpty &&
  !(x.mre.faulted || x.ve0.faulted || x.ve1.faulted || x.ru.faulted || x.dma.faulted)

/-- Shares of a step that still work: neither emitted nor discarded. -/
def Step.left (st : Step) : List Nat := st.clusters.filter fun c => !st.emitted.contains c && !st.hung.contains c

/-- Whether the discard of a share of the step waits for its handling (R439). -/
def State.shareErrors (s : State) (i : Nat) (j : JobRef) : Bool :=
  s.err.all.any fun d => d.share.isSome && d.slot == some i && d.job == some j

/-- Every share has ended: the job takes its status (R302, R303, R438). The slot waits for the status record. -/
def State.endShares (s : State) (i : Nat) : State :=
  match (s.slot i).step with
  | none => s
  | some st =>
    if !st.left.isEmpty || (s.slot i).phase ≠ .emit || st.halted || s.shareErrors i st.job then s
    else
      let s := s.deadlineCheck i
      let st := ((s.slot i).step).getD st
      if !st.hung.isEmpty then
        s.setJob st.job fun x => if x.ended then x else Job.fail 1 stAborted dtClusterHung { x with counts := st.counts }
      else if 0 < st.defaulted then
        let s := { s with strag := { s.strag with stepsWithDefaults := s.strag.stepsWithDefaults + 1 } }
        s.finishJob st.job stOkDefaults st.detail st.counts
      else if 0 < st.skewed then s.finishJob st.job stOkSkew st.detail st.counts
      else s.finishJob st.job stOk st.detail st.counts

/-- DENSE_DONE (R53): the step moves to EMIT; an open chain of an MRE is discarded with its stream's end. -/
def execDenseDone (slot : SlotId) (s : State) : Host.Outcome State Fault Refusal :=
  let i := slot.val
  match (s.slot i).step with
  | none => .next s
  | some st =>
    if !s.serving || (s.slot i).phase ≠ .dense || st.halted || !(st.left.all fun c => (s.cl c).dense) then .next s
    else
      let s := st.left.foldl (fun s c => s.setCl c fun x => { x with mre := { x.mre with chain := none } }) s
      .next ((s.setSlot i fun x => { x with phase := .emit }).endShares i)

/-! ## CLUSTER_RELEASE -/

/-- Output rows of a share, contiguous at OUT_BYTES per sample (R398). -/
def State.shareOut (s : State) (c : Nat) (st : Step) : List Byte :=
  let p := st.program
  (List.range (st.share c).2).flatMap fun k => memRead (s.cl c).t0 (256 * p.outT0 + k * p.outRow) p.outBytes

/-- Missing counts of a share's samples (R301). -/
def Step.shareMissing (st : Step) (c : Nat) : List Byte :=
  let (lo, n) := st.share c
  (List.range n).flatMap fun k => leBytes 4 (min 0xFFFFFFFF (st.missingCounts.getD (lo + k) 0))

/-- A share's outputs and missing counts go to device memory. -/
def emitWrites (ag : Agent) (st : Step) (c : Nat) (out : List Byte) : Acc (List Nat) := do
  let lo := (st.share c).1
  let a ← writeDva ag (st.output + lo * st.program.outBytes) out
  let b ← if st.missing = 0 then pure [] else writeDva ag (st.missing + 4 * lo) (st.shareMissing c)
  return a ++ b

/-- The number of the first element that a share's copies cannot write: of its outputs, or where they are written, of its missing counts
(R17, assumption 63). -/
def emitSound (ag : Agent) (st : Step) (c : Nat) (out : List Byte) (s : State) : Nat :=
  let lo := (st.share c).1
  let a := st.output + lo * st.program.outBytes
  let n := writeSound ag a out s
  if n < (lineParts a out.length).length then n else writeSound ag (st.missing + 4 * lo) (st.shareMissing c) s

/-- The share is out of T0: its cluster is free (R430). -/
def State.releaseShare (s : State) (c i : Nat) : State :=
  let s := s.setStep i fun st => { st with emitted := c :: st.emitted }
  (s.setCl c fun x => { x with owner := .free }).endShares i

/-- The lines of a share's push to host memory (R328, R404). -/
def Step.pushLines (st : Step) (c : Nat) (out : List Byte) : List (Nat × List Byte) :=
  let base := fieldOf st.push 0 63 + (st.share c).1 * st.program.outBytes
  (granPieces base out.length).map fun (a, n) => (a, (out.drop (a - base)).take n)

/-- Lines of its push that a share has issued: `none` before its outputs stand in device memory. -/
def Step.pushedOf (st : Step) (c : Nat) : Option Nat := (st.pushed.find? (·.1 == c)).map (·.2)

/-- Issue the next line of a share's push, if one is left and may go (R328); behind the last the cluster is released. -/
def State.pushShare (s : State) (c i : Nat) (st : Step) (out : List Byte) (done : Nat) : State :=
  let note (n : Nat) (s : State) : State :=
    s.setStep i fun st => { st with pushed := (c, n) :: st.pushed.filter (·.1 ≠ c) }
  match if st.push = 0 then [] else (st.pushLines c out).drop done with
  | [] => s.releaseShare c i
  | (a, bs) :: rest =>
    let (s, sent) := s.pushLine c (s.ctx (s.slot i).ctx).pasid st.job a bs
    let s := note (done + b2n sent) s
    if sent && rest.isEmpty then s.releaseShare c i else s

/-- CLUSTER_RELEASE (R301, R398, R404, R430): a share's outputs and missing counts are written, then its push goes out line by line, one
with each CLUSTER_RELEASE that finds the engine's earlier line observed. -/
def execClusterRelease (c : ClusterId) (s : State) : Host.Outcome State Fault Refusal :=
  match s.slotOfCluster c.val with
  | none => .next s
  | some i =>
    match (s.slot i).step with
    | none => .next s
    | some st =>
      if !s.serving || (s.slot i).phase ≠ .emit || st.halted || !st.left.contains c.val then .next s
      else
        let out := s.shareOut c.val st
        match st.pushedOf c.val with
        | some done => .next (s.pushShare c.val i st out done)
        | none =>
          let ag := s.dmaAgent c.val i st none
          .next <| s.accessOr ag (emitWrites ag st c.val out) none (fun s _ => s.pushShare c.val i st out 0) fun s f =>
            s.dmaFail c.val ag 0 ([], emitSound ag st c.val out s) f

/-! ## DISCARD_DONE -/

/-- Whether a unit of a cluster is stopped at a fault. -/
def Cluster.faulty (x : Cluster) : Bool :=
  x.mre.faulted || x.ve0.faulted || x.ve1.faulted || x.ru.faulted || x.dma.faulted

/-- A faulted cluster is held for its recovery check: scratch, tile registers and masks are cleared (R433). -/
def Cluster.hold (_ : Cluster) : Cluster := { owner := .check }

/-- A cluster's share of a torn-down step has been discarded. -/
def State.dropShare (s : State) (c : Nat) (hung : Bool) : State :=
  s.setCl c fun x =>
    if x.faulty || hung then x.hold
    else { x with owner := .free, mre := {}, ve0 := {}, ve1 := {}, ru := {}, dma := {} }

/-- DISCARD_DONE (R46, R430, R433). -/
def execDiscardDone (slot : SlotId) (s : State) : Host.Outcome State Fault Refusal :=
  let i := slot.val
  match (s.slot i).step with
  | none => .next s
  | some st =>
    if !s.alive || (s.slot i).phase ≠ .discard || !((s.job? st.job).map Job.ended).getD true then .next s
    else
      let mine := (List.range 16).filter fun c => (s.cl c).owner == .step i
      let s := mine.foldl (fun s c => s.dropShare c (st.hung.contains c)) s
      .next ((s.freeSlot i false).choose.settle)

end Sys2Proof.Machine
end

