-- ==== Sys2Proof/Machine/Seams.lean ====
section
/-! DEFINITION. The seam: staged values become live in R67's order, and a step is admitted and bound (02 R39 to R49, R62 to R73;
05 R153, R160; 17 R427 to R431). -/

namespace Sys2Proof.Machine

/-! ## Orders 1 to 7 of R67 -/

/-- A port follows its PORT_ENABLE bit (R267, R286); a port under test stays as it is. -/
def State.enablePort (s : State) (p : Nat) : State :=
  let x := s.port p
  if x.testing then s
  else if !s.portEnabled p then s.movePort p .disabled
  else if x.st = .disabled then s.movePort p .training
  else s

/-- Order 1: the port configuration. -/
def State.seamPorts (s : State) : State :=
  match s.fab.cfgStaged with
  | none => s
  | some c =>
    let s := { s with fab := { s.fab with cfgLive := some c, cfgStaged := none } }
    ((List.range 16).foldl State.enablePort s).relist

/-- Order 2: the dim configuration and the causes of dim; an extra glint goes out when state, cause or interval change (R304,
R309). -/
def State.seamDim (s : State) : State :=
  let d := s.dim
  let old := s.dimCause
  let iv := s.glintInterval
  let s := { s with dim := { d with cfgLive := d.cfgStaged.getD d.cfgLive, cfgStaged := none
                                    paceLive := d.paceStaged.getD d.paceLive, paceStaged := none
                                    drainLive := d.drainStaged.getD d.drainLive, drainStaged := none } }
  let g := s.strag
  let s := { s with strag := { g with dimEntries := g.dimEntries + b2n (old == 0 && s.dimCause != 0) } }
  if s.dimCause = old ∧ s.glintInterval = iv then s else s.sendGlints

/-- Order 3: ceiling and shade share of a region. -/
def Region.seam (r : Region) : Region :=
  { r with ceilLive := r.ceilStaged.getD r.ceilLive, ceilStaged := none, shadeLive := r.shadeStaged.getD r.shadeLive, shadeStaged := none }

/-- Order 4: the brim. -/
def Sched.seam (c : Sched) : Sched := { c with brimLive := c.brimStaged.getD c.brimLive, brimStaged := none }

/-- Order 5: owner map sections; the measurement of the new map begins (R465). -/
def State.seamMap (s : State) : State :=
  if s.tabs.mapStaged.isEmpty then s
  else
    let ids := s.tabs.mapStaged.map (·.table)
    let live := s.tabs.mapLive.filter (fun m => !ids.contains m.table) ++ s.tabs.mapStaged
    let t := { s.tabs with mapLive := live, mapStaged := [], mapTagLive := s.tabs.mapTagStaged.getD s.tabs.mapTagLive, mapTagStaged := none }
    ({ s with tabs := t, sec := { s.sec with mapPending := some (measureMap live) } }).relist

/-- Order 6: a context's grid table. -/
def Ctx.seam (c : Ctx) : Ctx := { c with grid := c.gridStaged.getD c.grid, gridStaged := none }

/-- Order 7: the dense parameter set. -/
def Model.seam (m : Model) : Model := { m with setLive := m.setStaged.getD m.setLive, setStaged := none }

/-! ## Orders 8 and 9: versions -/

/-- A staged swap: the shadow becomes lit, and lit becomes retired; a retired version whose release is staged makes room
(R159, R160). -/
def Table.swapped (t : Table) : Table :=
  match t.swap, t.shadow with
  | .staged, some x =>
    { t with lit := x.ver, shadow := none, swap := .none, retired := some t.lit, dying := t.dying ++ t.retired.toList, releaseStaged := false }
  | _, _ => t

/-- Tables whose swap becomes live at this seam. -/
def State.swaps (s : State) : List Nat := (s.tabs.tables.filter fun t => t.swap = .staged && t.shadow.isSome).map (·.desc.id)

/-- Order 8: records of epochs not yet applied follow the new lit version. -/
def State.seamSwap (s : State) : State :=
  let ids := s.swaps
  let move (k : Kept) : Kept := if ids.contains k.upd.table then { k with forLit := k.forShadow, forShadow := false } else k
  { s with tabs := { s.tabs with tables := s.tabs.tables.map Table.swapped }, upd := { s.upd with recs := s.upd.recs.map move } }

/-- Order 9: a released version is no longer served; it goes when no step binds it (R71). -/
def Table.released (t : Table) : Table :=
  if t.releaseStaged then { t with retired := none, dying := t.dying ++ t.retired.toList, releaseStaged := false } else t

def State.seamRelease (s : State) : State :=
  ({ s with tabs := { s.tabs with tables := s.tabs.tables.map Table.released } }).pruneVersions

/-! ## Order 10: reflections -/

/-- A slot that was written becomes live (R131). -/
def Reflection.seam (r : Reflection) : Reflection := if r.written then { r with live := some r.spare, written := false } else r

/-- A row of a new held list takes over the state of the same row with the same slots. -/
def ReflSet.adopt (old : ReflSet) (r : Reflection) : Reflection :=
  (old.held.find? fun x => x.is r.table r.row && x.dva == r.dva).getD r

/-- Rows of a new held list that the old one lacks; a row whose slots are others than before enters anew (DESIGN CHOICE, assumption 41:
R129 is silent on it). -/
def ReflSet.entering (old : Option ReflSet) (new : ReflSet) : List Reflection :=
  new.held.filter fun r => !((old.map fun o => o.held.any fun x => x.is r.table r.row && x.dva == r.dva).getD false)

/-- Order 10: written slots become live; a staged set replaces the live one, and the rows that enter are asked for (R129). -/
def State.seamRefl (s : State) : State :=
  let old := s.tabs.refl.map fun x => { x with held := x.held.map Reflection.seam }
  match s.tabs.reflStaged with
  | none => { s with tabs := { s.tabs with refl := old } }
  | some new =>
    let new' := match old with | some o => { new with held := new.held.map o.adopt } | none => new
    let has (p : Nat × Nat × ReflSlot × List Byte) : Bool := new'.held.any (·.is p.1 p.2.1)
    let t := { s.tabs with refl := some new', reflStaged := none, heldPushes := s.tabs.heldPushes.filter has }
    (ReflSet.entering old new).foldl (fun s r => s.beginFill r.table r.row) ({ s with tabs := t }).relist

/-! ## Order 11: epochs (R146, R153, R154, R160) -/

/-- Whether an epoch's overlay belongs to a version that the epoch is applied to: lit, or a tracking shadow. -/
def State.appliesTo (s : State) (o : Overlay) : Bool :=
  match s.table? o.table with
  | none => false
  | some t => t.lit.num == o.version || (t.shadow.any fun x => x.tracking && x.ver.num == o.version)

/-- Whether an overlay is a row that an epoch wrote for a version. -/
def Overlay.isFor (o : Overlay) (epoch table version : Nat) : Bool := o.epoch == epoch && o.table == table && o.version == version

/-- A version takes the stamp of seam `n` (R104). -/
def Version.stamped (n : Nat) (v : Version) : Version := if v.stamps.head? = some n then v else { v with stamps := n :: v.stamps }

/-- Stamp the versions of a table that an epoch has rows for. -/
def Table.stampEpoch (os : List Overlay) (epoch n : Nat) (t : Table) : Table :=
  let hit (v : Version) : Bool := os.any (·.isFor epoch t.desc.id v.num)
  { t with lit := if hit t.lit then t.lit.stamped n else t.lit
           shadow := t.shadow.map fun x => if hit x.ver then { x with ver := x.ver.stamped n } else x }

/-- Records and markers of epochs at or below the last applied one, which came early or were held before routing, are late (R146). -/
def State.dropEarly (s : State) : State :=
  let u := s.upd
  let lateR := (u.earlyRecs ++ u.heldRecs).filter (·.epoch ≤ u.lastApplied)
  let lateM := u.earlyMarks.filter (·.epoch ≤ u.lastApplied)
  let s := { s with upd := { u with
    earlyRecs := u.earlyRecs.filter (u.lastApplied < ·.epoch)
    heldRecs := u.heldRecs.filter (u.lastApplied < ·.epoch)
    earlyMarks := u.earlyMarks.filter (u.lastApplied < ·.epoch) } }
  s.updCtr fun c => { c with recordsLate := c.recordsLate + lateR.length + lateM.length }

/-- Apply a ready epoch at seam `n`. -/
def State.applyEpoch (n : Nat) (s : State) (e : Epoch) : State :=
  let mine (o : Overlay) : Bool := o.epoch == e.num && o.seam.isNone
  let live := (s.upd.overlays.filter fun o => mine o && s.appliesTo o).map fun o => { o with seam := some n }
  let u := s.upd
  let s := { s with upd := { u with
    overlays := u.overlays.filter (!mine ·) ++ live
    epochs := u.epochs.filter (·.num ≠ e.num)
    past := u.past ++ [e]
    lastApplied := e.num
    appliedSeams := (e.num, n) :: u.appliedSeams
    ctr := { u.ctr with epochsApplied := u.ctr.epochsApplied + 1, rowsApplied := u.ctr.rowsApplied + live.length } } }
  ({ s with tabs := { s.tabs with tables := s.tabs.tables.map (Table.stampEpoch live e.num n) } }).dropEarly

/-- Order 11. -/
def State.seamEpochs (s : State) : State :=
  let ready := (risingOf ((s.upd.epochs.filter (·.ready)).map (·.num))).filterMap s.epoch?
  if ready.isEmpty then s else (ready.foldl (State.applyEpoch s.pkg.seamCount) s).relist

/-! ## Pushes due (R130) -/

/-- The pushes that a seam makes due: listed rows that an epoch applied now has touched in lit, and every listed row of a table
that has swapped. -/
def State.duePushes (s : State) (swapped : List Nat) : List (Nat × Nat × Nat × Nat × List Nat) :=
  match s.tabs.refl with
  | none => []
  | some r => r.push.filterMap fun (table, row, g) =>
    match s.table? table with
    | none => none
    | some t =>
      let hit := s.upd.overlays.any fun o => o.table == table && o.version == t.lit.num && o.row == row && o.seam == some s.pkg.seamCount
      if hit || swapped.contains table then some (table, row, t.lit.num, s.pkg.seamCount, r.groups.getD g []) else none

/-! ## The seam (R40, R63, R67) -/

/-- Orders 3, 4, 6 and 7: values that only change place. -/
def State.seamValues (s : State) : State :=
  { s with regions := s.regions.map Region.seam, sched := s.sched.seam, ctxs := s.ctxs.map Ctx.seam, model := s.model.seam }

/-- What a host error of system scope has left is mended by the staged settings that it concerns, when they become live anew (R5): the port
configuration, the owner map, the reflection set (assumption 74). -/
def State.mend (s : State) : State :=
  if s.pkg.astray = some .system && (s.fab.cfgStaged.isSome || !s.tabs.mapStaged.isEmpty || s.tabs.reflStaged.isSome) then
    { s with pkg := { s.pkg with astray := none } }
  else s

/-- A seam: SEAM_COUNT rises, and every staged value becomes live. -/
def State.passSeam (s : State) : State :=
  let swapped := s.swaps
  let s := s.cpActs.mend
  let s := { s with pkg := { s.pkg with seamCount := s.pkg.seamCount + 1 }
                    sched := { s.sched with lastSeamAt := s.now, arrivals := [] } }
  let s := s.seamPorts.seamDim.seamMap.seamValues.seamSwap.seamRelease.seamRefl.seamEpochs
  { s with tabs := { s.tabs with pushOut := s.tabs.pushOut ++ s.duePushes swapped } }

/-! ## Binding (R48, R49, R57, R404, R429) -/

/-- Ids of the tables that a program uses: those that it declares, and the parts of composed ones. -/
def State.programTables (s : State) (p : Program) : List Nat :=
  (p.lookups.flatMap fun l =>
    match s.table? l.table with
    | some t => if t.desc.kind = .composed then [l.table, t.desc.quot, t.desc.rem] else [l.table]
    | none => [l.table]).eraseDups

/-- The lookup budget of a RUN_STEP (R57). -/
def lookupBudget (d l : Nat) : Nat := if d ≠ 0 ∧ d < l then d else l

/-- The step that a RUN_STEP becomes: what it binds. -/
def State.bind (s : State) (j : JobRef) (x : Job) (p : Program) (clusters : List Nat) : Step :=
  { job := j, samples := samplesOf x, program := p, deadline := (x.p 1).field 0 32
    budget := lookupBudget ((x.p 1).field 0 32) ((x.p 1).field 32 32)
    input := (x.p 2).toNat, output := (x.p 3).toNat, missing := (x.p 4).toNat, push := (x.p 5).toNat, tAdm := s.now
    versions := (s.programTables p).filterMap fun id => (s.table? id).map fun t => (id, t.lit)
    map := s.tabs.mapLive, grid := (s.ctx (s.ctxOf j.q)).grid, set := s.model.setLive, refl := s.tabs.refl
    clusters := clusters, missingCounts := List.replicate (samplesOf x) 0 }

/-- A step takes a cluster; scratch that holds another context's data is cleared, which is a T0 stall (R20, R233, R430). Contexts are told
apart by their numbers: one that has been closed and opened again under its number is the same (DESIGN CHOICE, assumption 70). -/
def State.takeCluster (s : State) (i ctx : Nat) (c : Nat) : State :=
  let foreign := (s.cl c).scratchCtx.any (· ≠ ctx)
  let s := (s.setCl c fun x => { x with owner := .step i, scratchCtx := some ctx, t0 := if foreign then [] else x.t0, dma := { x.dma with pos := 0 } }).atWork (c / 2)
  if foreign then { s with tiers := (s.tiers.countStall 0).addStall 0 (Config.clearTime s.now c) } else s

/-- Tables that a step binds: a first version among them is bound from now on (R86). -/
def State.markBound (s : State) (ids : List Nat) : State :=
  let f (t : Table) : Table := if ids.contains t.desc.id then { t with bound := true } else t
  { s with tabs := { s.tabs with tables := s.tabs.tables.map f } }

/-- Admit a RUN_STEP after its seam to a slot: its clusters, its bindings. -/
def State.admitStep (s : State) (rt : Bool) (j : JobRef) (i : Nat) : State :=
  match s.job? j with
  | none => s
  | some x =>
    match s.programOf x with
    | none => s
    | some p =>
      let ctx := s.ctxOf j.q
      let cls := (s.openCls rt s.sched.brimLive).take (p.clusters (samplesOf x))
      let st := s.bind j x p cls
      let slot : Slot := { phase := .prefetch, rt := rt, ctx := ctx, stepSeq := s.pkg.seamCount, step := some st }
      let s := (s.setSlot i fun _ => slot).markBound (s.programTables p)
      let s := cls.foldl (fun s c => s.takeCluster i ctx c) s
      let c := s.sched
      { s with sched := if rt then { c with rtPtr := j.q, rtPick := none } else { c with normPtr := j.q, normPick := none } }

/-! ## Host errors that a seam meets -/

/-- R70, R268: device number, domain or prefix change while a step, a lease or an open epoch exists. -/
def State.badDevice (s : State) : Bool :=
  match s.fab.cfgLive, s.fab.cfgStaged with
  | some a, some b =>
    (a.device ≠ b.device || a.domain ≠ b.domain || a.pfx ≠ b.pfx) &&
      ((List.range 8).any (fun i => (s.slot i).phase ≠ .free) || !s.tiers.lent.isEmpty || !s.tiers.borrowed.isEmpty || !s.upd.epochs.isEmpty)
  | _, _ => false

/-- Whether a sharded table has an owner map section once the seam has passed (R96). -/
def State.mapped (s : State) (t : Table) : Bool :=
  t.desc.placement = .everywhere || (s.tabs.mapLive ++ s.tabs.mapStaged).any (·.table == t.desc.id)

/-- Whether the program of a step about to be admitted uses a sharded table without an owner map section (R96). -/
def State.unmapped (s : State) (p : Program) : Bool :=
  ((s.programTables p).filterMap s.table?).any fun t => t.desc.kind ≠ .composed && !s.mapped t

/-- Whether the program of a step about to be admitted leaves its context's results open: an undefined table (R75), a reserved POOL
(R396). -/
def State.badProgram (s : State) (p : Program) : Bool :=
  ((s.programTables p).any fun t => (s.table? t).isNone) || p.lookups.any (4 < ·.pool)

/-- The program of a RUN_STEP that a seam selects. -/
def State.picked (s : State) (j : Option JobRef) : Option Program := (j.bind s.job?).bind s.programOf

/-- Whether the seam that selects `j` meets a host error of R70 or R96; the scope of both is the system. -/
def State.seamBad (s : State) (j : Option JobRef) : Bool := s.badDevice || ((s.picked j).map s.unmapped).getD false

/-- A seam passes for the admission of `j`, or for an idle step; a host error that it meets takes its course (R5). -/
def State.seamFor (s : State) (j : Option JobRef) : State := if s.seamBad j then s.passSeam.wrecked .system else s.passSeam

/-! ## The rows -/

/-- The lowest FREE slot (R427). -/
def State.lowestFree (s : State) : Option Nat := (List.range 8).find? fun i => (s.slot i).phase = .free

/-- Begin or end the binding that a seam calls for (R47, R63). -/
def State.setBinding (s : State) (b : Option Binding) : State := { s with sched := { s.sched with binding := b } }

/-- Whether the step that a seam has selected can still bind: its RUN_STEP has not ended, and its clusters are there (a cluster that has been
withdrawn since makes the admission an idle step's, as an ended RUN_STEP does: DESIGN CHOICE, assumption 27). -/
def State.canBind (s : State) (b : Binding) : Bool :=
  s.stillPick b.job &&
  match s.picked (some b.job), s.job? b.job with
  | some p, some x => p.clusters (samplesOf x) ≤ (s.openCls b.rt s.sched.brimLive).length
  | _, _ => false

/-- The command processor fetches the program of a step from the resident image, whose DVAs are context 0's (R32, R393). -/
def State.fetchProgram (s : State) (j : JobRef) : Except AccFail Unit × State :=
  match s.picked (some j) with
  | none => (.ok (), s)
  | some p =>
    match (readDva { Agent.cp 2 (s.ctxOf j.q) j with space := some 0 } p.dva p.bytes none).go s with
    | (.ok _, s) => (.ok (), s)
    | (.error f, s) => (.error f, s)

/-- The admission that follows a seam: the step binds, or, where its RUN_STEP has ended meanwhile, it is an idle step's (R39, R47). The
fetch of its program waits for lines that the host holds; one that fails is an error of the step's context, and no step is bound
(R244). -/
def State.bindStep (s : State) (b : Binding) : State :=
  if !s.canBind b then s.setBinding none
  else
    match s.fetchProgram b.job with
    | (.error (.snoop l i), _) => s.sendSnoop l i
    | (.error .hold, s) => s
    | (.error f, s) => (s.accError { Agent.cp 2 (s.ctxOf b.job.q) b.job with space := some 0 } f).setBinding none
    | (.ok _, s) =>
      let s := s.setBinding none
      let s := if ((s.picked (some b.job)).map s.badProgram).getD false then s.upset (s.ctxOf b.job.q) else s
      s.admitStep b.rt b.job b.slot

/-- SEAM (R39, R46, R47, R63, R67): the admission in progress is completed; or, with none in progress, the admission that R427 makes now
begins, with its seam. What comes between the two finds the seam passed and the step not yet bound. -/
def execSeam (now : Nat) (s : State) : Host.Outcome State Fault Refusal :=
  let s := s.advanceTo now
  if !s.serving then .next s
  else
    match s.sched.binding with
    | some b => .next (s.bindStep b).choose.settle
    | none =>
      let s := s.choose
      match s.admission, s.lowestFree with
      | some (rt, j), some i =>
        .next ((s.seamFor (some j)).setBinding (some ⟨rt, j, i⟩)).settle
      | _, _ => .next s

/-- Whether R42's 100 µs have passed. -/
def State.idleDue (s : State) : Bool :=
  match s.waitingSince with
  | none => false
  | some t => 10000 ≤ s.now - max s.sched.lastSeamAt t

/-- IDLE_STEP (R42 to R44); no other admission is in progress (R47). -/
def execIdleStep (now : Nat) (s : State) : Host.Outcome State Fault Refusal :=
  let s := s.advanceTo now
  let s := if s.serving then s.choose else s
  if !s.serving || s.sched.binding.isSome || !s.seamWaiting || s.admission.isSome || !s.idleDue || (List.range 8).all (fun i => (s.slot i).phase ≠ .free) then .next s
  else .next ((s.seamFor none).choose.settle)

end Sys2Proof.Machine
end

