-- ==== Sys2Proof/Machine/Liveness.lean ====
section
/-! DEFINITION. Liveness of peers and the transport's timers: glints received and sent, presumed loss, acknowledgements,
retransmission, window probes, foreign frames (11 R272 to R283; 12 R304 to R307); and the regions that have no work (20
R474). -/

namespace Sys2Proof.Machine

/-! ## Presumed loss (R306) -/

/-- Epochs not closed for which a device is a contributor whose marker has not arrived, lowest first (R306). -/
def State.epochsOf (s : State) (dev : Nat) : List Nat :=
  risingOf ((s.upd.epochs.filter fun e => !e.closed && e.contribs.contains dev && !(e.markers.any (·.1 == dev))).map (·.num))

/-- The PEER_LOST event (R306, R450). -/
def State.lostEvent (s : State) (dev inc : Nat) : Event :=
  let es := (s.epochsOf dev).take 40
  { code := 0x31, payload := leBytes 4 dev ++ leBytes 4 inc ++ leBytes 4 es.length ++ padTo 160 (es.flatMap (leBytes 4)) }

/-- The step in a slot learns of the loss: entries that asked the device hold it for dead, and the step is marked while it is
in LOOKUP (R296, R303). -/
def State.markLoss (s : State) (dev i : Nat) : State :=
  if (s.slot i).phase ≠ .lookup then s
  else
    s.setStep i fun st =>
      let hit := st.entries.any (·.asked.contains dev)
      let mark (e : Entry) : Entry := if e.asked.contains dev && !e.dead.contains dev then { e with dead := dev :: e.dead } else e
      { st with peerLost := st.peerLost || hit, entries := st.entries.map mark }

/-- Entries of a step whose member last asked is a device (R295). -/
def State.lastAsked (s : State) (dev i : Nat) : List Nat :=
  match (s.slot i).step with
  | none => []
  | some st => (List.range st.entries.length).filter fun k =>
      match st.entries[k]? with
      | some e => e.answer.isNone && e.asked.getLast? == some dev
      | none => false

/-- A step in LOOKUP reissues at once what it last asked of a lost device. -/
def State.lossReissue (s : State) (dev i : Nat) : State :=
  if (s.slot i).phase ≠ .lookup then s
  else ((s.markLoss dev i).reissue i .loss (s.lastAsked dev i)).strictCheck i

/-- Fills that wait for a lost device go to the next member (R129). -/
def State.lossFills (s : State) (dev : Nat) : State :=
  let held := (s.tabs.refl.map (·.held)).getD []
  held.foldl (fun s r =>
    match r.fill with
    | some (_, ms) => if ms.head? = some dev then s.nextFill r.table r.row ms else s
    | none => s) s

/-- Leases with a lost device: those borrowed from it are poisoned (R235), those lent to it are noted once (R237). -/
def State.lossLeases (s : State) (dev : Nat) : State :=
  let mine := s.tiers.borrowed.filter (·.lender == dev)
  let s := mine.foldl (fun s b => s.poisonLease b.lender b.lease) s
  let lent := s.tiers.lent.filter fun l => l.borrower == dev && !l.borrowerLost
  let s := lent.foldl (fun s l =>
    s.recordEvent { code := 0x33, payload := leBytes 4 (packFields [(dev, 14), (0, 2), (l.id, 6)]) }) s
  let mark (l : Lent) : Lent := if l.borrower = dev then { l with borrowerLost := true } else l
  { s with tiers := { s.tiers with lent := s.tiers.lent.map mark } }

/-- A peer incarnation is presumed lost (R306). -/
def State.losePeer (s : State) (dev inc : Nat) : State :=
  let s := s.recordEvent (s.lostEvent dev inc)
  let s := { s with strag := { s.strag with peersLost := s.strag.peersLost + 1 } }
  let s := s.setPeer dev fun p => { p with lost := true }
  let s := (List.range 8).foldl (State.lossReissue · dev) s
  ((s.lossFills dev).abandonMsgs dev).lossLeases dev

/-! ## GLINT (R274, R275, R305) -/

/-- What a glint tells of its sender. -/
def Peer.hear (p : Peer) (g : GlintBody) (now : Nat) : Peer :=
  { p with lastGlint := now, interval := g.interval, dim := g.dim, state := g.state, ports := g.ports }

/-- A peer as its first glint shows it: its sequence spaces are fresh. -/
def Peer.fresh (dev inc : Nat) (g : GlintBody) (now : Nat) : Peer :=
  { dev, inc, lastGlint := now, interval := g.interval, dim := g.dim, state := g.state, ports := g.ports }

/-- A new peer incarnation is recorded: messages that waited for a glint of the device go to the transport (R276). -/
def State.meetPeer (s : State) (dev inc : Nat) (g : GlintBody) : State :=
  let early := s.fab.early.filter (·.dev == dev)
  let s := { s with fab := { s.fab with peers := Peer.fresh dev inc g s.now :: s.fab.peers.filter (·.dev ≠ dev)
                                        early := s.fab.early.filter (·.dev ≠ dev) } }
  early.foldl (fun s m => s.sendMsg m.dev m.update m.kind m.body m.round m.mark) s

/-- The old incarnation of a device gives way: it is treated as a lost peer, and what it asked for is not served (R275). -/
def State.replacePeer (s : State) (p : Peer) : State :=
  let s := if p.lost then s else s.losePeer p.dev p.inc
  { s with tabs := { s.tabs with serve := s.tabs.serve.filter (·.1 ≠ p.dev) } }

/-- A glint that the receive checks pass. -/
def State.takeGlint (s : State) (dev inc : Nat) (g : GlintBody) : State :=
  match s.peer? dev with
  | none => s.meetPeer dev inc g
  | some p =>
    if p.inc = inc then ((s.setPeer dev fun p => p.hear g s.now).spray dev false).spray dev true
    else ((s.replacePeer p).meetPeer dev inc g).settle

/-- GLINT (R274, R275, R305). -/
def execGlint (f : Frame) (g : GlintBody) (s : State) : Host.Outcome State Fault Refusal :=
  match s.receivePlain f true with
  | (s, true) => .next (s.takeGlint f.srcDev f.srcInc g)
  | (s, false) => .next s

/-- GLINT_INTERVAL (R276, R304): one glint to each peer in each interval. -/
def execGlintInterval (now : Nat) (s : State) : Host.Outcome State Fault Refusal :=
  let s := s.advanceTo now
  if !s.alive || s.fab.cfgLive.isNone || s.now - s.fab.lastGlints < s.glintInterval then .next s
  else .next ({ s with fab := { s.fab with lastGlints := s.now } }).sendGlints

/-! ## LIVENESS_CHECK (R305) -/

/-- The device on the live peer list, if silent for more than three of its intervals, and not yet presumed lost. -/
def State.silent (s : State) (dev joined : Nat) : Option Peer :=
  (s.peer? dev).filter fun p => !p.lost && 3 * p.interval < s.now - max p.lastGlint joined

/-- Each silent peer is presumed lost. -/
def State.checkSilence (s : State) : State :=
  s.fab.listed.foldl (fun s x =>
    match s.silent x.1 x.2 with
    | some p => s.losePeer p.dev p.inc
    | none => s) s

/-- LIVENESS_CHECK (R305): at each multiple of 40 µs. -/
def execLivenessCheck (now : Nat) (s : State) : Host.Outcome State Fault Refusal :=
  let s := s.advanceTo now
  if !s.alive || s.now % 4000 ≠ 0 || (s.fab.listed.all fun x => (s.silent x.1 x.2).isNone) then .next s
  else .next s.checkSilence.settle

/-! ## Acknowledgements and timers (R279 to R283) -/

/-- ACK (R279, R280): an ACK message whose CLASS is UPDATE probes that space, which is then acknowledged (DEDUCED). -/
def execAck (f : Frame) (s : State) : Host.Outcome State Fault Refusal :=
  match s.receivePlain f false with
  | (s, false) => .next s
  | (s, true) =>
    let s := s.ackIn f
    let owe (r : RxSpace) : RxSpace := { r with owedSince := some (r.owedSince.getD s.now) }
    .next (if f.update then s.setPeer f.srcDev fun p => p.setRx true owe else s).settle

/-- Spaces in which an acknowledgement is owed to a peer. -/
def Peer.owes (p : Peer) : Nat := b2n p.rxS.owedSince.isSome + b2n p.rxU.owedSince.isSome

/-- ACK_TIMER (R279): 2 µs have passed and no message has carried the acknowledgement. -/
def execAckTimer (now dev : Nat) (update : Bool) (s : State) : Host.Outcome State Fault Refusal :=
  let s := s.advanceTo now
  match s.peer? dev with
  | none => .next s
  | some p =>
    match (p.rx update).owedSince with
    | none => .next s
    | some t =>
      if !s.alive || p.lost || s.now - t < 2 * Config.us then .next s
      else .next ((List.range p.owes).foldl (fun s _ => s.sendPlain dev 0 []) s)

/-- A retransmission timer expiry halves the congestion window, at most every 20 µs (R283). -/
def TxSpace.expire (t : TxSpace) (now : Nat) : TxSpace :=
  if t.lastCut.all fun c => 20 * Config.us ≤ now - c then { t with cwnd := max 2 (t.cwnd / 2), acked := 0, lastCut := some now }
  else t

/-- RETRANSMIT_TIMER (R281, R283): the expiry cuts the window, once for each transmission of the message, which is then sent again unless
its retransmission is queued already; without a common working port it waits. -/
def execRetransmitTimer (now dev : Nat) (update : Bool) (seq : Nat) (s : State) : Host.Outcome State Fault Refusal :=
  let s := s.advanceTo now
  match s.peer? dev with
  | none => .next s
  | some p =>
    match (p.tx update).unacked.find? (·.seq == seq) with
    | none => .next s
    | some m =>
      let due := match m.sentAt with | some t => m.timer ≤ s.now - t | none => false
      if !s.alive || !due || m.expired || p.lost then .next s
      else
        let cut (t : TxSpace) : TxSpace := (t.expire s.now).setMsg seq fun m => { m with expired := true }
        .next ((s.setPeer dev fun p => p.setTx update cut).retransmit dev update seq)

/-- When a space's next probe is due: `none` while its window is open or nothing waits for it (R280). -/
def TxSpace.probeAt (t : TxSpace) : Option Nat :=
  match t.zeroSince, t.unacked.find? fun m => m.sentAt.isNone && !m.queued with
  | some z, some m => some (100 * Config.us + t.lastProbe.getD (max z m.queuedAt))
  | _, _ => none

/-- WINDOW_PROBE (R280): an ACK message that names the space in CLASS. -/
def execWindowProbe (now dev : Nat) (update : Bool) (s : State) : Host.Outcome State Fault Refusal :=
  let s := s.advanceTo now
  match s.peer? dev with
  | none => .next s
  | some p =>
    match (p.tx update).probeAt, s.choosePort p none with
    | some t, some port =>
      if !s.alive || p.lost || s.now < t then .next s
      else
        let s := s.setPeer dev fun p => { p.setTx update fun t => { t with lastProbe := some s.now } with sprayPtr := port }
        .next (s.queueFrame port ⟨dev, 0, update, 0, false, []⟩)
    | _, _ => .next s

/-! ## Foreign frames (R264, R272, R281) -/

/-- FOREIGN_FRAME: a frame that is discarded. An FCS error shows in no counter that the manual lays out, but for a port that
runs LINK_TEST in FRAME mode (R291). The congestion mark of a discarded frame has no effect. -/
def execForeignFrame (p : PortId) (k : ForeignKind) (seen : ForeignSeen) (s : State) : Host.Outcome State Fault Refusal :=
  let s := s.countFec p.val seen.fec
  let x := s.port p.val
  if k = .fcs && s.alive && s.frameTest p.val then .next (s.testSaw p.val false)
  else if !s.alive || s.fab.cfgLive.isNone || !(x.st = .up || x.st = .degraded) then .next s
  else
    match k with
    | .fcs => .next s
    | .notTransport => .next (s.fabCtr fun c => { c with framesForeign := c.framesForeign + 1 })
    | .check => .next (s.fabCtr fun c => { c with framesDroppedCheck := c.framesDroppedCheck + 1 })
    | .noBuffer => .next (s.fabCtr fun c => { c with rxDropped := c.rxDropped + 1 })

/-! ## Idle regions (R474) -/

/-- Whether a cluster works for a step or is in its check, or has completed a handshake within 100 µs. -/
def State.clusterWorks (s : State) (c : Nat) : Bool :=
  (match (s.cl c).owner with | .step _ => true | .check => true | _ => false) || s.now - (s.cl c).progress < 100 * Config.us

/-- Whether a unit of a region has had a handshake pending within 100 µs: a cluster, its gather and update engines and its memory
controller, whoever's access that was, or a remote request that it serves. -/
def State.regionWorks (s : State) (r : Nat) : Bool :=
  s.clusterWorks (2 * r) || s.clusterWorks (2 * r + 1) || s.now - (s.regions[ix 8 r]).workAt < 100 * Config.us ||
  s.tabs.serve.any fun m => s.msgRegion m.2 == r

/-- REGION_IDLE (R474): nothing of the region has worked for 100 µs. -/
def execRegionIdle (now : Nat) (r : RegionId) (s : State) : Host.Outcome State Fault Refusal :=
  let s := s.advanceTo now
  if !s.alive || (s.regions[r]).searching || s.regionWorks r.val then .next s
  else .next (s.setRegion r.val fun g => { g with idle := true, limiting := false })

end Sys2Proof.Machine
end

