-- ==== Sys2Proof/Machine/Errors.lean ====
section
/-! DEFINITION. Errors after their detection: hung clusters and the recovery check (01 R24; 17 R433; 18 R438), the handling of an
error of each class (18 R439 to R443), and teardown (17 R422, R423). -/

namespace Sys2Proof.Machine

/-! ## CLUSTER_HUNG (R24, R438) -/

/-- Whether a share of a step waits for a reply: an entry of its samples has no answer (R24). -/
def Step.awaitsReply (st : Step) (c : Nat) : Bool :=
  let (lo, n) := st.share c
  st.entries.any fun e => e.answer.isNone && lo ≤ e.sample && e.sample < lo + n

/-- Whether a slot's step has work pending in its phase that waits for no other step, and a share of it for no reply (R24, R53). -/
def State.hasWork (s : State) (c i : Nat) (st : Step) : Bool :=
  match (s.slot i).phase with
  | .prefetch => s.prefetchTurn i
  | .lookup => !st.awaitsReply c
  | .dense => !(s.cl c).dense
  | .emit => true
  | _ => false

/-- Whether an owner is the DMA engine of a cluster. -/
def Owner.engine (c : Nat) : Owner → Bool
  | .dma x => x == c
  | .push x _ => x == c
  | .job _ => false

/-- Whether a cluster that works for a step has work pending, and waits for nobody outside the package (R24): not for a tier, for host
memory, or for the host to give up a line. -/
def State.worksOn (s : State) (c i : Nat) (st : Step) : Bool :=
  !st.halted && st.left.contains c && s.hasWork c i st && !(s.cxl.snoops.any fun x => (s.cl c).asked == some x.1) &&
  !(s.tiers.waits.any fun w => w.owner.engine c) && !(s.xlat.reqs.any fun r => r.owner.engine c)

/-- The error of a hung cluster: its share alone is discarded. -/
def State.hungError (s : State) (c i : Nat) (st : Step) : Detected :=
  let ctx := (s.slot i).ctx
  let ag : Agent := { kind := 0, cls := 1, ctx := ctx, job := some st.job, slot := some i }
  { cls := 1, frec := some (s.agentRec ag 0x60 1), job := some st.job, slot := some i, ctx := ctx, status := stAborted,
    detail := dtClusterHung, share := some c }

/-- CLUSTER_HUNG (R24): no handshake of the cluster has completed for 10 ms. -/
def execClusterHung (now : Nat) (c : ClusterId) (s : State) : Host.Outcome State Fault Refusal :=
  let s := s.advanceTo now
  match s.slotOfCluster c.val with
  | none => .next s
  | some i =>
    match (s.slot i).step with
    | none => .next s
    | some st =>
      if !s.serving || !s.worksOn c.val i st || s.now - (s.cl c.val).progress < 10 * Config.ms then .next s
      else .next ((s.detect (s.hungError c.val i st)).setStep i fun st => { st with hung := c.val :: st.hung })

/-! ## RECOVERY_CHECK_DONE (R433) -/

/-- RECOVERY_CHECK_DONE: 0 passed; anything else withdraws the cluster until the next reset, and is an error of class corrected (R437),
whose event record the handling writes (R439). -/
def execRecoveryCheckDone (c : ClusterId) (result : Nat) (s : State) : Host.Outcome State Fault Refusal :=
  if !s.alive || (s.cl c.val).owner ≠ .check then .next s
  else if result = 0 then .next (s.setCl c.val fun x => { x with owner := .free }).choose
  else
    let s := s.setCl c.val fun x => { x with owner := .withdrawn }
    .next (s.detect { cls := 0, event := some { code := 0x14, payload := leBytes 4 c.val ++ leBytes 4 result } })

/-! ## Actions (R422, R439) -/

/-- Write an error's own event record, if one is written; it tells the instant of the detection (R449). -/
def State.errorEvent (s : State) (d : Detected) : State :=
  match d.event with
  | some e => s.recordEvent { e with at' := some d.at' }
  | none => s

/-- The event record of a teardown (R436, R450). -/
def State.tornEvent (s : State) (d : Detected) : State :=
  s.recordEvent { code := 0x11, cls := 2, ctx := d.ctx, payload := (d.frec.map FaultRec.bytes).getD [], at' := some d.at' }

/-- The hung cluster's share is gone: the cluster is held for its check (R433, R438). -/
def State.endShare (s : State) (c : Nat) (d : Detected) : State :=
  match d.slot, d.job with
  | some i, some j =>
    if ((s.slot i).step.map (·.job)) ≠ some j || (s.slot i).phase = .discard || (s.cl c).owner ≠ .step i then s
    else (s.setCl c Cluster.hold).setStep i fun st => { st with hungFirst := true }
  | _, _ => s

/-- What a step-class error discards: the share of a hung cluster, or every share of its step (R46, R438). -/
def State.discardFor (s : State) (d : Detected) : State :=
  match d.share, d.job with
  | some c, _ => s.endShare c d
  | none, some j =>
    match s.stepSlot j with
    | some i => s.discardStep i
    | none => s
  | none, none => s

/-- The job of a step-class error ends with its status; a step that has lost a share ends with its last one (R438). -/
def State.endFor (s : State) (d : Detected) : State :=
  match d.share, d.slot, d.job with
  | some _, some i, _ => s.endShares i
  | none, _, some j => s.failJob j 1 d.status d.detail
  | _, _, _ => s

/-- Whether a teardown ends a job: it has not ended, or a step-class error has ended it and its record is not written (R440). -/
def Job.tornDown (x : Job) : Bool := !x.ended || (x.phase = .done && x.cls == 1)

/-- End every job of a queue with CONTEXT_LOST, the entries of a RUN_SEQUENCE in progress among them (R376, R422). -/
def State.loseQueue (s : State) (q : Nat) : State :=
  let detail := (Config.openDetail stContextLost).toNat
  let s := s.expandNow q
  (((s.queue q).jobs.filter Job.tornDown).map (·.seq)).foldl (fun s n => s.failJob ⟨q, n⟩ 2 stContextLost detail) s

/-- A context is LOST, and its queues stop (R422). -/
def State.loseContext (s : State) (c : Nat) : State :=
  (s.queuesFor c).foldl (fun s q => s.setQueue q fun x => { x.rewind with st := .stopped, cause := 4 })
    (s.setCtx c fun x => { x with st := .lost })

/-- Every step of a context in flight goes to DISCARD (R422). -/
def State.discardSteps (s : State) (c : Nat) : State :=
  ((List.range 8).filter fun i => (s.slot i).phase ≠ .free && (s.slot i).ctx == c).foldl State.discardStep s

/-- A corrected error has been handled: what R382 held for it goes on, unless another error holds it. -/
def State.resume (s : State) (d : Detected) : State :=
  let other (p : Detected → Bool) : Bool := s.err.all.any fun e => 1 ≤ e.cls && e.share.isNone && p e
  let s := match d.job with
    | some j => if other (·.job == some j) then s else s.setJob j fun x => { x with halted := false }
    | none => s
  match d.slot with
  | some i => if other (·.slot == some i) then s else s.setStep i fun st => { st with halted := false }
  | none => s

/-- One action of an error's handling, and whether it is done: a fault record that waits for a line that the host holds is not
(R319, R439). -/
def State.act (s : State) (d : Detected) : Action → State × Bool
  | .record =>
    match d.frec with
    | some r => if d.quiet then (s, true) else s.writeFault r
    | none => (s, true)
  | .event =>
    let s := s.errorEvent d
    (if d.cls = 0 then s.resume d else if d.cls = 2 then s.tornEvent d else s, true)
  | .abandon => (match d.share, d.job with | none, some j => s.dropWork j | _, _ => s, true)
  | .discard => (s.discardFor d, true)
  | .finish => (s.endFor d, true)
  | .lose => (s.loseContext d.ctx, true)
  | .causing => (match d.job with | some j => s.failJob j 2 d.status d.detail | none => s, true)
  | .others => ((s.queuesFor d.ctx).foldl State.loseQueue s, true)
  | .steps => (s.discardSteps d.ctx, true)
  | .grid => (s.setCtx d.ctx fun x => { x with gridStaged := none }, true)

/-- The actions that an error calls for (R439, R422); of a context that is not OPEN, only its fault record is written (R443). -/
def State.actionsOf (s : State) (d : Detected) : List Action :=
  if d.cls = 0 then [.record, .event]
  else if d.ctx ≠ 0 && (s.ctx d.ctx).st ≠ .opened then [.record]
  else if d.cls = 1 then [.record, .abandon, .discard, .event, .finish]
  else [.lose, .record, .event, .causing, .others, .steps, .grid]

/-! ## Which error is handled (R441, R442) -/

/-- Whether the next action of a handling is a fault record that R382 holds: the handling waits, and others go on meanwhile (DEDUCED,
assumption 23). -/
def State.blocked (s : State) (h : Handling) : Bool := h.left.head? == some .record && s.heldError h.err

/-- The error that is handled next among those that wait: the highest class first, and within a class the earliest detected. -/
def State.nextError (s : State) : Option Detected :=
  let ready := s.err.pending.filter fun d => !s.blocked ⟨d, s.actionsOf d⟩
  let top := ready.foldl (fun m d => max m d.cls) 0
  ready.find? (·.cls == top)

/-- Whether a handling is complete: its actions are done, and the discards that it called for have been acknowledged (R46, R439). -/
def State.acknowledged (s : State) (h : Handling) : Bool :=
  h.left.isEmpty && (List.range 8).all fun i =>
    (s.slot i).phase ≠ .discard ||
    !(if h.err.cls = 2 then (s.slot i).ctx == h.err.ctx
      else h.err.cls == 1 && h.err.share.isNone && (((s.slot i).step.map (·.job)) == h.err.job))

/-- Complete handlings are over. -/
def State.overHandled (s : State) : State := { s with err := { s.err with handling := s.err.handling.filter (!s.acknowledged ·) } }

/-- The handling in progress: the latest begun that R382 does not hold. -/
def State.current (s : State) : Option Handling := s.err.handling.find? (!s.blocked ·)

/-- Put a handling first, in place of what stood for it. -/
def Errors.holding (e : Errors) (old new : Handling) : Errors :=
  { e with handling := new :: ((removeFirst (· == old) e.handling).map (·.2)).getD e.handling }

/-- Do the next action of a handling. -/
def State.proceed (s : State) (h : Handling) : State :=
  match h.left with
  | [] => s
  | a :: rest =>
    let next : Handling := { h with left := rest }
    match ({ s with err := s.err.holding h next }).act h.err a with
    | (s, true) => s
    | (s, false) => { s with err := s.err.holding next h }

/-- Begin the handling of an error: a handling in progress is suspended (R441). -/
def State.beginHandling (s : State) (d : Detected) : State :=
  let h : Handling := ⟨d, s.actionsOf d⟩
  let rest := ((removeFirst (· == d) s.err.pending).map (·.2)).getD s.err.pending
  ({ s with err := { s.err with pending := rest, handling := h :: s.err.handling } }).proceed h

/-- One action of the command processor on the errors that have been detected: an error of a higher class than the one in handling
pre-empts it, one of the same class or a lower waits for its completion (R441). -/
def State.handleNext (s : State) : State :=
  match s.nextError, s.current with
  | some d, none => s.beginHandling d
  | some d, some h => if h.err.cls < d.cls then s.beginHandling d else s.proceed h
  | none, some h => s.proceed h
  | none, none => s

/-- ERROR_HANDLING (R439, R441): one action. -/
def execErrorHandling (s : State) : Host.Outcome State Fault Refusal :=
  if !s.alive then .next s
  else
    let s := s.overHandled.handleNext.overHandled
    .next (if s.serving then s.choose.settle else s)

end Sys2Proof.Machine
end

