-- ==== Sys2Proof/Machine/Sideband.lean ====
section
/-! DEFINITION. The I3C sideband target and the test access port (22 R516, R517). -/

namespace Sys2Proof.Machine

/-! ## I3C target (R517) -/

/-- The target's static address (R512). -/
def State.i3cStatic (s : State) : Nat := 0x30 + s.pkg.straps.toNat % 8

/-- Whether the target answers: from the release of PERST_N; it is absent in reset (R499). -/
def State.i3cAnswers (s : State) : Bool := s.pkg.powered && s.pkg.perstN

/-- The 16 status bytes: in FAILED every field keeps its last value but for STATE and FATAL_CAUSE. -/
def State.i3cBytes (s : State) : List Byte :=
  match s.err.failed, s.i3c.frozen with
  | some cause, some bs => leBytes 1 DevState.failed.code ++ leBytes 1 cause ++ bs.drop 2
  | _, _ => s.liveBytes

/-- Whether a transfer names the target: by its static address, or by the dynamic one that it has been given (the latter PRESUMED: MIPI
I3C Basic, assumption 11). -/
def State.i3cTarget (s : State) (addr : BitVec 7) : Bool := s.i3cAnswers && (addr.toNat = s.i3cStatic || s.i3c.dyn = some addr)

/-- I3C_PRIVATE_WRITE: one byte sets the register offset, which wraps at 16. -/
def execI3cPrivateWrite (w : I3cWrite) (s : State) : Host.Outcome State Fault Refusal :=
  .next (if s.i3cTarget w.target then { s with i3c := { s.i3c with offset := w.byte.toNat % 16 } } else s)

/-- I3C_PRIVATE_READ: bytes from the offset onward, wrapping at 16. The offset stays (DEDUCED). -/
def execI3cPrivateRead (r : I3cRead) (s : State) : Host.Outcome State Fault Refusal :=
  let bs := s.i3cBytes
  .next (if s.i3cTarget r.target then s.emit (.i3cBytes ((List.range r.count).map fun n => bs.getD ((s.i3c.offset + n) % 16) 0)) else s)

/-- A dynamic address is assigned to a target that has none (PRESUMED: MIPI I3C Basic). -/
def State.assignAddr (s : State) (addr : BitVec 7) : State :=
  if s.i3cAnswers && s.i3c.dyn.isNone then { s with i3c := { s.i3c with dyn := some addr } } else s

/-- SETDASA: it names the target by its static address. -/
def execSetdasa (a : I3cAssign) (s : State) : Host.Outcome State Fault Refusal :=
  .next (if a.static.toNat = s.i3cStatic then s.assignAddr a.dyn else s)

/-- ENTDAA. -/
def execEntdaa (addr : BitVec 7) (s : State) : Host.Outcome State Fault Refusal := .next (s.assignAddr addr)

/-- RSTDAA: the dynamic address is given up. -/
def execRstdaa (s : State) : Host.Outcome State Fault Refusal :=
  .next (if s.i3cAnswers then { s with i3c := { s.i3c with dyn := none } } else s)

/-! ## Test access port (R516) -/

/-- Cells that drive a land: CXL_TX, FAULT_N, READY and its enable, THERMTRIP_N. -/
def tapDriving : BitVec 43 := 0x780000FFFF#43

/-- What the TAP makes of the lands: `none` while the package drives them itself, `some none` at high impedance, otherwise the
levels of the driving cells. While PERST_N is high no instruction drives a land. -/
def State.tapLands (s : State) : Option (Option (BitVec 43)) :=
  if !s.pkg.powered || s.pkg.perstN || s.tap.inReset then none
  else if s.tap.ir = 0x06 then some none
  else if s.tap.ir = 0x00 || s.tap.ir = 0x04 || s.tap.ir = 0x05 || s.tap.ir = 0x07 then some (some (s.tap.update &&& tapDriving))
  else none

/-- Load an instruction: the TAP has left Test-Logic-Reset. -/
def State.tapLoad (s : State) (code : BitVec 8) : State := { s with tap := { s.tap with ir := code, inReset := false } }

/-- What comes out of TDO, which is released while PERST_N is low (R499). -/
def State.shiftOut (s : State) (bits width : Nat) : State := if s.pkg.perstN then s.emit (.tdo bits width) else s

/-- What the cells capture from the lands: PERST_N as it stands, and FAULT_N, READY and THERMTRIP_N where the package drives them (R499);
every other level is the board's. -/
def State.tapCapture (s : State) (lands : BitVec 43) : BitVec 43 :=
  let cell (v : BitVec 43) (i : Nat) (high : Bool) : BitVec 43 := if high then v ||| BitVec.twoPow 43 i else v &&& ~~~ BitVec.twoPow 43 i
  let own (v : BitVec 43) (i : Nat) (d : Drive) : BitVec 43 :=
    match d with
    | .released => v
    | .low => cell v i false
    | .high => cell v i true
  let v := cell lands 32 s.pkg.perstN
  if s.tapLands.isSome then v else own (own (own v 35 s.pkg.faultN) 36 s.pkg.readyPin) 38 s.pkg.thermtripN

/-- A data register scan of the bypass register, which captures 0 (PRESUMED: IEEE 1149.1): TDI appears one clock later. -/
def State.tapBypass (s : State) (code : BitVec 8) (width din : Nat) : State :=
  (s.tapLoad code).shiftOut (2 * din % 2 ^ width) width

/-- A boundary scan: the cells that were captured come out, the ones shifted in go to the update register. -/
def State.tapBoundary (s : State) (code : BitVec 8) (din lands : BitVec 43) : State :=
  let s := s.tapLoad code
  let s := s.shiftOut (s.tapCapture lands).toNat 43
  { s with tap := { s.tap with update := din } }

/-- Drive the lands from the update register. -/
def State.tapDrive (s : State) : State :=
  match s.tapLands with
  | some (some v) => s.emit (.boundary v)
  | _ => s

/-- An instruction that drives the lands from a boundary scan; BYPASS while PERST_N is high. -/
def State.tapExtest (s : State) (code : BitVec 8) (din lands : BitVec 43) : State :=
  if !s.pkg.powered then s
  else if s.pkg.perstN then s.tapBypass code 43 din.toNat
  else (s.tapBoundary code din lands).tapDrive

/-- TAP_RESET: TRST_N low; the instruction is IDCODE (PRESUMED: IEEE 1149.1, assumption 11). -/
def execTapReset (s : State) : Host.Outcome State Fault Refusal :=
  .next (if s.pkg.powered then { s with tap := { s.tap with ir := 0x02, inReset := true } } else s)

/-- EXTEST. -/
def execExtest (din lands : BitVec 43) (s : State) : Host.Outcome State Fault Refusal := .next (s.tapExtest 0x00 din lands)

/-- SAMPLE/PRELOAD. -/
def execSamplePreload (din lands : BitVec 43) (s : State) : Host.Outcome State Fault Refusal :=
  .next (if s.pkg.powered then s.tapBoundary 0x01 din lands else s)

/-- IDCODE. -/
def execIdcode (s : State) : Host.Outcome State Fault Refusal :=
  .next (if s.pkg.powered then (s.tapLoad 0x02).shiftOut 0x10016AC3 32 else s)

/-- EXTEST_PULSE: the pulse itself is timing. -/
def execExtestPulse (din lands : BitVec 43) (s : State) : Host.Outcome State Fault Refusal := .next (s.tapExtest 0x04 din lands)

/-- EXTEST_TRAIN. -/
def execExtestTrain (din lands : BitVec 43) (s : State) : Host.Outcome State Fault Refusal := .next (s.tapExtest 0x05 din lands)

/-- HIGHZ: the lands go to high impedance. -/
def execHighz (din : Bool) (s : State) : Host.Outcome State Fault Refusal :=
  .next (if s.pkg.powered then s.tapBypass 0x06 1 (b2n din) else s)

/-- CLAMP: the lands follow the update register. -/
def execClamp (din : Bool) (s : State) : Host.Outcome State Fault Refusal :=
  .next (if s.pkg.powered then (s.tapBypass 0x07 1 (b2n din)).tapDrive else s)

/-- Codes of the other instructions. -/
def tapCodes : List (BitVec 8) := [0x00, 0x01, 0x02, 0x04, 0x05, 0x06, 0x07]

/-- BYPASS: 0xFF and every code that names no other instruction. -/
def execBypass (code : Byte) (din : Bool) (s : State) : Host.Outcome State Fault Refusal :=
  .next (if s.pkg.powered && !tapCodes.contains code then s.tapBypass code 1 (b2n din) else s)

end Sys2Proof.Machine
end

