-- ==== Sys2Proof/Machine/Dispatch.lean ====
section
/-! DEFINITION. One arm for each command: its meaning (rows of spec/opcode_table.json). -/

namespace Sys2Proof.Machine

def exec (i : Instr) (s : State) : Host.Outcome State Fault Refusal :=
  match i with
  | .nop q => Sys2Proof.Machine.execNop q s
  | .openContext q => Sys2Proof.Machine.execOpenContext q s
  | .closeContext q => Sys2Proof.Machine.execCloseContext q s
  | .loadModel q => Sys2Proof.Machine.execLoadModel q s
  | .unloadModel q => Sys2Proof.Machine.execUnloadModel q s
  | .swapDenseSet q => Sys2Proof.Machine.execSwapDenseSet q s
  | .defineTable q => Sys2Proof.Machine.execDefineTable q s
  | .mapShards q => Sys2Proof.Machine.execMapShards q s
  | .fillTable q => Sys2Proof.Machine.execFillTable q s
  | .beginShadow q => Sys2Proof.Machine.execBeginShadow q s
  | .swapVersion q => Sys2Proof.Machine.execSwapVersion q s
  | .releaseVersion q => Sys2Proof.Machine.execReleaseVersion q s
  | .setReflections q => Sys2Proof.Machine.execSetReflections q s
  | .runStep q => Sys2Proof.Machine.execRunStep q s
  | .recordSequence q => Sys2Proof.Machine.execRecordSequence q s
  | .runSequence q => Sys2Proof.Machine.execRunSequence q s
  | .updateRows q => Sys2Proof.Machine.execUpdateRows q s
  | .closeEpochDeclare q => Sys2Proof.Machine.execCloseEpochDeclare q s
  | .closeEpochMark q => Sys2Proof.Machine.execCloseEpochMark q s
  | .closeEpochForce q => Sys2Proof.Machine.execCloseEpochForce q s
  | .closeEpochAwait q => Sys2Proof.Machine.execCloseEpochAwait q s
  | .fenceSignal q => Sys2Proof.Machine.execFenceSignal q s
  | .fenceWait q => Sys2Proof.Machine.execFenceWait q s
  | .dmaCopy q => Sys2Proof.Machine.execDmaCopy q s
  | .lendMemory q => Sys2Proof.Machine.execLendMemory q s
  | .borrowMemory q => Sys2Proof.Machine.execBorrowMemory q s
  | .returnMemory q => Sys2Proof.Machine.execReturnMemory q s
  | .returnMemoryRevoke q => Sys2Proof.Machine.execReturnMemoryRevoke q s
  | .setBrim q => Sys2Proof.Machine.execSetBrim q s
  | .setRegionLimits q => Sys2Proof.Machine.execSetRegionLimits q s
  | .setPortConfig q => Sys2Proof.Machine.execSetPortConfig q s
  | .setDim q => Sys2Proof.Machine.execSetDim q s
  | .setGrid q => Sys2Proof.Machine.execSetGrid q s
  | .readMonitors run => Sys2Proof.Machine.execReadMonitors run s
  | .readRecorder q => Sys2Proof.Machine.execReadRecorder q s
  | .clearRecorder q w => Sys2Proof.Machine.execClearRecorder q w s
  | .attest q w => Sys2Proof.Machine.execAttest q w s
  | .getCertificate q => Sys2Proof.Machine.execGetCertificate q s
  | .retirePages q => Sys2Proof.Machine.execRetirePages q s
  | .runTrafficTest q r => Sys2Proof.Machine.execRunTrafficTest q r s
  | .linkTest q => Sys2Proof.Machine.execLinkTest q s
  | .abortQueue q => Sys2Proof.Machine.execAbortQueue q s
  | .qdbTail q value => Sys2Proof.Machine.execQdbTail q value s
  | .entryFetch q ecc => Sys2Proof.Machine.execEntryFetch q ecc s
  | .staleReread q now => Sys2Proof.Machine.execStaleReread q now s
  | .idleCommit q => Sys2Proof.Machine.execIdleCommit q s
  | .fqBaseWrite value => Sys2Proof.Machine.execFqBaseWrite value s
  | .fqHeadWrite value => Sys2Proof.Machine.execFqHeadWrite value s
  | .adminRootWrite value => Sys2Proof.Machine.execAdminRootWrite value s
  | .registerWrite bar offset size value => Sys2Proof.Machine.execRegisterWrite bar offset size value s
  | .bootChunk => Sys2Proof.Machine.execBootChunk s
  | .bootFinish => Sys2Proof.Machine.execBootFinish s
  | .bootDiscard => Sys2Proof.Machine.execBootDiscard s
  | .firmwareVerified now linked => Sys2Proof.Machine.execFirmwareVerified now linked s
  | .seam now => Sys2Proof.Machine.execSeam now s
  | .idleStep now => Sys2Proof.Machine.execIdleStep now s
  | .prefetchDone slot => Sys2Proof.Machine.execPrefetchDone slot s
  | .roundRelease slot => Sys2Proof.Machine.execRoundRelease slot s
  | .lookupDone slot => Sys2Proof.Machine.execLookupDone slot s
  | .denseDone slot => Sys2Proof.Machine.execDenseDone slot s
  | .clusterRelease c => Sys2Proof.Machine.execClusterRelease c s
  | .statusRecordWrite q => Sys2Proof.Machine.execStatusRecordWrite q s
  | .qcmpSeqAdvance q => Sys2Proof.Machine.execQcmpSeqAdvance q s
  | .discardDone slot => Sys2Proof.Machine.execDiscardDone slot s
  | .lookupBudgetExpiry now slot => Sys2Proof.Machine.execLookupBudgetExpiry now slot s
  | .deadlinePass now slot => Sys2Proof.Machine.execDeadlinePass now slot s
  | .hedgeThreshold now slot entry => Sys2Proof.Machine.execHedgeThreshold now slot entry s
  | .lookupRequest f m ecc => Sys2Proof.Machine.execLookupRequest f m ecc s
  | .lookupReply f m => Sys2Proof.Machine.execLookupReply f m s
  | .pooledReply f m => Sys2Proof.Machine.execPooledReply f m s
  | .updateRecord f rs => Sys2Proof.Machine.execUpdateRecord f rs s
  | .epochClose f m => Sys2Proof.Machine.execEpochClose f m s
  | .reflectionPush f p => Sys2Proof.Machine.execReflectionPush f p s
  | .pushRelease table row => Sys2Proof.Machine.execPushRelease table row s
  | .lentRead f lease page tag => Sys2Proof.Machine.execLentRead f lease page tag s
  | .lentWrite f lease page tag sectors data => Sys2Proof.Machine.execLentWrite f lease page tag sectors data s
  | .lentResponse f lease result tag data => Sys2Proof.Machine.execLentResponse f lease result tag data s
  | .lentClaim f lease tag => Sys2Proof.Machine.execLentClaim f lease tag s
  | .lentReturn f lease tag => Sys2Proof.Machine.execLentReturn f lease tag s
  | .glint f g => Sys2Proof.Machine.execGlint f g s
  | .linkTestFrame f payloadOk => Sys2Proof.Machine.execLinkTestFrame f payloadOk s
  | .ack f => Sys2Proof.Machine.execAck f s
  | .retransmitTimer now dev update seq => Sys2Proof.Machine.execRetransmitTimer now dev update seq s
  | .ackTimer now dev update => Sys2Proof.Machine.execAckTimer now dev update s
  | .windowProbe now dev update => Sys2Proof.Machine.execWindowProbe now dev update s
  | .glintInterval now => Sys2Proof.Machine.execGlintInterval now s
  | .livenessCheck now => Sys2Proof.Machine.execLivenessCheck now s
  | .epochReady epoch => Sys2Proof.Machine.execEpochReady epoch s
  | .epochWriteBack epoch => Sys2Proof.Machine.execEpochWriteBack epoch s
  | .catchUpDone table => Sys2Proof.Machine.execCatchUpDone table s
  | .laserPowerReading now p centiDbm => Sys2Proof.Machine.execLaserPowerReading now p centiDbm s
  | .portTrainingDone now p ok => Sys2Proof.Machine.execPortTrainingDone now p ok s
  | .laneFault now p lanes => Sys2Proof.Machine.execLaneFault now p lanes s
  | .uncorrectableCodeword now p => Sys2Proof.Machine.execUncorrectableCodeword now p s
  | .degradedTimer now p => Sys2Proof.Machine.execDegradedTimer now p s
  | .retrainTimer now p => Sys2Proof.Machine.execRetrainTimer now p s
  | .oeTempReading now e reading => Sys2Proof.Machine.execOeTempReading now e reading s
  | .hbmTempReading now r reading => Sys2Proof.Machine.execHbmTempReading now r reading s
  | .hostMemRead hpa want ecc => Sys2Proof.Machine.execHostMemRead hpa want ecc s
  | .hostMemWrite hpa data poison => Sys2Proof.Machine.execHostMemWrite hpa data poison s
  | .bisnpResponse line modified => Sys2Proof.Machine.execBisnpResponse line modified s
  | .hostSnoop hpa => Sys2Proof.Machine.execHostSnoop hpa s
  | .p2pRequest isWrite => Sys2Proof.Machine.execP2pRequest isWrite s
  | .configRequest reg write => Sys2Proof.Machine.execConfigRequest reg write s
  | .linkRecovery now width rate => Sys2Proof.Machine.execLinkRecovery now width rate s
  | .linkLost now => Sys2Proof.Machine.execLinkLost now s
  | .atsCompletion id a => Sys2Proof.Machine.execAtsCompletion id a s
  | .pageResponse id a => Sys2Proof.Machine.execPageResponse id a s
  | .priTimeout now id => Sys2Proof.Machine.execPriTimeout now id s
  | .invalidateRequest now pasid iova len => Sys2Proof.Machine.execInvalidateRequest now pasid iova len s
  | .invalidateDrained now => Sys2Proof.Machine.execInvalidateDrained now s
  | .invalidateTimeout now => Sys2Proof.Machine.execInvalidateTimeout now s
  | .stallThreshold now wait => Sys2Proof.Machine.execStallThreshold now wait s
  | .tierStallLimit now wait => Sys2Proof.Machine.execTierStallLimit now wait s
  | .borrowTimeout now q => Sys2Proof.Machine.execBorrowTimeout now q s
  | .fenceWaitExpiry now q => Sys2Proof.Machine.execFenceWaitExpiry now q s
  | .clusterBarrier c => Sys2Proof.Machine.execClusterBarrier c s
  | .clusterHung now c => Sys2Proof.Machine.execClusterHung now c s
  | .recoveryCheckDone c result => Sys2Proof.Machine.execRecoveryCheckDone c result s
  | .errorHandling => Sys2Proof.Machine.execErrorHandling s
  | .fatalSequence now => Sys2Proof.Machine.execFatalSequence now s
  | .cpLivenessTimeout now => Sys2Proof.Machine.execCpLivenessTimeout now s
  | .securityEngineFailure => Sys2Proof.Machine.execSecurityEngineFailure s
  | .bridgeUncorrectable => Sys2Proof.Machine.execBridgeUncorrectable s
  | .regionSupply now r vmon0 vmon1 => Sys2Proof.Machine.execRegionSupply now r vmon0 vmon1 s
  | .controlLoop now r paceMre paceGe current limit => Sys2Proof.Machine.execControlLoop now r paceMre paceGe current limit s
  | .tempSensorReading now r sensor reading => Sys2Proof.Machine.execTempSensorReading now r sensor reading s
  | .paceSample now r => Sys2Proof.Machine.execPaceSample now r s
  | .regionIdle now r => Sys2Proof.Machine.execRegionIdle now r s
  | .regionWake now r => Sys2Proof.Machine.execRegionWake now r s
  | .hoursTick now => Sys2Proof.Machine.execHoursTick now s
  | .perstAssert => Sys2Proof.Machine.execPerstAssert s
  | .perstRelease cycle straps => Sys2Proof.Machine.execPerstRelease cycle straps s
  | .powerLoss => Sys2Proof.Machine.execPowerLoss s
  | .linkTrained now width rate => Sys2Proof.Machine.execLinkTrained now width rate s
  | .stackTrainingDone now failed => Sys2Proof.Machine.execStackTrainingDone now failed s
  | .selfCheckDone now badPages pcOverLimit => Sys2Proof.Machine.execSelfCheckDone now badPages pcOverLimit s
  | .matmul c => Sys2Proof.Machine.execMatmul c s
  | .readAcc c => Sys2Proof.Machine.execReadAcc c s
  | .add u => Sys2Proof.Machine.execAdd u s
  | .sub u => Sys2Proof.Machine.execSub u s
  | .mul u => Sys2Proof.Machine.execMul u s
  | .fma u => Sys2Proof.Machine.execFma u s
  | .max u => Sys2Proof.Machine.execMax u s
  | .min u => Sys2Proof.Machine.execMin u s
  | .relu u => Sys2Proof.Machine.execRelu u s
  | .exp u => Sys2Proof.Machine.execExp u s
  | .sigmoid u => Sys2Proof.Machine.execSigmoid u s
  | .tanh u => Sys2Proof.Machine.execTanh u s
  | .recip u => Sys2Proof.Machine.execRecip u s
  | .rsqrt u => Sys2Proof.Machine.execRsqrt u s
  | .bcastAdd u => Sys2Proof.Machine.execBcastAdd u s
  | .bcastMul u => Sys2Proof.Machine.execBcastMul u s
  | .scale u => Sys2Proof.Machine.execScale u s
  | .convert u => Sys2Proof.Machine.execConvert u s
  | .quantise u => Sys2Proof.Machine.execQuantise u s
  | .dequant u => Sys2Proof.Machine.execDequant u s
  | .rotate u => Sys2Proof.Machine.execRotate u s
  | .cmp u => Sys2Proof.Machine.execCmp u s
  | .select u => Sys2Proof.Machine.execSelect u s
  | .mload u => Sys2Proof.Machine.execMload u s
  | .mstore u => Sys2Proof.Machine.execMstore u s
  | .move u => Sys2Proof.Machine.execMove u s
  | .take u => Sys2Proof.Machine.execTake u s
  | .reduce u => Sys2Proof.Machine.execReduce u s
  | .tileReduce u => Sys2Proof.Machine.execTileReduce u s
  | .ruReduce c => Sys2Proof.Machine.execRuReduce c s
  | .dmaSet c => Sys2Proof.Machine.execDmaSet c s
  | .dmaRead c ecc => Sys2Proof.Machine.execDmaRead c ecc s
  | .dmaWrite c => Sys2Proof.Machine.execDmaWrite c s
  | .dmaGather c => Sys2Proof.Machine.execDmaGather c s
  | .i3cPrivateWrite w => Sys2Proof.Machine.execI3cPrivateWrite w s
  | .i3cPrivateRead r => Sys2Proof.Machine.execI3cPrivateRead r s
  | .setdasa a => Sys2Proof.Machine.execSetdasa a s
  | .entdaa addr => Sys2Proof.Machine.execEntdaa addr s
  | .rstdaa => Sys2Proof.Machine.execRstdaa s
  | .tapReset => Sys2Proof.Machine.execTapReset s
  | .extest din lands => Sys2Proof.Machine.execExtest din lands s
  | .samplePreload din lands => Sys2Proof.Machine.execSamplePreload din lands s
  | .idcode => Sys2Proof.Machine.execIdcode s
  | .extestPulse din lands => Sys2Proof.Machine.execExtestPulse din lands s
  | .extestTrain din lands => Sys2Proof.Machine.execExtestTrain din lands s
  | .highz din => Sys2Proof.Machine.execHighz din s
  | .clamp din => Sys2Proof.Machine.execClamp din s
  | .bypass code din => Sys2Proof.Machine.execBypass code din s
  | .foreignFrame p k seen => Sys2Proof.Machine.execForeignFrame p k seen s
  | .linkTestEnd now results => Sys2Proof.Machine.execLinkTestEnd now results s
  | .mrOwnerMapComputed => Sys2Proof.Machine.execMrOwnerMapComputed s
  | .powerUp => Sys2Proof.Machine.execPowerUp s
  | .vBaseFound r vBase proc0 proc1 => Sys2Proof.Machine.execVBaseFound r vBase proc0 proc1 s
  | .hostReadCompletion now id back => Sys2Proof.Machine.execHostReadCompletion now id back s
  | .globalObservation id => Sys2Proof.Machine.execGlobalObservation id s

end Sys2Proof.Machine
end

