-- ==== Sys2Proof/Safety.lean ====
section
/-! DEFINITION. The terms that the statements use: when a state is well kept, when a job row takes a job, and when the
data of a job have come or have been stored. -/

namespace Sys2Proof.Machine

/-! ## Well-kept states -/

/-- Device memory keeps its canonical form: addresses rising, no entry equal to what an unlisted address reads as. -/
def State.memOk (s : State) : Prop := memWf s.hbm.mem = true

/-- The staging cache's address lines are well formed. -/
def State.poolOk (s : State) : Prop := poolWf s.tiers.pool = true

/-- A byte of device memory at the coherence point of its region: the staging cache's copy where one is present (R218). -/
def State.byteAt (s : State) (a : Nat) : Byte :=
  match s.tiers.sector (a / 64) with
  | some d => d.getD (a % 64) 0
  | none => memGet s.hbm.mem a

/-! ## Jobs -/

/-- A job row starts the queue's next job. -/
abbrev State.starts (s : State) (q : QueueId) (mine : Job → Bool) (j : Job) : Prop :=
  s.serving = true ∧ s.startJob q.val mine = some j

/-- The state in which a job has just started. -/
abbrev State.begun (s : State) (q : QueueId) (j : Job) : State := s.markStart ⟨q.val, j.seq⟩

/-- A job row takes job `j` on from state `s0`: the queue's next job, just started, or its own job that waits. -/
abbrev State.takes (s : State) (q : QueueId) (mine : Job → Bool) (j : Job) (s0 : State) : Prop :=
  s.serving = true ∧
    ((s.startJob q.val mine = some j ∧ s0 = s.begun q j) ∨
     (s.startJob q.val mine = none ∧ s.waitingJob q.val mine = some j ∧ s0 = s))

/-- The reference of a job that a row of queue `q` takes. -/
abbrev Job.refOn (j : Job) (q : QueueId) : JobRef := ⟨q.val, j.seq⟩

/-- The state after an access of an agent, its waits on T3 ended, and nothing kept of what it had done before it waited. -/
abbrev State.waited (s : State) (ag : Agent) : State :=
  (s.endPartials (· == ag.owner)).closeWaits fun w => w.tier == 3 && w.owner == ag.owner

/-- A structure that the command processor reads for a job has come: its bytes, and the state after the read; or it had come (R387). -/
abbrev State.reads (s : State) (r : JobRef) (dva len : Nat) (s' : State) (bs : List Byte) : Prop :=
  (s.recall r (0, dva, len) = none ∧ ∃ t, (readDva (Agent.struct (s.ctxOf r.q) r) dva len).go s = (.ok bs, t) ∧
    s' = t.remember r (0, dva, len) bs) ∨
  (s.recall r (0, dva, len) = some bs ∧ s' = s)

/-- The data that an address word names have come (R335): nothing is asked for; or device memory is read, or has been (R387); or the bulk
transfer from the host has ended. -/
abbrev State.given (s : State) (r : JobRef) (w : Word) (len : Nat) (hint : Option Hint) (s' : State) (bs : List Byte) : Prop :=
  (len = 0 ∧ s' = s ∧ bs = []) ∨
  (len ≠ 0 ∧ w.getLsbD 63 = false ∧ s.recall r (1, w.field 0 48, len) = none ∧
    ∃ t, (readDva (Agent.dma (s.ctxOf r.q) r) (w.field 0 48) len hint).go s = (.ok bs, t) ∧
      s' = (t.waited (Agent.dma (s.ctxOf r.q) r)).remember r (1, w.field 0 48, len) bs) ∨
  (len ≠ 0 ∧ w.getLsbD 63 = false ∧ s.recall r (1, w.field 0 48, len) = some bs ∧ s' = s) ∨
  (len ≠ 0 ∧ w.getLsbD 63 = true ∧ s' = s ∧ ∃ b, (s.job? r).bind (·.bulk) = some b ∧ b.finished = true ∧ bs = b.data)

/-- A job's data have been stored at a DVA of its context. -/
abbrev State.stores (s : State) (r : JobRef) (dva : Nat) (bs : List Byte) (hint : Option Hint) (s' : State) : Prop :=
  ∃ ls t, (writeDva (Agent.dma (s.ctxOf r.q) r) dva bs hint).go s = (.ok ls, t) ∧ s' = t.waited (Agent.dma (s.ctxOf r.q) r)

/-- Every job of queue `q` other than the one numbered `seq`, every other queue, and everything outside the queues is the
same in two states. -/
def State.sameButJob (s t : State) (r : JobRef) : Prop :=
  t = { s with queues := t.queues } ∧
  (∀ q, ix 64 q ≠ ix 64 r.q → t.queue q = s.queue q) ∧
  t.queue r.q = { s.queue r.q with jobs := (t.queue r.q).jobs } ∧
  (t.queue r.q).jobs.length = (s.queue r.q).jobs.length ∧
  ∀ (k : Nat) (x : Job), (s.queue r.q).jobs[k]? = some x → x.seq ≠ r.seq → (t.queue r.q).jobs[k]? = some x

/-! ## Vector operations -/

/-- A row of the table of element-wise vector operations (R205): the command, its OP code, the formats and parameters it takes,
whether it reads a scalar record, the range of P, the streams it reads, and the value of an element. -/
structure ElemRow where
  command : VeId → Instr
  op : Nat
  ok : VeOp → Bool
  scalar : VeOp → Bool
  pOk : VeCtx → Bool
  form : VeForm
  value : VeCtx → EngMem → Nat → Nat

/-- Rows of one source and of two, in fp32 (R204, R205). -/
abbrev unaryRow (c : VeId → Instr) (op : Nat) (f : F32 → F32) : ElemRow :=
  ⟨c, op, VeOp.ff, noScalar, anyP, formA, fun v m e => storeF v.x.dfmt (f (v.fa m e))⟩
abbrev binaryRow (c : VeId → Instr) (op : Nat) (f : F32 → F32 → F32) : ElemRow :=
  ⟨c, op, VeOp.ff, noScalar, anyP, formAB, fun v m e => storeF v.x.dfmt (f (v.fa m e) (v.fb m e))⟩
abbrev castRow (c : VeId → Instr) (op : Nat) (f : F32 → F32 → F32) : ElemRow :=
  ⟨c, op, VeOp.ff, hasScalar, fun v => 1 ≤ v.sc.p && v.sc.p ≤ 8192, formCast,
   fun v m e => storeF v.x.dfmt (f (v.fa m e) (v.fb m (e % v.sc.p)))⟩

/-- The table of R205, without the operations on masks, blocks and whole streams. -/
def elemRows : List ElemRow :=
  [binaryRow .add 0x01 f32Add, binaryRow .sub 0x02 f32Sub, binaryRow .mul 0x03 f32Mul,
   ⟨.fma, 0x04, VeOp.ff, noScalar, anyP, formABC, fun v m e => storeF v.x.dfmt (f32Fma (v.fa m e) (v.fb m e) (v.fc m e))⟩,
   binaryRow .max 0x05 f32Max, binaryRow .min 0x06 f32Min, unaryRow .relu 0x07 f32Relu, unaryRow .exp 0x08 f32Exp,
   unaryRow .sigmoid 0x09 f32Sigmoid, unaryRow .tanh 0x0A f32Tanh, unaryRow .recip 0x0B f32Recip, unaryRow .rsqrt 0x0C f32Rsqrt] ++
  [castRow .bcastAdd 0x10 f32Add, castRow .bcastMul 0x11 f32Mul,
   ⟨.scale, 0x12, VeOp.ff, hasScalar, anyP, formAS, fun v m e => storeF v.x.dfmt (f32Fma (v.fa m e) v.sc.s0 v.sc.s1)⟩,
   unaryRow .convert 0x18 id,
   ⟨.quantise, 0x19, fun x => isF x.sfmt && isCode x.dfmt, hasScalar, anyP, formAS, fun v m e => quantCode v (v.fa m e)⟩,
   ⟨.dequant, 0x1A, fun x => isCode x.sfmt && isF x.dfmt, hasScalar, anyP, formAS, fun v m e => storeF v.x.dfmt (dequantVal v (v.rawA m e))⟩,
   ⟨.select, 0x21, VeOp.same, noScalar, anyP, formAB,
    fun v m e => if maskBit v.masks (fieldOf v.x.param 0 3) e then v.rawA m e else v.rawB m e⟩,
   ⟨.move, 0x28, VeOp.same, noScalar, anyP, formA, fun v m e => v.rawA m e⟩]

/-- What an instruction of a VE works with, where its checks pass: the scalar record at C where it reads one (R198). -/
abbrev State.veCtx (s : State) (u : Nat) (st : Step) (x : VeOp) (scalar : Bool) : VeCtx :=
  ⟨x, Scalars.at (if scalar then (s.engOf u).get x.c x.c.start 16 else 0), st.grid, (s.ve u).masks⟩

/-- The checks before element 0 pass (R198, R201). -/
abbrev VeCtx.fine (v : VeCtx) (ok scalar : VeOp → Bool) (pOk : VeCtx → Bool) : Prop :=
  v.x.reserved = false ∧ ok v.x = true ∧ (scalar v.x = true → v.x.c.tile = none ∧ v.x.c.start + 16 ≤ Config.t0Bytes) ∧ pOk v = true

end Sys2Proof.Machine
end

