-- ==== Sys2Proof/Certificates/Slice0/Obligations.lean ====
section
/-! DEFINITION. The statements about this model. OBLIGATIONS.json names the rules of spec/ that each rests on. -/

section

open Sys2Proof Sys2Proof.Machine

/-! ## The machine as a whole -/

/-- O1. A step runs the command at the front of the queue. For every state whose queue holds a command at its front, a step is exec
of that command on the state with the queue's rest. (Rests on 01_architecture.md.) -/
def Obligations.StepRunsFront : Prop :=
  ∀ (s : State) (c : Instr) (rest : List Instr), s.pending = c :: rest → step s = exec c { s with pending := rest }

/-- O2. With nothing pending one reference period passes. The model's choice (assumption 2): with an empty queue a step answers a
next state; while the package is powered and out of reset ELAPSED_NS advances by 1 and device memory, queues, slots, registers
and SEAM_COUNT stay, unless a host error of device or system scope goes on (assumption 74); otherwise nothing changes. That
ELAPSED_NS counts periods of 10 ns is R15's. (Rests on R15.) -/
def Obligations.IdleTick : Prop :=
  ∀ s : State, s.pending = [] →
    (s.pkg.powered = true ∧ s.pkg.perstN = true → ∃ t, step s = .next t ∧ t.pkg.elapsed = s.pkg.elapsed + 1 ∧
      (s.pkg.astray = none → t.pkg.seamCount = s.pkg.seamCount ∧ t.hbm.mem = s.hbm.mem ∧ t.queues = s.queues ∧ t.slots = s.slots ∧
        t.regs = s.regs)) ∧
    (¬(s.pkg.powered = true ∧ s.pkg.perstN = true) → step s = .next s)

/-- O3. Every step keeps memory and the staging cache in their canonical form. For every state whose device memory is in canonical
form (addresses strictly rising, nothing listed that an unlisted address reads as) and whose pool's address lines are well
formed (one line to a block, 256 bytes, dirty sectors valid), every next state of a step is so too. The form is the model's own
(assumption 22). (Rests on R218, R219, R220.) -/
def Obligations.MemoryFormKept : Prop :=
  ∀ s t : State, s.memOk → s.poolOk → step s = .next t → t.memOk ∧ t.poolOk

/-- O4. No command changes the fuses or the queue of waiting commands. For every command and state, if exec answers a next state,
that state has the queue and the fuses (the firmware key's hash, serial number, issuer, identity key, certificate signature and
V_BASE coefficients) that it had before. (Rests on R460, R463, R492.) -/
def Obligations.FusesNeverChange : Prop :=
  ∀ (c : Instr) (s t : State), exec c s = .next t → t.pending = s.pending ∧ t.fuses = s.fuses

/-- O5. What reset leaves. At reset SEAM_COUNT and ELAPSED_NS are 0, every slot is FREE and every cluster free, context 0 alone is
OPEN and queue 0 alone is bound, no fence has been raised, nothing is resident, staged, listed or configured, the link is down
and boot waits for an image; and memory and pool have their canonical form, every byte reading as 0 (what a byte never written
reads as is the model's choice, assumption 22). (Rests on R15, R40, R44, R359, R378, R419, R494.) -/
def Obligations.ResetState : Prop :=
  (State.reset.pkg.seamCount = 0 ∧ State.reset.pkg.elapsed = 0 ∧ State.reset.pending = [] ∧
   (∀ i, (State.reset.slot i).phase = .free) ∧ (∀ c, (State.reset.cl c).owner = .free) ∧
   (∀ c, (State.reset.ctx c).st = if ix 64 c = 0 then .opened else .closed) ∧
   (∀ q, (State.reset.queue q).st = if ix 64 q = 0 then .stopped else .unbound) ∧
   (∀ q, (State.reset.queue q).nextSeq = 1) ∧ (∀ f, State.reset.fence f = 0) ∧
   State.reset.model.res = none ∧ State.reset.tabs.tables = [] ∧ State.reset.upd.epochs = [] ∧
   State.reset.cxl.linkUp = false ∧ State.reset.boot.state = .waiting ∧ State.reset.fab.cfgLive = none ∧
   State.reset.seamWaiting = false) ∧
  (State.reset.memOk ∧ State.reset.poolOk ∧ ∀ a, State.reset.byteAt a = 0)

/-- O6. A store changes exactly its bytes, wherever they are held. Writing bytes at a DPA without a hint, if the access ends,
changes exactly those bytes of device memory as the coherence point shows them, whichever of them the staging cache holds, and
leaves contexts, registers and the fabric's state unchanged; queues and slots stay too, but where the access meets an error that
the fault queue takes up. What it stores are the bytes given, but for a unit working for a context whose programming the spec
leaves undefined (assumption 5: then free values). (Rests on R218, R220, R245.) -/
def Obligations.StoreLands : Prop :=
  ∀ (ag : Agent) (dpa : Nat) (bs : List Byte) (s t : State), s.memOk → s.poolOk →
    (writeDpa ag dpa bs none).go s = (.ok (), t) →
    (∀ a, a < dpa ∨ dpa + bs.length ≤ a → t.byteAt a = s.byteAt a) ∧
    (∀ i < bs.length, some (t.byteAt (dpa + i)) = (s.written ag dpa bs)[i]?) ∧
    ((ag.job.isSome && (s.ctx ag.ctx).upset) = false → s.written ag dpa bs = bs) ∧
    t.ctxs = s.ctxs ∧ t.regs = s.regs ∧ t.fab = s.fab ∧
    (ag.kind ≠ 6 ∨ s.fqEnabled = false ∨ s.fqFull = false → t.queues = s.queues ∧ t.slots = s.slots)

/-- O7. Packing fields and reading them back. For every list of values and widths, reading the fields of the packed number gives
each value cut to its width: entries, records and message bodies drop no bit. (Rests on R7, R363, R371.) -/
def Obligations.FieldsRoundTrip : Prop :=
  ∀ fs : List (Nat × Nat), unpackFields (fs.map (·.2)) (packFields fs) = fs.map (fun f => f.1 % 2 ^ f.2)

/-- A submission entry of one slot (R363), as the host writes it: the opcode, the slot's generation tag, the barrier bit, the
context, PCOUNT, the tag, and the parameters; the rest of the slot is 0. -/
def slotImage (opcode gen ctx : Nat) (barrier : Bool) (tag : Nat) (params : List Word) : List Byte :=
  padTo 128 ((packFields [(opcode, 16), (gen, 8), (b2n barrier, 1), (0, 7), (ctx, 16), (params.length, 16)] :: tag ::
    params.map (·.toNat)).flatMap (leBytes 8))

/-- O8. Decoding an encoded submission entry gives the command back. For every opcode, generation tag, context, barrier bit and tag
within their fields and every list of up to 14 parameter words, the job read from the slot's 128 bytes has that opcode, barrier
bit, context, tag, PCOUNT and parameters, and the slot's tag field reads as the generation. (Rests on R361, R362, R363.) -/
def Obligations.EntryRoundTrip : Prop :=
  ∀ (opcode gen ctx : Nat) (barrier : Bool) (tag : Nat) (params : List Word), opcode < 2 ^ 16 → gen < 2 ^ 8 → ctx < 2 ^ 16 →
    tag < 2 ^ 64 → params.length ≤ 14 →
    jobOf (wordsOf 16 (slotImage opcode gen ctx barrier tag params)) =
      { seq := 0, opcode := opcode, barrier := barrier, ctx := ctx, tag := tag, params := params, aux := [params.length] } ∧
    ((wordsOf 16 (slotImage opcode gen ctx barrier tag params)).getD 0 0).field 16 8 = gen

/-! ## Queues and registers (15, 18) -/

/-- O9. FETCH and GEN after one slot (R362). For every queue whose FETCH lies in the ring: FETCH rises by one, or is set to 0 after
the last slot, and then GEN rises by one, or from 255 to 1; GEN stays in 1 to 255; and 128 bytes of zeros never carry the
current tag. (States R362.) -/
def Obligations.RingAdvance : Prop :=
  ∀ x : Queue, x.fetch < x.size →
    (x.fetch + 1 < x.size → x.next.fetch = x.fetch + 1 ∧ x.next.gen = x.gen) ∧
    (x.fetch = x.size - 1 → x.next.fetch = 0 ∧ (x.gen < 255 → x.next.gen = x.gen + 1) ∧ (x.gen = 255 → x.next.gen = 1)) ∧
    (1 ≤ x.gen → x.gen ≤ 255 → 1 ≤ x.next.gen ∧ x.next.gen ≤ 255 ∧
      ∀ bs, (∀ b ∈ bs, b = 0) → ((wordsOf 16 bs).getD 0 0).field 16 8 ≠ x.gen)

/-- O10. ENTRY_FETCH and STALE_REREAD. A slot read with the current tag is accepted; a stale one begins a back-off, and each re-read
that finds it stale lengthens it, the 64th stopping the queue. Accepting a command of one slot advances the ring and appends
exactly one job: rejected with the detail of the first check that fails, or numbered; a RUN_SEQUENCE is held for its expansion.
(Rests on R363, R364, R366, R367, R369.) -/
def Obligations.EntryFetched : Prop :=
  (∀ (s t : State) (q : QueueId) (ecc : EccList) (bs : List Byte), s.canFetch q.val = true → (s.queue q.val).backoff = none →
    (readSlot (s.queue q.val)).go (s.strike ecc) = (.ok bs, t) →
    exec (.entryFetch q ecc) s = .next
      (if ((wordsOf 16 bs).getD 0 0).field 16 8 = (s.queue q.val).gen then t.acceptSlot q.val (wordsOf 16 bs)
       else t.setQueue q.val fun x => { x with backoff := some (1, t.now + backoffTime 1) })) ∧
  (∀ (s s0 t : State) (q : QueueId) (now k due : Nat) (bs : List Byte), s0 = s.advanceTo now →
    (s0.queue q.val).backoff = some (k, due) → s0.canFetch q.val = true → due ≤ s0.now →
    (readSlot (s0.queue q.val)).go s0 = (.ok bs, t) →
    exec (.staleReread q now) s = .next
      (if ((wordsOf 16 bs).getD 0 0).field 16 8 = (s0.queue q.val).gen then t.acceptSlot q.val (wordsOf 16 bs)
       else if 64 ≤ k then t.staleStop q.val
       else t.setQueue q.val fun x => { x with backoff := some (k + 1, t.now + backoffTime (k + 1)) })) ∧
  (∀ (s : State) (q : Nat) (ws : List Word) (x : Queue), x = s.queue q → x.part = none → ws.length = 16 →
     slotsOf ((ws.getD 0 0).field 48 16) = 1 →
     (s.acceptSlot q ws).queue q =
       match checkJob q x.ctx (jobOf ws) with
       | some d => { x.next with backoff := none, part := none, nextSeq := x.nextSeq + 1,
                                 jobs := x.jobs ++ [{ jobOf ws with
                                   seq := x.nextSeq, phase := .done, status := 0x22, detail := d, aux := []
                                   counts := if (jobOf ws).opcode = 0x78 then s.quoteCounts else 0 }] }
       | none =>
         if (jobOf ws).opcode = 0x32 then { x.next with backoff := none, part := none, expand := some { jobOf ws with aux := [] } }
         else { x.next with backoff := none, part := none, nextSeq := x.nextSeq + 1,
                            jobs := x.jobs ++ [{ jobOf ws with seq := x.nextSeq, aux := [] }] })

/-- O11. QDB_TAIL and IDLE_COMMIT. A doorbell to a bound queue of an OPEN context, with TAIL inside the ring and rings in range,
latches TAIL, runs a STOPPED queue (taking over rewritten ring registers, FETCH 0 and GEN 1) and wakes an IDLE one; a TAIL
beyond the ring is the host error of R366, after which the model latches a free TAIL inside the ring for a context whose results
are undefined (the model's choice, assumption 5); a RUNNING queue whose FETCH has reached TAIL and that expands nothing goes
IDLE. Nothing else changes. (Rests on R360, R361, R366, R368.) -/
def Obligations.Doorbell : Prop :=
  (∀ (s : State) (q : QueueId) (v : BitVec 32) (x : Queue), x = s.queue q.val → s.serving = true → x.st ≠ .unbound →
    (s.ctx x.ctx).st = .opened → sizeOk x.ringSize = true → (x.st = .stopped → x.dirty = true → s.ringsOk x = true) →
    v.toNat % 65536 < x.ringSize →
    exec (.qdbTail q v) s = .next (s.setQueue q.val (Queue.ring (v.toNat % 65536)))) ∧
  (∀ (s : State) (q : QueueId) (v : BitVec 32) (x : Queue), x = s.queue q.val → s.serving = true → x.st ≠ .unbound →
    (s.ctx x.ctx).st = .opened → sizeOk x.ringSize = true → (x.st = .stopped → x.dirty = true → s.ringsOk x = true) →
    x.ringSize ≤ v.toNat % 65536 →
    exec (.qdbTail q v) s = .next ((s.upset x.ctx).setQueue q.val
      (Queue.ring (Config.upsetTail q.val (v.toNat % 65536) % x.ringSize)))) ∧
  (∀ (x : Queue) (n : Nat), x.st = .running ∨ x.st = .idle → x.ring n = { x with st := .running, tail := n }) ∧
  (∀ (x : Queue) (n : Nat), x.st = .stopped → x.dirty = false →
    x.ring n = { x with st := .running, cause := 0, backoff := none, tail := n }) ∧
  (∀ (x : Queue) (n : Nat), x.st = .stopped → x.dirty = true →
    x.ring n = { x with st := .running, cause := 0, base := x.qbase, size := x.qsize, cmp := x.qcmpBase, fetch := 0, gen := 1,
                        dirty := false, part := none, backoff := none, tail := n }) ∧
  (∀ (s : State) (q : QueueId), s.serving = true → (s.queue q.val).st = .running → (s.queue q.val).fetch = (s.queue q.val).tail →
    (s.queue q.val).expanding = false →
    exec (.idleCommit q) s = .next (s.setQueue q.val fun x => { x with st := .idle }))

/-- O12. FQ_BASE, FQ_HEAD, ADMIN_ROOT and window writes. FQ_BASE takes its address and enable bit and clears both indices; FQ_HEAD
advances within the entries that are occupied; ADMIN_ROOT takes a root that lies in open memory and drops context 0's
translations, and is ignored otherwise; a QBASE write through the control window is latched only while the queue is STOPPED or
UNBOUND; a write to any window of a size other than 4 or 8 bytes, or not aligned to its size, answers Unsupported Request.
(Rests on R62, R315, R357, R360, R381, R382, R419.) -/
def Obligations.RegisterWrites : Prop :=
  (∀ (s : State) (v : Word), s.serving = true →
    exec (.fqBaseWrite v) s = .next { s with regs := { s.regs with fqBase := v &&& 0x000000FFFFFF0001, fqHead := 0, fqTail := 0 } }) ∧
  (∀ (s : State) (v : BitVec 32), s.serving = true → (s.regs.fqTail + 2 ^ 32 - v.toNat) % 2 ^ 32 ≤ Config.fqEntries →
    exec (.fqHeadWrite v) s = .next { s with
      regs := { s.regs with fqHead := v.toNat, fqDropped := if v.toNat = s.regs.fqTail then [] else s.regs.fqDropped } }) ∧
  (∀ (s : State) (v : Word), s.rootOpen (v.field 12 28 * 4096) = true →
    exec (.adminRootWrite v) s = .next (({ s with regs := { s.regs with adminRoot := v.field 12 28 * 4096 } }).dropTlb 0)) ∧
  (∀ (s : State) (v : Word), s.rootOpen (v.field 12 28 * 4096) = false → exec (.adminRootWrite v) s = .next s) ∧
  (∀ (s : State) (q : QueueId) (v : Word), s.windows = true → s.serving = true →
    exec (.registerWrite .control (0x10018 + 0x1000 * q.val) 8 v) s =
      .next (s.setQueue q.val fun x =>
        if x.st = .stopped || x.st = .unbound then { x with qbase := v.toNat % 2 ^ 40, dirty := true } else x)) ∧
  (∀ (s : State) (bar : Bar) (o : Nat) (size : Nat) (v : Word), s.windows = true → o < Bar.size bar →
    (size ≠ 4 ∧ size ≠ 8) ∨ o % size ≠ 0 → exec (.registerWrite bar o size v) s = .next s.unsupported)

/-- O13. STATUS_RECORD_WRITE and QCMP_SEQ_ADVANCE. The record of the first ended job without one is written, once its result lines
are visible, at QCMP_BASE + 32 × (sequence mod QSIZE) with its status, opcode, detail, tag and counts; QCMP_SEQ passes the next
job once its record is written and visible, and the job leaves the queue. (Rests on R329, R371, R372, R373.) -/
def Obligations.RecordsComplete : Prop :=
  (∀ (s s0 s1 s2 t : State) (q : QueueId) (x y : Job) (ls : Unit), s.serving = true → s0 = s.settle →
    (s0.queue q.val).nextRecord = some x → s0.job? ⟨q.val, x.seq⟩ = some x → x.opcode ≠ 0x32 → x.phase = .done →
    s0.makeVisible ⟨q.val, x.seq⟩ x = (s1, true) →
    ((s1.stepSlot ⟨q.val, x.seq⟩ = none ∧ s2 = s1) ∨ ∃ i, s1.stepSlot ⟨q.val, x.seq⟩ = some i ∧ s2 = s1.deadlineCheck i) →
    y = s2.lastDetail ⟨q.val, x.seq⟩ x →
    (writeDpa (Agent.cp 2 (s2.ctxOf q.val) ⟨q.val, x.seq⟩) ((s2.queue q.val).cmp + 32 * (y.seq % (s2.queue q.val).size))
      (statusRecord y.seq y.status y.opcode y.detail y.tag y.countsWord)).go s2 = (.ok ls, t) →
    exec (.statusRecordWrite q) s = .next (t.recordDone q.val y)) ∧
  (∀ (s : State) (r : JobRef) (x : Job), (s.lastDetail r x).seq = x.seq ∧ (s.lastDetail r x).status = x.status ∧
    (s.lastDetail r x).tag = x.tag ∧ ((s.lastDetail r x).detail = x.detail ∨ ∃ i st, s.stepSlot r = some i ∧ (s.slot i).step = some st ∧
      x.status ≤ 2 ∧ (s.lastDetail r x).detail = st.detail)) ∧
  (∀ (s t : State) (q : QueueId) (x : Job), s.serving = true → s.job? ⟨q.val, (s.queue q.val).cmpSeq + 1⟩ = some x →
    x.phase = .written → s.makeVisible ⟨q.val, (s.queue q.val).cmpSeq + 1⟩ x = (t, true) →
    exec (.qcmpSeqAdvance q) s = .next (t.setQueue q.val fun y =>
      { y with cmpSeq := (s.queue q.val).cmpSeq + 1, jobs := y.jobs.filter (·.seq ≠ (s.queue q.val).cmpSeq + 1) }))

/-! ## Jobs of the command reference (16) -/

/-- O14. NOP, and that a job ends once. NOP completes with OK. Ending a job changes that job alone: a job that has ended keeps what
it has, and any other takes the status, the detail cut to 32 bits and the counts cut to 64. (Rests on R371, R389, R440.) -/
def Obligations.NopCompletes : Prop :=
  (∀ (s : State) (q : QueueId) (j : Job), s.starts q (isOp 0x01) j →
     exec (.nop q) s = .next ((s.begun q j).finishJob (j.refOn q) 0 0 0)) ∧
  (∀ (s : State) (r : JobRef) (status detail counts : Nat) (x : Job), s.job? r = some x →
     s.sameButJob (s.finishJob r status detail counts) r ∧
     (x.ended = true → (s.finishJob r status detail counts).job? r = some x) ∧
     (x.ended = false → (s.finishJob r status detail counts).job? r =
       some { x with phase := .done, status := status, detail := detail % 2 ^ 32, counts := counts % 2 ^ 64, bulk := none, halted := false }))

/-- O15. SET_BRIM, SET_REGION_LIMITS, SET_DIM, SET_PORT_CONFIG and SET_GRID stage their values. Each stages its value, the last
staging winning and a value equal to the live one cancelling the pending change, and completes with the seam that will make it
live; SET_BRIM leaves the live brim unchanged; and the items that wait for a seam each keep the instant at which they began to
wait, a new one beginning now. That an item is the setting, whose value may be staged again while it waits, is the model's
choice (assumption 56). (Rests on R62, R64, R66, R67, R167, R267, R308, R410, R429.) -/
def Obligations.SettingsStaged : Prop :=
  (∀ (s s0 : State) (q : QueueId) (j : Job), s.starts q (isOp 0x60) j → s0 = s.begun q j → fits (j.p 0) [(0, 4)] = true →
    (j.p 0).toNat ≤ 8 →
    exec (.setBrim q) s = .next ((s0.staged fun s => { s with
      sched := { s.sched with brimStaged := if (j.p 0).toNat = s.sched.brimLive then none else some (j.p 0).toNat } }).finishStaged (j.refOn q))) ∧
  (∀ (s s0 : State) (q : QueueId) (j : Job), s.starts q (isOp 0x61) j → s0 = s.begun q j → limitsOk j = true →
    exec (.setRegionLimits q) s = .next ((s0.staged fun s => s.stageLimits j).finishStaged (j.refOn q))) ∧
  (∀ (s s0 : State) (q : QueueId) (j : Job), s.starts q (isOp 0x63) j → s0 = s.begun q j → dimOk j = true →
    exec (.setDim q) s = .next ((s0.staged fun s => { s with
      dim := { s.dim with cfgStaged := if j.p 0 = s.dim.cfgLive then none else some (j.p 0) } }).finishStaged (j.refOn q))) ∧
  (∀ (s s0 t : State) (q : QueueId) (j : Job) (bs : List Byte), s.takes q (isOp 0x62) j s0 → oneDva j = true →
    s0.reads (j.refOn q) (j.p 0).toNat 288 t bs → portCfgOk bs = true →
    exec (.setPortConfig q) s = .next ((t.stageFor (j.refOn q) .ports fun s => s.stagePorts (portCfgAt bs)).finishStaged (j.refOn q))) ∧
  (∀ (s s0 t : State) (q : QueueId) (j : Job) (bs : List Byte), s.takes q (isOp 0x64) j s0 → oneDva j = true →
    s0.reads (j.refOn q) (j.p 0).toNat 544 t bs →
    exec (.setGrid q) s = .next ((t.stageFor (j.refOn q) (.grid (t.ctxOf q.val)) fun s => s.setCtx (t.ctxOf q.val) fun y =>
      { y with gridStaged := stageValue y.grid (gridAt bs) }).finishStaged (j.refOn q))) ∧
  (∀ (s : State) (r : JobRef) (x : Job) (i : WaitItem) (f : State → State), s.job? r = some x →
    (∀ n, ((i, 0), n) ∈ s.sched.stagers → n ≤ x.start) →
    s.stageFor r i f = (s.staged f).stagedBy r i 0 ∧ ∀ n, ((i, 0), n) ∈ ((s.staged f).stagedBy r i 0).sched.stagers →
      n = (((s.staged f).job? r).map (·.start)).getD 0) ∧
  (∀ (s s0 t : State) (q : QueueId) (j : Job), s.starts q (isOp 0x60) j → s0 = s.begun q j → fits (j.p 0) [(0, 4)] = true →
    (j.p 0).toNat ≤ 8 → exec (.setBrim q) s = .next t →
    t.sched.brimLive = s.sched.brimLive ∧
    (((j.p 0).toNat = s.sched.brimLive ∧ t.sched.brimStaged = none) ∨
     ((j.p 0).toNat ≠ s.sched.brimLive ∧ t.sched.brimStaged = some (j.p 0).toNat)) ∧
    t.sched.arrivals = t.waitItems.map (fun i => (i, if s.waitItems.contains i = true then (s.sched.arrival i).getD s.now else s.now)) ∧
    (t.seamWaiting = true ∨ (j.p 0).toNat = s.sched.brimLive))

/-- O16. OPEN_CONTEXT and CLOSE_CONTEXT. OPEN_CONTEXT of a CLOSED context and UNBOUND queues leaves it OPEN with its PASID, root and
the default grids and binds its queues; CLOSE_CONTEXT aborts the context's queues and counts the jobs aborted; once their
records are written, no slot is its own, no error of it waits or is handled and it has no lease, the context is CLOSED and its
queues are UNBOUND. (Rests on R390, R391, R418.) -/
def Obligations.ContextsOpenAndClose : Prop :=
  (∀ (s s0 : State) (q : QueueId) (j : Job), s.starts q (isOp 0x02) j → s0 = s.begun q j →
    fits (j.p 0) [(0, 6), (8, 20)] = true → fits (j.p 1) [(0, 40)] = true → (j.p 0).field 0 6 ≠ 0 → (j.p 1).toNat % 4096 = 0 →
    (j.p 2).getLsbD 0 = false → (s0.ctx ((j.p 0).field 0 6)).st = .closed →
    (∀ i ∈ queuesOf (j.p 2), (s0.queue i).st = .unbound) →
    exec (.openContext q) s = .next (((queuesOf (j.p 2)).foldl (fun s i => s.setQueue i (Queue.fresh ((j.p 0).field 0 6)))
      (s0.setCtx ((j.p 0).field 0 6) fun _ => { st := .opened, pasid := (j.p 0).field 8 20, root := (j.p 1).toNat,
                                                grid := Grid.default })).finishJob (j.refOn q) 0 0 0)) ∧
  (∀ (s s0 : State) (q : QueueId) (j : Job) (a : State × Nat), s.starts q (isOp 0x03) j → s0 = s.begun q j →
    fits (j.p 0) [(0, 6)] = true → (j.p 0).field 0 6 ≠ 0 → (s0.ctx ((j.p 0).field 0 6)).st ≠ .closed →
    a = (s0.queuesFor ((j.p 0).field 0 6)).foldl (fun a i => ((a.1.abortQueue i none).1, a.2 + (a.1.abortQueue i none).2)) (s0, 0) →
    exec (.closeContext q) s = .next ((a.1.setJob (j.refOn q) fun x => { x with aux := [a.2, 0] }).closeRun (j.refOn q) j)) ∧
  (∀ (s : State) (r : JobRef) (x : Job) (c : Nat), c = (x.p 0).field 0 6 →
    (∀ i ∈ s.queuesFor c, (s.queue i).writtenBelow (s.queue i).nextSeq = true) →
    (∀ i < 8, (s.slot i).phase = .free ∨ (s.slot i).ctx ≠ c) → s.errorsOf c 1 = false → s.leasesOf c = [] →
    s.closeRun r x = s.closeEnd r c ∧ ((s.closeEnd r c).ctx c).st = .closed ∧
    (∀ i, (s.queue i).ctx = c → (s.queue i).st ≠ .unbound → ((s.closeEnd r c).queue i).st = .unbound))

/-- O17. FENCE_SIGNAL, FENCE_WAIT and FENCE_WAIT_EXPIRY. A signal, once every earlier job of its queue has its record, raises the
fence to the greater of its value and V, leaves every other fence, and completes with OK and the low bits of the result; a wait
ends with OK at the target, waits below it, and past its deadline ends with WAIT_EXPIRED, which with ON_EXPIRY stops the queue.
(Rests on R378, R379, R408.) -/
def Obligations.Fences : Prop :=
  (∀ (s s0 : State) (q : QueueId) (j : Job), s.takes q (isOp 0x40) j s0 → fits (j.p 0) [(0, 8)] = true →
    (s0.queue q.val).writtenBelow j.seq = true →
    exec (.fenceSignal q) s = .next ((s0.raiseFence ((j.p 0).field 0 8) (j.p 1).toNat).finishJob (j.refOn q) 0
      ((s0.raiseFence ((j.p 0).field 0 8) (j.p 1).toNat).fence ((j.p 0).field 0 8)) 0)) ∧
  (∀ (s : State) (f v : Nat), (s.raiseFence f v).fence f = max (s.fence f) v ∧
    ∀ g, ix 256 g ≠ ix 256 f → (s.raiseFence f v).fence g = s.fence g) ∧
  (∀ (s s0 : State) (q : QueueId) (j : Job), s.takes q (isOp 0x41) j s0 → fits (j.p 0) [(0, 9), (32, 32)] = true →
    (j.p 1).toNat ≤ s0.fence ((j.p 0).field 0 8) →
    exec (.fenceWait q) s = .next (s0.finishJob (j.refOn q) 0 0 0)) ∧
  (∀ (s s0 : State) (q : QueueId) (j : Job), s.takes q (isOp 0x41) j s0 → fits (j.p 0) [(0, 9), (32, 32)] = true →
    s0.fence ((j.p 0).field 0 8) < (j.p 1).toNat → exec (.fenceWait q) s = .next s0) ∧
  (∀ (s s0 : State) (q : QueueId) (now : Nat) (x : Job), s0 = s.advanceTo now → s0.alive = true →
    s0.waitingJob q.val (isOp 0x41) = some x → (x.p 0).field 32 32 ≠ 0 → x.since + 100 * (x.p 0).field 32 32 ≤ s0.now →
    exec (.fenceWaitExpiry now q) s = .next
      (if (x.p 0).getLsbD 8 = true then
         (s0.finishJob (x.refOn q) 0x10 (s0.fence ((x.p 0).field 0 8)) 0).expireStop q.val x.seq
       else s0.finishJob (x.refOn q) 0x10 (s0.fence ((x.p 0).field 0 8)) 0))

/-- O18. ABORT_QUEUE, RECORD_SEQUENCE and RUN_SEQUENCE. ABORT_QUEUE leaves the named queue STOPPED with cause 2 (or UNBOUND),
nothing to expand and no job unended but itself, and completes with the number aborted once their records are written;
RECORD_SEQUENCE stores the body's entries and the patch list of a sequence that no other context has recorded; RUN_SEQUENCE ends
with WRONG_STATE's detail (BAD_PARAMETER's where its entry sets reserved bits) where it names no sequence of its context, and an
abort ends a RUN_SEQUENCE not yet expanded (assumption 46); else its entries become jobs numbered in body order with the
sequence's own number after the last, to be taken one by one in that order, each with its patches read. (Rests on R374, R375,
R376, R377, R380, R405, R408.) -/
def Obligations.AbortQueueStops : Prop :=
  (∀ (s s0 t t1 : State) (q : QueueId) (j x : Job) (n : Nat), s.starts q (isOp 0x7F) j → s0 = s.begun q j →
    fits (j.p 0) [(0, 6)] = true →
    (q.val = 0 ∨ (s0.ctxOf ((j.p 0).field 0 6) = s0.ctxOf q.val ∧ (s0.queue ((j.p 0).field 0 6)).st ≠ .unbound)) →
    s0.abortQueue ((j.p 0).field 0 6) (if (j.p 0).field 0 6 = q.val then some j.seq else none) = (t, n) →
    t1 = t.setJob (j.refOn q) (fun x => { x with
      aux := [(j.p 0).field 0 6, n, if (j.p 0).field 0 6 = q.val then j.seq else (t.queue ((j.p 0).field 0 6)).nextSeq] }) →
    t1.job? (j.refOn q) = some x → exec (.abortQueue q) s = .next (t1.abortRun (j.refOn q) x)) ∧
  (∀ (s : State) (q : QueueId) (x : Job), s.serving = true → s.startJob q.val (isOp 0x7F) = none →
    s.waitingJob q.val (isOp 0x7F) = some x → (s.queue (x.aux.getD 0 0)).writtenBelow (x.aux.getD 2 0) = true →
    exec (.abortQueue q) s = .next (s.finishJob (x.refOn q) 0 (x.aux.getD 1 0) 0)) ∧
  (∀ (s t : State) (q n : Nat) (self : Option Nat), s.abortQueue q self = (t, n) →
    ((t.queue q).st = .stopped ∧ (t.queue q).cause = 2 ∨ (t.queue q).st = .unbound) ∧ (t.queue q).expand = none ∧
    ∀ x ∈ (t.queue q).jobs, x.ended = true ∨ some x.seq = self) ∧
  (∀ (s s0 t1 t2 : State) (q : QueueId) (j : Job) (body list : List Byte) (ps : List (Nat × Nat)), s.takes q (isOp 0x31) j s0 →
    seqOk j = true → s0.reads (j.refOn q) (j.p 1).toNat (128 * (j.p 0).field 16 13) t1 body →
    (((j.p 0).field 32 13 = 0 ∧ t2 = t1 ∧ list = []) ∨
     ((j.p 0).field 32 13 ≠ 0 ∧ t1.reads (j.refOn q) (j.p 2).toNat (4 * (j.p 0).field 32 13) t2 list)) →
    ((List.range ((j.p 0).field 32 13)).mapM fun i => patchAt ((j.p 0).field 16 13) (leNat ((list.drop (4 * i)).take 4))) = some ps →
    (∀ i < (j.p 0).field 16 13, bodyEntryOk (t2.ctxOf q.val) (wordsOf 16 (body.drop (128 * i))) = true) →
    (∀ r ∈ t2.seqs, r.id = (j.p 0).field 0 10 → r.ctx = t2.ctxOf q.val) →
    t2.patchCount ((j.p 0).field 0 10) + (j.p 0).field 32 13 ≤ 65536 →
    exec (.recordSequence q) s = .next (({ t2 with
      seqs := { id := (j.p 0).field 0 10, ctx := t2.ctxOf q.val,
                body := (List.range ((j.p 0).field 16 13)).map fun i => wordsOf 16 (body.drop (128 * i)),
                patches := ps, bodyDva := (j.p 1).toNat } :: t2.seqs.filter (·.id ≠ (j.p 0).field 0 10) }).finishJob (j.refOn q) 0 0 0)) ∧
  (∀ (s : State) (q : QueueId), s.serving = true → (s.queue q.val).st = .running → (s.ctx (s.ctxOf q.val)).st = .opened →
    s.errorsOf (s.ctxOf q.val) 2 = false →
    ((s.queue q.val).expand = none → exec (.runSequence q) s = .next (s.takeEntries q.val 4096)) ∧
    (∀ own, (s.queue q.val).expand = some own → s.seqOf (s.ctxOf q.val) own = none →
      exec (.runSequence q) s = .next ((s.expandNow q.val).abortJob ⟨q.val, (s.queue q.val).nextSeq⟩ (badSequence own))) ∧
    ∀ own r, (s.queue q.val).expand = some own → s.seqOf (s.ctxOf q.val) own = some r →
      exec (.runSequence q) s = .next ((s.expandNow q.val).takeEntries q.val r.body.length)) ∧
  (∀ (s : State) (q : Nat) (own : Job) (r : RecSeq) (x : Queue), x = s.queue q → x.expand = some own → s.seqOf x.ctx own = some r →
    ((s.expandNow q).queue q).jobs = x.jobs ++
      (r.body.mapIdx fun i ws => { jobOf ws with
        seq := x.nextSeq + i, parent := some (x.nextSeq + r.body.length),
        take := some (ws, (r.patches.filter (·.1 == i)).map fun p => (p.2, r.bodyDva + 128 * i + 8 * p.2)) }) ++
      [{ own with seq := x.nextSeq + r.body.length, phase := .running, aux := [r.body.length, 0, 0] }] ∧
    ((s.expandNow q).queue q).nextSeq = x.nextSeq + r.body.length + 1 ∧ ((s.expandNow q).queue q).expand = none) ∧
  (∀ (s t : State) (q n : Nat) (j : Job) (ws ws' : List Word) (slots : List (Nat × Nat)), s.errorsOf (s.ctxOf q) 2 = false →
    (s.queue q).nextEntry = some (j, ws, slots) → (patched (fetchAgent (s.ctxOf q)) ws slots).go s = (.ok ws', t) →
    s.takeEntries q (n + 1) = (t.setJob ⟨q, j.seq⟩ (t.taken q ws')).takeEntries q n)


/-! ## The model and its tables (03, 16) -/

/-- O19. LOAD_MODEL, UNLOAD_MODEL and SWAP_DENSE_SET. An unload with every context closed leaves no model, table, map, epoch,
overlay or measurement of them, and waits (draining) while a context is open; a load unloads first, stores its container and its
set images, and makes the model resident; SWAP_DENSE_SET stages a slot, after storing the image that a source names. (Rests on
R392, R393, R394, R463.) -/
def Obligations.ModelsLoadAndUnload : Prop :=
  (∀ (s s0 : State) (q : QueueId) (j : Job), s.takes q (isOp 0x11) j s0 → s0.model.res ≠ none → s0.allClosed = true →
    exec (.unloadModel q) s =
      .next ((if s0.pkg.draining = true then s0.setDrain false else s0).unload.finishJob (j.refOn q) 0 0 0)) ∧
  (∀ (s s0 : State) (q : QueueId) (j : Job), s.takes q (isOp 0x11) j s0 → s0.model.res = none →
    exec (.unloadModel q) s = .next ((s0.dropTlb 0).finishJob (j.refOn q) 0 0 0)) ∧
  (∀ (s s0 : State) (q : QueueId) (j : Job), s.takes q (isOp 0x11) j s0 → s0.model.res ≠ none → s0.allClosed = false →
    exec (.unloadModel q) s = .next (if s0.pkg.draining = true then s0 else s0.setDrain true)) ∧
  (∀ s : State, s.unload.model.res = none ∧ s.unload.tabs.tables = [] ∧ s.unload.tabs.mapLive = [] ∧ s.unload.upd.epochs = [] ∧
    s.unload.upd.overlays = [] ∧ s.unload.sec.mrProgram = List.replicate 32 0 ∧ s.unload.sec.mrTables = List.replicate 32 0 ∧
    s.unload.sec.mrOwnerMap = List.replicate 32 0 ∧ s.unload.hbm = s.hbm ∧ s.unload.ctxs = s.ctxs ∧ s.unload.slots = s.slots) ∧
  (∀ (s s0 b u t1 t2 : State) (q : QueueId) (j : Job) (bs : List Byte) (r : Resident) (sets : List (Nat × List Byte)),
    s.takes q (isOp 0x10) j s0 → loadOk j = true → s0.model.res = none ∨ s0.allClosed = true →
    b = (if s0.pkg.draining = true then s0.setDrain false else s0) → u = (if b.model.res = none then b else b.unload) →
    ({ u with pkg := { u.pkg with loading := true } }).given (j.refOn q) (j.p 0) (j.p 1).toNat none t1 bs →
    t1.stores (j.refOn q) (j.p 2).toNat bs none t2 → readContainer bs (j.p 2).toNat (j.p 3).toNat = some (r, sets) →
    exec (.loadModel q) s = .next (t2.loadSets (j.refOn q) r (digest bs) sets)) ∧
  (∀ (s : State) (r0 : JobRef) (r : Resident) (sum : List Byte),
    s.loadSets r0 r sum [] = ({ s with
      model := s.reserveMemory r.reserve { res := some r, setLive := 0 }
      pkg := { s.pkg with loading := false }
      sec := { s.sec with mrProgram := sum } }).finishJob r0 0 0 0 ∧
    ∀ (t : State) (k : Nat) (b : List Byte) (rest : List (Nat × List Byte)), s.stores r0 (r.slotDva k) b none t →
      s.loadSets r0 r sum ((k, b) :: rest) = t.loadSets r0 r sum rest) ∧
  (∀ (s s0 : State) (q : QueueId) (j : Job) (r : Resident), s.starts q (isOp 0x12) j → s0 = s.begun q j → s0.model.res = some r →
    fits (j.p 0) [(0, 4)] = true → (j.p 0).toNat < r.setSlots → j.p 1 = 0 → j.p 2 = 0 →
    exec (.swapDenseSet q) s = .next ((s0.stageFor (j.refOn q) .set fun s => { s with
      model := { s.model with setStaged := stageValue s.model.setLive (j.p 0).toNat } }).finishStaged (j.refOn q))) ∧
  (∀ (s s0 t1 t2 : State) (q : QueueId) (j : Job) (r : Resident) (bs : List Byte), s.starts q (isOp 0x12) j → s0 = s.begun q j →
    s0.model.res = some r → fits (j.p 0) [(0, 4)] = true → (j.p 0).toNat < r.setSlots → j.p 1 ≠ 0 → addrOk (j.p 1) = true →
    fits (j.p 2) [(0, 40)] = true → (j.p 2).toNat ≤ r.setBytes → s0.setBusy (j.p 0).toNat = false →
    s0.given (j.refOn q) (j.p 1) (j.p 2).toNat none t1 bs → t1.setBusy (j.p 0).toNat = false → t1.stores (j.refOn q) (r.slotDva (j.p 0).toNat) bs none t2 →
    exec (.swapDenseSet q) s = .next (({ t2 with
      sec := { t2.sec with mrProgram := digest (t2.sec.mrProgram ++ leBytes 1 (j.p 0).toNat ++ digest bs) } }).stageSet
        (j.refOn q) (j.p 0).toNat))

/-- O20. DEFINE_TABLE, MAP_SHARDS, FILL_TABLE and SET_REFLECTIONS. DEFINE_TABLE reads its descriptor, and its default row where it
is not zero, and adds that table alone; MAP_SHARDS stages the owner map that it reads; FILL_TABLE stores rows and side list in
the block of the version that it names; SET_REFLECTIONS stages the held list. (Rests on R75, R86, R96, R127, R400, R401, R402.)
-/
def Obligations.TablesDefined : Prop :=
  (∀ (s s0 t : State) (q : QueueId) (j : Job) (bs : List Byte) (d : Desc), s.takes q (isOp 0x20) j s0 → oneDva j = true →
    s0.model.res ≠ none → s0.reads (j.refOn q) (j.p 0).toNat 96 t bs → descAt bs = some d → d.ok = true → t.descBad bs d = none →
    (d.defaultZero = true →
      exec (.defineTable q) s = .next ((t.define d (List.replicate d.dim 0)).finishJob (j.refOn q) 0 0 0)) ∧
    (∀ t2 row, d.defaultZero = false → t.reads (j.refOn q) d.defaultDva (2 * d.dim) t2 row →
      exec (.defineTable q) s = .next ((t2.define d (bf16s d.dim row)).finishJob (j.refOn q) 0 0 0))) ∧
  (∀ (s : State) (d : Desc) (row : List BF16), (∀ u ∈ s.tabs.tables, u.desc.id ≠ d.id) →
    ((s.define d row).table? d.id).map (·.desc) = some d ∧ ∀ i, i ≠ d.id → (s.define d row).table? i = s.table? i) ∧
  (∀ (s s0 t1 t2 : State) (q : QueueId) (j : Job) (h : List Byte) (l : List MapSection), s.takes q (isOp 0x21) j s0 →
    oneDva j = true → s0.model.res ≠ none → s0.reads (j.refOn q) (j.p 0).toNat 32 t1 h →
    1 ≤ fieldAt h 0 0 32 → fieldAt h 0 0 32 ≤ 4096 →
    (readSections (Agent.struct (t1.ctxOf q.val) (j.refOn q)) (j.p 0).toNat (fieldAt h 0 0 32) 32).go t1 = (.ok (some l), t2) →
    wordAt h 2 = (l.map (·.shards.length)).sum → distinct (l.map (·.table)) = true →
    exec (.mapShards q) s = .next ((t2.stageMapFor (j.refOn q) l (wordAt h 1)).finishStaged (j.refOn q))) ∧
  (∀ (s s0 t1 t2 t3 t4 : State) (q : QueueId) (j : Job) (t : Table) (v : Version) (shadow : Bool) (rows side region : Nat)
    (bs : List Byte), s.takes q (isOp 0x22) j s0 → s0.fillBad j = false → fillOk j = true → s0.model.res ≠ none →
    s0.table? (tableOf j) = some t → t.desc.kind ≠ .composed → t.fillVersion ((j.p 0).field 32 32) = some (v, shadow) →
    (j.p 1).field 0 16 < t.desc.shards → (j.p 1).field 16 24 < ceilDiv t.desc.shardRows 65536 →
    (fillBlock (Agent.dma (s0.ctxOf q.val) (j.refOn q)) v ((j.p 1).field 0 16) ((j.p 1).field 16 24)).go s0 =
      (.ok (some (rows, side, region)), t1) →
    (shadow = true → t1.regions[ix 8 region].shadeLive ≠ 0) →
    (t1.waited (Agent.dma (s0.ctxOf q.val) (j.refOn q))).given (j.refOn q) (j.p 2)
      ((j.p 3).field 16 17 * t.desc.stride + 2 * (j.p 4).field 32 32) none t2 bs →
    t2.stores (j.refOn q) (rows + (j.p 3).field 0 16 * t.desc.stride) (bs.take ((j.p 3).field 16 17 * t.desc.stride)) none t3 →
    t3.stores (j.refOn q) (side + 2 * (j.p 4).field 0 32) (bs.drop ((j.p 3).field 16 17 * t.desc.stride)) none t4 →
    exec (.fillTable q) s = .next (t4.finishJob (j.refOn q) 0 0 0)) ∧
  (∀ (s s0 t : State) (q : QueueId) (j : Job) (r : ReflSet), s.takes q (isOp 0x26) j s0 → oneDva j = true → s0.model.res ≠ none →
    (readSet (Agent.struct (s0.ctxOf q.val) (j.refOn q)) (j.p 0).toNat).go s0 = (.ok r, t) →
    exec (.setReflections q) s = .next ((t.stageFor (j.refOn q) .reflections fun s => { s with
      tabs := { s.tabs with reflStaged := if t.tabs.refl.map (·.dva) = some r.dva then none else some r } }).finishStaged (j.refOn q)))

/-- O21. BEGIN_SHADOW, SWAP_VERSION, CATCH_UP_DONE and RELEASE_VERSION. A shadow with a number above every earlier one is added and
kept updates join it; a swap waits until the shadow has caught up, when its tracking begins; a release stages the end of the
retired version. (Rests on R71, R157, R158, R159, R160, R403.) -/
def Obligations.VersionsShadowAndSwap : Prop :=
  (∀ (s s0 t1 : State) (q : QueueId) (j : Job) (t : Table) (ks : List Kept), s.takes q (isOp 0x23) j s0 → shadowOk j = true →
    s0.model.res ≠ none → s0.table? (tableOf j) = some t → t.desc.kind ≠ .composed → t.shadow = none →
    t.highest < (j.p 0).field 32 32 → s0.upd.lastApplied ≤ (j.p 2).field 0 32 →
    (joinShadow t { num := (j.p 0).field 32 32, dir := (j.p 1).toNat } ((j.p 2).field 0 32) s0.upd.recs).go s0 = (.ok ks, t1) →
    exec (.beginShadow q) s = .next ((({ t1 with upd := { t1.upd with recs := ks } }).setTable t.desc.id fun t => { t with
      shadow := some { ver := { num := (j.p 0).field 32 32, dir := (j.p 1).toNat }, baseEpoch := (j.p 2).field 0 32 }
      highest := (j.p 0).field 32 32 }).finishJob (j.refOn q) 0 0 0)) ∧
  (∀ (s s0 : State) (q : QueueId) (j : Job) (t : Table), s.starts q (isOp 0x24) j → s0 = s.begun q j → oneTable j = true →
    s0.model.res ≠ none → s0.table? (tableOf j) = some t → t.swap = .none → t.shadow ≠ none →
    (t.retired = none ∨ t.releaseStaged = true) →
    exec (.swapVersion q) s = .next (s0.setTable t.desc.id fun t => { t with swap := .waiting (j.refOn q) })) ∧
  (∀ (s t1 : State) (table : Nat) (t : Table) (r : JobRef) (x : Shadow), s.table? table = some t → t.swap = .waiting r →
    t.shadow = some x → s.serving = true → s.filling table x.ver.num (((s.job? r).map (·.start)).getD 0) = false →
    (catchUp (s.catchUpds t x)).go s = (.ok true, t1) →
    exec (.catchUpDone table) s = .next (t1.beginTracking table r)) ∧
  (∀ (s s0 : State) (q : QueueId) (j : Job) (t : Table), s.starts q (isOp 0x25) j → s0 = s.begun q j → oneTable j = true →
    s0.model.res ≠ none → s0.table? (tableOf j) = some t → t.retired ≠ none → t.releaseStaged = false →
    exec (.releaseVersion q) s = .next ((s0.staged fun s => s.setTable t.desc.id fun t =>
      { t with releaseStaged := true }).finishStaged (j.refOn q)))

/-! ## Updates, copies, leases and reports (05, 09, 16, 19) -/

/-- O22. UPDATE_ROWS and the four CLOSE_EPOCH operations. UPDATE_ROWS takes its records in order and completes with the counts taken
and refused; DECLARE opens an epoch, and one declared before, or not above the last applied one, is a host error of system scope
after which the machine's behaviour is undefined (R141, assumption 74); MARK records the after-mark and sends close markers once
earlier records are routed; FORCE closes an open epoch and reports the missing contributors; AWAIT completes with the seam of an
applied epoch and waits otherwise. (Rests on R135, R140, R141, R142, R143, R144, R145, R146, R147, R406, R407.) -/
def Obligations.UpdatesAndEpochs : Prop :=
  (∀ (s s0 t : State) (q : QueueId) (j : Job) (bs : List Byte), s.starts q (isOp 0x38) j → s0 = s.begun q j →
    addrOk (j.p 0) = true → fits (j.p 1) [(0, 40)] = true → s0.model.res ≠ none → s0.device ≠ none → j.aux = [] →
    s0.given (j.refOn q) (j.p 0) (j.p 1).toNat none t bs →
    exec (.updateRows q) s = .next (t.intakeRun (j.refOn q) bs)) ∧
  (∀ (s : State) (r : JobRef) (x : Job) (me : Nat) (bs : List Byte) (t : State) (i : Intake), s.job? r = some x → s.device = some me →
    s.intake me x.start bs { pos := x.aux.getD 0 0, taken := x.aux.getD 1 0, after := x.aux.getD 2 0, held := x.aux.getD 3 0 == 1 }
      (bs.length + 1) = (t, i) → i.finished = true →
    s.intakeRun r bs = (t.sendRecs i.out).finishJob r 0 i.after i.taken) ∧
  (∀ (s s0 t1 t2 : State) (q : QueueId) (j : Job) (h bs : List Byte), s.takes q (closeMine 0) j s0 →
    closeOk j = true → s0.model.res ≠ none → s0.reads (j.refOn q) (j.p 1).toNat 16 t1 h →
    t1.reads (j.refOn q) (j.p 1).toNat (declBytes (fieldAt h 1 0 15) (fieldAt h 1 32 15)) t2 bs →
    (declEpoch bs).num = epochOf j → t2.upd.lastApplied ≠ 0xFFFFFFFF → t2.upd.epochs.length < 255 →
    exec (.closeEpochDeclare q) s = .next
      (if t2.declared (epochOf j) = none ∧ t2.upd.lastApplied < epochOf j then (t2.openEpoch (declEpoch bs)).finishJob (j.refOn q) 0 0 0
       else ((t2.openEpoch (declEpoch bs)).finishJob (j.refOn q) 0 0 0).wrecked .system)) ∧
  (∀ (s s0 : State) (q : QueueId) (j : Job) (e : Epoch) (me : Nat), s.starts q (closeMine 1) j → s0 = s.begun q j → closeOk j = true →
    s0.model.res ≠ none → s0.declared (epochOf j) = some e → s0.device = some me → j.data = [] →
    s0.routing (s0.sched.nextStart - 1) = false →
    exec (.closeEpochMark q) s = .next (((({ s0 with
      upd := { s0.upd with marked := s0.upd.marked ++ [(epochOf j, s0.sched.nextStart - 1)] } }).sendMarks (j.refOn q) e me).setJob
        (j.refOn q) fun x => { x with data := [1] }).markEnd (j.refOn q))) ∧
  (∀ (s s0 : State) (q : QueueId) (j : Job) (e : Epoch), s.starts q (closeMine 2) j → s0 = s.begun q j → closeOk j = true →
    s0.model.res ≠ none → s0.declared (epochOf j) = some e → e.forced = false →
    exec (.closeEpochForce q) s = .next (if e.closed = true then s0.finishJob (j.refOn q) 0 0 0 else
      ((s0.setEpoch e.num fun e => { e with closed := true, forced := true }).updCtr fun c =>
        { c with epochsForced := c.epochsForced + 1 }).finishJob (j.refOn q) 0x31 e.missingCount 0)) ∧
  (∀ (s s0 : State) (q : QueueId) (j : Job), s.starts q (closeMine 3) j → s0 = s.begun q j → closeOk j = true →
    s0.model.res ≠ none →
    exec (.closeEpochAwait q) s = .next
      (if epochOf j ≤ s0.upd.lastApplied then s0.finishJob (j.refOn q) 0 (s0.seamOf (epochOf j)) 0 else s0))

/-- O23. DMA_COPY. A copy within device memory goes piece by piece, each piece read and then written, and where a piece faults as it
is read the elements before the faulting one are written; a copy from the host writes the data that have come; a copy to the
host ends with its bulk transfer; each then releases the ranges that its hint names and completes with OK. A copy that the spec
leaves undefined (overlapping ranges) goes on in a context whose results are free values (assumption 5). (Rests on R224, R335,
R408.) -/
def Obligations.CopiesComplete : Prop :=
  (∀ (s sx s0 t : State) (q : QueueId) (j : Job) (hint : Option Hint) (rel : Bool) (ag : Agent),
    sx = (if s.copyBad q.val = true then s.upset (s.ctxOf q.val) else s) → sx.takes q (isOp 0x50) j s0 → copyOk j = true →
    copyHint j = some (hint, rel) → j.aux ≠ [1] → (j.p 0).getLsbD 63 = false → (j.p 1).getLsbD 63 = false →
    ag = Agent.dma (s0.ctxOf q.val) (j.refOn q) →
    (copyWithin ag ((j.p 0).field 0 48) ((j.p 1).field 0 48) (copyLen j) hint).go s0 = (.ok (), t) →
    exec (.dmaCopy q) s = .next ((t.waited ag).copyEnd (j.refOn q) j rel)) ∧
  (∀ (s t1 t2 : State) (ag : Agent) (a n dst : Nat) (hint : Option Hint) (bs : List Byte) (ls : List Nat),
    (readDva ag a n hint).go s = (.ok bs, t1) → (writeDva ag dst bs hint).go t1 = (.ok ls, t2) →
    (copyPiece ag a n dst hint).go s = (.ok (), t2)) ∧
  (∀ (s t1 t2 : State) (ag : Agent) (a n dst : Nat) (hint : Option Hint) (x : AccFail) (ls : List Nat),
    (readDva ag a n hint).go s = (.error x, t1) → x ≠ .hold → (∀ l i, x ≠ .snoop l i) → (∀ l i p d g bs, x ≠ .page l i p d g bs) →
    (writeDva ag dst (readSound ag a t1 (lineParts a n)).1 hint).go t1 = (.ok ls, t2) →
    (copyPiece ag a n dst hint).go s = (.error x, t2)) ∧
  (∀ (s sx s0 t1 t2 : State) (q : QueueId) (j : Job) (hint : Option Hint) (rel : Bool) (bs : List Byte),
    sx = (if s.copyBad q.val = true then s.upset (s.ctxOf q.val) else s) → sx.takes q (isOp 0x50) j s0 → copyOk j = true → copyHint j = some (hint, rel) → j.aux ≠ [1] →
    (j.p 0).getLsbD 63 = true → (j.p 1).getLsbD 63 = false →
    s0.given (j.refOn q) (j.p 0) (copyLen j) hint t1 bs → t1.stores (j.refOn q) ((j.p 1).field 0 48) bs hint t2 →
    exec (.dmaCopy q) s = .next (t2.copyEnd (j.refOn q) j rel)) ∧
  (∀ (s sx s0 : State) (q : QueueId) (j : Job) (hint : Option Hint) (rel : Bool) (b : Bulk),
    sx = (if s.copyBad q.val = true then s.upset (s.ctxOf q.val) else s) → sx.takes q (isOp 0x50) j s0 → copyOk j = true → copyHint j = some (hint, rel) → j.aux = [1] →
    (s0.job? (j.refOn q)).bind (·.bulk) = some b → b.finished = true →
    exec (.dmaCopy q) s = .next (s0.copyEnd (j.refOn q) j rel)) ∧
  (∀ (s : State) (r : JobRef) (x : Job), s.copyEnd r x false = s.finishJob r 0 0 0)

/-- O24. LEND_MEMORY, BORROW_MEMORY, RETURN_MEMORY, revocation and BORROW_TIMEOUT. A lend first asks the host to give up what it
holds of the range, then zeroes the range and nothing else, in memory and in the staging cache, and takes the lowest free lease
number; a borrow sends a claim and waits, while at most 64 leases are borrowed or claimed; a revocation ends the lease; a return
begins the write-back of its frames; a claim unanswered for 10 ms ends with its detail. (Rests on R218, R227, R228, R230, R231,
R319, R409.) -/
def Obligations.LeaseJobs : Prop :=
  (∀ (s s0 z : State) (q : QueueId) (j : Job) (id base size : Nat), s.takes q (isOp 0x58) j s0 → lendOk j = true →
    base = (j.p 0).toNat → size = (j.p 1).field 0 10 * 2 ^ 30 → s.badLend base size = false →
    (List.range 64).find? (fun i => (s0.lentBy i).isNone) = some id →
    (s0.cxl.heldIn base size = [] → z = s0.zeroRange base size →
      exec (.lendMemory q) s = .next ((({ z with
        tiers := { z.tiers with lent := z.tiers.lent ++ [(⟨id, base, size, (j.p 1).field 16 14, none, false⟩ : Lent)] } }).relist).finishJob
          (j.refOn q) 0 id 0)) ∧
    (s0.cxl.heldIn base size ≠ [] →
      exec (.lendMemory q) s = .next ((s0.cxl.heldIn base size).foldl (fun s l => s.sendSnoop l true) s0))) ∧
  (∀ (s : State) (base size : Nat), s.memOk → base % 256 = 0 → size % 256 = 0 → ∀ a,
    (s.zeroRange base size).byteAt a = if base ≤ a ∧ a < base + size then 0 else s.byteAt a) ∧
  (∀ (h : Hbm) (base size : Nat), memWf h.mem = true → ∀ a,
    memGet (h.zero base size).mem a = if base ≤ a ∧ a < base + size then 0 else memGet h.mem a) ∧
  (∀ (s s0 : State) (q : QueueId) (j : Job), s.starts q (isOp 0x59) j → s0 = s.begun q j →
    fits (j.p 0) [(0, 14), (16, 6), (32, 6)] = true → fits (j.p 1) [(0, 48)] = true → (j.p 1).toNat % 2 ^ 21 = 0 →
    (j.p 0).field 32 6 ≠ 0 → s0.model.res ≠ none → (s0.ctx ((j.p 0).field 32 6)).st = .opened → s0.tiers.borrowed.length + s0.claims < 64 →
    exec (.borrowMemory q) s = .next ((s0.newTag.1.setJob (j.refOn q) fun x => { x with
      aux := [(j.p 0).field 0 14, (j.p 0).field 16 6, (j.p 0).field 32 6, (j.p 1).toNat, s0.newTag.2] }).sendMsg
        ((j.p 0).field 0 14) false 0xA (lentControlBody ((j.p 0).field 16 6) 0 s0.newTag.2))) ∧
  (∀ (s s0 : State) (q : QueueId) (j : Job), s.starts q revokeMine j → s0 = s.begun q j → fits (j.p 0) [(16, 6), (24, 1)] = true →
    ∀ l, s0.lentBy ((j.p 0).field 16 6) = some l →
    exec (.returnMemoryRevoke q) s = .next ((s0.endLease l).finishJob (j.refOn q) 0 0 0)) ∧
  (∀ (s s0 : State) (q : QueueId) (j : Job) (b : Borrowed), s.starts q returnMine j → s0 = s.begun q j →
    fits (j.p 0) [(0, 14), (16, 6), (24, 1)] = true → b ∈ s0.tiers.borrowed → b.lender = (j.p 0).field 0 14 →
    b.lease = (j.p 0).field 16 6 → b.returning = none →
    exec (.returnMemory q) s = .next
      ((s0.beginReturn ((j.p 0).field 0 14) ((j.p 0).field 16 6)).returnRun (j.refOn q) ((j.p 0).field 0 14) ((j.p 0).field 16 6))) ∧
  (∀ (s s0 : State) (q : QueueId) (now : Nat) (x : Job), s0 = s.advanceTo now → s0.waitingJob q.val (isOp 0x59) = some x →
    s0.alive = true → 1000000 ≤ s0.now - x.since →
    exec (.borrowTimeout now q) s = .next (s0.finishJob (x.refOn q) 0x22 4 0))

/-- O25. READ_MONITORS, READ_RECORDER, GET_CERTIFICATE, CLEAR_RECORDER, ATTEST and MR_OWNER_MAP_COMPUTED. READ_MONITORS takes the
words of its group in order, as many at a time as the sender says (the model's choice, assumption 59), each whole at its own
instant, and at the last stores them and completes with the lengths; each other report stores the bytes it is made of and
completes with the lengths; a clear repairs a selector copy that is not valid from the other, and with a valid authorisation
(its signature checked by the XMSS that assumption 9 presumes) empties the record area and says how many records it held; with
one that fails a check it leaves that check's AUTH_REJECTED record, and ends AUTH_FAILED with a detail that is a free value;
ATTEST waits for those before it, advances both copies of the leaf, spends one quote of the power cycle, and stores the quote;
the owner map's measurement becomes the digest of the map. Signatures are free values (assumption 4). (Rests on R388, R411,
R412, R413, R414, R454, R455, R461, R465, R467, R469, R470.) -/
def Obligations.ReportsAndIdentity : Prop :=
  (∀ (s s0 : State) (q : QueueId) (j : Job) (words n : Nat) (ws : List Nat) (got : List Byte), s.takes q (isOp 0x70) j s0 →
    monitorsOk j = true → ws = s0.group (s0.ctxOf q.val) (j.p 0).toNat → n = min ws.length (j.p 2).toNat →
    got = j.data ++ ((ws.drop (j.data.length / 8)).take words).flatMap (leBytes 8) →
    (got.length < 8 * n → exec (.readMonitors ⟨q, words⟩) s = .next (s0.setJob (j.refOn q) fun x => { x with data := got })) ∧
    (8 * n ≤ got.length → ∀ t, (s0.setJob (j.refOn q) fun x => { x with data := got }).stores (j.refOn q) (j.p 1).toNat
        (got.take (8 * n)) none t →
      exec (.readMonitors ⟨q, words⟩) s = .next (t.finishJob (j.refOn q) 0 ws.length n))) ∧
  (∀ (s s0 t : State) (q : QueueId) (j : Job) (bs : List Byte), s.starts q (isOp 0x71) j → s0 = s.begun q j → recorderOk j = true →
    bs = ((s0.recorder.records.drop ((j.p 0).field 0 16)).take ((j.p 0).field 32 13)).flatMap EventRec.bytes →
    (s0.setJob (j.refOn q) fun y => { y with data := bs, aux := [s0.recorder.held, s0.recorder.refused] }).stores (j.refOn q)
      (j.p 1).toNat bs none t →
    exec (.readRecorder q) s = .next (t.finishJob (j.refOn q) 0 s0.recorder.held s0.recorder.refused)) ∧
  (∀ (s s0 t : State) (q : QueueId) (j : Job), s.takes q (isOp 0x79) j s0 → certOk j = true →
    s0.stores (j.refOn q) (j.p 1).toNat (s0.fuses.certificate.take (j.p 2).toNat) none t →
    exec (.getCertificate q) s = .next (t.finishJob (j.refOn q) 0 Config.certBytes 0)) ∧
  (∀ (s s0 t t' : State) (q : QueueId) (w : AuthWorld) (j : Job) (bs : List Byte), s.takes q (isOp 0x72) j s0 → clearOk j = true →
    s0.reads (j.refOn q) (j.p 0).toNat (min (j.p 1).toNat 2996) t bs → t' = { t with mram := t.mram.mendSelector } →
    exec (.clearRecorder q w) s = .next (if t'.authReason (padTo 2996 bs) (j.p 1).toNat w = 0 then
        (t'.clearLog (padTo 2996 bs) w.copyBOk).finishJob (j.refOn q) 0 t.recorder.held 0
      else (t'.recordEvent (authRefused (padTo 2996 bs) (t'.authReason (padTo 2996 bs) (j.p 1).toNat w))).finishJob (j.refOn q) 0x50
        (Config.openDetail 0x50).toNat 0)) ∧
  (∀ (a : List Byte) (n : Nat), authRefused a n = {
      code := 0x61
      payload := leBytes 4 n ++ leBytes 4 (fieldAt a 2 0 32) ++ (a.drop 8).take 8 ++ List.replicate 16 0 ++
        (if n = 1 then List.replicate 32 0 else digest (authSigner a)) }) ∧
  (∀ m : Mram, (m.selA.ok = true → m.selB.ok = false → m.mendSelector = { m with selB := m.selA }) ∧
    (m.selA.ok = false → m.selB.ok = true → m.mendSelector = { m with selA := m.selB }) ∧
    (m.selA.ok = m.selB.ok → m.mendSelector = m)) ∧
  (∀ (s s0 t u v : State) (q : QueueId) (w : LeafWorld) (j : Job) (nonce : List Byte) (n : Nat) (y : Job),
    s.takes q (isOp 0x78) j s0 → attestOk j = true → j.data = [] → s0.reads (j.refOn q) (j.p 0).toNat 32 t nonce →
    t.sec.mapPending = none → t.engineFree (j.refOn q) = true → t.readLeaf.mram.leaf = some n → t.readLeaf.sec.quotesLeft ≠ 0 → n ≠ Config.leaves →
    w = ⟨true, true⟩ →
    u = ({ t.readLeaf with
      mram := { t.readLeaf.mram with leafA := Copy.leaf (n + 1), leafB := Copy.leaf (n + 1) }
      sec := { t.readLeaf.sec with quotesLeft := t.readLeaf.sec.quotesLeft - 1 } }) →
    v = u.setJob (j.refOn q) (fun x => { x with data := u.quote n nonce, aux := [Config.leaves - (n + 1)] }) →
    v.job? (j.refOn q) = some y → ∀ v', v.stores (j.refOn q) (y.p 1).toNat y.data none v' →
    exec (.attest q w) s = .next (v'.finishJob (j.refOn q) 0 (y.aux.getD 0 0) v'.quoteCounts)) ∧
  (∀ (s : State) (m : List Byte), s.sec.mapPending = some m → s.alive = true →
    exec .mrOwnerMapComputed s = .next { s with
      sec := { s.sec with mapPending := none, mrOwnerMap := if m = [] then List.replicate 32 0 else digest m } })

/-- O26. RETIRE_PAGES, RUN_TRAFFIC_TEST and LINK_TEST with its frames and its end. Retiring a page of memory that is not listed
lists it and poisons its 64 granules, and the job reports the length of the list; a traffic test reads its descriptor once,
waits while its region's shade share is 0 under a resident model, then has its effect, meeting the errors that had struck its
range (a reading, assumption 53), once the host has given up what it holds of the range, and stores its record; a link test
disables its ports and in FRAME mode sends its test frames, which are counted as they return, and at its end adds its results to
the ports and stores its records. (Rests on R241, R246, R247, R254, R255, R256, R290, R291, R387, R415.) -/
def Obligations.Maintenance : Prop :=
  (∀ (s s0 t : State) (q : QueueId) (j : Job) (bs : List Byte) (a : State × Bool), s.takes q (isOp 0x7A) j s0 → retireOk j = true →
    s0.given (j.refOn q) (j.p 0) (8 * (j.p 1).toNat) none t bs →
    a = ((List.range (j.p 1).toNat).map (wordAt bs)).foldl (fun a d => ((a.1.retireEntry d).1, a.2 || (a.1.retireEntry d).2)) (t, false) →
    exec (.retirePages q) s = .next (a.1.finishJob (j.refOn q) (if a.2 = true then 0x22 else 0) a.1.hbm.retired.length 0)) ∧
  (∀ (s : State) (dpa : Nat), dpa % 4096 = 0 → dpa < Config.memBytes → dpa ≠ s.regs.adminRoot →
    s.hbm.isRetired (dpa / 4096) = false → s.hbm.retired.length < Config.maxRetired →
    s.retireEntry dpa = (s.retire (dpa / 4096), false) ∧ (s.retire (dpa / 4096)).hbm.isRetired (dpa / 4096) = true ∧
    (∀ g, g / 64 = dpa / 4096 → g ∈ (s.retire (dpa / 4096)).hbm.poison)) ∧
  (∀ (s s0 : State) (q : QueueId) (r : TrafficResult) (j : Job), s.takes q (isOp 0x7C) j s0 → trafficOk j = true →
    (∀ t bs d, j.aux ≠ [1] → j.aux ≠ [2] → s0.reads (j.refOn q) (j.p 0).toNat 32 t bs → testAt bs = some d →
      exec (.runTrafficTest q r) s =
        .next ((t.setJob (j.refOn q) fun x => { x with aux := [2], data := bs }).trafficGo r (j.refOn q) d (j.p 1).toNat)) ∧
    (∀ d, j.aux = [2] → testAt j.data = some d →
      exec (.runTrafficTest q r) s = .next (s0.trafficGo r (j.refOn q) d (j.p 1).toNat)) ∧
    (∀ v, j.aux = [1] → s0.stores (j.refOn q) (j.p 1).toNat j.data none v →
      exec (.runTrafficTest q r) s = .next (v.finishJob (j.refOn q) 0 0 0))) ∧
  (∀ (s u v : State) (r m : TrafficResult) (jr : JobRef) (d : TestDesc) (dva : Nat),
    (s.model.res = none ∨ s.regions[ix 8 d.region].shadeLive ≠ 0 → s.cxl.heldIn d.base d.length = [] → m = s.testMeets d r →
      u = (s.testEffect d m).setJob jr (fun x => { x with aux := [1], data := s.testRecord d m }) →
      u.stores jr dva (s.testRecord d m) none v → s.trafficGo r jr d dva = v.finishJob jr 0 0 0) ∧
    (s.model.res ≠ none → s.regions[ix 8 d.region].shadeLive = 0 → s.trafficGo r jr d dva = s)) ∧
  (∀ (s s0 u : State) (q : QueueId) (j : Job) (t : LinkTest), s.takes q (isOp 0x7D) j s0 → linkOk j = true →
    (linkMode j = 3 → s0.fab.cfgLive ≠ none) → s0.fab.test = none →
    t = { job := j.refOn q, ports := (j.p 0).setWidth 16, mode := linkMode j, prbs13 := (j.p 0).getLsbD 18,
          peer := (j.p 0).field 32 14, start := s0.now, duration := 100 * (j.p 1).toNat, results := (j.p 2).toNat } →
    u = t.portList.foldl (fun s p => (s.setPort p fun y => { y with testing := true, busy := 0 }).movePort p .disabled)
      ({ s0 with fab := { s0.fab with test := some t } } : State) →
    exec (.linkTest q) s = .next (if linkMode j = 3 then t.portList.foldl (fun s p => s.runTest p 0 1) u else u)) ∧
  (∀ (s s0 : State) (f : Frame) (ok : Bool) (c : PortCfg), s.frameTest f.port.val = true → s0 = s.countFec f.port.val f.fec →
    s0.fab.cfgLive = some c → s0.alive = true → f.domain = c.domain → f.dstDev = c.device →
    (if f.srcDev = c.device then f.srcInc = s0.pkg.incarnation else ∃ p, s0.peer? f.srcDev = some p ∧ p.inc = f.srcInc ∧ p.lost = false) →
    f.dstInc = s0.pkg.incarnation →
    exec (.linkTestFrame f ok) s = .next ((if f.ce = true then s0.fabCtr fun k => { k with ceReceived := k.ceReceived + 1 } else s0).testSaw
      f.port.val ok)) ∧
  (∀ (s s0 t : State) (now : Nat) (rs : List LinkResult) (lt : LinkTest) (x : Job), s0 = s.advanceTo now → s0.fab.test = some lt →
    s0.alive = true → lt.duration ≤ s0.now - lt.start → rs.length = lt.portList.length → s0.job? lt.job = some x → x.halted = false →
    s0.stores lt.job lt.results ((lt.portList.zip rs).flatMap fun e => lt.record (nearest lt.duration 1000) e.1 e.2) none t →
    exec (.linkTestEnd now rs) s = .next (((((lt.portList.zip rs).foldl
      (fun s e => s.setPort e.1 (Port.addTest lt.mode e.2)) t).endTest lt.job).finishJob lt.job 0 0 0)))

/-! ## Messages, timers and ports (04, 05, 09, 11, 12) -/

/-- O27. LENT_READ, LENT_WRITE, LENT_CLAIM, LENT_RETURN and LENT_RESPONSE. For its claimant a lender answers a read with the page's
bytes as its staging cache and memory show them (those of a poisoned granule are free values, assumption 4), writes exactly the
marked sectors, and ends the lease at a return; an unclaimed lease goes to its borrower; an answer fills the frame that waits
under its tag and no other entry; an answer that says the lease is not there, is another's or is out of range poisons the lease,
and one that says it is claimed already does not. (Rests on R218, R228, R229, R230, R231, R232, R235, R273.) -/
def Obligations.LeaseMessages : Prop :=
  (∀ (s t : State) (f : Frame) (lease page tag : Nat) (l : Lent), s.receiveAny f 7 (lentReadBody lease page tag) = (t, true) →
    t.lentBy lease = some l → l.claimant = some (f.srcDev, f.srcInc) → page * 4096 < l.size →
    exec (.lentRead f lease page tag) s = .next ((t.lentPage l page tag).1.respond f lease 0 tag (some (t.lentPage l page tag).2))) ∧
  (∀ (s t : State) (f : Frame) (lease page tag : Nat) (l : Lent) (sectors : BitVec 64) (data : List Byte),
    s.receiveAny f 8 (lentWriteBody lease page tag sectors data) = (t, true) →
    t.lentBy lease = some l → l.claimant = some (f.srcDev, f.srcInc) → page * 4096 < l.size →
    exec (.lentWrite f lease page tag sectors data) s = .next
      ((t.putSectors (l.base + page * 4096) sectors data).respond f lease 0 tag none)) ∧
  (∀ (s : State) (l : Lent) (page tag i : Nat), s.poolOk → l.base % 4096 = 0 → i < 4096 → s.hbm.latent = [] →
    (s.tiers.sector ((l.base + page * 4096 + i) / 64) ≠ none ∨ (l.base + page * 4096 + i) / 64 ∉ s.hbm.poison) →
    ((s.lentPage l page tag).2)[i]? = some (s.byteAt (l.base + page * 4096 + i))) ∧
  (∀ (s : State) (base : Nat) (m : BitVec 64) (data : List Byte), s.memOk → s.poolOk → base % 4096 = 0 →
    data.length = 64 * ((List.range 64).filter fun i => m.getLsbD i).length →
    (∀ a, a < base ∨ base + 4096 ≤ a → (s.putSectors base m data).byteAt a = s.byteAt a) ∧
    (∀ i < 4096, m.getLsbD (i / 64) = false → (s.putSectors base m data).byteAt (base + i) = s.byteAt (base + i)) ∧
    ∀ n k, ((List.range 64).filter fun i => m.getLsbD i)[n]? = some k → ∀ i < 64,
      some ((s.putSectors base m data).byteAt (base + 64 * k + i)) = data[64 * n + i]?) ∧
  (∀ (s t : State) (f : Frame) (lease tag : Nat) (l : Lent), s.receiveAny f 0xA (lentControlBody lease 0 tag) = (t, true) →
    t.lentBy lease = some l → l.claimant = none → l.borrower = f.srcDev →
    exec (.lentClaim f lease tag) s = .next (({ t with tiers := { t.tiers with
      lent := t.tiers.lent.map fun (x : Lent) => if x.id = lease then { x with claimant := some (f.srcDev, f.srcInc) } else x } }).sendMsg
        f.srcDev false 9 (lentResponseBody lease 0 tag none))) ∧
  (∀ (s t : State) (f : Frame) (lease tag : Nat) (l : Lent), s.receiveAny f 0xA (lentControlBody lease 1 tag) = (t, true) →
    t.lentBy lease = some l → l.claimant = some (f.srcDev, f.srcInc) → 0 < l.size →
    exec (.lentReturn f lease tag) s = .next ((t.endLease l).sendMsg f.srcDev false 9 (lentResponseBody lease 0 tag none))) ∧
  (∀ (s t : State) (f : Frame) (lease result tag : Nat) (data : Option (List Byte)),
    s.receiveAny f 9 (lentResponseBody lease result tag data) = (t, true) →
    exec (.lentResponse f lease result tag data) s = .next (t.lentAnswer f lease result tag data).settle) ∧
  (∀ (s : State) (f : Frame) (lease tag p : Nat) (bs old : List Byte), s.borrowBy tag = none →
    s.tiers.tagged f.srcDev lease tag = some (p, old) → s.tiers.late f.srcDev lease p = [] →
    (s.lentAnswer f lease 0 tag (some bs)).tiers.pool =
        (s.tiers.onFrame f.srcDev lease p fun e => match e with | .frame l i n _ _ h _ => .frame l i n 0 bs h none | e => e).pool ∧
      (s.lentAnswer f lease 0 tag none).tiers.pool = (s.tiers.dropFrame f.srcDev lease p).pool ∧
      (s.lentAnswer f lease 0 tag (some bs)).hbm.mem = s.hbm.mem ∧ (s.lentAnswer f lease 0 tag (some bs)).queues = s.queues) ∧
  (∀ (s : State) (f : Frame) (lease result tag : Nat) (data : Option (List Byte)), s.borrowBy tag = none →
    s.tiers.tagged f.srcDev lease tag = none → s.lentAnswer f lease 0 tag data = s ∧
    (result = 1 ∨ result = 3 ∨ result = 4 → s.lentAnswer f lease result tag data = s.poisonLease f.srcDev lease) ∧
    s.lentAnswer f lease 2 tag data = s)

/-- O28. The checks on a received frame. A frame for another domain or device, or of a stale incarnation, is counted and has no
other effect; what the decoder corrected is counted at the port whatever becomes of the frame; nothing is received while the
package is dead; a duplicate is counted and not delivered; a new sequenced message is delivered and counted, and leaves queues,
memory and slots unchanged. (Rests on R272, R276, R278, R287.) -/
def Obligations.ReceiveChecks : Prop :=
  (∀ (s : State) (f : Frame) (c : PortCfg), s.alive = true → s.fab.cfgLive = some c → (s.port f.port.val).st = .up →
    (f.domain ≠ c.domain ∨ f.dstDev ≠ c.device) →
    s.receive f = ((s.countFec f.port.val f.fec).fabCtr fun k => { k with framesDroppedCheck := k.framesDroppedCheck + 1 }, false)) ∧
  (∀ (s : State) (f : Frame) (c : PortCfg) (p : Peer), s.alive = true → s.fab.cfgLive = some c → (s.port f.port.val).st = .up →
    f.domain = c.domain → f.dstDev = c.device → s.peer? f.srcDev = some p →
    (f.dstInc ≠ s.pkg.incarnation ∨ f.srcInc ≠ p.inc ∨ p.lost = true) →
    s.receive f = ((s.countFec f.port.val f.fec).fabCtr fun k => { k with framesStaleInc := k.framesStaleInc + 1 }, false)) ∧
  (∀ (s : State) (port : Nat) (x : FecSeen), (s.countFec port x).fab.ctr = s.fab.ctr ∧ (s.countFec port x).fab.peers = s.fab.peers ∧
    (s.countFec port x).queues = s.queues ∧ (s.countFec port x).hbm = s.hbm ∧
    ((s.port port).st = .up → s.alive = true →
      ((s.countFec port x).port port).fecCorrected = (s.port port).fecCorrected + x.codewords)) ∧
  (∀ (s t : State) (f : Frame) (b : Bool), s.receive f = (t, b) → s.alive = false → t = s ∧ b = false) ∧
  (∀ (s : State) (f : Frame) (p : Peer), s.rxCheck f false = .pass → f.ackValid = false → s.peer? f.srcDev = some p →
    (p.rx f.update).has f.seq = true → ∃ t, s.receive f = (t, false) ∧ t.fab.ctr.duplicates = s.fab.ctr.duplicates + 1 ∧
      t.fab.ctr.messagesDelivered = s.fab.ctr.messagesDelivered) ∧
  (∀ (s : State) (f : Frame) (p : Peer), s.rxCheck f false = .pass → f.ackValid = false → s.peer? f.srcDev = some p →
    (p.rx f.update).has f.seq = false → ∃ t, s.receive f = (t, true) ∧
      t.fab.ctr.messagesDelivered = s.fab.ctr.messagesDelivered + 1 ∧ t.queues = s.queues ∧ t.hbm = s.hbm ∧ t.slots = s.slots)

/-- O29. LOOKUP_REQUEST, LOOKUP_REPLY, POOLED_REPLY, REFLECTION_PUSH and PUSH_RELEASE. A received request joins the serving queue,
which is served in order of arrival within each region: a request that waits holds back those of its region and no other; each
request is answered by its own reply; replies are matched to the step's entries; a push goes to its reflection, and is released
when no step reads the spare slot. (Rests on R112, R117, R119, R131.) -/
def Obligations.LookupMessages : Prop :=
  (∀ (s t : State) (f : Frame) (m : ReqMsg) (ecc : EccList), s.receive f = (t, true) →
    exec (.lookupRequest f m ecc) s =
      .next (({ t with tabs := { t.tabs with serve := t.tabs.serve ++ [(f.srcDev, m)] } }.strike ecc).servePump)) ∧
  (∀ s : State, s.servePump = { (s.serveAll [] s.tabs.serve).1 with
    tabs := { (s.serveAll [] s.tabs.serve).1.tabs with serve := (s.serveAll [] s.tabs.serve).2 } }) ∧
  (∀ (s t : State) (blocked : List Nat) (src : Nat) (m : ReqMsg) (rest : List (Nat × ReqMsg)) (a : Answering), s.alive = true →
    s.msgRegion m ∉ blocked → (serveMsg m).go s = (.ok a, t) → a.silent = false →
    s.serveAll blocked ((src, m) :: rest) = (t.sendReply src m a).serveAll blocked rest) ∧
  (∀ (s : State) (blocked : List Nat) (src : Nat) (m : ReqMsg) (rest : List (Nat × ReqMsg)), s.msgRegion m ∈ blocked →
    s.serveAll blocked ((src, m) :: rest) = ((s.serveAll blocked rest).1, (src, m) :: (s.serveAll blocked rest).2)) ∧
  (∀ (s t : State) (f : Frame) (m : RepMsg), s.receive f = (t, true) →
    exec (.lookupReply f m) s = .next (t.takeReply f.srcDev m) ∧ exec (.pooledReply f m) s = .next (t.takeReply f.srcDev m)) ∧
  (∀ (s t : State) (f : Frame) (p : Push), s.receive f = (t, true) →
    exec (.reflectionPush f p) s = .next (t.takePush p.table p.row ⟨p.version, p.seam⟩ p.body)) ∧
  (∀ (s : State) (table row : Nat) (r : Reflection), s.reflection? table row = some r → s.alive = true → s.spareRead r = false →
    exec (.pushRelease table row) s = .next (s.releasePushes table row))

/-- O30. UPDATE_RECORD, EPOCH_CLOSE, EPOCH_READY and EPOCH_WRITE_BACK. Forwarded records that fit the update buffer are taken in
order; a marker is taken; an epoch that may be computed gets its overlays, which are written into the update buffer whatever
room it has (the model's choice, assumption 81), and waits for a seam; an applied epoch that no step below its seam still reads
is written back and its records freed; an epoch of which every contributor's records and marker have come closes. (Rests on
R138, R143, R144, R150, R153, R155.) -/
def Obligations.UpdateMessages : Prop :=
  (∀ (s t : State) (f : Frame) (rs : List UpdRec), (rs.map recBytes).sum ≤ s.bufFree → s.receive f = (t, true) →
    exec (.updateRecord f rs) s = .next (rs.foldl State.takeRecord t)) ∧
  (∀ (s t : State) (f : Frame) (m : Marker), s.receive f = (t, true) → exec (.epochClose f m) s = .next (t.takeMarker m)) ∧
  (∀ (s t : State) (n : Nat) (e : Epoch) (os : List Overlay), s.epoch? n = some e → s.alive = true → s.canCompute e = true →
    (buildOverlays n s.pkg.seamCount (s.epochUpds n)).go s = (.ok os, t) →
    exec (.epochReady n) s = .next ((os.foldl (fun s o => s.writeBuffer o.gran o.bytes.length) t).staged fun s =>
      ({ s with upd := { s.upd with overlays := s.upd.overlays ++ os } }).setEpoch n fun e => { e with ready := true })) ∧
  (∀ (s t : State) (n seam : Nat), s.upd.appliedSeams.find? (·.1 == n) = some (n, seam) → s.alive = true → s.lookupBelow seam = false →
    ((s.upd.overlays.filter fun o => o.epoch == n && o.seam.isSome).forM writeOverlay).go s = (.ok (), t) →
    exec (.epochWriteBack n) s = .next (t.freeRecs n)) ∧
  (∀ (s : State) (n : Nat) (e : Epoch), s.epoch? n = some e → e.closed = false → (∀ c ∈ e.contribs, e.missing c = false) →
    (s.tryClose n).epoch? n = some { e with closed := true })

/-- O31. Glints, acknowledgements, foreign frames and the transport's timers. A glint and an acknowledgement act on their peer; a
foreign frame is counted under its kind and does nothing else but what its codewords count; an expired message cuts its window
to half, at most once in 20 µs and never below 2, and is retransmitted on another port; an owed acknowledgement is sent 2 µs
later; a window of zero is probed; glints go out to the whole peer list at every interval; and a peer silent for three of its
intervals is presumed lost. That an ACK of class UPDATE is a probe, and that every space owed one gets its own acknowledgement,
are readings of the model (assumption 33). (Rests on R274, R275, R276, R279, R280, R281, R283, R304, R305, R306.) -/
def Obligations.TransportEvents : Prop :=
  (∀ (s t : State) (f : Frame) (g : GlintBody), s.receivePlain f true = (t, true) →
    exec (.glint f g) s = .next (t.takeGlint f.srcDev f.srcInc g)) ∧
  (∀ (s t : State) (f : Frame), s.receivePlain f false = (t, true) → f.update = false →
    exec (.ack f) s = .next (t.ackIn f).settle) ∧
  (∀ (s t : State) (f : Frame), s.receivePlain f false = (t, true) → f.update = true →
    exec (.ack f) s = .next ((t.ackIn f).setPeer f.srcDev fun p => p.setRx true fun r =>
      { r with owedSince := some (r.owedSince.getD (t.ackIn f).now) }).settle) ∧
  (∀ (s s0 : State) (p : PortId) (k : ForeignKind) (ce : Bool) (fec : FecSeen) (c : FabCounters), s0 = s.countFec p.val fec →
    s0.alive = true → s0.fab.cfgLive ≠ none →
    (s0.port p.val).st = .up ∨ (s0.port p.val).st = .degraded → s0.frameTest p.val = false →
    c = (match k with
      | .fcs => s0.fab.ctr
      | .notTransport => { s0.fab.ctr with framesForeign := s0.fab.ctr.framesForeign + 1 }
      | .check => { s0.fab.ctr with framesDroppedCheck := s0.fab.ctr.framesDroppedCheck + 1 }
      | .noBuffer => { s0.fab.ctr with rxDropped := s0.fab.ctr.rxDropped + 1 }) →
    exec (.foreignFrame p k ⟨ce, fec⟩) s = .next { s0 with fab := { s0.fab with ctr := c } }) ∧
  (∀ (s s0 : State) (now dev : Nat) (update : Bool) (seq t : Nat) (p : Peer) (m : TxMsg), s0 = s.advanceTo now →
    s0.peer? dev = some p → (p.tx update).unacked.find? (·.seq == seq) = some m → m.sentAt = some t → m.timer ≤ s0.now - t →
    s0.alive = true → m.expired = false → p.lost = false →
    exec (.retransmitTimer now dev update seq) s = .next ((s0.setPeer dev fun p => p.setTx update fun t =>
      (t.expire s0.now).setMsg seq fun m => { m with expired := true }).retransmit dev update seq)) ∧
  (∀ (t : TxSpace) (now : Nat), (∀ c, t.lastCut = some c → 2000 ≤ now - c) → (t.expire now).cwnd = max 2 (t.cwnd / 2)) ∧
  (∀ (s s0 : State) (now dev : Nat) (update : Bool) (t : Nat) (p : Peer), s0 = s.advanceTo now → s0.peer? dev = some p →
    (p.rx update).owedSince = some t → s0.alive = true → p.lost = false → 200 ≤ s0.now - t →
    exec (.ackTimer now dev update) s = .next ((List.range p.owes).foldl (fun s _ => s.sendPlain dev 0 []) s0)) ∧
  (∀ (s s0 : State) (now dev : Nat) (update : Bool) (t port : Nat) (p : Peer), s0 = s.advanceTo now → s0.peer? dev = some p →
    (p.tx update).probeAt = some t → s0.choosePort p none = some port → s0.alive = true → p.lost = false → t ≤ s0.now →
    exec (.windowProbe now dev update) s = .next ((s0.setPeer dev fun p =>
      { p.setTx update (fun t => { t with lastProbe := some s0.now }) with sprayPtr := port }).queueFrame port
        ⟨dev, 0, update, 0, false, []⟩)) ∧
  (∀ (s s0 : State) (now : Nat), s0 = s.advanceTo now → s0.alive = true → s0.fab.cfgLive ≠ none →
    s0.glintInterval ≤ s0.now - s0.fab.lastGlints →
    exec (.glintInterval now) s = .next ({ s0 with fab := { s0.fab with lastGlints := s0.now } }).sendGlints ∧
    ∀ t : State, t.sendGlints = t.peerList.foldl State.sendGlint t) ∧
  (∀ (s s0 : State) (now dev joined : Nat) (p : Peer), s0 = s.advanceTo now → s0.alive = true → s0.now % 4000 = 0 →
    (dev, joined) ∈ s0.fab.listed → s0.peer? dev = some p → p.lost = false → 3 * p.interval < s0.now - max p.lastGlint joined →
    exec (.livenessCheck now) s = .next s0.checkSilence.settle)

/-- O32. Training, light, lane faults, codewords and the two timers of a port. Training ends UP with light and DOWN without; a lane
fault takes the port DOWN; an uncorrectable codeword takes an UP port to DEGRADED for 100 ms; DOWN is followed by training after
10 ms; light is measured once in a millisecond, below +16.0 dBm it takes the port DOWN and at or above +16.5 dBm it clears
LASER_LOW; a first training that has not ended 50 ms after the self-check ends DOWN; a move changes that port alone and counts a
departure from UP. (Rests on R261, R286, R287, R481, R496.) -/
def Obligations.PortsMove : Prop :=
  (∀ (s s0 : State) (now : Nat) (p : PortId) (ok : Bool), s0 = s.portTime now → s0.portsLive = true → (s0.port p.val).st = .training →
    exec (.portTrainingDone now p ok) s = .next (s0.movePort p.val
      (if ok = true ∧ (s0.port p.val).laserLow = false ∧ (s0.port p.val).oeDark = false then .up else .down))) ∧
  (∀ (s s0 : State) (now : Nat) (p : PortId) (lanes : BitVec 8), s0 = s.portTime now → s0.portsLive = true →
    (s0.port p.val).st = .up ∨ (s0.port p.val).st = .degraded →
    exec (.laneFault now p lanes) s =
      .next ((s0.setPort p.val fun x => { x with laneFault := x.laneFault ||| lanes }).movePort p.val .down)) ∧
  (∀ (s s0 : State) (now : Nat) (p : PortId), s0 = s.portTime now → s0.portsLive = true → (s0.port p.val).st = .up →
    exec (.uncorrectableCodeword now p) s =
      .next ((s0.setPort p.val fun x => { x with fecUncorrectable := x.fecUncorrectable + 1 }).movePort p.val .degraded)) ∧
  (∀ (s s0 : State) (now : Nat) (p : PortId), s0 = s.portTime now → s0.portsLive = true → (s0.port p.val).st = .degraded →
    (exec (.uncorrectableCodeword now p) s = .next ((s0.setPort p.val fun x =>
        { x with fecUncorrectable := x.fecUncorrectable + 1 }).setPort p.val fun x => { x with since := s0.now })) ∧
    (10000000 ≤ s0.now - (s0.port p.val).since → exec (.degradedTimer now p) s = .next (s0.movePort p.val .up)) ∧
    (s0.now - (s0.port p.val).since < 10000000 → exec (.degradedTimer now p) s = .next s0)) ∧
  (∀ (s s0 : State) (now : Nat) (p : PortId), s0 = s.portTime now → s0.portsLive = true → (s0.port p.val).st = .down →
    1000000 ≤ s0.now - (s0.port p.val).since → exec (.retrainTimer now p) s = .next (s0.movePort p.val .training)) ∧
  (∀ (s s0 : State) (now : Nat) (p : PortId) (dbm : Int), s0 = s.portTime now → s0.portsLive = true →
    isDue Config.ms (s0.port p.val).laserAt s0.now = true →
    (1650 ≤ dbm → exec (.laserPowerReading now p dbm) s = .next (s0.setPort p.val fun x => { x with laserAt := s0.now, laserLow := false })) ∧
    (1600 ≤ dbm → dbm < 1650 → exec (.laserPowerReading now p dbm) s = .next (s0.setPort p.val fun x => { x with laserAt := s0.now })) ∧
    (dbm < 1600 → exec (.laserPowerReading now p dbm) s = .next
      (if (s0.port p.val).st ≠ .disabled ∧ (s0.port p.val).st ≠ .down then
         (s0.setPort p.val fun x => { x with laserAt := s0.now, laserLow := true }).movePort p.val .down
       else s0.setPort p.val fun x => { x with laserAt := s0.now, laserLow := true }))) ∧
  (∀ (s s0 : State) (now : Nat) (p : PortId) (dbm : Int), s0 = s.portTime now →
    isDue Config.ms (s0.port p.val).laserAt s0.now = false → exec (.laserPowerReading now p dbm) s = .next s0) ∧
  (∀ (s : State) (now limit : Nat), limit = s.boot.tSelfCheck + 5000000 →
    (s.alive = true → s.pkg.stage = .ports → limit < now → s.portTime now = (s.advanceTo limit).endTraining.advanceTo now) ∧
    (s.alive = false ∨ s.pkg.stage ≠ .ports ∨ now ≤ limit → s.portTime now = s.advanceTo now)) ∧
  (∀ (s : State) (p : Nat) (new : PortState), (s.port p).st ≠ new → s.pkg.stage = .service →
    ((s.movePort p new).port p).st = new ∧ ((s.movePort p new).port p).since = s.now ∧
    (∀ k, ix 16 k ≠ ix 16 p → ((s.movePort p new).port k).st = (s.port k).st) ∧
    ((s.movePort p new).port p).downEvents = (s.port p).downEvents + (if (s.port p).st = .up then 1 else 0))

/-! ## Bring-up, errors, power and temperature (18, 20, 21) -/

/-- O33. BOOT_CHUNK, BOOT_FINISH, BOOT_DISCARD and FIRMWARE_VERIFIED. A chunk makes BOOT_STATUS read BUSY, while which writes of the
boot window have no effect, and is in image memory at IMAGE_ADDR and nowhere else once time has passed (how long the copy takes
is the model's choice, assumption 48); a finish latches the length; a discard empties the image and returns to waiting, and
counts a rejection where the image had been rejected (that another discard counts none is a reading of R458, assumption 48); an
image whose form, key and signature are in order starts the firmware with its version and measurement, and any other is rejected
with the first failing reason. (Rests on R457, R458, R459, R494.) -/
def Obligations.BootWindow : Prop :=
  (∀ s : State, s.bootOpen = true → s.boot.imageAddr % 32768 = 0 → s.boot.imageAddr < 2 ^ 24 →
    exec .bootChunk s = .next { s with boot := { s.boot with state := .busy } }) ∧
  (∀ s : State, s.bootOpen = true → s.boot.imageAddr % 32768 ≠ 0 ∨ 2 ^ 24 ≤ s.boot.imageAddr →
    exec .bootChunk s = .next { s with boot := { s.boot with state := .rejected, reason := 1, lastReason := 1 } }) ∧
  (∀ (s : State) (o size : Nat) (v : Word), s.windows = true → s.boot.state = .busy → o < Bar.size .boot →
    (size = 4 ∨ size = 8) → o % size = 0 → exec (.registerWrite .boot o size v) s = .next s) ∧
  (∀ (s : State) (now : Nat), s.alive = true → s.boot.state = .busy → s.now < now → (s.advanceTo now).boot = s.boot.takeChunk) ∧
  (∀ (b : Boot), memWf b.image = true → memWf b.chunkBuf = true → ∀ a,
    memGet b.takeChunk.image a =
      if b.imageAddr ≤ a ∧ a < b.imageAddr + 32768 then memGet b.chunkBuf (a - b.imageAddr) else memGet b.image a) ∧
  (∀ s : State, s.bootOpen = true →
    exec .bootFinish s = .next { s with boot := { s.boot with state := .verifying, latchedLen := s.boot.imageLen } }) ∧
  (∀ s : State, s.bootOpen = true → s.boot.state ≠ .rejected →
    exec .bootDiscard s = .next { s with boot := { s.boot with state := .waiting, reason := 0, image := [], received := [] } }) ∧
  (∀ s : State, s.windows = true → s.alive = true → s.boot.state = .rejected →
    exec .bootDiscard s = .next { s with
      boot := { s.boot with state := .waiting, reason := 0, image := [], received := [], rejected := s.boot.rejected + 1 } }) ∧
  (∀ (s s0 : State) (now linked : Nat), s0 = s.advanceTo now → s0.alive = true → s0.boot.state = .verifying →
    exec (.firmwareVerified now linked) s = .next (if s0.bootReason = 0 then
        ({ s0 with boot := { s0.boot with state := .verified, reason := 0, fwVersion := s0.boot.num 12 4 }
                   sec := { s0.sec with mrFirmware := digest s0.boot.signed } } : State).startFirmware linked
      else { s0 with boot := { s0.boot with state := .rejected, reason := s0.bootReason, lastReason := s0.bootReason } })) ∧
  (∀ (s : State) (b : Boot), b = s.boot →
    (s.bootReason = 2 ↔ ∃ k < ceilDiv b.latchedLen 32768, k ∉ b.received) ∧
    (s.bootReason = 0 ↔ b.complete = true ∧ b.formed = true ∧ digest b.key = s.fuses.fwKeyHash ∧ b.signatureOk = true) ∧
    (b.complete = true → b.formed = true → digest b.key = s.fuses.fwKeyHash → b.signatureOk = false → s.bootReason = 3)) ∧
  (∀ (s : State) (linked : Nat), (s.startFirmware linked).pkg.stage = .hbmTraining ∧ (s.startFirmware linked).pkg.memInfoValid = true ∧
    (s.startFirmware linked).recorder.clearCount = s.recorder.clearCount)

/-- O34. Power, PERST_N, the link, stack training, the self-check and the V_BASE search. Power loss and PERST_N leave the rest of
the MRAM, the fuses and the recorder's records (power loss tears at most the newest record, written in that instant, and cuts
off the engine's write of the leaf index, copy A before copy B) and otherwise the reset state; the release of PERST_N draws the
first incarnation that is neither 0 nor the last, counts a power cycle and starts every region at 750 mV; a write of the
recorder that fails its read-back is package-fatal with cause 9; each stage follows the one before; a self-check lists and
poisons exactly the failing pages and gives memory; while a region searches its output steps down, V_BASE is a step that it has
come to and becomes the set point, and no stack trains (that the search ends at 600 mV at the latest is the model's choice,
assumption 75); a STRAP_TEST that does not read 0 is a host error of device scope (assumption 74). (Rests on R257, R258, R275,
R444, R448, R453, R472, R488, R490, R493, R496, R512.) -/
def Obligations.PowerAndReset : Prop :=
  (∀ s : State, s.pkg.powered = false → exec .powerUp s = .next { s with pkg := { s.pkg with powered := true, cxlTx := .idle } }) ∧
  (∀ s : State, exec .powerLoss s = .next (s.cutWrites.afresh false)) ∧
  (∀ s : State, s.cutWrites.recorder = (if Config.cutOff s.now = true then s.recorder.tear s.now else s.recorder) ∧
    (s.leafInWrite = false → s.cutWrites.mram = s.mram) ∧
    s.cutWrites.mram.lastIncarnation = s.mram.lastIncarnation ∧ s.cutWrites.mram.enrolled = s.mram.enrolled ∧
    ∀ n, s.mram.leaf = some n → s.leafInWrite = true → n < Config.leaves → s.cutWrites.mram = s.mram.cut n (Config.cutLeaf s.now)) ∧
  (∀ (m : Mram) (n : Nat) (k : Fin 4), (m.cut n k).leafB = m.leafB ∨ (m.cut n k).leafA = Copy.leaf (n + 1)) ∧
  (∀ (r : Recorder) (now : Nat), (r.tear now).held = r.held ∧ (∀ i, i + 1 < r.held → (r.tear now).records[i]? = r.records[i]?) ∧
    (r.wroteAt ≠ some now → r.tear now = r)) ∧
  (∀ s : State, s.pkg.powered = true → s.pkg.perstN = true → s.pkg.tripped = false → exec .perstAssert s = .next (s.afresh true)) ∧
  (∀ (s : State) (p : Bool), (s.afresh p).recorder.records = s.recorder.records ∧ (s.afresh p).mram = s.mram ∧
    (s.afresh p).fuses = s.fuses ∧ (s.afresh p).hbm.mem = [] ∧ (s.afresh p).model.res = none ∧ (s.afresh p).pkg.seamCount = 0 ∧
    (s.afresh p).pkg.elapsed = 0 ∧ (s.afresh p).queues = State.reset.queues ∧ (s.afresh p).ctxs = State.reset.ctxs ∧
    (s.afresh p).pkg.powered = p ∧ (s.afresh p).pkg.perstN = false) ∧
  (∀ (s : State) (draws : List (BitVec 32)) (straps : BitVec 4) (bad : List Nat) (d : BitVec 32), s.pkg.powered = true → s.pkg.perstN = false →
    draws.find? (fun d => d ≠ 0 && d.toNat ≠ s.mram.lastIncarnation) = some d →
    ∀ t, t = State.recorderWrite { s with
      pkg := { s.pkg with perstN := true, straps := straps, stage := .rom, readyPin := .low, cxlTx := .active, incarnation := d.toNat }
      recorder := { s.recorder with badWrites := bad }
      mram := { s.mram with lastIncarnation := d.toNat }
      fab := { s.fab with ports := s.fab.ports.map fun x => { x with st := .training } }
      regions := s.regions.map fun r => { r with setpoint := 750, output := 7500, searching := true } }
        (fun r => { r with powerCycles := r.powerCycles + 1 }) →
    exec (.perstRelease ⟨draws, bad⟩ straps) s = .next (if straps.getLsbD 3 = true then t.wrecked .device else t)) ∧
  (∀ (s : State) (f : Recorder → Recorder),
    (s.recorder.badWrites.contains s.recorder.writes = false →
      s.recorderWrite f = { s with recorder := { f { s.recorder with wroteAt := none } with writes := s.recorder.writes + 1 } }) ∧
    (s.recorder.badWrites.contains s.recorder.writes = true → s.err.failed = none → s.err.fatal = none →
      (s.recorderWrite f).err.fatal = some (9, none))) ∧
  (∀ (s s0 : State) (now width rate : Nat), s0 = s.advanceTo now → s0.alive = true → s0.pkg.stage = .rom →
    width = 4 ∨ width = 8 ∨ width = 16 → rate = 1 ∨ rate = 2 →
    exec (.linkTrained now width rate) s = .next { s0 with
      pkg := { s0.pkg with stage := .linked }, cxl := { s0.cxl with linkUp := true, width := width, rate := rate } }) ∧
  (∀ (s s0 : State) (now : Nat), s0 = s.advanceTo now → s0.alive = true → s0.pkg.stage = .hbmTraining →
    (∀ r : RegionId, s0.regions[r].searching = false) → s0.now - s0.boot.tLink ≤ 10000000 →
    exec (.stackTrainingDone now false) s = .next { s0 with
      pkg := { s0.pkg with stage := .selfCheck }, boot := { s0.boot with tStacks := s0.now }
      hbm := { s0.hbm with stk := s0.hbm.stk.map fun k => { k with trained := true } } }) ∧
  (∀ (s s0 : State) (now : Nat), s0 = s.advanceTo now → s0.alive = true → s0.pkg.stage = .selfCheck →
    exec (.selfCheckDone now [] false) s = .next ({ s0 with
      hbm := { s0.hbm with mem := [], poison := [], report := [] }, regs := { s0.regs with adminRoot := 0 }
      pkg := { s0.pkg with stage := .ports, memActive := true }, boot := { s0.boot with tSelfCheck := s0.now } }).bringupReady) ∧
  (∀ (s s0 : State) (now : Nat) (bad pages : List Nat), s0 = s.advanceTo now → s0.alive = true → s0.pkg.stage = .selfCheck →
    pages = (bad.filter fun p => p * 4096 < Config.memBytes).eraseDups → pages ≠ [] → pages.length ≤ Config.maxRetired →
    ∃ t, exec (.selfCheckDone now bad false) s = .next t ∧ t.hbm.report = pages ∧ t.hbm.mem = [] ∧ t.pkg.memActive = true ∧
      (∀ g, g ∈ t.hbm.poison ↔ g / 64 ∈ pages) ∧ t.regs.adminRoot / 4096 ∉ pages) ∧
  (∀ (s : State) (r : RegionId) (v p0 p1 : Nat), s.alive = true → s.regions[r].searching = true → 600 ≤ v → v ≤ 750 → v % 5 = 0 →
    s.regions[r].output ≤ 10 * v →
    exec (.vBaseFound r v p0 p1) s = .next (s.setRegion r.val fun g =>
      { g with searching := false, vBase := v, setpoint := v, ramp := 0, proc0 := p0, proc1 := p1 })) ∧
  (∀ g : Region, g.searching = true → g.limiting = false → 600 ≤ g.ceilLive → g.heading = 6000)

/-- O35. Package-fatal causes and the order of error handling. The first fatal cause fails the package: FAULT_N low, READY released,
waiting errors dropped, the record written where the recorder takes it (never for cause 9), with the instant of detection, and
queues, slots, memory, registers and MRAM unchanged; two causes are reported by their parts, and the command processors' silence
of 100 ms by ELAPSED_NS is one (that each thing they do is an answer is a reading, assumption 79); an error is handled action by
action, those of the highest class first, one of a higher class suspending the handling in progress; an OPEN context's error
takes the actions of its class and another only its record (for a CLOSED context a reading, assumption 51); and a context-class
error leaves its context LOST and its queues STOPPED with its first action. That one command carries out the next action that
can be carried out is the model's choice (assumption 23). (Rests on R421, R422, R439, R440, R441, R442, R443, R444, R445, R449,
R499.) -/
def Obligations.FatalErrors : Prop :=
  (∀ (s s0 : State) (now cause : Nat) (r : Option FaultRec), s0 = s.advanceTo now → s0.err.fatal = some (cause, r) →
    s0.err.failed = none → ∃ t, exec (.fatalSequence now) s = .next t ∧ t.err.failed = some cause ∧ t.err.fatal = none ∧
      t.err.pending = [] ∧ t.err.handling = [] ∧ (s0.recorder.badWrites = [] → t.err.causesSeen = s0.err.causesSeen) ∧
      t.pkg.faultN = .low ∧ t.pkg.readyPin = .released ∧ (s0.pkg.tripped = true → t.pkg.thermtripN = .low) ∧ t.alive = false ∧
      t.queues = s0.queues ∧ t.slots = s0.slots ∧ t.hbm = s0.hbm ∧ t.regs = s0.regs ∧ t.mram = s0.mram ∧
      (cause ≠ 9 → s0.recorder.takes 0xF0 = true → t.recorder.records.length = s0.recorder.records.length + 1)) ∧
  (∀ (s s0 : State) (now : Nat), s0 = s.advanceTo now →
    (s0.alive = true → s0.pkg.cpAt + 10000000 ≤ s0.now → exec (.cpLivenessTimeout now) s = .next (s0.raiseFatal 7 none)) ∧
    (s0.now < s0.pkg.cpAt + 10000000 → exec (.cpLivenessTimeout now) s = .next s0)) ∧
  (∀ s : State, s.alive = true → exec .securityEngineFailure s = .next (s.raiseFatal 8 none) ∧
    exec .bridgeUncorrectable s = .next (s.raiseFatal 1 none)) ∧
  (∀ (s : State) (cause : Nat) (r : Option FaultRec), s.err.failed = none → s.err.fatal = none →
    s.raiseFatal cause r = { s with err := { s.err with
      fatal := some (cause, r), fatalAt := (s.pkg.elapsed, s.pkg.seamCount), causesSeen := 2 ^ cause } }) ∧
  (∀ (s t : State), s.alive = true → t = s.overHandled.handleNext.overHandled →
    exec .errorHandling s = .next (if t.serving = true then t.choose.settle else t)) ∧
  (∀ (s : State) (d : Detected), s.nextError = some d →
    (s.current = none → s.handleNext = s.beginHandling d) ∧
    (∀ h, s.current = some h → s.handleNext = if h.err.cls < d.cls then s.beginHandling d else s.proceed h)) ∧
  (∀ (s : State) (h : Handling), s.nextError = none → s.current = some h → s.handleNext = s.proceed h) ∧
  (∀ (s : State) (d : Detected), s.nextError = some d → d ∈ s.err.pending ∧ s.blocked ⟨d, s.actionsOf d⟩ = false ∧
    ∀ e ∈ s.err.pending, s.blocked ⟨e, s.actionsOf e⟩ = false → e.cls ≤ d.cls) ∧
  (∀ (s : State) (d : Detected), (d.cls = 0 → s.actionsOf d = [.record, .event]) ∧
    (d.cls = 1 → d.ctx = 0 ∨ (s.ctx d.ctx).st = .opened → s.actionsOf d = [.record, .abandon, .discard, .event, .finish]) ∧
    (d.cls ≠ 0 → d.ctx ≠ 0 → (s.ctx d.ctx).st ≠ .opened → s.actionsOf d = [.record]) ∧
    (1 < d.cls → d.ctx = 0 ∨ (s.ctx d.ctx).st = .opened →
      s.actionsOf d = [.lose, .record, .event, .causing, .others, .steps, .grid])) ∧
  (∀ (s : State) (d : Detected) (c : Nat), d.cls = 2 → d.ctx = c → c ≠ 0 → c < 64 → (s.ctx c).st = .opened →
    ((s.beginHandling d).ctx c).st = .lost ∧
    ∀ q < 64, (s.queue q).ctx = c → (s.queue q).st ≠ .unbound →
      ((s.beginHandling d).queue q).st = .stopped ∧ ((s.beginHandling d).queue q).cause = 4)

/-- O36. CLUSTER_BARRIER, CLUSTER_HUNG and RECOVERY_CHECK_DONE. Where all five streams of a working cluster stand at a barrier word
and no unit is stopped, all five pass it together; a working cluster without progress for 10 ms is an error of its share (what
counts as progress is the model's reading, assumption 7); a recovery check without a mismatch frees the cluster and one with
mismatches withdraws it and is an error of class corrected, whose handling writes its record. (Rests on R21, R22, R24, R438.) -/
def Obligations.ClustersGoOn : Prop :=
  (∀ (s : State) (c : ClusterId) (x : Cluster), x = s.cls[c] → (s.working c.val).isSome = true →
    x.mre.faulted = false → x.ve0.faulted = false → x.ve1.faulted = false → x.ru.faulted = false → x.dma.faulted = false →
    (∀ l ∈ [x.mre.stream, x.ve0.stream, x.ve1.stream, x.ru.stream, x.dma.stream], l.head? = some (BitVec.allOnes 128)) →
    exec (.clusterBarrier c) s = .next (s.setCl c.val fun x => { x with
      mre := { x.mre with stream := x.mre.stream.tail, pos := x.mre.pos + 1 }
      ve0 := { x.ve0 with stream := x.ve0.stream.tail, pos := x.ve0.pos + 1 }
      ve1 := { x.ve1 with stream := x.ve1.stream.tail, pos := x.ve1.pos + 1 }
      ru := { x.ru with stream := x.ru.stream.tail, pos := x.ru.pos + 1 }
      dma := { x.dma with stream := x.dma.stream.tail, pos := x.dma.pos + 1 }
      barriers := x.barriers + 1 })) ∧
  (∀ (s s0 : State) (now i : Nat) (c : ClusterId) (st : Step), s0 = s.advanceTo now → s0.slotOfCluster c.val = some i →
    (s0.slot i).step = some st → s0.serving = true → s0.worksOn c.val i st = true → 1000000 ≤ s0.now - (s0.cl c.val).progress →
    exec (.clusterHung now c) s = .next ((s0.detect (s0.hungError c.val i st)).setStep i fun st => { st with hung := c.val :: st.hung })) ∧
  (∀ (s : State) (c : ClusterId), s.alive = true → (s.cl c.val).owner = .check →
    exec (.recoveryCheckDone c 0) s = .next (s.setCl c.val fun x => { x with owner := .free }).choose ∧
    ∀ n, n ≠ 0 → exec (.recoveryCheckDone c n) s = .next ((s.setCl c.val fun x => { x with owner := .withdrawn }).detect
      { cls := 0, event := some { code := 0x14, payload := leBytes 4 c.val ++ leBytes 4 n } }))

/-- O37. REGION_SUPPLY, CONTROL_LOOP, PACE_SAMPLE, REGION_IDLE, REGION_WAKE, HOURS_TICK and the temperature readings. The loop moves
its set point by 5 mV towards the target pace within 600 mV and its ceiling and holds it within 1 %; a region draws at most 30
A, its output below the set point while limiting, and the package at most 20 A; samples are the means of the measurements of the
millisecond that ended last, compared with the pace floors; each happens once in its period; a region whose clusters, engines,
controller and served requests have had nothing to do for 100 µs goes idle, and work brings it back; a rail outside 550 to 900
mV for 10 µs is fatal; a stack's throttle level follows its temperature with hysteresis and 105 °C is fatal; two readings of 110
°C trip every regulator and stop the stacks; an optical engine above 95 °C, or whose sensor is faulted, goes dark; sensors and
the hours counter go on in the failed state. What counts as work, that a period is one of ELAPSED_NS's multiples and that a wake
starts the loop are the model's choice (assumption 2), as when a measurement is taken, VMON is updated and what a faulted
engine's record holds (assumption 49). (Rests on R16, R250, R309, R448, R473, R474, R475, R478, R480, R481, R482, R483.) -/
def Obligations.RegionControl : Prop :=
  (∀ (s s0 : State) (now v0 v1 : Nat) (r : RegionId), s0 = s.advanceTo now → s0.watched = true →
    (550 ≤ v0 → v0 ≤ 900 → 550 ≤ v1 → v1 ≤ 900 → exec (.regionSupply now r v0 v1) s =
      .next (s0.setRegion r.val fun g => { g with vmon0 := v0, vmon1 := v1, outside := [none, none] })) ∧
    (s0.regions[r].outside.getD 0 none = none → s0.regions[r].outside.getD 1 none = none →
      exec (.regionSupply now r v0 v1) s = .next (s0.setRegion r.val (Region.supply s0.now v0 v1)))) ∧
  (∀ (s s0 : State) (now v0 v1 since : Nat) (r : RegionId), s0 = s.advanceTo now → s0.alive = true → s0.pkg.tripped = false →
    ((v0 < 550 ∨ 900 < v0) ∧ s0.regions[r].outside.getD 0 none = some since) ∨
      ((v1 < 550 ∨ 900 < v1) ∧ s0.regions[r].outside.getD 1 none = some since) → since + 1000 ≤ s0.now →
    ∃ t, exec (.regionSupply now r v0 v1) s = .next t ∧ t.err.fatal = some (0x0B, none)) ∧
  (∀ (since : Option Nat) (now v : Nat), outsideSince since now v =
    if v < 550 ∨ 900 < v then (match since with | some t => some t | none => some now) else none) ∧
  (∀ (s s0 : State) (now a b current : Nat) (limit : Option Nat) (r : RegionId) (g : Region), s0 = s.advanceTo now → s0.alive = true →
    g = s0.regions[r] → s0.now % 1000 = 0 → s0.now ≠ g.loopAt → g.idle = false → g.searching = false →
    (g.resumed = false → g.loopAt + 1000 = s0.now →
      exec (.controlLoop now r a b current limit) s = .next (((s0.meter r.val current limit).thermal r.val).setRegion r.val fun g =>
        { g with setpoint := g.clampTo (g.step (min a b)), meas := g.meas ++ [(s0.now, a, b)] })) ∧
    (g.resumed = true → g.output = g.heading → exec (.controlLoop now r a b current limit) s =
      .next (((s0.meter r.val current limit).thermal r.val).setRegion r.val fun g => { g with resumed := false })) ∧
    (g.resumed = false → g.loopAt + 1000 ≠ s0.now → exec (.controlLoop now r a b current limit) s =
      .next (((s0.meter r.val current limit).thermal r.val).setRegion r.val fun g => { g with resumed := false }))) ∧
  (∀ (s : State) (r current : Nat) (limit : Option Nat) (g : Region), g = (s.meter r current limit).regions[ix 8 r] →
    g.current = min current 3000 ∧ g.limiting = limit.isSome ∧ (s.meter r current limit).power.pkgCurrent ≤ 2000 ∧
    (limit.isSome = true → 0 < g.setpoint → g.limitTo < 10 * g.setpoint)) ∧
  (∀ (g : Region) (pace : Nat), g.state = .normal → 600 ≤ g.setpoint → g.setpoint ≤ min 850 g.ceilLive →
    (1600 * pace < 990000 → g.clampTo (g.step pace) = min (g.setpoint + 5) (min 850 g.ceilLive)) ∧
    (990000 ≤ 1600 * pace → 1600 * pace ≤ 1010000 → g.clampTo (g.step pace) = g.setpoint) ∧
    (1010000 < 1600 * pace → g.clampTo (g.step pace) = max 600 (g.setpoint - 5))) ∧
  (∀ (s s0 s1 : State) (now : Nat) (r : RegionId) (g : Region) (ms : List (Nat × Nat × Nat)), s0 = s.advanceTo now → s0.alive = true →
    g = s0.regions[r] → isDue Config.ms g.sampleAt s0.now = true → ms = g.lastMs s0.now →
    s1 = s0.setRegion r.val (fun g => { g with
      sampleAt := s0.now, meas := g.meas.filter fun m => s0.now / Config.ms * Config.ms < m.1 }) →
    (ms = [] → exec (.paceSample now r) s = .next (s1.countPace r.val false)) ∧
    (ms ≠ [] → exec (.paceSample now r) s = .next ((s1.setRegion r.val fun g => { g with
      paceMre := meanOf (ms.map (·.2.1)), paceGe := meanOf (ms.map (·.2.2)) }).countPace r.val
        (meanOf (ms.map (·.2.1)) < s0.dim.cfgLive.field 16 16 || meanOf (ms.map (·.2.2)) < s0.dim.cfgLive.field 32 16)))) ∧
  (∀ (g : Region) (now stop : Nat) (m : Nat × Nat × Nat), stop = now / Config.ms * Config.ms →
    (m ∈ g.lastMs now ↔ m ∈ g.meas ∧ stop < m.1 + Config.ms ∧ m.1 ≤ stop)) ∧
  (∀ (s s0 : State) (now : Nat) (r : RegionId), s0 = s.advanceTo now → s0.alive = true → s0.regions[r].searching = false →
    (∀ c, c = 2 * r.val ∨ c = 2 * r.val + 1 →
      ((s0.cl c).owner = .free ∨ (s0.cl c).owner = .withdrawn) ∧ 100 * Config.us ≤ s0.now - (s0.cl c).progress) →
    100 * Config.us ≤ s0.now - s0.regions[r].workAt → (∀ m ∈ s0.tabs.serve, s0.msgRegion m.2 ≠ r.val) →
    exec (.regionIdle now r) s = .next (s0.setRegion r.val fun g => { g with idle := true, limiting := false })) ∧
  (∀ (s : State) (r : RegionId), s.regions[r].idle = true → (s.atWork r.val).regions[r].idle = false ∧
    (s.atWork r.val).regions[r].resumed = true ∧ (s.atWork r.val).regions[r].workAt = s.now) ∧
  (∀ (s s0 : State) (now : Nat) (r : RegionId), s0 = s.advanceTo now → s0.alive = true → s0.regions[r].idle = true →
    exec (.regionWake now r) s = .next (s0.setRegion r.val fun g => { g with idle := false, resumed := true })) ∧
  (∀ (s s0 : State) (now : Nat), s0 = s.advanceTo now → s0.watched = true → 1406250000 ≤ s0.now - s0.recorder.hoursMark →
    exec (.hoursTick now) s =
      .next (s0.recorderWrite fun r => { r with hours := r.hours + 1, hoursMark := r.hoursMark + 1406250000 })) ∧
  (∀ (s s0 : State) (now : Nat) (r : RegionId) (v : Int), s0 = s.advanceTo now → s0.watched = true → s0.hbm.stk[r].trained = true →
    isDue Config.ms s0.hbm.stk[r].readAt s0.now = true → -40 ≤ v → v ≤ 105 →
    exec (.hbmTempReading now r (some v)) s = .next (s0.setStack r.val fun k =>
      { k with temp := v, badReads := 0, sensorFault := false, level := k.level.next v, readAt := s0.now })) ∧
  (∀ (s s0 : State) (now : Nat) (r : RegionId) (v : Int), s0 = s.advanceTo now → s0.alive = true → s0.hbm.stk[r].trained = true →
    isDue Config.ms s0.hbm.stk[r].readAt s0.now = true → 105 < v → v ≤ 150 → s0.hbm.stk[r].level ≠ .stop →
    ∃ t, exec (.hbmTempReading now r (some v)) s = .next t ∧ t.err.fatal = some (2, none) ∧
      t.hbm.stk[r].level = .stop) ∧
  (∀ v : Int, Level.next .stop v = .stop) ∧
  (∀ (l : Level) (v : Int), l ≠ .stop → (v ≤ 82 → l.next v = .full) ∧ (85 < v → v ≤ 92 → l = .full → l.next v = .l75) ∧
    (95 < v → v ≤ 105 → l.next v = .l50) ∧ (92 < v → v ≤ 95 → l = .l50 → l.next v = .l50) ∧
    (92 < v → v ≤ 95 → l ≠ .l50 → l.next v = .l75) ∧ (105 < v → l.next v = .stop)) ∧
  (∀ (s s0 : State) (now : Nat) (r : RegionId) (i : Fin 4) (v : Int), s0 = s.advanceTo now → s0.watched = true →
    isDue (10 * Config.us) (s0.regions[r].readAt.getD i 0) s0.now = true → -640 ≤ v → v < 1760 →
    exec (.tempSensorReading now r i (some v)) s = .next ((s0.setRegion r.val fun g => { g with
      readAt := g.readAt.set i s0.now, temps := g.temps.set i v, bad := g.bad.set i 0, faulted := g.faulted.set i false, hot := g.hot.set i 0 }).reheat r.val)) ∧
  (∀ (s s0 : State) (now : Nat) (r : RegionId) (i : Fin 4) (v : Int), s0 = s.advanceTo now → s0.alive = true →
    isDue (10 * Config.us) (s0.regions[r].readAt.getD i 0) s0.now = true → 1760 ≤ v → v ≤ 2400 → 1 ≤ s0.regions[r].hot.getD i 0 → ∃ t, exec (.tempSensorReading now r i (some v)) s = .next t ∧ t.pkg.tripped = true ∧
      (∀ k : RegionId, t.regions[k].output = 0 ∧ t.hbm.stk[k].level = .stop) ∧ t.alive = false) ∧
  (∀ (s s0 : State) (now : Nat) (e : EngineId) (v : Int), s0 = s.advanceTo now → s0.alive = true →
    isDue Config.ms s0.oes[e].readAt s0.now = true → -640 ≤ v → v ≤ 1440 →
    exec (.oeTempReading now e (some v)) s = .next ((s0.setOe e.val fun x => { x with
      temp := v, tempMax := max x.tempMax v, bad := 0, fault := false, hot := false, readAt := s0.now }).darken e.val false)) ∧
  (∀ (s s0 : State) (now : Nat) (e : EngineId) (v : Int), s0 = s.advanceTo now → s0.alive = true →
    isDue Config.ms s0.oes[e].readAt s0.now = true → 1520 < v → v ≤ 2400 → s0.oes[e].hot = false →
    exec (.oeTempReading now e (some v)) s = .next (((s0.setOe e.val fun x => { x with
      temp := v, tempMax := max x.tempMax v, bad := 0, fault := false, hot := true, readAt := s0.now }).recordEvent
        { code := 0x52, payload := leBytes 2 e.val ++ leBytes 2 (twos 16 v) }).darken e.val true)) ∧
  (∀ (s s0 : State) (now : Nat) (e : EngineId), s0 = s.advanceTo now → s0.alive = true →
    isDue Config.ms s0.oes[e].readAt s0.now = true → s0.oes[e].bad = 2 → s0.oes[e].fault = false → s0.oes[e].hot = false →
    exec (.oeTempReading now e none) s = .next ((((s0.setOe e.val fun x => { x with
      bad := x.bad + 1, fault := true, hot := true, readAt := s0.now }).recordEvent
        { code := 0x51, payload := leBytes 4 (1 + e.val * 16) }).recordEvent
        { code := 0x52, payload := leBytes 2 e.val ++ leBytes 2 0x8000 }).darken e.val true))


/-! ## The host's side (13, 14) -/

/-- O38. HOST_MEM_READ, HOST_MEM_WRITE and BISNP_RESPONSE. A host address is the HDM base plus the DPA; the host reads the line as
the coherence point shows it, and is listed in the snoop filter when it keeps it; its write lands on its 64 bytes and no other
and leaves queues, registers, contexts and the filter; an answer is that to the oldest back-invalidation of its line: a line
given up leaves the filter, and modified data, poisoned where the answer says so, go to memory. A read that meets an
uncorrectable error in either half poisons that granule alone and counts it, a read of a poisoned granule is a touch and is
counted, and corrected errors are counted, each half's, and give the data, unless their record waits for room in the fault queue
and holds the access (R382). (Rests on R220, R241, R243, R244, R245, R316, R317, R318, R319, R446.) -/
def Obligations.HostMemory : Prop :=
  (∀ (s : State) (hpa dpa : Nat), s.dpaOf hpa = some dpa ↔
    hpa % 64 = 0 ∧ hpa = s.cxl.hdmBase + dpa ∧ dpa < Config.memBytes) ∧
  (∀ (s t : State) (hpa dpa : Nat) (ecc : EccList), s.dpaOf hpa = some dpa → s.memOpen = true →
    (∀ d, (readGran hostAgent (dpa / 64)).go (s.strike ecc) = (.ok d, t) →
      exec (.hostMemRead hpa .none ecc) s = .next (t.emit (.memData hpa d false false))) ∧
    ∀ f, (readGran hostAgent (dpa / 64)).go (s.strike ecc) = (.error f, t) →
      exec (.hostMemRead hpa .none ecc) s = .next ((t.accError hostAgent f).poisonedRead hpa (memRead t.hbm.mem dpa 64))) ∧
  (∀ (s t : State) (hpa dpa : Nat) (excl : Bool) (ecc : EccList) (d : List Byte), s.dpaOf hpa = some dpa → s.memOpen = true →
    (readGran hostAgent (dpa / 64)).go ((s.strike ecc).filterAdd dpa excl) = (.ok d, t) →
    exec (.hostMemRead hpa (if excl = true then .exclusive else .shared) ecc) s = .next (t.emit (.memData hpa d false false))) ∧
  (∀ (s t : State) (hpa dpa : Nat) (data : List Byte), s.memOk → s.poolOk → s.dpaOf hpa = some dpa → dpa % 64 = 0 →
    data.length = 64 → s.memOpen = true → exec (.hostMemWrite hpa data false) s = .next t →
    (∀ i (h : i < data.length), t.byteAt (dpa + i) = data[i]) ∧ (∀ a, a < dpa ∨ dpa + 64 ≤ a → t.byteAt a = s.byteAt a) ∧
    t.queues = s.queues ∧ t.regs = s.regs ∧ t.ctxs = s.ctxs ∧ t.cxl = s.cxl) ∧
  (∀ (s : State) (hpa dpa : Nat) (data : List Byte) (poison : Bool), s.dpaOf hpa = some dpa → data.length = 64 →
    s.memOpen = true → exec (.hostMemWrite hpa data poison) s = .next (s.hostPut (dpa / 64) data poison)) ∧
  (∀ (s : State) (line : Nat) (inv : Bool) (a b : List (Nat × Bool)), s.alive = true → s.cxl.snoops = a ++ (line, inv) :: b →
    (∀ x ∈ a, x.1 ≠ line) →
    exec (.bisnpResponse line none) s = .next ({ s with cxl := { s.cxl with
      filter := if inv = true then s.cxl.filter.filter (·.line ≠ line)
        else s.cxl.filter.map fun (e : FilterEntry) => if e.line = line then { e with excl := false } else e
      snoops := a ++ b } }).settle ∧
    ∀ d p, (s.bisnpAnswer line (some ⟨d, p⟩)).hbm = (s.hostPut (line / 64) (padTo 64 d) p).hbm ∧
      (s.bisnpAnswer line (some ⟨d, p⟩)).cxl.snoops = a ++ b) ∧
  (∀ (s : State) (line : Nat) (m : Option LineBack),
    exec (.bisnpResponse line m) s = .next (s.bisnpAnswer line m).settle) ∧
  (∀ (s : State) (ag : Agent) (g : Nat), s.tiers.sector g = none → g ∈ s.hbm.poison →
    (readGran ag g).go s = (.error (.poison (64 * g) false ag.unit), ((s.reach g).admitGran ag.isUnit g).setStack
      (Config.regionOf (64 * g)) fun k => { k with poisonTouches := k.poisonTouches + 1 })) ∧
  (∀ (s t : State) (ag : Agent) (g n : Nat) (bad : Bool) (r : Except AccFail (List Byte)), s.tiers.sector g = none →
    g ∉ s.hbm.poison → s.hbm.decode g = (n, bad) → (readGran ag g).go s = (r, t) →
    t.hbm.mem = s.hbm.mem ∧ t.tiers.pool = s.tiers.pool ∧ (∀ x ∈ t.hbm.latent, x.1 / 64 ≠ g) ∧
    (t.hbm.stk[ix 8 (Config.regionOf (64 * g))]).corrected = (s.hbm.stk[ix 8 (Config.regionOf (64 * g))]).corrected + n ∧
    (bad = true → r = .error (.poison (64 * g) true ag.unit) ∧ (∀ x, x ∈ t.hbm.poison ↔ x = g ∨ x ∈ s.hbm.poison) ∧
      (t.hbm.stk[ix 8 (Config.regionOf (64 * g))]).uncorrectable = (s.hbm.stk[ix 8 (Config.regionOf (64 * g))]).uncorrectable + 1) ∧
    (bad = false → t.hbm.poison = s.hbm.poison ∧
      (r = .ok (memRead s.hbm.mem (64 * g) 64) ∨ (r = .error .hold ∧ n ≠ 0 ∧ t.stopped ag = true)))) ∧
  (∀ (h : Hbm) (g : Nat), (∀ e ∈ h.latent, e.1 / 64 ≠ g) → h.decode g = (0, false))

/-- O39. HOST_SNOOP, P2P_REQUEST, CONFIG_REQUEST, LINK_RECOVERY and LINK_LOST. A snoop is answered with RspIHitI; a peer-to-peer
request is refused and counted, a read among them with Unsupported Request; configuration reads answer the register, neither
reset being advertised, and writes change only what the register holds, the HDM base only before its commit, and let a page
request that waited for its enable go on; a recovery is counted and recorded when width or rate change; a lost link is
package-fatal. (Rests on R321, R326, R327, R444, R491, R495.) -/
def Obligations.HostLink : Prop :=
  (∀ (s : State) (hpa : Nat), s.alive = true → s.cxl.linkUp = true → exec (.hostSnoop hpa) s = .next (s.emit (.rspIHitI hpa))) ∧
  (∀ (s t : State), s.alive = true → s.cxl.linkUp = true →
    t = { s with cxl := { s.cxl with ctr := { s.cxl.ctr with p2pRejected := s.cxl.ctr.p2pRejected + 1 } } } →
    exec (.p2pRequest false) s = .next t.unsupported ∧ exec (.p2pRequest true) s = .next t) ∧
  (∀ (s : State) (reg : CfgReg), s.pkg.powered = true → s.pkg.perstN = true → s.cxl.linkUp = true →
    exec (.configRequest reg none) s = .next (s.emit (.cfgData (s.cfgRead reg))) ∧
    ∀ v : Word, exec (.configRequest reg (some v)) s =
      .next (if s.alive = true then (s.cfgWrite reg v).wakePage else s.cfgWrite reg v)) ∧
  (∀ (s : State) (v : Word), (s.cfgWrite .atsEnable v).cxl.atsEnable = v.getLsbD 0 ∧
    (s.cfgWrite .hdmCommit v).cxl.hdmCommitted = v.getLsbD 0 ∧
    (s.cfgWrite .hdmBase v).cxl.hdmBase = (if s.cxl.hdmCommitted = true then s.cxl.hdmBase else v.toNat / 2 ^ 28 * 2 ^ 28) ∧
    s.cfgRead .flrCapable = 0 ∧ s.cfgRead .cxlResetCapable = 0 ∧
    ∀ r, s.cfgWrite .vendorPart v = s ∧ s.cfgWrite .memActive v = s ∧ (s.cfgWrite r v).queues = s.queues ∧ (s.cfgWrite r v).hbm = s.hbm) ∧
  (∀ (s s0 t : State) (now width rate : Nat), s0 = s.advanceTo now → s0.alive = true → s0.cxl.linkUp = true →
    width = 4 ∨ width = 8 ∨ width = 16 → rate = 1 ∨ rate = 2 →
    t = { s0 with cxl := { s0.cxl with width := width, rate := rate, ctr := { s0.cxl.ctr with linkRecoveries := s0.cxl.ctr.linkRecoveries + 1 } } } →
    exec (.linkRecovery now width rate) s = .next
      (if width = s0.cxl.width ∧ rate = s0.cxl.rate then t else t.recordEvent { code := 0x40, payload := leBytes 4 (width + rate * 32) })) ∧
  (∀ (s s0 : State) (now : Nat), s0 = s.advanceTo now → s0.alive = true → s0.cxl.linkUp = true →
    exec (.linkLost now) s = .next { s0 with
      cxl := { s0.cxl with linkUp := false, width := 0, rate := 0 }
      err := { s0.err with fatal := some (5, none), fatalAt := (s0.pkg.elapsed, s0.pkg.seamCount), causesSeen := 2 ^ 5 } })

/-- O40. ATS_COMPLETION, PAGE_RESPONSE, PRI_TIMEOUT, HOST_READ_COMPLETION and GLOBAL_OBSERVATION. A translation is held for the bulk
job that asked, with a part of its window that was withdrawn asked for again, or enters the ATC for a cluster or an interactive
transfer; a granted page is translated again; a refused or late page is a page fault with its cause, and a Response Failure
counts though its request has been abandoned; read data and the zero-byte read's answer go to their request's owner; an observed
write leaves every job's list. One translation request at a time is the model's choice (assumption 17), that a group given up
still takes its answer and that poisoned data end the job are readings (assumptions 77, 76). (Rests on R328, R329, R348, R349,
R350, R351, R352.) -/
def Obligations.HostAnswers : Prop :=
  (∀ (s : State) (id : Nat) (a : AtsAnswer), exec (.atsCompletion id a) s = .next (s.atsAnswer id a).settle) ∧
  (∀ (s d : State) (id hpa size base : Nat) (r : HostReq) (j : JobRef) (b : Bulk), s.alive = true → d = s.dropReq id →
    s.xlat.reqs.find? (fun r => r.id == id && r.kind = .ats) = some r → r.abandoned = false → r.owner = .job j →
    (d.job? j).bind (·.bulk) = some b → base = r.iova / size * size →
    (b.inter = false → s.atsAnswer id (.ok hpa size) = ((({ d with xlat := { d.xlat with
      held := d.xlat.held ++ [({ owner := some j, pasid := r.pasid, iova := base, size := size, hpa := hpa } : Translation)] } }).setBulk j
        (Bulk.translated base size)).bulkRun j bulkFuel)) ∧
    (b.inter = true → s.atsAnswer id (.ok hpa size) = ((({ d with
      xlat := d.xlat.atcAdd { owner := none, pasid := r.pasid, iova := base, size := size, hpa := hpa } }).setBulk j
        fun b => { b with req := none, granted := false }).bulkRun j bulkFuel))) ∧
  (∀ (b : Bulk) (base size n : Nat), n = min b.len (base + size - b.iova) →
    (b.redo = true → b.translated base size = { b with req := none, granted := false, redo := false }) ∧
    (b.redo = false → b.translated base size = { b with
      req := none, granted := false, window := b.window + 1, iova := b.iova + n, len := b.len - n
      room := if n = b.len || 1024 ≤ b.window + 1 then 0 else b.room - 1 })) ∧
  (∀ (s : State) (id hpa size c : Nat) (r : HostReq), s.alive = true →
    s.xlat.reqs.find? (fun r => r.id == id && r.kind = .ats) = some r → r.abandoned = false → r.owner = .dma c →
    s.atsAnswer id (.ok hpa size) = { s.dropReq id with
      xlat := (s.dropReq id).xlat.atcAdd { owner := none, pasid := r.pasid, iova := r.iova / size * size, size := size, hpa := hpa } }) ∧
  (∀ (s t : State) (id : Nat) (r : HostReq) (j : JobRef) (rid : Nat), s.alive = true →
    s.xlat.reqs.find? (fun r => r.id == id && r.kind = .page && r.len = 1) = some r → r.abandoned = false → r.owner = .job j →
    ((s.dropReq id).resumeWaits r.owner).sendAts r.owner r.pasid r.iova r.isWrite = (t, rid) →
    exec (.pageResponse id .success) s = .next (t.setBulk j fun b => { b with req := some rid, granted := true }).wakePage) ∧
  (∀ (s t : State) (id : Nat) (r : HostReq) (c rid : Nat), s.alive = true →
    s.xlat.reqs.find? (fun r => r.id == id && r.kind = .page && r.len = 1) = some r → r.abandoned = false → r.owner = .dma c →
    ((s.dropReq id).resumeWaits r.owner).sendAts r.owner r.pasid r.iova r.isWrite = (t, rid) →
    exec (.pageResponse id .success) s = .next ({ t with xlat := { t.xlat with
      reqs := t.xlat.reqs.map fun (x : HostReq) => if x.id = rid then { x with len := 1 } else x } }).wakePage) ∧
  (∀ (s d : State) (id : Nat) (r : HostReq), s.alive = true →
    s.xlat.reqs.find? (fun r => r.id == id && r.kind = .page && r.len = 1) = some r → r.abandoned = false →
    d = (s.dropReq id).resumeWaits r.owner →
    exec (.pageResponse id .invalidRequest) s = .next (d.pageFault r.owner r.pasid r.iova 3).wakePage ∧
    exec (.pageResponse id .responseFailure) s = .next
      (({ d with xlat := { d.xlat with priFailed := true } }).pageFault r.owner r.pasid r.iova 4).wakePage) ∧
  (∀ (s : State) (id : Nat) (r : HostReq) (a : PriAnswer), s.alive = true →
    s.xlat.reqs.find? (fun r => r.id == id && r.kind = .page && r.len = 1) = some r → r.abandoned = true →
    exec (.pageResponse id a) s = .next
      (({ s with xlat := { s.xlat with priFailed := s.xlat.priFailed || decide (a = PriAnswer.responseFailure) } }).dropReq id).wakePage) ∧
  (∀ (s s0 : State) (now id : Nat) (r : HostReq), s0 = s.advanceTo now → s0.alive = true →
    s0.xlat.reqs.find? (fun r => r.id == id && r.kind = .page) = some r → r.abandoned = false → 10000000 ≤ s0.now - r.since →
    (r.len = 0 → exec (.priTimeout now id) s = .next ((s0.dropReq id).pageFault r.owner r.pasid r.iova 5).wakePage) ∧
    (r.len ≠ 0 → exec (.priTimeout now id) s = .next (({ s0 with xlat := { s0.xlat with reqs := s0.xlat.reqs.map fun (x : HostReq) =>
      if x.id = id then { x with abandoned := true, forsaken := true } else x } }).pageFault r.owner r.pasid r.iova 5).wakePage)) ∧
  (∀ (s s0 : State) (now id : Nat) (b : LineBack) (r : HostReq), s0 = s.advanceTo now → s0.alive = true →
    s0.xlat.reqs.find? (fun r => r.id == id && (r.kind = .read || r.kind = .zero)) = some r → r.kind = .read →
    (r.inter = false ∨ b.poison = false → exec (.hostReadCompletion now id b) s =
      .next ((s0.dropReq id).readBack r b.data).bulkPoke.settle) ∧
    (r.inter = true → b.poison = true → exec (.hostReadCompletion now id b) s = .next ((s0.dropReq id).hostPoison r).bulkPoke.settle)) ∧
  (∀ (s s0 : State) (now id : Nat) (b : LineBack) (r : HostReq) (j : JobRef), s0 = s.advanceTo now → s0.alive = true →
    s0.xlat.reqs.find? (fun r => r.id == id && (r.kind = .read || r.kind = .zero)) = some r → r.kind = .zero → r.owner = .job j →
    exec (.hostReadCompletion now id b) s = .next
      ((s0.dropReq id).setJob j fun x => { x with lastWrite := none, zeroRead := none }).bulkPoke.settle) ∧
  (∀ (s t : State) (id : Nat) (r : HostReq), s.alive = true → s.xlat.reqs.find? (fun r => r.id == id && r.kind = .write) = some r →
    t = { s with queues := s.queues.map fun q => { q with jobs := q.jobs.map fun x => { x with observe := x.observe.filter (· ≠ id) } } } →
    exec (.globalObservation id) s = .next ((t.dropReq id).closeWaits fun w => w.owner == r.owner && w.addr == r.iova))

/-- O41. INVALIDATE_REQUEST, INVALIDATE_DRAINED and INVALIDATE_TIMEOUT. A request withdraws the matching translations: idle ATC
entries go, entries and transfers in use are marked; completions go out in order of arrival, each once its transfers have
drained, an abandoned read's data included; at 1 ms the rest is abandoned, its owners' work ends with an error, and the
completion goes out. (Rests on R353, R354, R355.) -/
def Obligations.Invalidations : Prop :=
  (∀ (s s0 t : State) (now iova len : Nat) (pasid : Option Nat) (v : Invalidate) (x : Xlat), s0 = s.advanceTo now → s0.alive = true →
    s0.xlat.invs.length < 32 → v = ⟨pasid, iova, len, s0.now, false⟩ →
    x = { s0.xlat with
      atc := (s0.xlat.atc.filter fun t => !(v.hits t.pasid t.iova t.size && !s0.xlat.inUse t)).map fun (t : Translation) =>
        if v.hits t.pasid t.iova t.size = true then { t with withdrawn := true } else t,
      held := s0.xlat.held.map fun (t : Translation) => if v.hits t.pasid t.iova t.size = true then { t with withdrawn := true } else t,
      reqs := s0.xlat.reqs.map fun (r : HostReq) =>
        if ((r.kind = .read || r.kind = .write) && v.hits r.pasid r.range.1 r.range.2) = true then { r with withdrawn := true } else r,
      ctr := { s0.xlat.ctr with invalidations := s0.xlat.ctr.invalidations + 1 } } →
    t = { s0 with xlat := { x with invs := x.invs ++ [{ v with delayed := !(x.undrained v).isEmpty }] } } →
    exec (.invalidateRequest now pasid iova len) s = .next (t.invDrain 33)) ∧
  (∀ (s s0 : State) (now : Nat), s0 = s.advanceTo now → s0.alive = true → exec (.invalidateDrained now) s = .next (s0.invDrain 33)) ∧
  (∀ (s : State) (v : Invalidate) (rest : List Invalidate) (n : Nat), s.xlat.invs = v :: rest →
    (s.xlat.undrained v = [] → s.invDrain (n + 1) = (s.invComplete v).invDrain n ∧ (s.invComplete v).xlat.invs = rest ∧
      (s.invComplete v).out = .invalidateDone :: s.out) ∧
    (s.xlat.undrained v ≠ [] → s.invDrain (n + 1) = s)) ∧
  (∀ (s s0 t : State) (now : Nat) (v : Invalidate) (rest : List Invalidate) (late : List HostReq), s0 = s.advanceTo now →
    s0.alive = true → s0.xlat.invs = v :: rest → late = s0.xlat.undrained v → late ≠ [] → 100000 ≤ s0.now - v.arrived →
    t = ({ s0 with xlat := { s0.xlat with
      reqs := s0.xlat.reqs.map fun (r : HostReq) =>
        if late.any (·.id == r.id) = true then { r with abandoned := true, forsaken := true } else r,
      ctr := { s0.xlat.ctr with withdrawals := s0.xlat.ctr.withdrawals + late.length } } }).releaseLeaving →
    exec (.invalidateTimeout now) s = .next (((late.filter (!·.abandoned)).foldl (fun (s : State) (r : HostReq) =>
      ((s.abandonCopy r.owner).closeWaits fun w => w.owner == r.owner && w.addr == r.iova).ownerError r.owner 0x50 0x11
        (Config.openDetail 0x11).toNat r.pasid (r.iova / 4096 * 4096)) t).invComplete v))

/-- O42. STALL_THRESHOLD and TIER_STALL_LIMIT. A wait of more than 20 µs on a tier is counted once as a stall of that tier, and one
of at most 20 µs is not; a wait of 1 ms on T3 or 10 ms on T4 is abandoned and ends its owner's work with TIER_STALL_LIMIT and
the tier as detail, the record naming the DVA, or on T4 the page; that the data of an abandoned T3 write still land in the frame
when its page comes is a reading (assumption 25); a wait ends where it is paused. (Rests on R233, R234, R384.) -/
def Obligations.TierStalls : Prop :=
  (∀ (s s0 : State) (now wait : Nat) (w : TierWait), s0 = s.advanceTo now → s0.alive = true →
    s0.tiers.waits.find? (·.id == wait) = some w → w.counted = false → 2000 < w.length s0.now →
    exec (.stallThreshold now wait) s = .next { s0 with tiers := { s0.tiers with
      stalls := vmod s0.tiers.stalls (ix 5 w.tier) (· + 1)
      waits := s0.tiers.waits.map fun (x : TierWait) => if x.id = wait then { x with counted := true } else x } }) ∧
  (∀ (s s0 t : State) (now wait : Nat) (w : TierWait) (late : List (Nat × Nat × Nat × Nat × List Byte)), s0 = s.advanceTo now →
    s0.alive = true → s0.tiers.waits.find? (·.id == wait) = some w → w.paused = none →
    (if w.tier = 3 then 100000 else 1000000) ≤ w.length s0.now → t = s0.closeWait w →
    (w.page = none ∨ w.data = [] → late = []) →
    (∀ l i p, w.page = some (l, i, p) → w.data ≠ [] →
      late = if (t.tiers.frameOf l i p).isSome = true then [(l, i, p, w.addr % 4096, w.data)] else []) →
    exec (.tierStallLimit now wait) s = .next (({ t with
      tiers := { t.tiers with stallLimits := t.tiers.stallLimits + 1, lateWrites := t.tiers.lateWrites ++ late,
                              partials := t.tiers.partials.filter (·.owner ≠ w.owner) }
      xlat := { t.xlat with reqs := t.xlat.reqs.map fun (r : HostReq) =>
        if r.owner = w.owner then { r with abandoned := true } else r } }).ownerError w.owner 0x52 0x13 w.tier w.pasid
        (if w.tier = 4 then w.addr / 4096 * 4096 else w.addr))) ∧
  (∀ (s s0 : State) (now wait : Nat) (w : TierWait), s0 = s.advanceTo now → s0.tiers.waits.find? (·.id == wait) = some w →
    w.length s0.now ≤ 2000 → exec (.stallThreshold now wait) s = .next s0) ∧
  (∀ (w : TierWait) (now : Nat), (w.paused = none → w.length now = now - w.since) ∧
    ∀ p, w.paused = some p → w.length now = p - w.since)

/-! ## Seams and steps (02, 04, 12, 17) -/

/-- O43. RUN_STEP. A RUN_STEP that passes its checks with a model resident waits for admission: no slot, cluster, byte of memory or
register changes. A queue's candidate is a running RUN_STEP of it that has not ended, has no slot, and whose context is OPEN.
(Rests on R404, R425.) -/
def Obligations.StepsWait : Prop :=
  (∀ (s s0 : State) (q : QueueId) (j : Job) (r : Resident), s.serving = true → s.choose.startJob q.val (isOp 0x30) = some j →
    s0 = s.choose.begun q j → s0.stepOk j = true → s0.model.res = some r →
    exec (.runStep q) s = .next s0.choose ∧ s0.choose.hbm = s.hbm ∧ s0.choose.slots = s.slots ∧ s0.choose.queues = s0.queues ∧
      s0.choose.regs = s.regs ∧ s0.choose.cls = s.cls) ∧
  (∀ (s : State) (q : Nat) (j : Job), s.candidate q = some j →
    j ∈ (s.queue q).jobs ∧ j.opcode = 0x30 ∧ j.ended = false ∧ j.phase = .running ∧ j.halted = false ∧ (s.ctx (s.ctxOf q)).st = .opened ∧
    s.stepSlot ⟨q, j.seq⟩ = none)

/-- O44. SEAM passes a seam and then binds its step; IDLE_STEP passes one seam. SEAM, with no admission in progress and a step and a
slot to choose, passes a seam and holds the step for binding; with one in progress it binds it; and otherwise passes none.
IDLE_STEP, when no step can be admitted and items have waited 100 µs since the last seam and since the first of those that wait
arrived, passes one seam and admits none; sooner, or with all eight slots occupied, none. A seam counts SEAM_COUNT up by one and
makes every staged value live: brim, ceilings and shades, grids, dense set and the versions staged by swaps, and leaves slots
and queues. A seam that changes the device number while steps, leases or epochs exist, or is for a step without its owner map,
is a host error of system scope (assumption 74). That a seam and the binding after it are two runs of one command is the model's
choice (assumption 27). (Rests on R39, R40, R42, R43, R44, R63, R67, R69, R431.) -/
def Obligations.SeamsPass : Prop :=
  (∀ (s u : State) (now i : Nat) (rt : Bool) (j : JobRef), u = (s.advanceTo now).choose → (s.advanceTo now).serving = true →
    (s.advanceTo now).sched.binding = none → u.admission = some (rt, j) → u.lowestFree = some i →
    exec (.seam now) s = .next ((u.seamFor (some j)).setBinding (some ⟨rt, j, i⟩)).settle) ∧
  (∀ (s u : State) (now : Nat) (b : Binding), u = s.advanceTo now → u.serving = true → u.sched.binding = some b →
    exec (.seam now) s = .next (u.bindStep b).choose.settle) ∧
  (∀ (s u : State) (now : Nat), u = (s.advanceTo now).choose → (s.advanceTo now).serving = true →
    (s.advanceTo now).sched.binding = none → u.admission = none ∨ u.lowestFree = none → exec (.seam now) s = .next u) ∧
  (∀ (s u : State) (now t : Nat), u = (s.advanceTo now).choose → (s.advanceTo now).serving = true → u.sched.binding = none →
    u.admission = none → u.waitingSince = some t → 10000 ≤ u.now - max u.sched.lastSeamAt t →
    (∃ i < 8, (u.slot i).phase = .free) →
    exec (.idleStep now) s = .next (u.seamFor none).choose.settle) ∧
  (∀ (s u : State) (now : Nat), u = (s.advanceTo now).choose → (s.advanceTo now).serving = true →
    (∀ i < 8, (u.slot i).phase ≠ .free) → exec (.idleStep now) s = .next u) ∧
  (∀ (s u : State) (now t : Nat), u = (s.advanceTo now).choose → (s.advanceTo now).serving = true → u.waitingSince = some t →
    u.now - max u.sched.lastSeamAt t < 10000 → exec (.idleStep now) s = .next u) ∧
  (∀ (s : State) (j : Option JobRef), s.seamFor j = if s.seamBad j = true then s.passSeam.wrecked .system else s.passSeam) ∧
  (∀ (s : State) (t : Nat), s.waitingSince = some t →
    s.seamWaiting = true ∧ (∃ i ∈ s.waitItems, s.sched.arrival i = some t) ∧ ∀ i ∈ s.waitItems, ∀ a, s.sched.arrival i = some a → t ≤ a) ∧
  (∀ s : State, s.passSeam.pkg.seamCount = s.pkg.seamCount + 1 ∧ s.passSeam.sched.lastSeamAt = s.now ∧
    s.passSeam.sched.arrivals = [] ∧ s.passSeam.slots = s.slots ∧ s.passSeam.queues = s.queues) ∧
  (∀ (c : Sched), c.seam.brimLive = c.brimStaged.getD c.brimLive ∧ c.seam.brimStaged = none) ∧
  (∀ (r : Region), r.seam.ceilLive = r.ceilStaged.getD r.ceilLive ∧ r.seam.shadeLive = r.shadeStaged.getD r.shadeLive ∧
    r.seam.ceilStaged = none ∧ r.seam.shadeStaged = none) ∧
  (∀ (c : Ctx), c.seam.grid = c.gridStaged.getD c.grid ∧ c.seam.gridStaged = none) ∧
  (∀ (m : Model), m.seam.setLive = m.setStaged.getD m.setLive ∧ m.seam.setStaged = none) ∧
  (∀ (t : Table) (x : Shadow), t.swap = .staged → t.shadow = some x →
    t.swapped.lit = x.ver ∧ t.swapped.shadow = none ∧ t.swapped.retired = some t.lit) ∧
  (∀ (s : State), s.seamValues.sched.brimLive = s.sched.brimStaged.getD s.sched.brimLive ∧
    (∀ c, (s.seamValues.ctx c).grid = ((s.ctx c).gridStaged).getD (s.ctx c).grid) ∧
    s.seamValues.model.setLive = s.model.setStaged.getD s.model.setLive ∧ s.seamValues.hbm = s.hbm ∧ s.seamValues.queues = s.queues)

/-- O45. Admission binds a step's settings and clusters. The slot that the seam chose, the lowest FREE one, takes the step in
PREFETCH with the seam's number, its samples, deadline and lookup budget (the smaller of the two where both are set), the live
map, dense set, reflections and its context's grid; its clusters become its own; no other slot, byte of memory, queue or context
changes. Its program is fetched first: the fetch waits for lines that the host holds, and one that fails is an error of the
step's context and binds nothing. Where the RUN_STEP has ended meanwhile no step binds (the admission is an idle step's). Normal
steps take no cluster of the brim. That a bound step stands in PREFETCH at once is the model's choice (assumption 28). (Rests on
R39, R44, R47, R48, R57, R244, R428, R429.) -/
def Obligations.AdmissionBinds : Prop :=
  (∀ (s : State) (rt : Bool) (j : JobRef) (x : Job) (p : Program) (i : Nat), s.job? j = some x → s.programOf x = some p → i < 8 →
     (∃ st, ((s.admitStep rt j i).slot i).step = some st ∧ ((s.admitStep rt j i).slot i).phase = .prefetch ∧
       ((s.admitStep rt j i).slot i).stepSeq = s.pkg.seamCount ∧ ((s.admitStep rt j i).slot i).rt = rt ∧
       st.job = j ∧ st.samples = samplesOf x ∧ st.tAdm = s.now ∧ st.deadline = (x.p 1).field 0 32 ∧
       st.budget = (if (x.p 1).field 0 32 ≠ 0 ∧ (x.p 1).field 0 32 < (x.p 1).field 32 32 then (x.p 1).field 0 32 else (x.p 1).field 32 32) ∧
       st.map = s.tabs.mapLive ∧ st.set = s.model.setLive ∧ st.refl = s.tabs.refl ∧ st.grid = (s.ctx (s.ctxOf j.q)).grid ∧
       st.clusters = (s.openCls rt s.sched.brimLive).take (p.clusters (samplesOf x)) ∧
       ∀ c ∈ st.clusters, ((s.admitStep rt j i).cl c).owner = .step i) ∧
     (∀ k < 8, k ≠ i → (s.admitStep rt j i).slot k = s.slot k) ∧
     (s.admitStep rt j i).hbm = s.hbm ∧ (s.admitStep rt j i).queues = s.queues ∧ (s.admitStep rt j i).ctxs = s.ctxs ∧
     (s.admitStep rt j i).pkg = s.pkg) ∧
  (∀ (s t : State) (b : Binding) (ag : Agent), ag = { Agent.cp 2 (t.ctxOf b.job.q) b.job with space := some 0 } →
    (s.canBind b = false → s.bindStep b = s.setBinding none) ∧
    (s.canBind b = true → s.fetchProgram b.job = (.ok (), t) → s.bindStep b =
      (if (((t.setBinding none).picked (some b.job)).map (t.setBinding none).badProgram).getD false = true then
        (t.setBinding none).upset ((t.setBinding none).ctxOf b.job.q) else t.setBinding none).admitStep b.rt b.job b.slot) ∧
    (∀ l i, s.canBind b = true → s.fetchProgram b.job = (.error (.snoop l i), t) → s.bindStep b = s.sendSnoop l i) ∧
    (∀ f, s.canBind b = true → s.fetchProgram b.job = (.error f, t) → f ≠ .hold → (∀ l i, f ≠ .snoop l i) →
      s.bindStep b = (t.accError ag f).setBinding none)) ∧
  (∀ (s : State) (b : Binding), (∀ x ∈ (s.queue b.job.q).jobs, x.seq = b.job.seq → x.ended = true) → s.canBind b = false) ∧
  (∀ (s : State) (i : Nat), s.lowestFree = some i → i < 8 ∧ (s.slot i).phase = .free ∧ ∀ k < i, (s.slot k).phase ≠ .free) ∧
  (∀ (s : State) (brim c : Nat), (c ∈ s.openCls false brim → c ∉ Config.clusterOrder.take brim ∧ (s.cl c).owner = .free) ∧
     (c ∈ s.openCls true brim → (s.cl c).owner = .free) ∧
     (c ∈ s.openCls true brim → c ∈ Config.clusterOrder.drop brim → c ∈ s.openCls false brim))

/-- O46. PREFETCH_DONE, ROUND_RELEASE and LOOKUP_DONE. The first step in admission order leaves PREFETCH with its indices classified
and its rows read, counting its indices; a round that may go out is released; a step with every entry answered writes its
results to T0 and is in DENSE. A step that the spec leaves undefined there (a bag or a result outside its place) goes on in a
context whose results are free values (assumption 5). (Rests on R53, R54, R99, R107, R109, R121, R126.) -/
def Obligations.LookupPhases : Prop :=
  (∀ (s u t : State) (i : SlotId) (st : Step) (p : Prefetched), (s.slot i.val).step = some st → s.serving = true →
    (s.slot i.val).phase = .prefetch → st.halted = false → s.prefetchTurn i.val = true →
    u = (if s.bagFault i.val = true then s.upset (s.slot i.val).ctx else s) →
    (ExceptT.run (u.prefetch i.val st (u.slot i.val).stepSeq)).run u = (.ok p, t) →
    exec (.prefetchDone i) s = .next (t.enterLookup i.val p)) ∧
  (∀ (s : State) (i : Nat) (st : Step) (p : Prefetched), (s.slot i).step = some st → st.expired = false → p.z.entries = [] →
    st.halted = false →
    ((s.enterLookup i p).slot i).phase = .lookup ∧ (s.enterLookup i p).hbm = s.hbm ∧ (s.enterLookup i p).queues = s.queues ∧
      (s.enterLookup i p).lookups.indices = s.lookups.indices + p.z.occs.length) ∧
  (∀ (s : State) (i : SlotId), s.alive = true → s.roundOpen i.val = true →
    exec (.roundRelease i) s = .next (s.releaseRound i.val)) ∧
  (∀ (s u t : State) (i : SlotId) (st : Step) (a : Known × List (Nat × Nat × Nat × List Byte)), (s.slot i.val).step = some st →
    s.serving = true → (s.slot i.val).phase = .lookup → st.halted = false → (∀ e ∈ st.entries, e.answer.isSome = true) →
    u = (if s.resultsPast st = true then s.upset (s.slot i.val).ctx else s) →
    (ExceptT.run (u.finishReads i.val st)).run u = (.ok a, t) →
    exec (.lookupDone i) s = .next (t.enterDense i.val st a.1 a.2) ∧
      ((t.enterDense i.val st a.1 a.2).slot i.val).phase = .dense)

/-- O47. The lookup budget's expiry and the deadline (R58). LOOKUP_BUDGET_EXPIRY takes effect for an unhalted step in PREFETCH or
LOOKUP with a budget L exactly when ELAPSED_NS − t_adm ≥ 100 × L, and DEADLINE_PASS for a step with a deadline D in a slot that
is not FREE exactly when ELAPSED_NS − t_adm ≥ 100 × D; before that neither changes anything. That an expiry in PREFETCH is noted
and acted on when the step enters LOOKUP is a reading (assumption 30). (Rests on R58, R59.) -/
def Obligations.LimitsExpire : Prop :=
  (∀ (s s0 : State) (now : Nat) (i : SlotId) (st : Step), s0 = s.advanceTo now → (s0.slot i.val).step = some st → s0.alive = true →
    st.halted = false → st.expired = false → st.budget ≠ 0 → (s0.slot i.val).phase = .prefetch ∨ (s0.slot i.val).phase = .lookup →
    (100 * st.budget ≤ s0.now - st.tAdm → exec (.lookupBudgetExpiry now i) s = .next
      (if (s0.slot i.val).phase = .lookup then (s0.setStep i.val fun st => { st with expired := true }).expire i.val
       else s0.setStep i.val fun st => { st with expired := true })) ∧
    (s0.now - st.tAdm < 100 * st.budget → exec (.lookupBudgetExpiry now i) s = .next s0)) ∧
  (∀ (s s0 : State) (now : Nat) (i : SlotId) (st : Step), s0 = s.advanceTo now → (s0.slot i.val).step = some st → s0.alive = true →
    st.deadline ≠ 0 → (s0.slot i.val).phase ≠ .free →
    (100 * st.deadline ≤ s0.now - st.tAdm → exec (.deadlinePass now i) s = .next (s0.setSlot i.val fun x =>
      { x with deadlinePast := true, step := x.step.map fun st => { st with deadlineMissed := true } })) ∧
    (s0.now - st.tAdm < 100 * st.deadline → exec (.deadlinePass now i) s = .next s0))

/-- O48. HEDGE_THRESHOLD, and what a deadline leaves. Past its table's threshold an unanswered, unexhausted entry's request is
reissued, with every entry of it still open, to the next member of each entry's order, and what cannot be reached any more is
checked for STRICT tables; the lookup budget is the deadline where that is smaller; a deadline's passing changes no phase, byte
of memory, queue or cluster. (Rests on R57, R61, R110, R294, R295, R296, R300.) -/
def Obligations.HedgesGoOut : Prop :=
  (∀ (s s0 : State) (now k : Nat) (i : SlotId) (st : Step) (e : Entry) (t : Nat), s0 = s.advanceTo now →
     (s0.slot i.val).step = some st → st.entries[k]? = some e → e.sentAt = some t → t + s0.hedgeTime e.table ≤ s0.now → s0.alive = true →
     (s0.slot i.val).phase = .lookup → st.halted = false → e.answer = none → e.exhausted = false →
     exec (.hedgeThreshold now i k) s =
       .next ((s0.reissue i.val .threshold ((e.reqs.head?.map st.carriedBy).getD [])).strictCheck i.val)) ∧
  (∀ (st : Step) (r k : Nat), k ∈ st.carriedBy r ↔ ∃ e, st.entries[k]? = some e ∧ e.reqs.head? = some r) ∧
  (∀ d l : Nat, (l ≠ 0 → d ≠ 0 → d < l → lookupBudget d l = d) ∧ (l = 0 ∨ d = 0 ∨ l ≤ d → lookupBudget d l = l)) ∧
  (∀ (s t : State) (now : Nat) (i : SlotId), exec (.deadlinePass now i) s = .next t →
    ∀ k, (t.slot k).phase = ((s.advanceTo now).slot k).phase ∧ t.hbm = (s.advanceTo now).hbm ∧ t.queues = (s.advanceTo now).queues ∧
      t.cls = (s.advanceTo now).cls)

/-- O49. DENSE_DONE, CLUSTER_RELEASE and DISCARD_DONE. A step whose streams have all run goes to EMIT; a share's outputs are stored
and its pushes to the host go out one line at a time (the model's choice, assumption 43), the later after the earlier's
observation where R328 asks it, and behind the last its cluster is free; a copy that fails stops the engine and its record names
the element; a torn-down step whose job has ended leaves its slot FREE, its faulted or hung clusters held for their check.
(Rests on R17, R53, R61, R328, R398, R404, R430, R433, R438.) -/
def Obligations.StepsEnd : Prop :=
  (∀ (s s0 : State) (i : SlotId) (st : Step), (s.slot i.val).step = some st → s.serving = true → (s.slot i.val).phase = .dense →
    st.halted = false → (∀ c ∈ st.left, (s.cl c).dense = true) →
    s0 = st.left.foldl (fun s c => s.setCl c fun x => { x with mre := { x.mre with chain := none } }) s →
    exec (.denseDone i) s = .next ((s0.setSlot i.val fun x => { x with phase := .emit }).endShares i.val)) ∧
  (∀ (s t : State) (c : ClusterId) (i : Nat) (st : Step) (ls : List Nat), s.slotOfCluster c.val = some i → (s.slot i).step = some st →
    s.serving = true → (s.slot i).phase = .emit → st.halted = false → c.val ∈ st.left → st.pushedOf c.val = none →
    (emitWrites (s.dmaAgent c.val i st none) st c.val (s.shareOut c.val st)).go s = (.ok ls, t) →
    exec (.clusterRelease c) s = .next ((t.waited (s.dmaAgent c.val i st none)).pushShare c.val i st (s.shareOut c.val st) 0)) ∧
  (∀ (s t : State) (c : ClusterId) (i : Nat) (st : Step) (ag : Agent) (f : AccFail), s.slotOfCluster c.val = some i →
    (s.slot i).step = some st → s.serving = true → (s.slot i).phase = .emit → st.halted = false → c.val ∈ st.left →
    st.pushedOf c.val = none → ag = s.dmaAgent c.val i st none →
    (emitWrites ag st c.val (s.shareOut c.val st)).go s = (.error f, t) → f ≠ .hold → (∀ l b, f ≠ .snoop l b) →
    (∀ l i p d b w, f ≠ .page l i p d b w) →
    exec (.clusterRelease c) s = .next ((t.endPartials (· == ag.owner)).dmaFail c.val ag 0
      ([], emitSound ag st c.val (s.shareOut c.val st) (t.endPartials (· == ag.owner))) f)) ∧
  (∀ (s : State) (c : ClusterId) (i done : Nat) (st : Step), s.slotOfCluster c.val = some i → (s.slot i).step = some st →
    s.serving = true → (s.slot i).phase = .emit → st.halted = false → c.val ∈ st.left → st.pushedOf c.val = some done →
    exec (.clusterRelease c) s = .next (s.pushShare c.val i st (s.shareOut c.val st) done)) ∧
  (∀ (s : State) (c i done : Nat) (st : Step) (out : List Byte), st.push = 0 ∨ (st.pushLines c out).length ≤ done →
    (s.slot i).step = some st →
    s.pushShare c i st out done = s.releaseShare c i ∧ ((s.releaseShare c i).cl c).owner = .free ∧ (s.releaseShare c i).hbm = s.hbm) ∧
  (∀ (s : State) (i : SlotId) (st : Step) (x : Job), (s.slot i.val).step = some st → s.alive = true → (s.slot i.val).phase = .discard →
    s.job? st.job = some x → x.ended = true →
    exec (.discardDone i) s = .next ((((List.range 16).filter fun c => (s.cl c).owner == .step i.val).foldl
      (fun s c => s.dropShare c (st.hung.contains c)) s).freeSlot i.val false).choose.settle) ∧
  (∀ (s : State) (i : Nat) (b : Bool), i < 8 → ((s.freeSlot i b).slot i).phase = .free ∧ (s.freeSlot i b).hbm = s.hbm ∧
    (s.freeSlot i b).queues = s.queues) ∧
  (∀ (s : State) (c : Nat) (hung : Bool), ((s.dropShare c hung).cl c).owner = if (s.cl c).faulty || hung then .check else .free)

/-! ## Numbers (03, 06) -/

/-- O50. What integer and bell codes select (R163). For every grid and code: I8 and I4 codes are two's complement, B8 and B4 codes
select the grid entry whose index is the code with its top bit inverted, in the matrix lanes and in row decoding, and so does
DEQUANT; code 0x00 reads the smallest positive entry of the default B8 grid and 0x80 its most negative one. (States R163.) -/
def Obligations.CodesRead : Prop :=
  (∀ (g : Grid) (c : Nat), c < 256 →
    laneInt g 8 false c = (BitVec.ofNat 8 c).toInt ∧ laneInt g 8 true c = (g.b8.getD (c ^^^ 0x80) 0).toInt ∧
    codeInt 8 c = (BitVec.ofNat 8 c).toInt ∧
    ∀ sc off : F32, codeValue .b8 g sc off c = f32Mul sc (gridF32 (g.b8.getD (c ^^^ 0x80) 0)) ∧
      codeValue .i8 g sc off c = f32Fma sc (intF32 ((BitVec.ofNat 8 c).toInt)) off) ∧
  (∀ (g : Grid) (c : Nat), c < 16 →
    laneInt g 4 false c = (BitVec.ofNat 4 c).toInt ∧ laneInt g 4 true c = (g.b4.getD (c ^^^ 0x8) 0).toInt ∧
    codeInt 4 c = (BitVec.ofNat 4 c).toInt ∧
    ∀ sc off : F32, codeValue .b4 g sc off c = f32Mul sc (gridF32 (g.b4.getD (c ^^^ 0x8) 0)) ∧
      codeValue .i4 g sc off c = f32Fma sc (intF32 ((BitVec.ofNat 4 c).toInt)) off) ∧
  (∀ (v : VeCtx) (q : Nat), (v.x.sfmt = 2 → dequantVal v q = f32Mul v.sc.s0 (intToF32 ((BitVec.ofNat 8 q).toInt - v.sc.z) 0)) ∧
    (v.x.sfmt = 4 → dequantVal v q = f32Mul v.sc.s0 (gridF32 (v.g.b8.getD (q ^^^ 0x80) 0)))) ∧
  laneInt Grid.default 8 true 0x00 = (Grid.default.b8.getD 128 0).toInt ∧
  0 < (Grid.default.b8.getD 128 0).toInt ∧
  (∀ i < 256, 0 < (Grid.default.b8.getD i 0).toInt → (Grid.default.b8.getD 128 0).toInt ≤ (Grid.default.b8.getD i 0).toInt) ∧
  laneInt Grid.default 8 true 0x80 = (Grid.default.b8.getD 0 0).toInt ∧
  (∀ i < 256, (Grid.default.b8.getD 0 0).toInt ≤ (Grid.default.b8.getD i 0).toInt)

/-- O51. A row re-coded with no positive grid point has SCALE 0 (R173). For every bell table, grid, old row, version and values:
where gpos is not positive the re-coded row's SCALE is 0. (States R173.) -/
def Obligations.ScaleZero : Prop :=
  ∀ (d : Desc) (g : Grid) (old : List Byte) (version : Nat) (xs : List F32), d.format.bell = true → gposOf d.format g ≤ 0 →
    rowScale (recode d g old version xs).1 = 0

/-! ## Engines (07, 08, 16) -/

/-- O52. MATMUL and READ_ACC. A valid MATMUL within T0 writes its outputs in folding order, or with HOLD none, and leaves its chain;
one whose outputs overlap its own inputs goes on with free bytes there, in a context whose results are undefined (assumption 5);
READ_ACC writes the chain's entries and keeps it; a reserved bit is MRE_BAD_INSTRUCTION; only T0, chain and stream of that
cluster change; a code-path sum is the exact sum of products, added to the held entry with ACC_IN and reduced to 40 bits of
two's complement. (Rests on R175, R183, R184, R186, R187, R188, R189, R190, R191, R193.) -/
def Obligations.MatrixRuns : Prop :=
  (∀ (s : State) (c : ClusterId) (i : Nat) (st : Step) (x : MreOp) (out : EngMem) (ch : Option MreChain) (y : Nat × Nat),
    s.mreHead c.val = some (i, st, x) → x.op = 1 → x.bad = false →
    x.chainBad (s.cl c.val).mre.chain = false →
    (∀ e ∈ tileOrder x.m x.n x.group x.lanes, x.elemOk e = true) →
    out = x.write ⟨(s.cl c.val).t0, []⟩ st.grid (s.cl c.val).mre.chain (s.ruReserved c.val) (tileOrder x.m x.n x.group x.lanes) →
    ch = x.chain ⟨(s.cl c.val).t0, []⟩ st.grid (s.cl c.val).mre.chain (s.now, (s.cl c.val).mre.pos) →
    y = rowsRange x.yBase x.m x.n x.yBits →
    (x.overlaps (s.cl c.val).mre.chain = false → exec (.matmul c) s = .next (s.mreDone c.val out.t0 ch)) ∧
    (x.overlaps (s.cl c.val).mre.chain = true → exec (.matmul c) s =
      .next ((s.upset (s.slot i).ctx).mreDone c.val (out.scramble s.now c.val ⟨none, 0⟩ y.1 y.2).t0 ch))) ∧
  (∀ (x : MreOp) (mem : EngMem) (g : Grid) (h : Option MreChain) (res : Bool) (es : List (Nat × Nat)) (k : Nat × Nat), x.hold = true →
    x.write mem g h res es = mem ∧ (x.chain mem g h k).isSome = true) ∧
  (∀ (s : State) (c : ClusterId) (i : Nat) (st : Step) (x : MreOp) (h : MreChain), s.mreHead c.val = some (i, st, x) → x.op = 2 →
    x.reserved = false → (s.cl c.val).mre.chain = some h → x.yBase + 8 * (h.m * h.lanes) ≤ Config.t0Bytes →
    exec (.readAcc c) s = .next (s.mreDone c.val
      (((List.range h.m).flatMap fun m => (List.range h.lanes).map fun l => (m, l)).foldl
        (fun t e => memWrite t (x.yBase + 8 * (e.1 * h.lanes + e.2)) (accEntry c.val h e.1 e.2)) (s.cl c.val).t0) (some h))) ∧
  (∀ (s : State) (c : ClusterId) (i : Nat) (st : Step) (x : MreOp), s.mreHead c.val = some (i, st, x) → x.reserved = true →
    (x.op = 1 → exec (.matmul c) s = .next (s.mreFault c.val i st 0x01 0 0)) ∧
    (x.op = 2 → exec (.readAcc c) s = .next (s.mreFault c.val i st 0x01 0 0))) ∧
  (∀ (s : State) (c : Nat) (t0 : List Host.Cell) (ch : Option MreChain), ((s.mreDone c t0 ch).cl c).t0 = t0 ∧
    ((s.mreDone c t0 ch).cl c).mre.chain = ch ∧ ((s.mreDone c t0 ch).cl c).mre.stream = (s.cl c).mre.stream.drop 1 ∧
    (s.mreDone c t0 ch).hbm = s.hbm ∧ (s.mreDone c t0 ch).queues = s.queues ∧ (s.mreDone c t0 ch).slots = s.slots ∧
    ∀ d, ix 16 d ≠ ix 16 c → (s.mreDone c t0 ch).cl d = s.cl d) ∧
  (∀ (x : MreOp) (mem : EngMem) (g : Grid) (m j : Nat), x.bf = false → x.accIn = false →
    x.acc mem g none m j = .int (wrap40 (((x.aInts mem g m).zip (x.wInts mem g j)).map fun p => p.1 * p.2).sum)) ∧
  (∀ (x : MreOp) (mem : EngMem) (g : Grid) (h : MreChain) (m j : Nat) (v : Int), x.bf = false → x.accIn = true →
    h.accs[m * x.n + j]? = some (.int v) →
    x.acc mem g (some h) m j = .int (wrap40 (v + (((x.aInts mem g m).zip (x.wInts mem g j)).map fun p => p.1 * p.2).sum))) ∧
  (∀ v : Int, -(2 ^ 39) ≤ wrap40 v ∧ wrap40 v < 2 ^ 39 ∧ ∃ k : Int, v = wrap40 v + k * 2 ^ 40) ∧
  (∀ a b : Int, wrap40 (wrap40 a + b) = wrap40 (a + b))

/-- O53. The element-wise vector operations. For each of ADD, SUB, MUL, FMA, MAX, MIN, RELU, EXP, SIGMOID, TANH, RECIP, RSQRT,
BCAST_ADD, BCAST_MUL, SCALE, CONVERT, QUANTISE, DEQUANT, SELECT and MOVE: where the checks pass and no element is out of range,
the loop over the elements gives T0 and the tiles and the engine stands at its next word; operands that overlap as R206 does not
allow leave free bytes in the destination, in a context whose results are undefined (assumption 5); a reserved bit faults before
element 0; masks, memory, queues, slots and every other cluster stay. (Rests on R195, R196, R197, R198, R201, R203, R204, R205,
R206.) -/
def Obligations.ElementsComputed : Prop :=
  (∀ (s : State) (u : VeId) (i : Nat) (st : Step) (r : ElemRow) (v : VeCtx) (m : EngMem)
    (a : State × EngMem × Option (Nat × Nat × Nat)), r ∈ elemRows →
    s.veHead u.val = some (i, st, v.x) → v.x.op = r.op → v = s.veCtx u.val st v.x (r.scalar v.x) → v.fine r.ok r.scalar r.pOk →
    veLoop v (fun _ e => rangeChk (r.form.refs v e)) (r.value v) (s.engOf u.val) = (m, none) →
    a = s.veClash u.val i v v.x.count (clash (v.x.d.range v.x.dw v.x.count) v.x.dw (r.form.srcs v)) (m, none) →
    exec (r.command u) s = .next ((a.1.putEng u.val a.2.1).veNext u.val)) ∧
  (∀ (s : State) (u i n : Nat) (v : VeCtx) (m : EngMem), s.veClash u i v n false (m, none) = (s, m, none) ∧
    s.veClash u i v n true (m, none) = (s.upset (s.slot i).ctx,
      m.scramble s.now (u / 2) v.x.d (v.x.d.range v.x.dw n).2.1 (v.x.d.range v.x.dw n).2.2, none)) ∧
  (∀ (s : State) (u : VeId) (i : Nat) (st : Step) (r : ElemRow) (x : VeOp), r ∈ elemRows → s.veHead u.val = some (i, st, x) →
    x.op = r.op → x.reserved = true → exec (r.command u) s = .next (s.veFault u.val i st 0x11 0 0)) ∧
  (∀ (s : State) (u : Nat) (m : EngMem), u < 32 → ((s.putEng u m).veNext u).engOf u = m ∧
    (((s.putEng u m).veNext u).ve u).masks = (s.ve u).masks ∧ (((s.putEng u m).veNext u).ve u).stream = (s.ve u).stream.drop 1 ∧
    ((s.putEng u m).veNext u).hbm = s.hbm ∧ ((s.putEng u m).veNext u).queues = s.queues ∧ ((s.putEng u m).veNext u).slots = s.slots ∧
    ∀ c, ix 16 c ≠ ix 16 (u / 2) → ((s.putEng u m).veNext u).cl c = s.cl c)

/-- O54. What a vector loop leaves. After a loop that no element stops, every active element of the destination holds its value, a
masked one is kept or with MZERO is 0, and no byte outside the destination's elements has changed. (Rests on R196, R199, R200.)
-/
def Obligations.MasksRespected : Prop :=
  ∀ (v : VeCtx) (chk : EngMem → Nat → Option (Nat × Nat)) (val : Nat → Nat) (m0 m : EngMem), memWf m0.t0 = true →
    memWf m0.tiles = true → veLoop v chk (fun _ e => val e) m0 = (m, none) →
    (∀ e < v.x.count, v.active e = true → m.elem v.x.d v.x.dw e = val e % 2 ^ v.x.dw) ∧
    (∀ e < v.x.count, v.active e = false → m.elem v.x.d v.x.dw e =
      if v.x.mzero && v.x.d.ok v.x.dw e then 0 else m0.elem v.x.d v.x.dw e) ∧
    (∀ (o : Opnd) (a : Nat), o.tile ≠ v.x.d.tile → (∀ t, v.x.d.tile = some t → o.tile = none) → m.get o a 1 = m0.get o a 1) ∧
    (∀ a, a < v.x.d.start ∨ v.x.d.start + ceilDiv (v.x.count * v.x.dw) 8 ≤ a → m.get v.x.d a 1 = m0.get v.x.d a 1)

/-- O55. CMP, MLOAD and MSTORE. CMP and MLOAD give the mask register that they name the bits computed or loaded, with 0 beyond the
count; MSTORE packs a mask's bits into the destination, with 0 in the unused bits of its last byte. (Rests on R199, R200, R205.)
-/
def Obligations.MasksComputed : Prop :=
  (∀ (s : State) (u : VeId) (i : Nat) (st : Step) (v : VeCtx) (bs : List Bool), s.veHead u.val = some (i, st, v.x) → v.x.op = 0x20 →
    v = s.veCtx u.val st v.x (bitOf v.x.param 3) →
    v.fine (fun x => (isF x.sfmt || x.sfmt == 6) && x.mdst ≠ 0 && fieldOf x.param 0 3 ≤ 5)
      (fun x => bitOf x.param 3) anyP →
    maskLoop v (fun e => rangeChk (if bitOf v.x.param 3 then [v.refA e] else [v.refA e, v.refB e]))
      (fun e =>
        if v.x.sfmt = 6 then
          cmpU (fieldOf v.x.param 0 3) (v.rawA (s.engOf u.val) e) (if bitOf v.x.param 3 then v.sc.p else v.rawB (s.engOf u.val) e)
        else cmpF (fieldOf v.x.param 0 3) (v.fa (s.engOf u.val) e) (if bitOf v.x.param 3 then v.sc.s0 else v.fb (s.engOf u.val) e))
      (fun _ => false) (v.masks[ix 8 v.x.mdst]) = (bs, none) →
    exec (.cmp u) s = .next ((s.setVe u.val fun x => { x with masks := vmod x.masks (ix 8 v.x.mdst) fun _ => bitsNat bs }).veNext u.val)) ∧
  (∀ (s : State) (u : VeId) (i : Nat) (st : Step) (v : VeCtx) (bs : List Bool), s.veHead u.val = some (i, st, v.x) → v.x.op = 0x22 →
    v = s.veCtx u.val st v.x false → v.fine (fun x => x.mask == 0 && x.mdst ≠ 0) noScalar anyP →
    maskLoop v (fun e => rangeChk [packedRef 0 v.x.a e]) (fun e => bitOf ((s.engOf u.val).elem v.x.a 8 (e / 8)) (e % 8))
      (fun e => !v.x.mzero && bitOf (v.masks[ix 8 v.x.mdst]) e) (v.masks[ix 8 v.x.mdst]) = (bs, none) →
    exec (.mload u) s = .next ((s.setVe u.val fun x => { x with masks := vmod x.masks (ix 8 v.x.mdst) fun _ => bitsNat bs }).veNext u.val)) ∧
  (∀ (bs : List Bool) (k : Nat), bitOf (bitsNat bs) k = bs.getD k false) ∧
  (∀ (s : State) (u : VeId) (i : Nat) (st : Step) (v : VeCtx), s.veHead u.val = some (i, st, v.x) → v.x.op = 0x23 →
    v = s.veCtx u.val st v.x false → v.fine (fun _ => true) noScalar anyP → v.x.mask = 0 → v.x.mneg = false →
    v.x.d.ok 8 ((v.x.count - 1) / 8) = true →
    exec (.mstore u) s = .next ((s.putEng u.val
      ((List.range ((8 - v.x.count % 8) % 8)).foldl (fun m k => m.setBit v.x.d (v.x.count + k) false)
        ((List.range v.x.count).foldl (fun m e => m.setBit v.x.d e (maskBit v.masks (fieldOf v.x.param 0 3) e)) (s.engOf u.val)))).veNext u.val))

/-- O56. ROTATE, TAKE and TILE_REDUCE. ROTATE writes the rotated blocks, a short last block passing unrotated; TAKE writes the
elements that the indices name; TILE_REDUCE writes one reduction for each row or column; and operands that overlap as R206 does
not allow leave free bytes in the destination (assumption 5). (Rests on R179, R205, R206, R207.) -/
def Obligations.BlocksComputed : Prop :=
  (∀ (s : State) (u : VeId) (i : Nat) (st : Step) (v : VeCtx) (m : EngMem) (out : List F32)
    (a : State × EngMem × Option (Nat × Nat × Nat)), s.veHead u.val = some (i, st, v.x) →
    v.x.op = 0x1B → v = s.veCtx u.val st v.x false → v.fine (fun x => x.ff && fieldOf x.param 0 2 ≠ 3) noScalar anyP →
    out = rotateAll (6 + fieldOf v.x.param 0 2) 128 ((List.range v.x.count).map (v.rotIn s.now (s.engOf u.val))) →
    veLoop v (fun _ e => rangeChk (formA.refs v e)) (fun _ e => storeF v.x.dfmt (out.getD e 0)) (s.engOf u.val) = (m, none) →
    a = s.veClash u.val i v v.x.count (clash (v.x.d.range v.x.dw v.x.count) v.x.dw (formA.srcs v)) (m, none) →
    exec (.rotate u) s = .next ((a.1.putEng u.val a.2.1).veNext u.val)) ∧
  (∀ (lg n : Nat) (xs : List F32), xs.length < 2 ^ lg → rotateAll lg n xs = xs) ∧
  (∀ (s : State) (u : VeId) (i : Nat) (st : Step) (v : VeCtx) (m : EngMem) (a : State × EngMem × Option (Nat × Nat × Nat)),
    s.veHead u.val = some (i, st, v.x) → v.x.op = 0x29 →
    v = s.veCtx u.val st v.x true → v.fine VeOp.same hasScalar (fun v => 1 ≤ v.sc.p) →
    veLoop v (takeChk v) (fun m e => v.rawA m (m.elem v.x.b 32 e)) (s.engOf u.val) = (m, none) →
    a = s.veClash u.val i v v.x.count (clash (v.x.d.range v.x.dw v.x.count) v.x.dw
      [(v.x.a.range v.x.sw v.sc.p, v.x.sw, false), (v.x.b.range 32 v.x.count, 32, true), v.srcS]) (m, none) →
    exec (.take u) s = .next ((a.1.putEng u.val a.2.1).veNext u.val)) ∧
  (∀ (s : State) (u : VeId) (i : Nat) (st : Step) (v : VeCtx) (out : List Nat) (a : State × EngMem × Option (Nat × Nat × Nat)), s.veHead u.val = some (i, st, v.x) → v.x.op = 0x31 →
    v = s.veCtx u.val st v.x false →
    v.fine (fun x => isF x.sfmt && fieldOf x.param 0 3 ≤ 5 && (if argKind (fieldOf x.param 0 3) then x.dfmt == 6 else isF x.dfmt) &&
      x.a.tile.isSome && x.count % x.rowWidth == 0) noScalar anyP →
    v.x.a.start / 256 + v.x.count / v.x.rowWidth ≤ 128 →
    out = (tileSegs v (s.engOf u.val)).map (reduceSeg (fieldOf v.x.param 0 3)) →
    (∀ e < out.length, v.x.d.ok v.x.dw e = true) →
    a = s.veClash u.val i v out.length (clash (v.x.d.range v.x.dw out.length) v.x.dw [v.srcA])
      (((List.range out.length).zip out).foldl (fun m p =>
        m.setElem v.x.d v.x.dw p.1 (reduceOut (fieldOf v.x.param 0 3) v.x.dfmt p.2)) (s.engOf u.val), none) →
    exec (.tileReduce u) s = .next ((a.1.putEng u.val a.2.1).veNext u.val))

/-- O57. REDUCE and RU_REDUCE. A REDUCE and the RU instruction that accepts its stream run together, whichever of the two commands
comes (the model's choice, assumption 47), and write the segments' results to T0; a REDUCE without one waits; an RU instruction
on T0 runs by itself; a SUM adds its elements in order from +0, MAX and MIN are the extremes, 0x7FC00000 for a NaN that stands
alone, and segments without an active element give 0xFFFFFFFF or the infinities. (Rests on R207, R208, R209, R210, R211, R212,
R213, R214.) -/
def Obligations.ReductionsRun : Prop :=
  (∀ (s : State) (u : VeId) (i : Nat) (st : Step) (x : VeOp) (r : RuOp) (v : VeCtx) (xs : List (Option F32)),
    s.veHead u.val = some (i, st, x) → x.op = 0x30 → x.reserved = false → isF x.sfmt = true → s.ruReserved (u.val / 2) = false →
    s.ruReady u.val = some r → r.bad = false → r.rangeBad x.count = false →
    v = s.veCtx u.val st x false → (∀ e < x.count, v.active e = true → x.a.ok x.sw e = true) →
    xs = (List.range x.count).map (fun e => if v.active e = true then some (v.fa (s.engOf u.val) e) else none) →
    exec (.reduce u) s = .next (((s.setCl (u.val / 2) fun y => { y with t0 := r.write y.t0 xs }).veNext u.val).ruNext (u.val / 2))) ∧
  (∀ (s : State) (u : VeId) (i : Nat) (st : Step) (x : VeOp), s.veHead u.val = some (i, st, x) → x.op = 0x30 → x.reserved = false →
    isF x.sfmt = true → s.ruReserved (u.val / 2) = false → s.ruReady u.val = none → exec (.reduce u) s = .next s) ∧
  (∀ (s : State) (c : ClusterId) (i : Nat) (st : Step) (x : RuOp), s.ruHead c.val = some (i, st, x) → s.ruReserved c.val = false →
    x.bad = false → x.src = 2 → x.rangeBad x.count = false →
    exec (.ruReduce c) s = .next ((s.setCl c.val fun y => { y with t0 := x.write y.t0 ((List.range x.count).map fun e =>
      some (loadF x.sfmt ((⟨(s.cl c.val).t0, []⟩ : EngMem).elem ⟨none, x.sBase⟩ (fmtBits x.sfmt) e))) }).ruNext c.val)) ∧
  (∀ (s : State) (c : ClusterId) (i k u : Nat) (st st' : Step) (x : RuOp) (y : VeOp) (v : VeCtx) (xs : List (Option F32)),
    s.ruHead c.val = some (i, st, x) → s.ruReserved c.val = false → x.bad = false → x.src < 2 → u = 2 * c.val + x.src →
    s.veHead u = some (k, st', y) → y.op = 0x30 → y.reserved = false → isF y.sfmt = true → x.rangeBad y.count = false →
    v = s.veCtx u st y false → (∀ e < y.count, v.active e = true → y.a.ok y.sw e = true) →
    xs = (List.range y.count).map (fun e => if v.active e = true then some (v.fa (s.engOf u) e) else none) →
    exec (.ruReduce c) s = .next (((s.setCl c.val fun z => { z with t0 := x.write z.t0 xs }).veNext u).ruNext c.val)) ∧
  (∀ vs : List F32, reduceSeg 0 (vs.map some) = (vs.foldl f32Add 0).toNat) ∧
  (∀ (v : F32) (vs : List F32), reduceSeg 1 ((v :: vs).map some) = (vs.foldl f32Max (if f32IsNan v = true then 0x7FC00000 else v)).toNat ∧
    reduceSeg 2 ((v :: vs).map some) = (vs.foldl f32Min (if f32IsNan v = true then 0x7FC00000 else v)).toNat) ∧
  (∀ n : Nat, reduceSeg 3 (List.replicate n none) = 0xFFFFFFFF ∧ reduceSeg 1 (List.replicate n none) = 0xFF800000 ∧
    reduceSeg 2 (List.replicate n none) = 0x7F800000)

/-- O58. The words of a cluster's DMA stream. SET, READ and GATHER bring the bytes that they name into T0 and WRITE stores bytes of
T0, each when its access has ended, and the engine then stands at its next word; a READ that fails keeps in T0 the elements that
came before the failure, and its record names the element (that an element is a line's part is the model's choice, assumption
63); a word with a reserved bit, no length or a range beyond T0 is DMA_BAD_WORD and moves nothing. (Rests on R17, R224, R397.)
-/
def Obligations.DmaWordsRun : Prop :=
  (∀ (s t : State) (c : ClusterId) (i : Nat) (st : Step) (x : DmaOp) (r : Resident) (bs : List Byte), s.dmaHead c.val = some (i, st, x) →
    s.model.res = some r → x.kind = 0 → x.badSet r.setBytes = false →
    (readDva (s.dmaAgent c.val i st (some 0)) (r.slotDva st.set + x.offset) x.length).go s = (.ok bs, t) →
    exec (.dmaSet c) s = .next ((t.waited (s.dmaAgent c.val i st (some 0))).dmaNext c.val (memWrite · x.t0 bs))) ∧
  (∀ (s t : State) (c : ClusterId) (ecc : EccList) (i : Nat) (st : Step) (x : DmaOp) (h : Option Hint) (rel : Bool) (bs : List Byte),
    s.dmaHead c.val = some (i, st, x) → x.kind = 1 → x.badMove = false → x.hint = some (h, rel) →
    (readDva (s.dmaAgent c.val i st none) x.dva x.length h).go (s.strike ecc) = (.ok bs, t) →
    exec (.dmaRead c ecc) s = .next (((t.waited (s.dmaAgent c.val i st none)).releaseAll rel (s.dmaAgent c.val i st none)
      [(x.dva, x.length)]).dmaNext c.val (memWrite · x.t0 bs))) ∧
  (∀ (s t : State) (c : ClusterId) (i : Nat) (st : Step) (x : DmaOp) (h : Option Hint) (rel : Bool) (ls : List Nat),
    s.dmaHead c.val = some (i, st, x) → x.kind = 2 → x.badMove = false → x.hint = some (h, rel) →
    (writeDva (s.dmaAgent c.val i st none) x.dva (memRead (s.cl c.val).t0 x.t0 x.length) h).go s = (.ok ls, t) →
    exec (.dmaWrite c) s = .next (((t.waited (s.dmaAgent c.val i st none)).releaseAll rel
      (s.dmaAgent c.val i st none) [(x.dva, x.length)]).dmaNext c.val id)) ∧
  (∀ (s t w : State) (c : ClusterId) (i : Nat) (st : Step) (x : DmaOp) (h : Option Hint) (rel : Bool) (bs : List Byte) (ks : List Nat),
    s.dmaHead c.val = some (i, st, x) → x.kind = 3 → x.badGather (st.share c.val).2 = false → x.hint = some (h, rel) →
    ks = (List.range (st.share c.val).2).map ((st.share c.val).1 + ·) →
    (gatherRead (s.dmaAgent c.val i st none) (st.input + x.tableOff) x.elem h ks).go s = (.ok bs, t) →
    w = t.waited (s.dmaAgent c.val i st none) →
    exec (.dmaGather c) s = .next ((w.releaseAll rel (s.dmaAgent c.val i st none)
      (gatherRanges (s.dmaAgent c.val i st none) (st.input + x.tableOff) x.elem ks w)).dmaNext c.val (memWrite · x.t0 bs))) ∧
  (∀ (s t : State) (c : ClusterId) (ecc : EccList) (i : Nat) (st : Step) (x : DmaOp) (h : Option Hint) (rel : Bool) (f : AccFail)
    (ag : Agent), s.dmaHead c.val = some (i, st, x) → x.kind = 1 → x.badMove = false → x.hint = some (h, rel) →
    ag = s.dmaAgent c.val i st none → (readDva ag x.dva x.length h).go (s.strike ecc) = (.error f, t) →
    f ≠ .hold → (∀ l b, f ≠ .snoop l b) → (∀ l i p d b w, f ≠ .page l i p d b w) →
    exec (.dmaRead c ecc) s = .next ((t.endPartials (· == ag.owner)).dmaFail c.val ag x.t0
      (readSound ag x.dva (t.endPartials (· == ag.owner)) (lineParts x.dva x.length)) f)) ∧
  (∀ (s : State) (c : Nat) (ag : Agent) (t0 : Nat) (done : List Byte × Nat) (f : AccFail),
    s.dmaFail c ag t0 done f = (s.setCl c fun x => { x with
      t0 := memWrite x.t0 t0 done.1, dma := { x.dma with faulted := true } }).accError { ag with elem := done.2 } f) ∧
  (∀ (s : State) (c : Nat) (f : List Host.Cell → List Host.Cell), ((s.dmaNext c f).cl c).t0 = f (s.cl c).t0 ∧
    ((s.dmaNext c f).cl c).dma.stream = (s.cl c).dma.stream.drop 1 ∧ (s.dmaNext c f).hbm = s.hbm ∧ (s.dmaNext c f).queues = s.queues ∧
    (s.dmaNext c f).slots = s.slots) ∧
  (∀ (s : State) (c : ClusterId) (i : Nat) (st : Step) (x : DmaOp) (ecc : EccList), s.dmaHead c.val = some (i, st, x) → x.badMove = true →
    (x.kind = 1 → exec (.dmaRead c ecc) s = .next (s.dmaBad c.val i st)) ∧ (x.kind = 2 → exec (.dmaWrite c) s = .next (s.dmaBad c.val i st)))

/-! ## Sideband (22) -/

/-- O59. The I3C target. SETDASA, which names the static address 0x30 + s, and ENTDAA give an address to a target without one,
RSTDAA takes it, a private write sets the register offset, a private read answers from it and wraps at 16, both where they name
the static address or the one given (the latter presumed, assumption 11); before PERST_N is released nothing answers. That a
read leaves the offset, that offsets go modulo 16 and that an address is given only to a target without one are readings of the
model (assumptions 54, 6). (Rests on R512, R517.) -/
def Obligations.SidebandTarget : Prop :=
  (∀ (s : State) (a : I3cAssign) (d : BitVec 7), s.pkg.powered = true → s.pkg.perstN = true →
    (s.i3c.dyn = none → a.static.toNat = s.i3cStatic → exec (.setdasa a) s = .next { s with i3c := { s.i3c with dyn := some a.dyn } }) ∧
    (s.i3c.dyn = none → exec (.entdaa d) s = .next { s with i3c := { s.i3c with dyn := some d } }) ∧
    (a.static.toNat ≠ s.i3cStatic ∨ s.i3c.dyn ≠ none → exec (.setdasa a) s = .next s) ∧
    (s.i3c.dyn ≠ none → exec (.entdaa d) s = .next s) ∧
    exec .rstdaa s = .next { s with i3c := { s.i3c with dyn := none } }) ∧
  (∀ (s : State) (a : BitVec 7), s.i3cTarget a = true ↔
    s.pkg.powered = true ∧ s.pkg.perstN = true ∧ (a.toNat = 0x30 + s.pkg.straps.toNat % 8 ∨ s.i3c.dyn = some a)) ∧
  (∀ (s : State) (a : BitVec 7) (b : Byte) (n : Nat),
    (s.i3cTarget a = true → exec (.i3cPrivateWrite ⟨a, b⟩) s = .next { s with i3c := { s.i3c with offset := b.toNat % 16 } } ∧
      exec (.i3cPrivateRead ⟨a, n⟩) s =
        .next (s.emit (.i3cBytes ((List.range n).map fun k => s.i3cBytes.getD ((s.i3c.offset + k) % 16) 0)))) ∧
    (s.i3cTarget a = false → exec (.i3cPrivateWrite ⟨a, b⟩) s = .next s ∧ exec (.i3cPrivateRead ⟨a, n⟩) s = .next s)) ∧
  (∀ (s : State) (a : I3cAssign) (d : BitVec 7), s.pkg.perstN = false → exec (.setdasa a) s = .next s ∧ exec (.entdaa d) s = .next s ∧
    exec .rstdaa s = .next s ∧ s.i3cTarget d = false) ∧
  (∀ s : State, (s.i3cBytes.length = 16 ∨ s.err.failed.isSome = true) ∧ (s.now < 100000 → s.inputPower = 0))

/-- O60. The test access port. The reset state selects IDCODE (assumption 11), which shifts out 0x10016AC3, TDO being released while
PERST_N is low; SAMPLE/PRELOAD, EXTEST and its pulse forms shift the boundary register, whose cells capture PERST_N and what the
package drives; with PERST_N high, or on any unlisted code, the port is in bypass and drives no land. What a bypass register
captures and that pulse forms differ only in time are readings of the model (assumption 54). (Rests on R499, R516.) -/
def Obligations.TestAccess : Prop :=
  (∀ s : State, s.pkg.powered = true →
    exec .tapReset s = .next { s with tap := { s.tap with ir := 0x02, inReset := true } } ∧
    exec .idcode s = .next (if s.pkg.perstN = true then (s.tapLoad 0x02).emit (.tdo 0x10016AC3 32) else s.tapLoad 0x02)) ∧
  (∀ (s : State) (din lands : BitVec 43), s.pkg.powered = true →
    exec (.samplePreload din lands) s = .next (s.tapBoundary 0x01 din lands) ∧ (s.tapBoundary 0x01 din lands).tap.update = din ∧
      (s.tapBoundary 0x01 din lands).tapLands = none) ∧
  (∀ (s : State) (din lands : BitVec 43), s.pkg.powered = true → s.pkg.perstN = false →
    exec (.extest din lands) s = .next ((s.tapBoundary 0x00 din lands).emit (.boundary (din &&& tapDriving))) ∧
    exec (.extestPulse din lands) s = .next ((s.tapBoundary 0x04 din lands).emit (.boundary (din &&& tapDriving))) ∧
    exec (.extestTrain din lands) s = .next ((s.tapBoundary 0x05 din lands).emit (.boundary (din &&& tapDriving)))) ∧
  (∀ (s : State) (din lands : BitVec 43), s.pkg.powered = true → s.pkg.perstN = true →
    exec (.extest din lands) s = .next (s.tapBypass 0x00 43 din.toNat)) ∧
  (∀ (s : State) (din : Bool), s.pkg.powered = true →
    exec (.highz din) s = .next (s.tapBypass 0x06 1 (b2n din)) ∧
    (s.pkg.perstN = false → (s.tapBypass 0x06 1 (b2n din)).tapLands = some none) ∧
    (s.pkg.perstN = false → exec (.clamp din) s = .next ((s.tapBypass 0x07 1 (b2n din)).emit (.boundary (s.tap.update &&& tapDriving)))) ∧
    (s.pkg.perstN = true → exec (.clamp din) s = .next (s.tapBypass 0x07 1 (b2n din)))) ∧
  (∀ (s : State) (code : Byte) (din : Bool), s.pkg.powered = true → tapCodes.contains code = false →
    exec (.bypass code din) s = .next (s.tapBypass code 1 (b2n din))) ∧
  (∀ s : State, s.pkg.perstN = true → s.tapLands = none) ∧
  (∀ (s : State) (code : BitVec 8) (width n : Nat) (din lands : BitVec 43),
    (s.pkg.perstN = false → (s.tapBypass code width n).out = s.out ∧ (s.tapBoundary code din lands).out = s.out) ∧
    (s.pkg.perstN = true → (s.tapBoundary code din lands).out = .tdo (s.tapCapture lands).toNat 43 :: s.out)) ∧
  (∀ (s : State) (lands : BitVec 43), (s.tapCapture lands).getLsbD 32 = s.pkg.perstN ∧
    (∀ i, i ≠ 32 → i ≠ 35 → i ≠ 36 → i ≠ 38 → (s.tapCapture lands).getLsbD i = lands.getLsbD i) ∧
    (s.tapLands = none → (s.pkg.faultN = .low → (s.tapCapture lands).getLsbD 35 = false) ∧
      (s.pkg.readyPin = .high → (s.tapCapture lands).getLsbD 36 = true) ∧
      (s.pkg.thermtripN = .low → (s.tapCapture lands).getLsbD 38 = false)))

end
end

