-- ==== Sys2Proof/Laws/State.lean ====
section
/-! SUPPORT. Laws of the updates of State: what each leaves of every field, and how a component reads after its update. -/

namespace Sys2Proof.Machine

variable (s : State)

/-! ### State.setQueue -/

@[simp] theorem State.setQueue_pkg (q : Nat) (f : Queue → Queue) : (s.setQueue q f).pkg = s.pkg := rfl
@[simp] theorem State.setQueue_boot (q : Nat) (f : Queue → Queue) : (s.setQueue q f).boot = s.boot := rfl
@[simp] theorem State.setQueue_recorder (q : Nat) (f : Queue → Queue) : (s.setQueue q f).recorder = s.recorder := rfl
@[simp] theorem State.setQueue_mram (q : Nat) (f : Queue → Queue) : (s.setQueue q f).mram = s.mram := rfl
@[simp] theorem State.setQueue_fuses (q : Nat) (f : Queue → Queue) : (s.setQueue q f).fuses = s.fuses := rfl
@[simp] theorem State.setQueue_sec (q : Nat) (f : Queue → Queue) : (s.setQueue q f).sec = s.sec := rfl
@[simp] theorem State.setQueue_regs (q : Nat) (f : Queue → Queue) : (s.setQueue q f).regs = s.regs := rfl
@[simp] theorem State.setQueue_cxl (q : Nat) (f : Queue → Queue) : (s.setQueue q f).cxl = s.cxl := rfl
@[simp] theorem State.setQueue_xlat (q : Nat) (f : Queue → Queue) : (s.setQueue q f).xlat = s.xlat := rfl
@[simp] theorem State.setQueue_ctxs (q : Nat) (f : Queue → Queue) : (s.setQueue q f).ctxs = s.ctxs := rfl
@[simp] theorem State.setQueue_seqs (q : Nat) (f : Queue → Queue) : (s.setQueue q f).seqs = s.seqs := rfl
@[simp] theorem State.setQueue_model (q : Nat) (f : Queue → Queue) : (s.setQueue q f).model = s.model := rfl
@[simp] theorem State.setQueue_tabs (q : Nat) (f : Queue → Queue) : (s.setQueue q f).tabs = s.tabs := rfl
@[simp] theorem State.setQueue_lookups (q : Nat) (f : Queue → Queue) : (s.setQueue q f).lookups = s.lookups := rfl
@[simp] theorem State.setQueue_strag (q : Nat) (f : Queue → Queue) : (s.setQueue q f).strag = s.strag := rfl
@[simp] theorem State.setQueue_upd (q : Nat) (f : Queue → Queue) : (s.setQueue q f).upd = s.upd := rfl
@[simp] theorem State.setQueue_slots (q : Nat) (f : Queue → Queue) : (s.setQueue q f).slots = s.slots := rfl
@[simp] theorem State.setQueue_cls (q : Nat) (f : Queue → Queue) : (s.setQueue q f).cls = s.cls := rfl
@[simp] theorem State.setQueue_tiers (q : Nat) (f : Queue → Queue) : (s.setQueue q f).tiers = s.tiers := rfl
@[simp] theorem State.setQueue_hbm (q : Nat) (f : Queue → Queue) : (s.setQueue q f).hbm = s.hbm := rfl
@[simp] theorem State.setQueue_fab (q : Nat) (f : Queue → Queue) : (s.setQueue q f).fab = s.fab := rfl
@[simp] theorem State.setQueue_dim (q : Nat) (f : Queue → Queue) : (s.setQueue q f).dim = s.dim := rfl
@[simp] theorem State.setQueue_err (q : Nat) (f : Queue → Queue) : (s.setQueue q f).err = s.err := rfl
@[simp] theorem State.setQueue_regions (q : Nat) (f : Queue → Queue) : (s.setQueue q f).regions = s.regions := rfl
@[simp] theorem State.setQueue_oes (q : Nat) (f : Queue → Queue) : (s.setQueue q f).oes = s.oes := rfl
@[simp] theorem State.setQueue_power (q : Nat) (f : Queue → Queue) : (s.setQueue q f).power = s.power := rfl
@[simp] theorem State.setQueue_sched (q : Nat) (f : Queue → Queue) : (s.setQueue q f).sched = s.sched := rfl
@[simp] theorem State.setQueue_tap (q : Nat) (f : Queue → Queue) : (s.setQueue q f).tap = s.tap := rfl
@[simp] theorem State.setQueue_i3c (q : Nat) (f : Queue → Queue) : (s.setQueue q f).i3c = s.i3c := rfl
@[simp] theorem State.setQueue_out (q : Nat) (f : Queue → Queue) : (s.setQueue q f).out = s.out := rfl
@[simp] theorem State.setQueue_pending (q : Nat) (f : Queue → Queue) : (s.setQueue q f).pending = s.pending := rfl

/-! ### State.setCtx -/

@[simp] theorem State.setCtx_pkg (c : Nat) (f : Ctx → Ctx) : (s.setCtx c f).pkg = s.pkg := rfl
@[simp] theorem State.setCtx_boot (c : Nat) (f : Ctx → Ctx) : (s.setCtx c f).boot = s.boot := rfl
@[simp] theorem State.setCtx_recorder (c : Nat) (f : Ctx → Ctx) : (s.setCtx c f).recorder = s.recorder := rfl
@[simp] theorem State.setCtx_mram (c : Nat) (f : Ctx → Ctx) : (s.setCtx c f).mram = s.mram := rfl
@[simp] theorem State.setCtx_fuses (c : Nat) (f : Ctx → Ctx) : (s.setCtx c f).fuses = s.fuses := rfl
@[simp] theorem State.setCtx_sec (c : Nat) (f : Ctx → Ctx) : (s.setCtx c f).sec = s.sec := rfl
@[simp] theorem State.setCtx_regs (c : Nat) (f : Ctx → Ctx) : (s.setCtx c f).regs = s.regs := rfl
@[simp] theorem State.setCtx_cxl (c : Nat) (f : Ctx → Ctx) : (s.setCtx c f).cxl = s.cxl := rfl
@[simp] theorem State.setCtx_xlat (c : Nat) (f : Ctx → Ctx) : (s.setCtx c f).xlat = s.xlat := rfl
@[simp] theorem State.setCtx_queues (c : Nat) (f : Ctx → Ctx) : (s.setCtx c f).queues = s.queues := rfl
@[simp] theorem State.setCtx_seqs (c : Nat) (f : Ctx → Ctx) : (s.setCtx c f).seqs = s.seqs := rfl
@[simp] theorem State.setCtx_model (c : Nat) (f : Ctx → Ctx) : (s.setCtx c f).model = s.model := rfl
@[simp] theorem State.setCtx_tabs (c : Nat) (f : Ctx → Ctx) : (s.setCtx c f).tabs = s.tabs := rfl
@[simp] theorem State.setCtx_lookups (c : Nat) (f : Ctx → Ctx) : (s.setCtx c f).lookups = s.lookups := rfl
@[simp] theorem State.setCtx_strag (c : Nat) (f : Ctx → Ctx) : (s.setCtx c f).strag = s.strag := rfl
@[simp] theorem State.setCtx_upd (c : Nat) (f : Ctx → Ctx) : (s.setCtx c f).upd = s.upd := rfl
@[simp] theorem State.setCtx_slots (c : Nat) (f : Ctx → Ctx) : (s.setCtx c f).slots = s.slots := rfl
@[simp] theorem State.setCtx_cls (c : Nat) (f : Ctx → Ctx) : (s.setCtx c f).cls = s.cls := rfl
@[simp] theorem State.setCtx_tiers (c : Nat) (f : Ctx → Ctx) : (s.setCtx c f).tiers = s.tiers := rfl
@[simp] theorem State.setCtx_hbm (c : Nat) (f : Ctx → Ctx) : (s.setCtx c f).hbm = s.hbm := rfl
@[simp] theorem State.setCtx_fab (c : Nat) (f : Ctx → Ctx) : (s.setCtx c f).fab = s.fab := rfl
@[simp] theorem State.setCtx_dim (c : Nat) (f : Ctx → Ctx) : (s.setCtx c f).dim = s.dim := rfl
@[simp] theorem State.setCtx_err (c : Nat) (f : Ctx → Ctx) : (s.setCtx c f).err = s.err := rfl
@[simp] theorem State.setCtx_regions (c : Nat) (f : Ctx → Ctx) : (s.setCtx c f).regions = s.regions := rfl
@[simp] theorem State.setCtx_oes (c : Nat) (f : Ctx → Ctx) : (s.setCtx c f).oes = s.oes := rfl
@[simp] theorem State.setCtx_power (c : Nat) (f : Ctx → Ctx) : (s.setCtx c f).power = s.power := rfl
@[simp] theorem State.setCtx_sched (c : Nat) (f : Ctx → Ctx) : (s.setCtx c f).sched = s.sched := rfl
@[simp] theorem State.setCtx_tap (c : Nat) (f : Ctx → Ctx) : (s.setCtx c f).tap = s.tap := rfl
@[simp] theorem State.setCtx_i3c (c : Nat) (f : Ctx → Ctx) : (s.setCtx c f).i3c = s.i3c := rfl
@[simp] theorem State.setCtx_out (c : Nat) (f : Ctx → Ctx) : (s.setCtx c f).out = s.out := rfl
@[simp] theorem State.setCtx_pending (c : Nat) (f : Ctx → Ctx) : (s.setCtx c f).pending = s.pending := rfl

/-! ### State.setSlot -/

@[simp] theorem State.setSlot_pkg (i : Nat) (f : Slot → Slot) : (s.setSlot i f).pkg = s.pkg := rfl
@[simp] theorem State.setSlot_boot (i : Nat) (f : Slot → Slot) : (s.setSlot i f).boot = s.boot := rfl
@[simp] theorem State.setSlot_recorder (i : Nat) (f : Slot → Slot) : (s.setSlot i f).recorder = s.recorder := rfl
@[simp] theorem State.setSlot_mram (i : Nat) (f : Slot → Slot) : (s.setSlot i f).mram = s.mram := rfl
@[simp] theorem State.setSlot_fuses (i : Nat) (f : Slot → Slot) : (s.setSlot i f).fuses = s.fuses := rfl
@[simp] theorem State.setSlot_sec (i : Nat) (f : Slot → Slot) : (s.setSlot i f).sec = s.sec := rfl
@[simp] theorem State.setSlot_regs (i : Nat) (f : Slot → Slot) : (s.setSlot i f).regs = s.regs := rfl
@[simp] theorem State.setSlot_cxl (i : Nat) (f : Slot → Slot) : (s.setSlot i f).cxl = s.cxl := rfl
@[simp] theorem State.setSlot_xlat (i : Nat) (f : Slot → Slot) : (s.setSlot i f).xlat = s.xlat := rfl
@[simp] theorem State.setSlot_queues (i : Nat) (f : Slot → Slot) : (s.setSlot i f).queues = s.queues := rfl
@[simp] theorem State.setSlot_ctxs (i : Nat) (f : Slot → Slot) : (s.setSlot i f).ctxs = s.ctxs := rfl
@[simp] theorem State.setSlot_seqs (i : Nat) (f : Slot → Slot) : (s.setSlot i f).seqs = s.seqs := rfl
@[simp] theorem State.setSlot_model (i : Nat) (f : Slot → Slot) : (s.setSlot i f).model = s.model := rfl
@[simp] theorem State.setSlot_tabs (i : Nat) (f : Slot → Slot) : (s.setSlot i f).tabs = s.tabs := rfl
@[simp] theorem State.setSlot_lookups (i : Nat) (f : Slot → Slot) : (s.setSlot i f).lookups = s.lookups := rfl
@[simp] theorem State.setSlot_strag (i : Nat) (f : Slot → Slot) : (s.setSlot i f).strag = s.strag := rfl
@[simp] theorem State.setSlot_upd (i : Nat) (f : Slot → Slot) : (s.setSlot i f).upd = s.upd := rfl
@[simp] theorem State.setSlot_cls (i : Nat) (f : Slot → Slot) : (s.setSlot i f).cls = s.cls := rfl
@[simp] theorem State.setSlot_tiers (i : Nat) (f : Slot → Slot) : (s.setSlot i f).tiers = s.tiers := rfl
@[simp] theorem State.setSlot_hbm (i : Nat) (f : Slot → Slot) : (s.setSlot i f).hbm = s.hbm := rfl
@[simp] theorem State.setSlot_fab (i : Nat) (f : Slot → Slot) : (s.setSlot i f).fab = s.fab := rfl
@[simp] theorem State.setSlot_dim (i : Nat) (f : Slot → Slot) : (s.setSlot i f).dim = s.dim := rfl
@[simp] theorem State.setSlot_err (i : Nat) (f : Slot → Slot) : (s.setSlot i f).err = s.err := rfl
@[simp] theorem State.setSlot_regions (i : Nat) (f : Slot → Slot) : (s.setSlot i f).regions = s.regions := rfl
@[simp] theorem State.setSlot_oes (i : Nat) (f : Slot → Slot) : (s.setSlot i f).oes = s.oes := rfl
@[simp] theorem State.setSlot_power (i : Nat) (f : Slot → Slot) : (s.setSlot i f).power = s.power := rfl
@[simp] theorem State.setSlot_sched (i : Nat) (f : Slot → Slot) : (s.setSlot i f).sched = s.sched := rfl
@[simp] theorem State.setSlot_tap (i : Nat) (f : Slot → Slot) : (s.setSlot i f).tap = s.tap := rfl
@[simp] theorem State.setSlot_i3c (i : Nat) (f : Slot → Slot) : (s.setSlot i f).i3c = s.i3c := rfl
@[simp] theorem State.setSlot_out (i : Nat) (f : Slot → Slot) : (s.setSlot i f).out = s.out := rfl
@[simp] theorem State.setSlot_pending (i : Nat) (f : Slot → Slot) : (s.setSlot i f).pending = s.pending := rfl

/-! ### State.setStep -/

@[simp] theorem State.setStep_pkg (i : Nat) (f : Step → Step) : (s.setStep i f).pkg = s.pkg := rfl
@[simp] theorem State.setStep_boot (i : Nat) (f : Step → Step) : (s.setStep i f).boot = s.boot := rfl
@[simp] theorem State.setStep_recorder (i : Nat) (f : Step → Step) : (s.setStep i f).recorder = s.recorder := rfl
@[simp] theorem State.setStep_mram (i : Nat) (f : Step → Step) : (s.setStep i f).mram = s.mram := rfl
@[simp] theorem State.setStep_fuses (i : Nat) (f : Step → Step) : (s.setStep i f).fuses = s.fuses := rfl
@[simp] theorem State.setStep_sec (i : Nat) (f : Step → Step) : (s.setStep i f).sec = s.sec := rfl
@[simp] theorem State.setStep_regs (i : Nat) (f : Step → Step) : (s.setStep i f).regs = s.regs := rfl
@[simp] theorem State.setStep_cxl (i : Nat) (f : Step → Step) : (s.setStep i f).cxl = s.cxl := rfl
@[simp] theorem State.setStep_xlat (i : Nat) (f : Step → Step) : (s.setStep i f).xlat = s.xlat := rfl
@[simp] theorem State.setStep_queues (i : Nat) (f : Step → Step) : (s.setStep i f).queues = s.queues := rfl
@[simp] theorem State.setStep_ctxs (i : Nat) (f : Step → Step) : (s.setStep i f).ctxs = s.ctxs := rfl
@[simp] theorem State.setStep_seqs (i : Nat) (f : Step → Step) : (s.setStep i f).seqs = s.seqs := rfl
@[simp] theorem State.setStep_model (i : Nat) (f : Step → Step) : (s.setStep i f).model = s.model := rfl
@[simp] theorem State.setStep_tabs (i : Nat) (f : Step → Step) : (s.setStep i f).tabs = s.tabs := rfl
@[simp] theorem State.setStep_lookups (i : Nat) (f : Step → Step) : (s.setStep i f).lookups = s.lookups := rfl
@[simp] theorem State.setStep_strag (i : Nat) (f : Step → Step) : (s.setStep i f).strag = s.strag := rfl
@[simp] theorem State.setStep_upd (i : Nat) (f : Step → Step) : (s.setStep i f).upd = s.upd := rfl
@[simp] theorem State.setStep_cls (i : Nat) (f : Step → Step) : (s.setStep i f).cls = s.cls := rfl
@[simp] theorem State.setStep_tiers (i : Nat) (f : Step → Step) : (s.setStep i f).tiers = s.tiers := rfl
@[simp] theorem State.setStep_hbm (i : Nat) (f : Step → Step) : (s.setStep i f).hbm = s.hbm := rfl
@[simp] theorem State.setStep_fab (i : Nat) (f : Step → Step) : (s.setStep i f).fab = s.fab := rfl
@[simp] theorem State.setStep_dim (i : Nat) (f : Step → Step) : (s.setStep i f).dim = s.dim := rfl
@[simp] theorem State.setStep_err (i : Nat) (f : Step → Step) : (s.setStep i f).err = s.err := rfl
@[simp] theorem State.setStep_regions (i : Nat) (f : Step → Step) : (s.setStep i f).regions = s.regions := rfl
@[simp] theorem State.setStep_oes (i : Nat) (f : Step → Step) : (s.setStep i f).oes = s.oes := rfl
@[simp] theorem State.setStep_power (i : Nat) (f : Step → Step) : (s.setStep i f).power = s.power := rfl
@[simp] theorem State.setStep_sched (i : Nat) (f : Step → Step) : (s.setStep i f).sched = s.sched := rfl
@[simp] theorem State.setStep_tap (i : Nat) (f : Step → Step) : (s.setStep i f).tap = s.tap := rfl
@[simp] theorem State.setStep_i3c (i : Nat) (f : Step → Step) : (s.setStep i f).i3c = s.i3c := rfl
@[simp] theorem State.setStep_out (i : Nat) (f : Step → Step) : (s.setStep i f).out = s.out := rfl
@[simp] theorem State.setStep_pending (i : Nat) (f : Step → Step) : (s.setStep i f).pending = s.pending := rfl

/-! ### State.setCl -/

@[simp] theorem State.setCl_pkg (c : Nat) (f : Cluster → Cluster) : (s.setCl c f).pkg = s.pkg := rfl
@[simp] theorem State.setCl_boot (c : Nat) (f : Cluster → Cluster) : (s.setCl c f).boot = s.boot := rfl
@[simp] theorem State.setCl_recorder (c : Nat) (f : Cluster → Cluster) : (s.setCl c f).recorder = s.recorder := rfl
@[simp] theorem State.setCl_mram (c : Nat) (f : Cluster → Cluster) : (s.setCl c f).mram = s.mram := rfl
@[simp] theorem State.setCl_fuses (c : Nat) (f : Cluster → Cluster) : (s.setCl c f).fuses = s.fuses := rfl
@[simp] theorem State.setCl_sec (c : Nat) (f : Cluster → Cluster) : (s.setCl c f).sec = s.sec := rfl
@[simp] theorem State.setCl_regs (c : Nat) (f : Cluster → Cluster) : (s.setCl c f).regs = s.regs := rfl
@[simp] theorem State.setCl_cxl (c : Nat) (f : Cluster → Cluster) : (s.setCl c f).cxl = s.cxl := rfl
@[simp] theorem State.setCl_xlat (c : Nat) (f : Cluster → Cluster) : (s.setCl c f).xlat = s.xlat := rfl
@[simp] theorem State.setCl_queues (c : Nat) (f : Cluster → Cluster) : (s.setCl c f).queues = s.queues := rfl
@[simp] theorem State.setCl_ctxs (c : Nat) (f : Cluster → Cluster) : (s.setCl c f).ctxs = s.ctxs := rfl
@[simp] theorem State.setCl_seqs (c : Nat) (f : Cluster → Cluster) : (s.setCl c f).seqs = s.seqs := rfl
@[simp] theorem State.setCl_model (c : Nat) (f : Cluster → Cluster) : (s.setCl c f).model = s.model := rfl
@[simp] theorem State.setCl_tabs (c : Nat) (f : Cluster → Cluster) : (s.setCl c f).tabs = s.tabs := rfl
@[simp] theorem State.setCl_lookups (c : Nat) (f : Cluster → Cluster) : (s.setCl c f).lookups = s.lookups := rfl
@[simp] theorem State.setCl_strag (c : Nat) (f : Cluster → Cluster) : (s.setCl c f).strag = s.strag := rfl
@[simp] theorem State.setCl_upd (c : Nat) (f : Cluster → Cluster) : (s.setCl c f).upd = s.upd := rfl
@[simp] theorem State.setCl_slots (c : Nat) (f : Cluster → Cluster) : (s.setCl c f).slots = s.slots := rfl
@[simp] theorem State.setCl_tiers (c : Nat) (f : Cluster → Cluster) : (s.setCl c f).tiers = s.tiers := rfl
@[simp] theorem State.setCl_hbm (c : Nat) (f : Cluster → Cluster) : (s.setCl c f).hbm = s.hbm := rfl
@[simp] theorem State.setCl_fab (c : Nat) (f : Cluster → Cluster) : (s.setCl c f).fab = s.fab := rfl
@[simp] theorem State.setCl_dim (c : Nat) (f : Cluster → Cluster) : (s.setCl c f).dim = s.dim := rfl
@[simp] theorem State.setCl_err (c : Nat) (f : Cluster → Cluster) : (s.setCl c f).err = s.err := rfl
@[simp] theorem State.setCl_regions (c : Nat) (f : Cluster → Cluster) : (s.setCl c f).regions = s.regions := rfl
@[simp] theorem State.setCl_oes (c : Nat) (f : Cluster → Cluster) : (s.setCl c f).oes = s.oes := rfl
@[simp] theorem State.setCl_power (c : Nat) (f : Cluster → Cluster) : (s.setCl c f).power = s.power := rfl
@[simp] theorem State.setCl_sched (c : Nat) (f : Cluster → Cluster) : (s.setCl c f).sched = s.sched := rfl
@[simp] theorem State.setCl_tap (c : Nat) (f : Cluster → Cluster) : (s.setCl c f).tap = s.tap := rfl
@[simp] theorem State.setCl_i3c (c : Nat) (f : Cluster → Cluster) : (s.setCl c f).i3c = s.i3c := rfl
@[simp] theorem State.setCl_out (c : Nat) (f : Cluster → Cluster) : (s.setCl c f).out = s.out := rfl
@[simp] theorem State.setCl_pending (c : Nat) (f : Cluster → Cluster) : (s.setCl c f).pending = s.pending := rfl

/-! ### State.setVe -/

@[simp] theorem State.setVe_pkg (u : Nat) (f : Ve → Ve) : (s.setVe u f).pkg = s.pkg := rfl
@[simp] theorem State.setVe_boot (u : Nat) (f : Ve → Ve) : (s.setVe u f).boot = s.boot := rfl
@[simp] theorem State.setVe_recorder (u : Nat) (f : Ve → Ve) : (s.setVe u f).recorder = s.recorder := rfl
@[simp] theorem State.setVe_mram (u : Nat) (f : Ve → Ve) : (s.setVe u f).mram = s.mram := rfl
@[simp] theorem State.setVe_fuses (u : Nat) (f : Ve → Ve) : (s.setVe u f).fuses = s.fuses := rfl
@[simp] theorem State.setVe_sec (u : Nat) (f : Ve → Ve) : (s.setVe u f).sec = s.sec := rfl
@[simp] theorem State.setVe_regs (u : Nat) (f : Ve → Ve) : (s.setVe u f).regs = s.regs := rfl
@[simp] theorem State.setVe_cxl (u : Nat) (f : Ve → Ve) : (s.setVe u f).cxl = s.cxl := rfl
@[simp] theorem State.setVe_xlat (u : Nat) (f : Ve → Ve) : (s.setVe u f).xlat = s.xlat := rfl
@[simp] theorem State.setVe_queues (u : Nat) (f : Ve → Ve) : (s.setVe u f).queues = s.queues := rfl
@[simp] theorem State.setVe_ctxs (u : Nat) (f : Ve → Ve) : (s.setVe u f).ctxs = s.ctxs := rfl
@[simp] theorem State.setVe_seqs (u : Nat) (f : Ve → Ve) : (s.setVe u f).seqs = s.seqs := rfl
@[simp] theorem State.setVe_model (u : Nat) (f : Ve → Ve) : (s.setVe u f).model = s.model := rfl
@[simp] theorem State.setVe_tabs (u : Nat) (f : Ve → Ve) : (s.setVe u f).tabs = s.tabs := rfl
@[simp] theorem State.setVe_lookups (u : Nat) (f : Ve → Ve) : (s.setVe u f).lookups = s.lookups := rfl
@[simp] theorem State.setVe_strag (u : Nat) (f : Ve → Ve) : (s.setVe u f).strag = s.strag := rfl
@[simp] theorem State.setVe_upd (u : Nat) (f : Ve → Ve) : (s.setVe u f).upd = s.upd := rfl
@[simp] theorem State.setVe_slots (u : Nat) (f : Ve → Ve) : (s.setVe u f).slots = s.slots := rfl
@[simp] theorem State.setVe_tiers (u : Nat) (f : Ve → Ve) : (s.setVe u f).tiers = s.tiers := rfl
@[simp] theorem State.setVe_hbm (u : Nat) (f : Ve → Ve) : (s.setVe u f).hbm = s.hbm := rfl
@[simp] theorem State.setVe_fab (u : Nat) (f : Ve → Ve) : (s.setVe u f).fab = s.fab := rfl
@[simp] theorem State.setVe_dim (u : Nat) (f : Ve → Ve) : (s.setVe u f).dim = s.dim := rfl
@[simp] theorem State.setVe_err (u : Nat) (f : Ve → Ve) : (s.setVe u f).err = s.err := rfl
@[simp] theorem State.setVe_regions (u : Nat) (f : Ve → Ve) : (s.setVe u f).regions = s.regions := rfl
@[simp] theorem State.setVe_oes (u : Nat) (f : Ve → Ve) : (s.setVe u f).oes = s.oes := rfl
@[simp] theorem State.setVe_power (u : Nat) (f : Ve → Ve) : (s.setVe u f).power = s.power := rfl
@[simp] theorem State.setVe_sched (u : Nat) (f : Ve → Ve) : (s.setVe u f).sched = s.sched := rfl
@[simp] theorem State.setVe_tap (u : Nat) (f : Ve → Ve) : (s.setVe u f).tap = s.tap := rfl
@[simp] theorem State.setVe_i3c (u : Nat) (f : Ve → Ve) : (s.setVe u f).i3c = s.i3c := rfl
@[simp] theorem State.setVe_out (u : Nat) (f : Ve → Ve) : (s.setVe u f).out = s.out := rfl
@[simp] theorem State.setVe_pending (u : Nat) (f : Ve → Ve) : (s.setVe u f).pending = s.pending := rfl

/-! ### State.setStack -/

@[simp] theorem State.setStack_pkg (r : Nat) (f : Stack → Stack) : (s.setStack r f).pkg = s.pkg := rfl
@[simp] theorem State.setStack_boot (r : Nat) (f : Stack → Stack) : (s.setStack r f).boot = s.boot := rfl
@[simp] theorem State.setStack_recorder (r : Nat) (f : Stack → Stack) : (s.setStack r f).recorder = s.recorder := rfl
@[simp] theorem State.setStack_mram (r : Nat) (f : Stack → Stack) : (s.setStack r f).mram = s.mram := rfl
@[simp] theorem State.setStack_fuses (r : Nat) (f : Stack → Stack) : (s.setStack r f).fuses = s.fuses := rfl
@[simp] theorem State.setStack_sec (r : Nat) (f : Stack → Stack) : (s.setStack r f).sec = s.sec := rfl
@[simp] theorem State.setStack_regs (r : Nat) (f : Stack → Stack) : (s.setStack r f).regs = s.regs := rfl
@[simp] theorem State.setStack_cxl (r : Nat) (f : Stack → Stack) : (s.setStack r f).cxl = s.cxl := rfl
@[simp] theorem State.setStack_xlat (r : Nat) (f : Stack → Stack) : (s.setStack r f).xlat = s.xlat := rfl
@[simp] theorem State.setStack_queues (r : Nat) (f : Stack → Stack) : (s.setStack r f).queues = s.queues := rfl
@[simp] theorem State.setStack_ctxs (r : Nat) (f : Stack → Stack) : (s.setStack r f).ctxs = s.ctxs := rfl
@[simp] theorem State.setStack_seqs (r : Nat) (f : Stack → Stack) : (s.setStack r f).seqs = s.seqs := rfl
@[simp] theorem State.setStack_model (r : Nat) (f : Stack → Stack) : (s.setStack r f).model = s.model := rfl
@[simp] theorem State.setStack_tabs (r : Nat) (f : Stack → Stack) : (s.setStack r f).tabs = s.tabs := rfl
@[simp] theorem State.setStack_lookups (r : Nat) (f : Stack → Stack) : (s.setStack r f).lookups = s.lookups := rfl
@[simp] theorem State.setStack_strag (r : Nat) (f : Stack → Stack) : (s.setStack r f).strag = s.strag := rfl
@[simp] theorem State.setStack_upd (r : Nat) (f : Stack → Stack) : (s.setStack r f).upd = s.upd := rfl
@[simp] theorem State.setStack_slots (r : Nat) (f : Stack → Stack) : (s.setStack r f).slots = s.slots := rfl
@[simp] theorem State.setStack_cls (r : Nat) (f : Stack → Stack) : (s.setStack r f).cls = s.cls := rfl
@[simp] theorem State.setStack_tiers (r : Nat) (f : Stack → Stack) : (s.setStack r f).tiers = s.tiers := rfl
@[simp] theorem State.setStack_fab (r : Nat) (f : Stack → Stack) : (s.setStack r f).fab = s.fab := rfl
@[simp] theorem State.setStack_dim (r : Nat) (f : Stack → Stack) : (s.setStack r f).dim = s.dim := rfl
@[simp] theorem State.setStack_err (r : Nat) (f : Stack → Stack) : (s.setStack r f).err = s.err := rfl
@[simp] theorem State.setStack_regions (r : Nat) (f : Stack → Stack) : (s.setStack r f).regions = s.regions := rfl
@[simp] theorem State.setStack_oes (r : Nat) (f : Stack → Stack) : (s.setStack r f).oes = s.oes := rfl
@[simp] theorem State.setStack_power (r : Nat) (f : Stack → Stack) : (s.setStack r f).power = s.power := rfl
@[simp] theorem State.setStack_sched (r : Nat) (f : Stack → Stack) : (s.setStack r f).sched = s.sched := rfl
@[simp] theorem State.setStack_tap (r : Nat) (f : Stack → Stack) : (s.setStack r f).tap = s.tap := rfl
@[simp] theorem State.setStack_i3c (r : Nat) (f : Stack → Stack) : (s.setStack r f).i3c = s.i3c := rfl
@[simp] theorem State.setStack_out (r : Nat) (f : Stack → Stack) : (s.setStack r f).out = s.out := rfl
@[simp] theorem State.setStack_pending (r : Nat) (f : Stack → Stack) : (s.setStack r f).pending = s.pending := rfl

/-! ### State.setPort -/

@[simp] theorem State.setPort_pkg (p : Nat) (f : Port → Port) : (s.setPort p f).pkg = s.pkg := rfl
@[simp] theorem State.setPort_boot (p : Nat) (f : Port → Port) : (s.setPort p f).boot = s.boot := rfl
@[simp] theorem State.setPort_recorder (p : Nat) (f : Port → Port) : (s.setPort p f).recorder = s.recorder := rfl
@[simp] theorem State.setPort_mram (p : Nat) (f : Port → Port) : (s.setPort p f).mram = s.mram := rfl
@[simp] theorem State.setPort_fuses (p : Nat) (f : Port → Port) : (s.setPort p f).fuses = s.fuses := rfl
@[simp] theorem State.setPort_sec (p : Nat) (f : Port → Port) : (s.setPort p f).sec = s.sec := rfl
@[simp] theorem State.setPort_regs (p : Nat) (f : Port → Port) : (s.setPort p f).regs = s.regs := rfl
@[simp] theorem State.setPort_cxl (p : Nat) (f : Port → Port) : (s.setPort p f).cxl = s.cxl := rfl
@[simp] theorem State.setPort_xlat (p : Nat) (f : Port → Port) : (s.setPort p f).xlat = s.xlat := rfl
@[simp] theorem State.setPort_queues (p : Nat) (f : Port → Port) : (s.setPort p f).queues = s.queues := rfl
@[simp] theorem State.setPort_ctxs (p : Nat) (f : Port → Port) : (s.setPort p f).ctxs = s.ctxs := rfl
@[simp] theorem State.setPort_seqs (p : Nat) (f : Port → Port) : (s.setPort p f).seqs = s.seqs := rfl
@[simp] theorem State.setPort_model (p : Nat) (f : Port → Port) : (s.setPort p f).model = s.model := rfl
@[simp] theorem State.setPort_tabs (p : Nat) (f : Port → Port) : (s.setPort p f).tabs = s.tabs := rfl
@[simp] theorem State.setPort_lookups (p : Nat) (f : Port → Port) : (s.setPort p f).lookups = s.lookups := rfl
@[simp] theorem State.setPort_strag (p : Nat) (f : Port → Port) : (s.setPort p f).strag = s.strag := rfl
@[simp] theorem State.setPort_upd (p : Nat) (f : Port → Port) : (s.setPort p f).upd = s.upd := rfl
@[simp] theorem State.setPort_slots (p : Nat) (f : Port → Port) : (s.setPort p f).slots = s.slots := rfl
@[simp] theorem State.setPort_cls (p : Nat) (f : Port → Port) : (s.setPort p f).cls = s.cls := rfl
@[simp] theorem State.setPort_tiers (p : Nat) (f : Port → Port) : (s.setPort p f).tiers = s.tiers := rfl
@[simp] theorem State.setPort_hbm (p : Nat) (f : Port → Port) : (s.setPort p f).hbm = s.hbm := rfl
@[simp] theorem State.setPort_dim (p : Nat) (f : Port → Port) : (s.setPort p f).dim = s.dim := rfl
@[simp] theorem State.setPort_err (p : Nat) (f : Port → Port) : (s.setPort p f).err = s.err := rfl
@[simp] theorem State.setPort_regions (p : Nat) (f : Port → Port) : (s.setPort p f).regions = s.regions := rfl
@[simp] theorem State.setPort_oes (p : Nat) (f : Port → Port) : (s.setPort p f).oes = s.oes := rfl
@[simp] theorem State.setPort_power (p : Nat) (f : Port → Port) : (s.setPort p f).power = s.power := rfl
@[simp] theorem State.setPort_sched (p : Nat) (f : Port → Port) : (s.setPort p f).sched = s.sched := rfl
@[simp] theorem State.setPort_tap (p : Nat) (f : Port → Port) : (s.setPort p f).tap = s.tap := rfl
@[simp] theorem State.setPort_i3c (p : Nat) (f : Port → Port) : (s.setPort p f).i3c = s.i3c := rfl
@[simp] theorem State.setPort_out (p : Nat) (f : Port → Port) : (s.setPort p f).out = s.out := rfl
@[simp] theorem State.setPort_pending (p : Nat) (f : Port → Port) : (s.setPort p f).pending = s.pending := rfl

/-! ### State.setPeer -/

@[simp] theorem State.setPeer_pkg (d : Nat) (f : Peer → Peer) : (s.setPeer d f).pkg = s.pkg := rfl
@[simp] theorem State.setPeer_boot (d : Nat) (f : Peer → Peer) : (s.setPeer d f).boot = s.boot := rfl
@[simp] theorem State.setPeer_recorder (d : Nat) (f : Peer → Peer) : (s.setPeer d f).recorder = s.recorder := rfl
@[simp] theorem State.setPeer_mram (d : Nat) (f : Peer → Peer) : (s.setPeer d f).mram = s.mram := rfl
@[simp] theorem State.setPeer_fuses (d : Nat) (f : Peer → Peer) : (s.setPeer d f).fuses = s.fuses := rfl
@[simp] theorem State.setPeer_sec (d : Nat) (f : Peer → Peer) : (s.setPeer d f).sec = s.sec := rfl
@[simp] theorem State.setPeer_regs (d : Nat) (f : Peer → Peer) : (s.setPeer d f).regs = s.regs := rfl
@[simp] theorem State.setPeer_cxl (d : Nat) (f : Peer → Peer) : (s.setPeer d f).cxl = s.cxl := rfl
@[simp] theorem State.setPeer_xlat (d : Nat) (f : Peer → Peer) : (s.setPeer d f).xlat = s.xlat := rfl
@[simp] theorem State.setPeer_queues (d : Nat) (f : Peer → Peer) : (s.setPeer d f).queues = s.queues := rfl
@[simp] theorem State.setPeer_ctxs (d : Nat) (f : Peer → Peer) : (s.setPeer d f).ctxs = s.ctxs := rfl
@[simp] theorem State.setPeer_seqs (d : Nat) (f : Peer → Peer) : (s.setPeer d f).seqs = s.seqs := rfl
@[simp] theorem State.setPeer_model (d : Nat) (f : Peer → Peer) : (s.setPeer d f).model = s.model := rfl
@[simp] theorem State.setPeer_tabs (d : Nat) (f : Peer → Peer) : (s.setPeer d f).tabs = s.tabs := rfl
@[simp] theorem State.setPeer_lookups (d : Nat) (f : Peer → Peer) : (s.setPeer d f).lookups = s.lookups := rfl
@[simp] theorem State.setPeer_strag (d : Nat) (f : Peer → Peer) : (s.setPeer d f).strag = s.strag := rfl
@[simp] theorem State.setPeer_upd (d : Nat) (f : Peer → Peer) : (s.setPeer d f).upd = s.upd := rfl
@[simp] theorem State.setPeer_slots (d : Nat) (f : Peer → Peer) : (s.setPeer d f).slots = s.slots := rfl
@[simp] theorem State.setPeer_cls (d : Nat) (f : Peer → Peer) : (s.setPeer d f).cls = s.cls := rfl
@[simp] theorem State.setPeer_tiers (d : Nat) (f : Peer → Peer) : (s.setPeer d f).tiers = s.tiers := rfl
@[simp] theorem State.setPeer_hbm (d : Nat) (f : Peer → Peer) : (s.setPeer d f).hbm = s.hbm := rfl
@[simp] theorem State.setPeer_dim (d : Nat) (f : Peer → Peer) : (s.setPeer d f).dim = s.dim := rfl
@[simp] theorem State.setPeer_err (d : Nat) (f : Peer → Peer) : (s.setPeer d f).err = s.err := rfl
@[simp] theorem State.setPeer_regions (d : Nat) (f : Peer → Peer) : (s.setPeer d f).regions = s.regions := rfl
@[simp] theorem State.setPeer_oes (d : Nat) (f : Peer → Peer) : (s.setPeer d f).oes = s.oes := rfl
@[simp] theorem State.setPeer_power (d : Nat) (f : Peer → Peer) : (s.setPeer d f).power = s.power := rfl
@[simp] theorem State.setPeer_sched (d : Nat) (f : Peer → Peer) : (s.setPeer d f).sched = s.sched := rfl
@[simp] theorem State.setPeer_tap (d : Nat) (f : Peer → Peer) : (s.setPeer d f).tap = s.tap := rfl
@[simp] theorem State.setPeer_i3c (d : Nat) (f : Peer → Peer) : (s.setPeer d f).i3c = s.i3c := rfl
@[simp] theorem State.setPeer_out (d : Nat) (f : Peer → Peer) : (s.setPeer d f).out = s.out := rfl
@[simp] theorem State.setPeer_pending (d : Nat) (f : Peer → Peer) : (s.setPeer d f).pending = s.pending := rfl

/-! ### State.setRegion -/

@[simp] theorem State.setRegion_pkg (r : Nat) (f : Region → Region) : (s.setRegion r f).pkg = s.pkg := rfl
@[simp] theorem State.setRegion_boot (r : Nat) (f : Region → Region) : (s.setRegion r f).boot = s.boot := rfl
@[simp] theorem State.setRegion_recorder (r : Nat) (f : Region → Region) : (s.setRegion r f).recorder = s.recorder := rfl
@[simp] theorem State.setRegion_mram (r : Nat) (f : Region → Region) : (s.setRegion r f).mram = s.mram := rfl
@[simp] theorem State.setRegion_fuses (r : Nat) (f : Region → Region) : (s.setRegion r f).fuses = s.fuses := rfl
@[simp] theorem State.setRegion_sec (r : Nat) (f : Region → Region) : (s.setRegion r f).sec = s.sec := rfl
@[simp] theorem State.setRegion_regs (r : Nat) (f : Region → Region) : (s.setRegion r f).regs = s.regs := rfl
@[simp] theorem State.setRegion_cxl (r : Nat) (f : Region → Region) : (s.setRegion r f).cxl = s.cxl := rfl
@[simp] theorem State.setRegion_xlat (r : Nat) (f : Region → Region) : (s.setRegion r f).xlat = s.xlat := rfl
@[simp] theorem State.setRegion_queues (r : Nat) (f : Region → Region) : (s.setRegion r f).queues = s.queues := rfl
@[simp] theorem State.setRegion_ctxs (r : Nat) (f : Region → Region) : (s.setRegion r f).ctxs = s.ctxs := rfl
@[simp] theorem State.setRegion_seqs (r : Nat) (f : Region → Region) : (s.setRegion r f).seqs = s.seqs := rfl
@[simp] theorem State.setRegion_model (r : Nat) (f : Region → Region) : (s.setRegion r f).model = s.model := rfl
@[simp] theorem State.setRegion_tabs (r : Nat) (f : Region → Region) : (s.setRegion r f).tabs = s.tabs := rfl
@[simp] theorem State.setRegion_lookups (r : Nat) (f : Region → Region) : (s.setRegion r f).lookups = s.lookups := rfl
@[simp] theorem State.setRegion_strag (r : Nat) (f : Region → Region) : (s.setRegion r f).strag = s.strag := rfl
@[simp] theorem State.setRegion_upd (r : Nat) (f : Region → Region) : (s.setRegion r f).upd = s.upd := rfl
@[simp] theorem State.setRegion_slots (r : Nat) (f : Region → Region) : (s.setRegion r f).slots = s.slots := rfl
@[simp] theorem State.setRegion_cls (r : Nat) (f : Region → Region) : (s.setRegion r f).cls = s.cls := rfl
@[simp] theorem State.setRegion_tiers (r : Nat) (f : Region → Region) : (s.setRegion r f).tiers = s.tiers := rfl
@[simp] theorem State.setRegion_hbm (r : Nat) (f : Region → Region) : (s.setRegion r f).hbm = s.hbm := rfl
@[simp] theorem State.setRegion_fab (r : Nat) (f : Region → Region) : (s.setRegion r f).fab = s.fab := rfl
@[simp] theorem State.setRegion_dim (r : Nat) (f : Region → Region) : (s.setRegion r f).dim = s.dim := rfl
@[simp] theorem State.setRegion_err (r : Nat) (f : Region → Region) : (s.setRegion r f).err = s.err := rfl
@[simp] theorem State.setRegion_oes (r : Nat) (f : Region → Region) : (s.setRegion r f).oes = s.oes := rfl
@[simp] theorem State.setRegion_power (r : Nat) (f : Region → Region) : (s.setRegion r f).power = s.power := rfl
@[simp] theorem State.setRegion_sched (r : Nat) (f : Region → Region) : (s.setRegion r f).sched = s.sched := rfl
@[simp] theorem State.setRegion_tap (r : Nat) (f : Region → Region) : (s.setRegion r f).tap = s.tap := rfl
@[simp] theorem State.setRegion_i3c (r : Nat) (f : Region → Region) : (s.setRegion r f).i3c = s.i3c := rfl
@[simp] theorem State.setRegion_out (r : Nat) (f : Region → Region) : (s.setRegion r f).out = s.out := rfl
@[simp] theorem State.setRegion_pending (r : Nat) (f : Region → Region) : (s.setRegion r f).pending = s.pending := rfl

/-! ### State.setOe -/

@[simp] theorem State.setOe_pkg (e : Nat) (f : OptEngine → OptEngine) : (s.setOe e f).pkg = s.pkg := rfl
@[simp] theorem State.setOe_boot (e : Nat) (f : OptEngine → OptEngine) : (s.setOe e f).boot = s.boot := rfl
@[simp] theorem State.setOe_recorder (e : Nat) (f : OptEngine → OptEngine) : (s.setOe e f).recorder = s.recorder := rfl
@[simp] theorem State.setOe_mram (e : Nat) (f : OptEngine → OptEngine) : (s.setOe e f).mram = s.mram := rfl
@[simp] theorem State.setOe_fuses (e : Nat) (f : OptEngine → OptEngine) : (s.setOe e f).fuses = s.fuses := rfl
@[simp] theorem State.setOe_sec (e : Nat) (f : OptEngine → OptEngine) : (s.setOe e f).sec = s.sec := rfl
@[simp] theorem State.setOe_regs (e : Nat) (f : OptEngine → OptEngine) : (s.setOe e f).regs = s.regs := rfl
@[simp] theorem State.setOe_cxl (e : Nat) (f : OptEngine → OptEngine) : (s.setOe e f).cxl = s.cxl := rfl
@[simp] theorem State.setOe_xlat (e : Nat) (f : OptEngine → OptEngine) : (s.setOe e f).xlat = s.xlat := rfl
@[simp] theorem State.setOe_queues (e : Nat) (f : OptEngine → OptEngine) : (s.setOe e f).queues = s.queues := rfl
@[simp] theorem State.setOe_ctxs (e : Nat) (f : OptEngine → OptEngine) : (s.setOe e f).ctxs = s.ctxs := rfl
@[simp] theorem State.setOe_seqs (e : Nat) (f : OptEngine → OptEngine) : (s.setOe e f).seqs = s.seqs := rfl
@[simp] theorem State.setOe_model (e : Nat) (f : OptEngine → OptEngine) : (s.setOe e f).model = s.model := rfl
@[simp] theorem State.setOe_tabs (e : Nat) (f : OptEngine → OptEngine) : (s.setOe e f).tabs = s.tabs := rfl
@[simp] theorem State.setOe_lookups (e : Nat) (f : OptEngine → OptEngine) : (s.setOe e f).lookups = s.lookups := rfl
@[simp] theorem State.setOe_strag (e : Nat) (f : OptEngine → OptEngine) : (s.setOe e f).strag = s.strag := rfl
@[simp] theorem State.setOe_upd (e : Nat) (f : OptEngine → OptEngine) : (s.setOe e f).upd = s.upd := rfl
@[simp] theorem State.setOe_slots (e : Nat) (f : OptEngine → OptEngine) : (s.setOe e f).slots = s.slots := rfl
@[simp] theorem State.setOe_cls (e : Nat) (f : OptEngine → OptEngine) : (s.setOe e f).cls = s.cls := rfl
@[simp] theorem State.setOe_tiers (e : Nat) (f : OptEngine → OptEngine) : (s.setOe e f).tiers = s.tiers := rfl
@[simp] theorem State.setOe_hbm (e : Nat) (f : OptEngine → OptEngine) : (s.setOe e f).hbm = s.hbm := rfl
@[simp] theorem State.setOe_fab (e : Nat) (f : OptEngine → OptEngine) : (s.setOe e f).fab = s.fab := rfl
@[simp] theorem State.setOe_dim (e : Nat) (f : OptEngine → OptEngine) : (s.setOe e f).dim = s.dim := rfl
@[simp] theorem State.setOe_err (e : Nat) (f : OptEngine → OptEngine) : (s.setOe e f).err = s.err := rfl
@[simp] theorem State.setOe_regions (e : Nat) (f : OptEngine → OptEngine) : (s.setOe e f).regions = s.regions := rfl
@[simp] theorem State.setOe_power (e : Nat) (f : OptEngine → OptEngine) : (s.setOe e f).power = s.power := rfl
@[simp] theorem State.setOe_sched (e : Nat) (f : OptEngine → OptEngine) : (s.setOe e f).sched = s.sched := rfl
@[simp] theorem State.setOe_tap (e : Nat) (f : OptEngine → OptEngine) : (s.setOe e f).tap = s.tap := rfl
@[simp] theorem State.setOe_i3c (e : Nat) (f : OptEngine → OptEngine) : (s.setOe e f).i3c = s.i3c := rfl
@[simp] theorem State.setOe_out (e : Nat) (f : OptEngine → OptEngine) : (s.setOe e f).out = s.out := rfl
@[simp] theorem State.setOe_pending (e : Nat) (f : OptEngine → OptEngine) : (s.setOe e f).pending = s.pending := rfl

/-! ### State.setTable -/

@[simp] theorem State.setTable_pkg (t : Nat) (f : Table → Table) : (s.setTable t f).pkg = s.pkg := rfl
@[simp] theorem State.setTable_boot (t : Nat) (f : Table → Table) : (s.setTable t f).boot = s.boot := rfl
@[simp] theorem State.setTable_recorder (t : Nat) (f : Table → Table) : (s.setTable t f).recorder = s.recorder := rfl
@[simp] theorem State.setTable_mram (t : Nat) (f : Table → Table) : (s.setTable t f).mram = s.mram := rfl
@[simp] theorem State.setTable_fuses (t : Nat) (f : Table → Table) : (s.setTable t f).fuses = s.fuses := rfl
@[simp] theorem State.setTable_sec (t : Nat) (f : Table → Table) : (s.setTable t f).sec = s.sec := rfl
@[simp] theorem State.setTable_regs (t : Nat) (f : Table → Table) : (s.setTable t f).regs = s.regs := rfl
@[simp] theorem State.setTable_cxl (t : Nat) (f : Table → Table) : (s.setTable t f).cxl = s.cxl := rfl
@[simp] theorem State.setTable_xlat (t : Nat) (f : Table → Table) : (s.setTable t f).xlat = s.xlat := rfl
@[simp] theorem State.setTable_queues (t : Nat) (f : Table → Table) : (s.setTable t f).queues = s.queues := rfl
@[simp] theorem State.setTable_ctxs (t : Nat) (f : Table → Table) : (s.setTable t f).ctxs = s.ctxs := rfl
@[simp] theorem State.setTable_seqs (t : Nat) (f : Table → Table) : (s.setTable t f).seqs = s.seqs := rfl
@[simp] theorem State.setTable_model (t : Nat) (f : Table → Table) : (s.setTable t f).model = s.model := rfl
@[simp] theorem State.setTable_lookups (t : Nat) (f : Table → Table) : (s.setTable t f).lookups = s.lookups := rfl
@[simp] theorem State.setTable_strag (t : Nat) (f : Table → Table) : (s.setTable t f).strag = s.strag := rfl
@[simp] theorem State.setTable_upd (t : Nat) (f : Table → Table) : (s.setTable t f).upd = s.upd := rfl
@[simp] theorem State.setTable_slots (t : Nat) (f : Table → Table) : (s.setTable t f).slots = s.slots := rfl
@[simp] theorem State.setTable_cls (t : Nat) (f : Table → Table) : (s.setTable t f).cls = s.cls := rfl
@[simp] theorem State.setTable_tiers (t : Nat) (f : Table → Table) : (s.setTable t f).tiers = s.tiers := rfl
@[simp] theorem State.setTable_hbm (t : Nat) (f : Table → Table) : (s.setTable t f).hbm = s.hbm := rfl
@[simp] theorem State.setTable_fab (t : Nat) (f : Table → Table) : (s.setTable t f).fab = s.fab := rfl
@[simp] theorem State.setTable_dim (t : Nat) (f : Table → Table) : (s.setTable t f).dim = s.dim := rfl
@[simp] theorem State.setTable_err (t : Nat) (f : Table → Table) : (s.setTable t f).err = s.err := rfl
@[simp] theorem State.setTable_regions (t : Nat) (f : Table → Table) : (s.setTable t f).regions = s.regions := rfl
@[simp] theorem State.setTable_oes (t : Nat) (f : Table → Table) : (s.setTable t f).oes = s.oes := rfl
@[simp] theorem State.setTable_power (t : Nat) (f : Table → Table) : (s.setTable t f).power = s.power := rfl
@[simp] theorem State.setTable_sched (t : Nat) (f : Table → Table) : (s.setTable t f).sched = s.sched := rfl
@[simp] theorem State.setTable_tap (t : Nat) (f : Table → Table) : (s.setTable t f).tap = s.tap := rfl
@[simp] theorem State.setTable_i3c (t : Nat) (f : Table → Table) : (s.setTable t f).i3c = s.i3c := rfl
@[simp] theorem State.setTable_out (t : Nat) (f : Table → Table) : (s.setTable t f).out = s.out := rfl
@[simp] theorem State.setTable_pending (t : Nat) (f : Table → Table) : (s.setTable t f).pending = s.pending := rfl

/-! ### State.setEpoch -/

@[simp] theorem State.setEpoch_pkg (n : Nat) (f : Epoch → Epoch) : (s.setEpoch n f).pkg = s.pkg := rfl
@[simp] theorem State.setEpoch_boot (n : Nat) (f : Epoch → Epoch) : (s.setEpoch n f).boot = s.boot := rfl
@[simp] theorem State.setEpoch_recorder (n : Nat) (f : Epoch → Epoch) : (s.setEpoch n f).recorder = s.recorder := rfl
@[simp] theorem State.setEpoch_mram (n : Nat) (f : Epoch → Epoch) : (s.setEpoch n f).mram = s.mram := rfl
@[simp] theorem State.setEpoch_fuses (n : Nat) (f : Epoch → Epoch) : (s.setEpoch n f).fuses = s.fuses := rfl
@[simp] theorem State.setEpoch_sec (n : Nat) (f : Epoch → Epoch) : (s.setEpoch n f).sec = s.sec := rfl
@[simp] theorem State.setEpoch_regs (n : Nat) (f : Epoch → Epoch) : (s.setEpoch n f).regs = s.regs := rfl
@[simp] theorem State.setEpoch_cxl (n : Nat) (f : Epoch → Epoch) : (s.setEpoch n f).cxl = s.cxl := rfl
@[simp] theorem State.setEpoch_xlat (n : Nat) (f : Epoch → Epoch) : (s.setEpoch n f).xlat = s.xlat := rfl
@[simp] theorem State.setEpoch_queues (n : Nat) (f : Epoch → Epoch) : (s.setEpoch n f).queues = s.queues := rfl
@[simp] theorem State.setEpoch_ctxs (n : Nat) (f : Epoch → Epoch) : (s.setEpoch n f).ctxs = s.ctxs := rfl
@[simp] theorem State.setEpoch_seqs (n : Nat) (f : Epoch → Epoch) : (s.setEpoch n f).seqs = s.seqs := rfl
@[simp] theorem State.setEpoch_model (n : Nat) (f : Epoch → Epoch) : (s.setEpoch n f).model = s.model := rfl
@[simp] theorem State.setEpoch_tabs (n : Nat) (f : Epoch → Epoch) : (s.setEpoch n f).tabs = s.tabs := rfl
@[simp] theorem State.setEpoch_lookups (n : Nat) (f : Epoch → Epoch) : (s.setEpoch n f).lookups = s.lookups := rfl
@[simp] theorem State.setEpoch_strag (n : Nat) (f : Epoch → Epoch) : (s.setEpoch n f).strag = s.strag := rfl
@[simp] theorem State.setEpoch_slots (n : Nat) (f : Epoch → Epoch) : (s.setEpoch n f).slots = s.slots := rfl
@[simp] theorem State.setEpoch_cls (n : Nat) (f : Epoch → Epoch) : (s.setEpoch n f).cls = s.cls := rfl
@[simp] theorem State.setEpoch_tiers (n : Nat) (f : Epoch → Epoch) : (s.setEpoch n f).tiers = s.tiers := rfl
@[simp] theorem State.setEpoch_hbm (n : Nat) (f : Epoch → Epoch) : (s.setEpoch n f).hbm = s.hbm := rfl
@[simp] theorem State.setEpoch_fab (n : Nat) (f : Epoch → Epoch) : (s.setEpoch n f).fab = s.fab := rfl
@[simp] theorem State.setEpoch_dim (n : Nat) (f : Epoch → Epoch) : (s.setEpoch n f).dim = s.dim := rfl
@[simp] theorem State.setEpoch_err (n : Nat) (f : Epoch → Epoch) : (s.setEpoch n f).err = s.err := rfl
@[simp] theorem State.setEpoch_regions (n : Nat) (f : Epoch → Epoch) : (s.setEpoch n f).regions = s.regions := rfl
@[simp] theorem State.setEpoch_oes (n : Nat) (f : Epoch → Epoch) : (s.setEpoch n f).oes = s.oes := rfl
@[simp] theorem State.setEpoch_power (n : Nat) (f : Epoch → Epoch) : (s.setEpoch n f).power = s.power := rfl
@[simp] theorem State.setEpoch_sched (n : Nat) (f : Epoch → Epoch) : (s.setEpoch n f).sched = s.sched := rfl
@[simp] theorem State.setEpoch_tap (n : Nat) (f : Epoch → Epoch) : (s.setEpoch n f).tap = s.tap := rfl
@[simp] theorem State.setEpoch_i3c (n : Nat) (f : Epoch → Epoch) : (s.setEpoch n f).i3c = s.i3c := rfl
@[simp] theorem State.setEpoch_out (n : Nat) (f : Epoch → Epoch) : (s.setEpoch n f).out = s.out := rfl
@[simp] theorem State.setEpoch_pending (n : Nat) (f : Epoch → Epoch) : (s.setEpoch n f).pending = s.pending := rfl

/-! ### State.updCtr -/

@[simp] theorem State.updCtr_pkg (f : UpdCounters → UpdCounters) : (s.updCtr f).pkg = s.pkg := rfl
@[simp] theorem State.updCtr_boot (f : UpdCounters → UpdCounters) : (s.updCtr f).boot = s.boot := rfl
@[simp] theorem State.updCtr_recorder (f : UpdCounters → UpdCounters) : (s.updCtr f).recorder = s.recorder := rfl
@[simp] theorem State.updCtr_mram (f : UpdCounters → UpdCounters) : (s.updCtr f).mram = s.mram := rfl
@[simp] theorem State.updCtr_fuses (f : UpdCounters → UpdCounters) : (s.updCtr f).fuses = s.fuses := rfl
@[simp] theorem State.updCtr_sec (f : UpdCounters → UpdCounters) : (s.updCtr f).sec = s.sec := rfl
@[simp] theorem State.updCtr_regs (f : UpdCounters → UpdCounters) : (s.updCtr f).regs = s.regs := rfl
@[simp] theorem State.updCtr_cxl (f : UpdCounters → UpdCounters) : (s.updCtr f).cxl = s.cxl := rfl
@[simp] theorem State.updCtr_xlat (f : UpdCounters → UpdCounters) : (s.updCtr f).xlat = s.xlat := rfl
@[simp] theorem State.updCtr_queues (f : UpdCounters → UpdCounters) : (s.updCtr f).queues = s.queues := rfl
@[simp] theorem State.updCtr_ctxs (f : UpdCounters → UpdCounters) : (s.updCtr f).ctxs = s.ctxs := rfl
@[simp] theorem State.updCtr_seqs (f : UpdCounters → UpdCounters) : (s.updCtr f).seqs = s.seqs := rfl
@[simp] theorem State.updCtr_model (f : UpdCounters → UpdCounters) : (s.updCtr f).model = s.model := rfl
@[simp] theorem State.updCtr_tabs (f : UpdCounters → UpdCounters) : (s.updCtr f).tabs = s.tabs := rfl
@[simp] theorem State.updCtr_lookups (f : UpdCounters → UpdCounters) : (s.updCtr f).lookups = s.lookups := rfl
@[simp] theorem State.updCtr_strag (f : UpdCounters → UpdCounters) : (s.updCtr f).strag = s.strag := rfl
@[simp] theorem State.updCtr_slots (f : UpdCounters → UpdCounters) : (s.updCtr f).slots = s.slots := rfl
@[simp] theorem State.updCtr_cls (f : UpdCounters → UpdCounters) : (s.updCtr f).cls = s.cls := rfl
@[simp] theorem State.updCtr_tiers (f : UpdCounters → UpdCounters) : (s.updCtr f).tiers = s.tiers := rfl
@[simp] theorem State.updCtr_hbm (f : UpdCounters → UpdCounters) : (s.updCtr f).hbm = s.hbm := rfl
@[simp] theorem State.updCtr_fab (f : UpdCounters → UpdCounters) : (s.updCtr f).fab = s.fab := rfl
@[simp] theorem State.updCtr_dim (f : UpdCounters → UpdCounters) : (s.updCtr f).dim = s.dim := rfl
@[simp] theorem State.updCtr_err (f : UpdCounters → UpdCounters) : (s.updCtr f).err = s.err := rfl
@[simp] theorem State.updCtr_regions (f : UpdCounters → UpdCounters) : (s.updCtr f).regions = s.regions := rfl
@[simp] theorem State.updCtr_oes (f : UpdCounters → UpdCounters) : (s.updCtr f).oes = s.oes := rfl
@[simp] theorem State.updCtr_power (f : UpdCounters → UpdCounters) : (s.updCtr f).power = s.power := rfl
@[simp] theorem State.updCtr_sched (f : UpdCounters → UpdCounters) : (s.updCtr f).sched = s.sched := rfl
@[simp] theorem State.updCtr_tap (f : UpdCounters → UpdCounters) : (s.updCtr f).tap = s.tap := rfl
@[simp] theorem State.updCtr_i3c (f : UpdCounters → UpdCounters) : (s.updCtr f).i3c = s.i3c := rfl
@[simp] theorem State.updCtr_out (f : UpdCounters → UpdCounters) : (s.updCtr f).out = s.out := rfl
@[simp] theorem State.updCtr_pending (f : UpdCounters → UpdCounters) : (s.updCtr f).pending = s.pending := rfl

/-! ### State.setJob -/

@[simp] theorem State.setJob_pkg (j : JobRef) (f : Job → Job) : (s.setJob j f).pkg = s.pkg := rfl
@[simp] theorem State.setJob_boot (j : JobRef) (f : Job → Job) : (s.setJob j f).boot = s.boot := rfl
@[simp] theorem State.setJob_recorder (j : JobRef) (f : Job → Job) : (s.setJob j f).recorder = s.recorder := rfl
@[simp] theorem State.setJob_mram (j : JobRef) (f : Job → Job) : (s.setJob j f).mram = s.mram := rfl
@[simp] theorem State.setJob_fuses (j : JobRef) (f : Job → Job) : (s.setJob j f).fuses = s.fuses := rfl
@[simp] theorem State.setJob_sec (j : JobRef) (f : Job → Job) : (s.setJob j f).sec = s.sec := rfl
@[simp] theorem State.setJob_regs (j : JobRef) (f : Job → Job) : (s.setJob j f).regs = s.regs := rfl
@[simp] theorem State.setJob_cxl (j : JobRef) (f : Job → Job) : (s.setJob j f).cxl = s.cxl := rfl
@[simp] theorem State.setJob_xlat (j : JobRef) (f : Job → Job) : (s.setJob j f).xlat = s.xlat := rfl
@[simp] theorem State.setJob_ctxs (j : JobRef) (f : Job → Job) : (s.setJob j f).ctxs = s.ctxs := rfl
@[simp] theorem State.setJob_seqs (j : JobRef) (f : Job → Job) : (s.setJob j f).seqs = s.seqs := rfl
@[simp] theorem State.setJob_model (j : JobRef) (f : Job → Job) : (s.setJob j f).model = s.model := rfl
@[simp] theorem State.setJob_tabs (j : JobRef) (f : Job → Job) : (s.setJob j f).tabs = s.tabs := rfl
@[simp] theorem State.setJob_lookups (j : JobRef) (f : Job → Job) : (s.setJob j f).lookups = s.lookups := rfl
@[simp] theorem State.setJob_strag (j : JobRef) (f : Job → Job) : (s.setJob j f).strag = s.strag := rfl
@[simp] theorem State.setJob_upd (j : JobRef) (f : Job → Job) : (s.setJob j f).upd = s.upd := rfl
@[simp] theorem State.setJob_slots (j : JobRef) (f : Job → Job) : (s.setJob j f).slots = s.slots := rfl
@[simp] theorem State.setJob_cls (j : JobRef) (f : Job → Job) : (s.setJob j f).cls = s.cls := rfl
@[simp] theorem State.setJob_tiers (j : JobRef) (f : Job → Job) : (s.setJob j f).tiers = s.tiers := rfl
@[simp] theorem State.setJob_hbm (j : JobRef) (f : Job → Job) : (s.setJob j f).hbm = s.hbm := rfl
@[simp] theorem State.setJob_fab (j : JobRef) (f : Job → Job) : (s.setJob j f).fab = s.fab := rfl
@[simp] theorem State.setJob_dim (j : JobRef) (f : Job → Job) : (s.setJob j f).dim = s.dim := rfl
@[simp] theorem State.setJob_err (j : JobRef) (f : Job → Job) : (s.setJob j f).err = s.err := rfl
@[simp] theorem State.setJob_regions (j : JobRef) (f : Job → Job) : (s.setJob j f).regions = s.regions := rfl
@[simp] theorem State.setJob_oes (j : JobRef) (f : Job → Job) : (s.setJob j f).oes = s.oes := rfl
@[simp] theorem State.setJob_power (j : JobRef) (f : Job → Job) : (s.setJob j f).power = s.power := rfl
@[simp] theorem State.setJob_sched (j : JobRef) (f : Job → Job) : (s.setJob j f).sched = s.sched := rfl
@[simp] theorem State.setJob_tap (j : JobRef) (f : Job → Job) : (s.setJob j f).tap = s.tap := rfl
@[simp] theorem State.setJob_i3c (j : JobRef) (f : Job → Job) : (s.setJob j f).i3c = s.i3c := rfl
@[simp] theorem State.setJob_out (j : JobRef) (f : Job → Job) : (s.setJob j f).out = s.out := rfl
@[simp] theorem State.setJob_pending (j : JobRef) (f : Job → Job) : (s.setJob j f).pending = s.pending := rfl

/-! ### State.finishJob -/

@[simp] theorem State.finishJob_pkg (j : JobRef) (status detail counts : Nat) : (s.finishJob j status detail counts).pkg = s.pkg := rfl
@[simp] theorem State.finishJob_boot (j : JobRef) (status detail counts : Nat) : (s.finishJob j status detail counts).boot = s.boot := rfl
@[simp] theorem State.finishJob_recorder (j : JobRef) (status detail counts : Nat) : (s.finishJob j status detail counts).recorder = s.recorder := rfl
@[simp] theorem State.finishJob_mram (j : JobRef) (status detail counts : Nat) : (s.finishJob j status detail counts).mram = s.mram := rfl
@[simp] theorem State.finishJob_fuses (j : JobRef) (status detail counts : Nat) : (s.finishJob j status detail counts).fuses = s.fuses := rfl
@[simp] theorem State.finishJob_sec (j : JobRef) (status detail counts : Nat) : (s.finishJob j status detail counts).sec = s.sec := rfl
@[simp] theorem State.finishJob_regs (j : JobRef) (status detail counts : Nat) : (s.finishJob j status detail counts).regs = s.regs := rfl
@[simp] theorem State.finishJob_cxl (j : JobRef) (status detail counts : Nat) : (s.finishJob j status detail counts).cxl = s.cxl := rfl
@[simp] theorem State.finishJob_xlat (j : JobRef) (status detail counts : Nat) : (s.finishJob j status detail counts).xlat = s.xlat := rfl
@[simp] theorem State.finishJob_ctxs (j : JobRef) (status detail counts : Nat) : (s.finishJob j status detail counts).ctxs = s.ctxs := rfl
@[simp] theorem State.finishJob_seqs (j : JobRef) (status detail counts : Nat) : (s.finishJob j status detail counts).seqs = s.seqs := rfl
@[simp] theorem State.finishJob_model (j : JobRef) (status detail counts : Nat) : (s.finishJob j status detail counts).model = s.model := rfl
@[simp] theorem State.finishJob_tabs (j : JobRef) (status detail counts : Nat) : (s.finishJob j status detail counts).tabs = s.tabs := rfl
@[simp] theorem State.finishJob_lookups (j : JobRef) (status detail counts : Nat) : (s.finishJob j status detail counts).lookups = s.lookups := rfl
@[simp] theorem State.finishJob_strag (j : JobRef) (status detail counts : Nat) : (s.finishJob j status detail counts).strag = s.strag := rfl
@[simp] theorem State.finishJob_upd (j : JobRef) (status detail counts : Nat) : (s.finishJob j status detail counts).upd = s.upd := rfl
@[simp] theorem State.finishJob_slots (j : JobRef) (status detail counts : Nat) : (s.finishJob j status detail counts).slots = s.slots := rfl
@[simp] theorem State.finishJob_cls (j : JobRef) (status detail counts : Nat) : (s.finishJob j status detail counts).cls = s.cls := rfl
@[simp] theorem State.finishJob_tiers (j : JobRef) (status detail counts : Nat) : (s.finishJob j status detail counts).tiers = s.tiers := rfl
@[simp] theorem State.finishJob_hbm (j : JobRef) (status detail counts : Nat) : (s.finishJob j status detail counts).hbm = s.hbm := rfl
@[simp] theorem State.finishJob_fab (j : JobRef) (status detail counts : Nat) : (s.finishJob j status detail counts).fab = s.fab := rfl
@[simp] theorem State.finishJob_dim (j : JobRef) (status detail counts : Nat) : (s.finishJob j status detail counts).dim = s.dim := rfl
@[simp] theorem State.finishJob_err (j : JobRef) (status detail counts : Nat) : (s.finishJob j status detail counts).err = s.err := rfl
@[simp] theorem State.finishJob_regions (j : JobRef) (status detail counts : Nat) : (s.finishJob j status detail counts).regions = s.regions := rfl
@[simp] theorem State.finishJob_oes (j : JobRef) (status detail counts : Nat) : (s.finishJob j status detail counts).oes = s.oes := rfl
@[simp] theorem State.finishJob_power (j : JobRef) (status detail counts : Nat) : (s.finishJob j status detail counts).power = s.power := rfl
@[simp] theorem State.finishJob_sched (j : JobRef) (status detail counts : Nat) : (s.finishJob j status detail counts).sched = s.sched := rfl
@[simp] theorem State.finishJob_tap (j : JobRef) (status detail counts : Nat) : (s.finishJob j status detail counts).tap = s.tap := rfl
@[simp] theorem State.finishJob_i3c (j : JobRef) (status detail counts : Nat) : (s.finishJob j status detail counts).i3c = s.i3c := rfl
@[simp] theorem State.finishJob_out (j : JobRef) (status detail counts : Nat) : (s.finishJob j status detail counts).out = s.out := rfl
@[simp] theorem State.finishJob_pending (j : JobRef) (status detail counts : Nat) : (s.finishJob j status detail counts).pending = s.pending := rfl

/-! ### State.abortJob -/

@[simp] theorem State.abortJob_pkg (j : JobRef) (detail : Nat) : (s.abortJob j detail).pkg = s.pkg := rfl
@[simp] theorem State.abortJob_boot (j : JobRef) (detail : Nat) : (s.abortJob j detail).boot = s.boot := rfl
@[simp] theorem State.abortJob_recorder (j : JobRef) (detail : Nat) : (s.abortJob j detail).recorder = s.recorder := rfl
@[simp] theorem State.abortJob_mram (j : JobRef) (detail : Nat) : (s.abortJob j detail).mram = s.mram := rfl
@[simp] theorem State.abortJob_fuses (j : JobRef) (detail : Nat) : (s.abortJob j detail).fuses = s.fuses := rfl
@[simp] theorem State.abortJob_sec (j : JobRef) (detail : Nat) : (s.abortJob j detail).sec = s.sec := rfl
@[simp] theorem State.abortJob_regs (j : JobRef) (detail : Nat) : (s.abortJob j detail).regs = s.regs := rfl
@[simp] theorem State.abortJob_cxl (j : JobRef) (detail : Nat) : (s.abortJob j detail).cxl = s.cxl := rfl
@[simp] theorem State.abortJob_xlat (j : JobRef) (detail : Nat) : (s.abortJob j detail).xlat = s.xlat := rfl
@[simp] theorem State.abortJob_ctxs (j : JobRef) (detail : Nat) : (s.abortJob j detail).ctxs = s.ctxs := rfl
@[simp] theorem State.abortJob_seqs (j : JobRef) (detail : Nat) : (s.abortJob j detail).seqs = s.seqs := rfl
@[simp] theorem State.abortJob_model (j : JobRef) (detail : Nat) : (s.abortJob j detail).model = s.model := rfl
@[simp] theorem State.abortJob_tabs (j : JobRef) (detail : Nat) : (s.abortJob j detail).tabs = s.tabs := rfl
@[simp] theorem State.abortJob_lookups (j : JobRef) (detail : Nat) : (s.abortJob j detail).lookups = s.lookups := rfl
@[simp] theorem State.abortJob_strag (j : JobRef) (detail : Nat) : (s.abortJob j detail).strag = s.strag := rfl
@[simp] theorem State.abortJob_upd (j : JobRef) (detail : Nat) : (s.abortJob j detail).upd = s.upd := rfl
@[simp] theorem State.abortJob_slots (j : JobRef) (detail : Nat) : (s.abortJob j detail).slots = s.slots := rfl
@[simp] theorem State.abortJob_cls (j : JobRef) (detail : Nat) : (s.abortJob j detail).cls = s.cls := rfl
@[simp] theorem State.abortJob_tiers (j : JobRef) (detail : Nat) : (s.abortJob j detail).tiers = s.tiers := rfl
@[simp] theorem State.abortJob_hbm (j : JobRef) (detail : Nat) : (s.abortJob j detail).hbm = s.hbm := rfl
@[simp] theorem State.abortJob_fab (j : JobRef) (detail : Nat) : (s.abortJob j detail).fab = s.fab := rfl
@[simp] theorem State.abortJob_dim (j : JobRef) (detail : Nat) : (s.abortJob j detail).dim = s.dim := rfl
@[simp] theorem State.abortJob_err (j : JobRef) (detail : Nat) : (s.abortJob j detail).err = s.err := rfl
@[simp] theorem State.abortJob_regions (j : JobRef) (detail : Nat) : (s.abortJob j detail).regions = s.regions := rfl
@[simp] theorem State.abortJob_oes (j : JobRef) (detail : Nat) : (s.abortJob j detail).oes = s.oes := rfl
@[simp] theorem State.abortJob_power (j : JobRef) (detail : Nat) : (s.abortJob j detail).power = s.power := rfl
@[simp] theorem State.abortJob_sched (j : JobRef) (detail : Nat) : (s.abortJob j detail).sched = s.sched := rfl
@[simp] theorem State.abortJob_tap (j : JobRef) (detail : Nat) : (s.abortJob j detail).tap = s.tap := rfl
@[simp] theorem State.abortJob_i3c (j : JobRef) (detail : Nat) : (s.abortJob j detail).i3c = s.i3c := rfl
@[simp] theorem State.abortJob_out (j : JobRef) (detail : Nat) : (s.abortJob j detail).out = s.out := rfl
@[simp] theorem State.abortJob_pending (j : JobRef) (detail : Nat) : (s.abortJob j detail).pending = s.pending := rfl

/-! ### State.setBulk -/

@[simp] theorem State.setBulk_pkg (j : JobRef) (f : Bulk → Bulk) : (s.setBulk j f).pkg = s.pkg := rfl
@[simp] theorem State.setBulk_boot (j : JobRef) (f : Bulk → Bulk) : (s.setBulk j f).boot = s.boot := rfl
@[simp] theorem State.setBulk_recorder (j : JobRef) (f : Bulk → Bulk) : (s.setBulk j f).recorder = s.recorder := rfl
@[simp] theorem State.setBulk_mram (j : JobRef) (f : Bulk → Bulk) : (s.setBulk j f).mram = s.mram := rfl
@[simp] theorem State.setBulk_fuses (j : JobRef) (f : Bulk → Bulk) : (s.setBulk j f).fuses = s.fuses := rfl
@[simp] theorem State.setBulk_sec (j : JobRef) (f : Bulk → Bulk) : (s.setBulk j f).sec = s.sec := rfl
@[simp] theorem State.setBulk_regs (j : JobRef) (f : Bulk → Bulk) : (s.setBulk j f).regs = s.regs := rfl
@[simp] theorem State.setBulk_cxl (j : JobRef) (f : Bulk → Bulk) : (s.setBulk j f).cxl = s.cxl := rfl
@[simp] theorem State.setBulk_xlat (j : JobRef) (f : Bulk → Bulk) : (s.setBulk j f).xlat = s.xlat := rfl
@[simp] theorem State.setBulk_ctxs (j : JobRef) (f : Bulk → Bulk) : (s.setBulk j f).ctxs = s.ctxs := rfl
@[simp] theorem State.setBulk_seqs (j : JobRef) (f : Bulk → Bulk) : (s.setBulk j f).seqs = s.seqs := rfl
@[simp] theorem State.setBulk_model (j : JobRef) (f : Bulk → Bulk) : (s.setBulk j f).model = s.model := rfl
@[simp] theorem State.setBulk_tabs (j : JobRef) (f : Bulk → Bulk) : (s.setBulk j f).tabs = s.tabs := rfl
@[simp] theorem State.setBulk_lookups (j : JobRef) (f : Bulk → Bulk) : (s.setBulk j f).lookups = s.lookups := rfl
@[simp] theorem State.setBulk_strag (j : JobRef) (f : Bulk → Bulk) : (s.setBulk j f).strag = s.strag := rfl
@[simp] theorem State.setBulk_upd (j : JobRef) (f : Bulk → Bulk) : (s.setBulk j f).upd = s.upd := rfl
@[simp] theorem State.setBulk_slots (j : JobRef) (f : Bulk → Bulk) : (s.setBulk j f).slots = s.slots := rfl
@[simp] theorem State.setBulk_cls (j : JobRef) (f : Bulk → Bulk) : (s.setBulk j f).cls = s.cls := rfl
@[simp] theorem State.setBulk_tiers (j : JobRef) (f : Bulk → Bulk) : (s.setBulk j f).tiers = s.tiers := rfl
@[simp] theorem State.setBulk_hbm (j : JobRef) (f : Bulk → Bulk) : (s.setBulk j f).hbm = s.hbm := rfl
@[simp] theorem State.setBulk_fab (j : JobRef) (f : Bulk → Bulk) : (s.setBulk j f).fab = s.fab := rfl
@[simp] theorem State.setBulk_dim (j : JobRef) (f : Bulk → Bulk) : (s.setBulk j f).dim = s.dim := rfl
@[simp] theorem State.setBulk_err (j : JobRef) (f : Bulk → Bulk) : (s.setBulk j f).err = s.err := rfl
@[simp] theorem State.setBulk_regions (j : JobRef) (f : Bulk → Bulk) : (s.setBulk j f).regions = s.regions := rfl
@[simp] theorem State.setBulk_oes (j : JobRef) (f : Bulk → Bulk) : (s.setBulk j f).oes = s.oes := rfl
@[simp] theorem State.setBulk_power (j : JobRef) (f : Bulk → Bulk) : (s.setBulk j f).power = s.power := rfl
@[simp] theorem State.setBulk_sched (j : JobRef) (f : Bulk → Bulk) : (s.setBulk j f).sched = s.sched := rfl
@[simp] theorem State.setBulk_tap (j : JobRef) (f : Bulk → Bulk) : (s.setBulk j f).tap = s.tap := rfl
@[simp] theorem State.setBulk_i3c (j : JobRef) (f : Bulk → Bulk) : (s.setBulk j f).i3c = s.i3c := rfl
@[simp] theorem State.setBulk_out (j : JobRef) (f : Bulk → Bulk) : (s.setBulk j f).out = s.out := rfl
@[simp] theorem State.setBulk_pending (j : JobRef) (f : Bulk → Bulk) : (s.setBulk j f).pending = s.pending := rfl

/-! ### State.emit -/

@[simp] theorem State.emit_pkg (o : Output) : (s.emit o).pkg = s.pkg := rfl
@[simp] theorem State.emit_boot (o : Output) : (s.emit o).boot = s.boot := rfl
@[simp] theorem State.emit_recorder (o : Output) : (s.emit o).recorder = s.recorder := rfl
@[simp] theorem State.emit_mram (o : Output) : (s.emit o).mram = s.mram := rfl
@[simp] theorem State.emit_fuses (o : Output) : (s.emit o).fuses = s.fuses := rfl
@[simp] theorem State.emit_sec (o : Output) : (s.emit o).sec = s.sec := rfl
@[simp] theorem State.emit_regs (o : Output) : (s.emit o).regs = s.regs := rfl
@[simp] theorem State.emit_cxl (o : Output) : (s.emit o).cxl = s.cxl := rfl
@[simp] theorem State.emit_xlat (o : Output) : (s.emit o).xlat = s.xlat := rfl
@[simp] theorem State.emit_queues (o : Output) : (s.emit o).queues = s.queues := rfl
@[simp] theorem State.emit_ctxs (o : Output) : (s.emit o).ctxs = s.ctxs := rfl
@[simp] theorem State.emit_seqs (o : Output) : (s.emit o).seqs = s.seqs := rfl
@[simp] theorem State.emit_model (o : Output) : (s.emit o).model = s.model := rfl
@[simp] theorem State.emit_tabs (o : Output) : (s.emit o).tabs = s.tabs := rfl
@[simp] theorem State.emit_lookups (o : Output) : (s.emit o).lookups = s.lookups := rfl
@[simp] theorem State.emit_strag (o : Output) : (s.emit o).strag = s.strag := rfl
@[simp] theorem State.emit_upd (o : Output) : (s.emit o).upd = s.upd := rfl
@[simp] theorem State.emit_slots (o : Output) : (s.emit o).slots = s.slots := rfl
@[simp] theorem State.emit_cls (o : Output) : (s.emit o).cls = s.cls := rfl
@[simp] theorem State.emit_tiers (o : Output) : (s.emit o).tiers = s.tiers := rfl
@[simp] theorem State.emit_hbm (o : Output) : (s.emit o).hbm = s.hbm := rfl
@[simp] theorem State.emit_fab (o : Output) : (s.emit o).fab = s.fab := rfl
@[simp] theorem State.emit_dim (o : Output) : (s.emit o).dim = s.dim := rfl
@[simp] theorem State.emit_err (o : Output) : (s.emit o).err = s.err := rfl
@[simp] theorem State.emit_regions (o : Output) : (s.emit o).regions = s.regions := rfl
@[simp] theorem State.emit_oes (o : Output) : (s.emit o).oes = s.oes := rfl
@[simp] theorem State.emit_power (o : Output) : (s.emit o).power = s.power := rfl
@[simp] theorem State.emit_sched (o : Output) : (s.emit o).sched = s.sched := rfl
@[simp] theorem State.emit_tap (o : Output) : (s.emit o).tap = s.tap := rfl
@[simp] theorem State.emit_i3c (o : Output) : (s.emit o).i3c = s.i3c := rfl
@[simp] theorem State.emit_pending (o : Output) : (s.emit o).pending = s.pending := rfl

/-! ### State.pendError -/

@[simp] theorem State.pendError_pkg (d : Detected) : (s.pendError d).pkg = s.pkg := rfl
@[simp] theorem State.pendError_boot (d : Detected) : (s.pendError d).boot = s.boot := rfl
@[simp] theorem State.pendError_recorder (d : Detected) : (s.pendError d).recorder = s.recorder := rfl
@[simp] theorem State.pendError_mram (d : Detected) : (s.pendError d).mram = s.mram := rfl
@[simp] theorem State.pendError_fuses (d : Detected) : (s.pendError d).fuses = s.fuses := rfl
@[simp] theorem State.pendError_sec (d : Detected) : (s.pendError d).sec = s.sec := rfl
@[simp] theorem State.pendError_regs (d : Detected) : (s.pendError d).regs = s.regs := rfl
@[simp] theorem State.pendError_cxl (d : Detected) : (s.pendError d).cxl = s.cxl := rfl
@[simp] theorem State.pendError_xlat (d : Detected) : (s.pendError d).xlat = s.xlat := rfl
@[simp] theorem State.pendError_queues (d : Detected) : (s.pendError d).queues = s.queues := rfl
@[simp] theorem State.pendError_ctxs (d : Detected) : (s.pendError d).ctxs = s.ctxs := rfl
@[simp] theorem State.pendError_seqs (d : Detected) : (s.pendError d).seqs = s.seqs := rfl
@[simp] theorem State.pendError_model (d : Detected) : (s.pendError d).model = s.model := rfl
@[simp] theorem State.pendError_tabs (d : Detected) : (s.pendError d).tabs = s.tabs := rfl
@[simp] theorem State.pendError_lookups (d : Detected) : (s.pendError d).lookups = s.lookups := rfl
@[simp] theorem State.pendError_strag (d : Detected) : (s.pendError d).strag = s.strag := rfl
@[simp] theorem State.pendError_upd (d : Detected) : (s.pendError d).upd = s.upd := rfl
@[simp] theorem State.pendError_slots (d : Detected) : (s.pendError d).slots = s.slots := rfl
@[simp] theorem State.pendError_cls (d : Detected) : (s.pendError d).cls = s.cls := rfl
@[simp] theorem State.pendError_tiers (d : Detected) : (s.pendError d).tiers = s.tiers := rfl
@[simp] theorem State.pendError_hbm (d : Detected) : (s.pendError d).hbm = s.hbm := rfl
@[simp] theorem State.pendError_fab (d : Detected) : (s.pendError d).fab = s.fab := rfl
@[simp] theorem State.pendError_dim (d : Detected) : (s.pendError d).dim = s.dim := rfl
@[simp] theorem State.pendError_regions (d : Detected) : (s.pendError d).regions = s.regions := rfl
@[simp] theorem State.pendError_oes (d : Detected) : (s.pendError d).oes = s.oes := rfl
@[simp] theorem State.pendError_power (d : Detected) : (s.pendError d).power = s.power := rfl
@[simp] theorem State.pendError_sched (d : Detected) : (s.pendError d).sched = s.sched := rfl
@[simp] theorem State.pendError_tap (d : Detected) : (s.pendError d).tap = s.tap := rfl
@[simp] theorem State.pendError_i3c (d : Detected) : (s.pendError d).i3c = s.i3c := rfl
@[simp] theorem State.pendError_out (d : Detected) : (s.pendError d).out = s.out := rfl
@[simp] theorem State.pendError_pending (d : Detected) : (s.pendError d).pending = s.pending := rfl

/-! ### State.cpActs -/

@[simp] theorem State.cpActs_boot : (s.cpActs).boot = s.boot := rfl
@[simp] theorem State.cpActs_recorder : (s.cpActs).recorder = s.recorder := rfl
@[simp] theorem State.cpActs_mram : (s.cpActs).mram = s.mram := rfl
@[simp] theorem State.cpActs_fuses : (s.cpActs).fuses = s.fuses := rfl
@[simp] theorem State.cpActs_sec : (s.cpActs).sec = s.sec := rfl
@[simp] theorem State.cpActs_regs : (s.cpActs).regs = s.regs := rfl
@[simp] theorem State.cpActs_cxl : (s.cpActs).cxl = s.cxl := rfl
@[simp] theorem State.cpActs_xlat : (s.cpActs).xlat = s.xlat := rfl
@[simp] theorem State.cpActs_queues : (s.cpActs).queues = s.queues := rfl
@[simp] theorem State.cpActs_ctxs : (s.cpActs).ctxs = s.ctxs := rfl
@[simp] theorem State.cpActs_seqs : (s.cpActs).seqs = s.seqs := rfl
@[simp] theorem State.cpActs_model : (s.cpActs).model = s.model := rfl
@[simp] theorem State.cpActs_tabs : (s.cpActs).tabs = s.tabs := rfl
@[simp] theorem State.cpActs_lookups : (s.cpActs).lookups = s.lookups := rfl
@[simp] theorem State.cpActs_strag : (s.cpActs).strag = s.strag := rfl
@[simp] theorem State.cpActs_upd : (s.cpActs).upd = s.upd := rfl
@[simp] theorem State.cpActs_slots : (s.cpActs).slots = s.slots := rfl
@[simp] theorem State.cpActs_cls : (s.cpActs).cls = s.cls := rfl
@[simp] theorem State.cpActs_tiers : (s.cpActs).tiers = s.tiers := rfl
@[simp] theorem State.cpActs_hbm : (s.cpActs).hbm = s.hbm := rfl
@[simp] theorem State.cpActs_fab : (s.cpActs).fab = s.fab := rfl
@[simp] theorem State.cpActs_dim : (s.cpActs).dim = s.dim := rfl
@[simp] theorem State.cpActs_err : (s.cpActs).err = s.err := rfl
@[simp] theorem State.cpActs_regions : (s.cpActs).regions = s.regions := rfl
@[simp] theorem State.cpActs_oes : (s.cpActs).oes = s.oes := rfl
@[simp] theorem State.cpActs_power : (s.cpActs).power = s.power := rfl
@[simp] theorem State.cpActs_sched : (s.cpActs).sched = s.sched := rfl
@[simp] theorem State.cpActs_tap : (s.cpActs).tap = s.tap := rfl
@[simp] theorem State.cpActs_i3c : (s.cpActs).i3c = s.i3c := rfl
@[simp] theorem State.cpActs_out : (s.cpActs).out = s.out := rfl
@[simp] theorem State.cpActs_pending : (s.cpActs).pending = s.pending := rfl

/-! ### State.atWork -/

@[simp] theorem State.atWork_pkg (r : Nat) : (s.atWork r).pkg = s.pkg := rfl
@[simp] theorem State.atWork_boot (r : Nat) : (s.atWork r).boot = s.boot := rfl
@[simp] theorem State.atWork_recorder (r : Nat) : (s.atWork r).recorder = s.recorder := rfl
@[simp] theorem State.atWork_mram (r : Nat) : (s.atWork r).mram = s.mram := rfl
@[simp] theorem State.atWork_fuses (r : Nat) : (s.atWork r).fuses = s.fuses := rfl
@[simp] theorem State.atWork_sec (r : Nat) : (s.atWork r).sec = s.sec := rfl
@[simp] theorem State.atWork_regs (r : Nat) : (s.atWork r).regs = s.regs := rfl
@[simp] theorem State.atWork_cxl (r : Nat) : (s.atWork r).cxl = s.cxl := rfl
@[simp] theorem State.atWork_xlat (r : Nat) : (s.atWork r).xlat = s.xlat := rfl
@[simp] theorem State.atWork_queues (r : Nat) : (s.atWork r).queues = s.queues := rfl
@[simp] theorem State.atWork_ctxs (r : Nat) : (s.atWork r).ctxs = s.ctxs := rfl
@[simp] theorem State.atWork_seqs (r : Nat) : (s.atWork r).seqs = s.seqs := rfl
@[simp] theorem State.atWork_model (r : Nat) : (s.atWork r).model = s.model := rfl
@[simp] theorem State.atWork_tabs (r : Nat) : (s.atWork r).tabs = s.tabs := rfl
@[simp] theorem State.atWork_lookups (r : Nat) : (s.atWork r).lookups = s.lookups := rfl
@[simp] theorem State.atWork_strag (r : Nat) : (s.atWork r).strag = s.strag := rfl
@[simp] theorem State.atWork_upd (r : Nat) : (s.atWork r).upd = s.upd := rfl
@[simp] theorem State.atWork_slots (r : Nat) : (s.atWork r).slots = s.slots := rfl
@[simp] theorem State.atWork_cls (r : Nat) : (s.atWork r).cls = s.cls := rfl
@[simp] theorem State.atWork_tiers (r : Nat) : (s.atWork r).tiers = s.tiers := rfl
@[simp] theorem State.atWork_hbm (r : Nat) : (s.atWork r).hbm = s.hbm := rfl
@[simp] theorem State.atWork_fab (r : Nat) : (s.atWork r).fab = s.fab := rfl
@[simp] theorem State.atWork_dim (r : Nat) : (s.atWork r).dim = s.dim := rfl
@[simp] theorem State.atWork_err (r : Nat) : (s.atWork r).err = s.err := rfl
@[simp] theorem State.atWork_oes (r : Nat) : (s.atWork r).oes = s.oes := rfl
@[simp] theorem State.atWork_power (r : Nat) : (s.atWork r).power = s.power := rfl
@[simp] theorem State.atWork_sched (r : Nat) : (s.atWork r).sched = s.sched := rfl
@[simp] theorem State.atWork_tap (r : Nat) : (s.atWork r).tap = s.tap := rfl
@[simp] theorem State.atWork_i3c (r : Nat) : (s.atWork r).i3c = s.i3c := rfl
@[simp] theorem State.atWork_out (r : Nat) : (s.atWork r).out = s.out := rfl
@[simp] theorem State.atWork_pending (r : Nat) : (s.atWork r).pending = s.pending := rfl

/-! ### State.setBinding -/

@[simp] theorem State.setBinding_pkg (b : Option Binding) : (s.setBinding b).pkg = s.pkg := rfl
@[simp] theorem State.setBinding_boot (b : Option Binding) : (s.setBinding b).boot = s.boot := rfl
@[simp] theorem State.setBinding_recorder (b : Option Binding) : (s.setBinding b).recorder = s.recorder := rfl
@[simp] theorem State.setBinding_mram (b : Option Binding) : (s.setBinding b).mram = s.mram := rfl
@[simp] theorem State.setBinding_fuses (b : Option Binding) : (s.setBinding b).fuses = s.fuses := rfl
@[simp] theorem State.setBinding_sec (b : Option Binding) : (s.setBinding b).sec = s.sec := rfl
@[simp] theorem State.setBinding_regs (b : Option Binding) : (s.setBinding b).regs = s.regs := rfl
@[simp] theorem State.setBinding_cxl (b : Option Binding) : (s.setBinding b).cxl = s.cxl := rfl
@[simp] theorem State.setBinding_xlat (b : Option Binding) : (s.setBinding b).xlat = s.xlat := rfl
@[simp] theorem State.setBinding_queues (b : Option Binding) : (s.setBinding b).queues = s.queues := rfl
@[simp] theorem State.setBinding_ctxs (b : Option Binding) : (s.setBinding b).ctxs = s.ctxs := rfl
@[simp] theorem State.setBinding_seqs (b : Option Binding) : (s.setBinding b).seqs = s.seqs := rfl
@[simp] theorem State.setBinding_model (b : Option Binding) : (s.setBinding b).model = s.model := rfl
@[simp] theorem State.setBinding_tabs (b : Option Binding) : (s.setBinding b).tabs = s.tabs := rfl
@[simp] theorem State.setBinding_lookups (b : Option Binding) : (s.setBinding b).lookups = s.lookups := rfl
@[simp] theorem State.setBinding_strag (b : Option Binding) : (s.setBinding b).strag = s.strag := rfl
@[simp] theorem State.setBinding_upd (b : Option Binding) : (s.setBinding b).upd = s.upd := rfl
@[simp] theorem State.setBinding_slots (b : Option Binding) : (s.setBinding b).slots = s.slots := rfl
@[simp] theorem State.setBinding_cls (b : Option Binding) : (s.setBinding b).cls = s.cls := rfl
@[simp] theorem State.setBinding_tiers (b : Option Binding) : (s.setBinding b).tiers = s.tiers := rfl
@[simp] theorem State.setBinding_hbm (b : Option Binding) : (s.setBinding b).hbm = s.hbm := rfl
@[simp] theorem State.setBinding_fab (b : Option Binding) : (s.setBinding b).fab = s.fab := rfl
@[simp] theorem State.setBinding_dim (b : Option Binding) : (s.setBinding b).dim = s.dim := rfl
@[simp] theorem State.setBinding_err (b : Option Binding) : (s.setBinding b).err = s.err := rfl
@[simp] theorem State.setBinding_regions (b : Option Binding) : (s.setBinding b).regions = s.regions := rfl
@[simp] theorem State.setBinding_oes (b : Option Binding) : (s.setBinding b).oes = s.oes := rfl
@[simp] theorem State.setBinding_power (b : Option Binding) : (s.setBinding b).power = s.power := rfl
@[simp] theorem State.setBinding_tap (b : Option Binding) : (s.setBinding b).tap = s.tap := rfl
@[simp] theorem State.setBinding_i3c (b : Option Binding) : (s.setBinding b).i3c = s.i3c := rfl
@[simp] theorem State.setBinding_out (b : Option Binding) : (s.setBinding b).out = s.out := rfl
@[simp] theorem State.setBinding_pending (b : Option Binding) : (s.setBinding b).pending = s.pending := rfl

@[simp] theorem State.setBinding_binding (b : Option Binding) : (s.setBinding b).sched.binding = b := rfl
@[simp] theorem State.cpActs_cpAt : s.cpActs.pkg.cpAt = s.pkg.elapsed := rfl

/-! ### Components after their updates -/

@[simp] theorem ix_val (n : Nat) [NeZero n] (i : Nat) : (ix n i).val = i % n := rfl

@[simp] theorem ix_fin {n : Nat} [NeZero n] (i : Fin n) : ix n i.val = i := by
  apply Fin.ext
  simp [Nat.mod_eq_of_lt i.isLt]

theorem vmod_get_same {α : Type} {n : Nat} (v : Vector α n) (i : Fin n) (f : α → α) : (vmod v i f)[i] = f v[i] := by
  simp [vmod]

@[simp] theorem vmod_val_same {α : Type} {n : Nat} (v : Vector α n) (i : Fin n) (f : α → α) : (vmod v i f)[i.val] = f v[i.val] :=
  vmod_get_same v i f

theorem vmod_get {α : Type} {n : Nat} (v : Vector α n) (i k : Fin n) (f : α → α) :
    (vmod v i f)[k] = if k = i then f v[k] else v[k] := by
  by_cases h : k = i
  · rw [if_pos h, h, vmod_get_same]
  · simp only [if_neg h, vmod, Fin.getElem_fin]
    exact Vector.getElem_set_ne i.isLt k.isLt fun e => h (Fin.ext e.symm)

theorem vmod_get_ne {α : Type} {n : Nat} (v : Vector α n) {i k : Fin n} (f : α → α) (h : k ≠ i) : (vmod v i f)[k] = v[k] := by
  rw [vmod_get, if_neg h]

theorem State.queue_setQueue (i k : Nat) (f : Queue → Queue) :
    (s.setQueue i f).queue k = if ix 64 k = ix 64 i then f (s.queue k) else s.queue k := vmod_get ..

@[simp] theorem State.queue_setQueue_same (i : Nat) (f : Queue → Queue) : (s.setQueue i f).queue i = f (s.queue i) := vmod_get_same ..

theorem State.ctx_setCtx (i k : Nat) (f : Ctx → Ctx) :
    (s.setCtx i f).ctx k = if ix 64 k = ix 64 i then f (s.ctx k) else s.ctx k := vmod_get ..

@[simp] theorem State.ctx_setCtx_same (i : Nat) (f : Ctx → Ctx) : (s.setCtx i f).ctx i = f (s.ctx i) := vmod_get_same ..

theorem State.slot_setSlot (i k : Nat) (f : Slot → Slot) :
    (s.setSlot i f).slot k = if ix 8 k = ix 8 i then f (s.slot k) else s.slot k := vmod_get ..

@[simp] theorem State.slot_setSlot_same (i : Nat) (f : Slot → Slot) : (s.setSlot i f).slot i = f (s.slot i) := vmod_get_same ..

theorem State.cl_setCl (i k : Nat) (f : Cluster → Cluster) :
    (s.setCl i f).cl k = if ix 16 k = ix 16 i then { f (s.cl k) with progress := s.pkg.elapsed } else s.cl k := vmod_get ..

@[simp] theorem State.cl_setCl_same (i : Nat) (f : Cluster → Cluster) :
    (s.setCl i f).cl i = { f (s.cl i) with progress := s.pkg.elapsed } := vmod_get_same ..

@[simp] theorem State.ctx_setQueue (q : Nat) (f : Queue → Queue) (k : Nat) : (s.setQueue q f).ctx k = s.ctx k := rfl
@[simp] theorem State.slot_setQueue (q : Nat) (f : Queue → Queue) (k : Nat) : (s.setQueue q f).slot k = s.slot k := rfl
@[simp] theorem State.cl_setQueue (q : Nat) (f : Queue → Queue) (k : Nat) : (s.setQueue q f).cl k = s.cl k := rfl
@[simp] theorem State.queue_setCtx (c : Nat) (f : Ctx → Ctx) (k : Nat) : (s.setCtx c f).queue k = s.queue k := rfl
@[simp] theorem State.slot_setCtx (c : Nat) (f : Ctx → Ctx) (k : Nat) : (s.setCtx c f).slot k = s.slot k := rfl
@[simp] theorem State.cl_setCtx (c : Nat) (f : Ctx → Ctx) (k : Nat) : (s.setCtx c f).cl k = s.cl k := rfl
@[simp] theorem State.queue_setSlot (i : Nat) (f : Slot → Slot) (k : Nat) : (s.setSlot i f).queue k = s.queue k := rfl
@[simp] theorem State.ctx_setSlot (i : Nat) (f : Slot → Slot) (k : Nat) : (s.setSlot i f).ctx k = s.ctx k := rfl
@[simp] theorem State.cl_setSlot (i : Nat) (f : Slot → Slot) (k : Nat) : (s.setSlot i f).cl k = s.cl k := rfl
@[simp] theorem State.queue_setStep (i : Nat) (f : Step → Step) (k : Nat) : (s.setStep i f).queue k = s.queue k := rfl
@[simp] theorem State.ctx_setStep (i : Nat) (f : Step → Step) (k : Nat) : (s.setStep i f).ctx k = s.ctx k := rfl
@[simp] theorem State.cl_setStep (i : Nat) (f : Step → Step) (k : Nat) : (s.setStep i f).cl k = s.cl k := rfl
@[simp] theorem State.queue_setCl (c : Nat) (f : Cluster → Cluster) (k : Nat) : (s.setCl c f).queue k = s.queue k := rfl
@[simp] theorem State.ctx_setCl (c : Nat) (f : Cluster → Cluster) (k : Nat) : (s.setCl c f).ctx k = s.ctx k := rfl
@[simp] theorem State.slot_setCl (c : Nat) (f : Cluster → Cluster) (k : Nat) : (s.setCl c f).slot k = s.slot k := rfl
@[simp] theorem State.queue_setVe (u : Nat) (f : Ve → Ve) (k : Nat) : (s.setVe u f).queue k = s.queue k := rfl
@[simp] theorem State.ctx_setVe (u : Nat) (f : Ve → Ve) (k : Nat) : (s.setVe u f).ctx k = s.ctx k := rfl
@[simp] theorem State.slot_setVe (u : Nat) (f : Ve → Ve) (k : Nat) : (s.setVe u f).slot k = s.slot k := rfl
@[simp] theorem State.queue_setStack (r : Nat) (f : Stack → Stack) (k : Nat) : (s.setStack r f).queue k = s.queue k := rfl
@[simp] theorem State.ctx_setStack (r : Nat) (f : Stack → Stack) (k : Nat) : (s.setStack r f).ctx k = s.ctx k := rfl
@[simp] theorem State.slot_setStack (r : Nat) (f : Stack → Stack) (k : Nat) : (s.setStack r f).slot k = s.slot k := rfl
@[simp] theorem State.cl_setStack (r : Nat) (f : Stack → Stack) (k : Nat) : (s.setStack r f).cl k = s.cl k := rfl
@[simp] theorem State.queue_setPort (p : Nat) (f : Port → Port) (k : Nat) : (s.setPort p f).queue k = s.queue k := rfl
@[simp] theorem State.ctx_setPort (p : Nat) (f : Port → Port) (k : Nat) : (s.setPort p f).ctx k = s.ctx k := rfl
@[simp] theorem State.slot_setPort (p : Nat) (f : Port → Port) (k : Nat) : (s.setPort p f).slot k = s.slot k := rfl
@[simp] theorem State.cl_setPort (p : Nat) (f : Port → Port) (k : Nat) : (s.setPort p f).cl k = s.cl k := rfl
@[simp] theorem State.queue_setPeer (d : Nat) (f : Peer → Peer) (k : Nat) : (s.setPeer d f).queue k = s.queue k := rfl
@[simp] theorem State.ctx_setPeer (d : Nat) (f : Peer → Peer) (k : Nat) : (s.setPeer d f).ctx k = s.ctx k := rfl
@[simp] theorem State.slot_setPeer (d : Nat) (f : Peer → Peer) (k : Nat) : (s.setPeer d f).slot k = s.slot k := rfl
@[simp] theorem State.cl_setPeer (d : Nat) (f : Peer → Peer) (k : Nat) : (s.setPeer d f).cl k = s.cl k := rfl
@[simp] theorem State.queue_setRegion (r : Nat) (f : Region → Region) (k : Nat) : (s.setRegion r f).queue k = s.queue k := rfl
@[simp] theorem State.ctx_setRegion (r : Nat) (f : Region → Region) (k : Nat) : (s.setRegion r f).ctx k = s.ctx k := rfl
@[simp] theorem State.slot_setRegion (r : Nat) (f : Region → Region) (k : Nat) : (s.setRegion r f).slot k = s.slot k := rfl
@[simp] theorem State.cl_setRegion (r : Nat) (f : Region → Region) (k : Nat) : (s.setRegion r f).cl k = s.cl k := rfl
@[simp] theorem State.queue_setOe (e : Nat) (f : OptEngine → OptEngine) (k : Nat) : (s.setOe e f).queue k = s.queue k := rfl
@[simp] theorem State.ctx_setOe (e : Nat) (f : OptEngine → OptEngine) (k : Nat) : (s.setOe e f).ctx k = s.ctx k := rfl
@[simp] theorem State.slot_setOe (e : Nat) (f : OptEngine → OptEngine) (k : Nat) : (s.setOe e f).slot k = s.slot k := rfl
@[simp] theorem State.cl_setOe (e : Nat) (f : OptEngine → OptEngine) (k : Nat) : (s.setOe e f).cl k = s.cl k := rfl
@[simp] theorem State.queue_setTable (t : Nat) (f : Table → Table) (k : Nat) : (s.setTable t f).queue k = s.queue k := rfl
@[simp] theorem State.ctx_setTable (t : Nat) (f : Table → Table) (k : Nat) : (s.setTable t f).ctx k = s.ctx k := rfl
@[simp] theorem State.slot_setTable (t : Nat) (f : Table → Table) (k : Nat) : (s.setTable t f).slot k = s.slot k := rfl
@[simp] theorem State.cl_setTable (t : Nat) (f : Table → Table) (k : Nat) : (s.setTable t f).cl k = s.cl k := rfl
@[simp] theorem State.queue_setEpoch (n : Nat) (f : Epoch → Epoch) (k : Nat) : (s.setEpoch n f).queue k = s.queue k := rfl
@[simp] theorem State.ctx_setEpoch (n : Nat) (f : Epoch → Epoch) (k : Nat) : (s.setEpoch n f).ctx k = s.ctx k := rfl
@[simp] theorem State.slot_setEpoch (n : Nat) (f : Epoch → Epoch) (k : Nat) : (s.setEpoch n f).slot k = s.slot k := rfl
@[simp] theorem State.cl_setEpoch (n : Nat) (f : Epoch → Epoch) (k : Nat) : (s.setEpoch n f).cl k = s.cl k := rfl
@[simp] theorem State.queue_updCtr (f : UpdCounters → UpdCounters) (k : Nat) : (s.updCtr f).queue k = s.queue k := rfl
@[simp] theorem State.ctx_updCtr (f : UpdCounters → UpdCounters) (k : Nat) : (s.updCtr f).ctx k = s.ctx k := rfl
@[simp] theorem State.slot_updCtr (f : UpdCounters → UpdCounters) (k : Nat) : (s.updCtr f).slot k = s.slot k := rfl
@[simp] theorem State.cl_updCtr (f : UpdCounters → UpdCounters) (k : Nat) : (s.updCtr f).cl k = s.cl k := rfl
@[simp] theorem State.ctx_setJob (j : JobRef) (f : Job → Job) (k : Nat) : (s.setJob j f).ctx k = s.ctx k := rfl
@[simp] theorem State.slot_setJob (j : JobRef) (f : Job → Job) (k : Nat) : (s.setJob j f).slot k = s.slot k := rfl
@[simp] theorem State.cl_setJob (j : JobRef) (f : Job → Job) (k : Nat) : (s.setJob j f).cl k = s.cl k := rfl
@[simp] theorem State.ctx_finishJob (j : JobRef) (status detail counts : Nat) (k : Nat) : (s.finishJob j status detail counts).ctx k = s.ctx k := rfl
@[simp] theorem State.slot_finishJob (j : JobRef) (status detail counts : Nat) (k : Nat) : (s.finishJob j status detail counts).slot k = s.slot k := rfl
@[simp] theorem State.cl_finishJob (j : JobRef) (status detail counts : Nat) (k : Nat) : (s.finishJob j status detail counts).cl k = s.cl k := rfl
@[simp] theorem State.ctx_abortJob (j : JobRef) (detail : Nat) (k : Nat) : (s.abortJob j detail).ctx k = s.ctx k := rfl
@[simp] theorem State.slot_abortJob (j : JobRef) (detail : Nat) (k : Nat) : (s.abortJob j detail).slot k = s.slot k := rfl
@[simp] theorem State.cl_abortJob (j : JobRef) (detail : Nat) (k : Nat) : (s.abortJob j detail).cl k = s.cl k := rfl
@[simp] theorem State.ctx_setBulk (j : JobRef) (f : Bulk → Bulk) (k : Nat) : (s.setBulk j f).ctx k = s.ctx k := rfl
@[simp] theorem State.slot_setBulk (j : JobRef) (f : Bulk → Bulk) (k : Nat) : (s.setBulk j f).slot k = s.slot k := rfl
@[simp] theorem State.cl_setBulk (j : JobRef) (f : Bulk → Bulk) (k : Nat) : (s.setBulk j f).cl k = s.cl k := rfl
@[simp] theorem State.queue_emit (o : Output) (k : Nat) : (s.emit o).queue k = s.queue k := rfl
@[simp] theorem State.ctx_emit (o : Output) (k : Nat) : (s.emit o).ctx k = s.ctx k := rfl
@[simp] theorem State.slot_emit (o : Output) (k : Nat) : (s.emit o).slot k = s.slot k := rfl
@[simp] theorem State.cl_emit (o : Output) (k : Nat) : (s.emit o).cl k = s.cl k := rfl
@[simp] theorem State.queue_pendError (d : Detected) (k : Nat) : (s.pendError d).queue k = s.queue k := rfl
@[simp] theorem State.ctx_pendError (d : Detected) (k : Nat) : (s.pendError d).ctx k = s.ctx k := rfl
@[simp] theorem State.slot_pendError (d : Detected) (k : Nat) : (s.pendError d).slot k = s.slot k := rfl
@[simp] theorem State.cl_pendError (d : Detected) (k : Nat) : (s.pendError d).cl k = s.cl k := rfl

@[simp] theorem State.setStep_step (i : Nat) (f : Step → Step) : ((s.setStep i f).slot i).step = (s.slot i).step.map f := by
  simp [State.setStep]

@[simp] theorem State.setStep_phase (i k : Nat) (f : Step → Step) : ((s.setStep i f).slot k).phase = (s.slot k).phase := by
  rw [State.setStep, State.slot_setSlot]
  split <;> rfl

/-- Two changes of one entry are one change. -/
@[simp] theorem vmod_vmod {α : Type} {n : Nat} (v : Vector α n) (i : Fin n) (f g : α → α) :
    vmod (vmod v i f) i g = vmod v i (fun x => g (f x)) := by
  simp [vmod]

/-- Two changes of one region are one change. -/
@[simp] theorem State.setRegion_setRegion (r : Nat) (f g : Region → Region) :
    (s.setRegion r f).setRegion r g = s.setRegion r (fun x => g (f x)) := by
  simp [State.setRegion]

/-- A region after it is changed. -/
@[simp] theorem State.setRegion_same (r : RegionId) (f : Region → Region) : (s.setRegion r.val f).regions[r] = f s.regions[r] := by
  have h : ix 8 r.val = r := Fin.ext (Nat.mod_eq_of_lt r.isLt)
  simp [State.setRegion, h]

/-- What is due happened last before this instant. -/
theorem isDue_lt {period last now : Nat} (h : isDue period last now = true) : last < now := by
  by_contra hn
  exact absurd (of_decide_eq_true h) (Nat.not_lt.mpr (Nat.div_le_div_right (Nat.le_of_not_lt hn)))

/-- What has happened is not due again before its period has ended. -/
theorem isDue_again {period last now : Nat} (h : now / period = last / period) : isDue period last now = false := by
  simp [isDue, h]

end Sys2Proof.Machine
end

