-- ==== Sys2Proof/Laws/Memory.lean ====
section
/-! SUPPORT. Laws of sparse memory: writes keep its canonical form, a read after a write gives what was written, every other byte
stays, and equal memories are equal lists. -/

namespace Sys2Proof.Machine

theorem memWf_tail {c : Host.Cell} {r : List Host.Cell} (h : memWf (c :: r) = true) : memWf r = true := by
  cases r with
  | nil => rfl
  | cons d r => simp [memWf] at h; exact h.2

theorem memWf_head {c : Host.Cell} {r : List Host.Cell} (h : memWf (c :: r) = true) : c.2 ≠ memDefault := by
  cases r with
  | nil => simpa [memWf] using h
  | cons d r => simp [memWf] at h; exact h.1.1

/-- Every entry behind the first has a higher address. -/
theorem memWf_lt {c : Host.Cell} {r : List Host.Cell} (h : memWf (c :: r) = true) : ∀ d ∈ r, c.1 < d.1 := by
  induction r generalizing c with
  | nil => simp
  | cons d r ih =>
    intro e he
    have hcd : c.1 < d.1 := by simp [memWf] at h; exact h.1.2
    rcases List.mem_cons.1 he with rfl | he
    · exact hcd
    · exact Nat.lt_trans hcd (ih (memWf_tail h) e he)

theorem memWf_cons {c : Host.Cell} {r : List Host.Cell} (hc : c.2 ≠ memDefault) (hl : ∀ d ∈ r, c.1 < d.1) (h : memWf r = true) :
    memWf (c :: r) = true := by
  cases r with
  | nil => simpa [memWf] using hc
  | cons d r => simp [memWf, hc, hl d (List.mem_cons_self ..), h]

/-- Entries of a memory after a byte is written. -/
theorem mem_memSet {m : List Host.Cell} {a : Nat} {b : Byte} {d : Host.Cell} (h : d ∈ memSet m a b) : d ∈ m ∨ d = (a, b) := by
  induction m with
  | nil => simp only [memSet] at h; split at h <;> simp_all
  | cons c r ih =>
    simp only [memSet] at h
    split at h
    · split at h
      · exact .inl (List.mem_cons_of_mem _ h)
      · rcases List.mem_cons.1 h with h | h
        · exact .inr h
        · exact .inl (List.mem_cons_of_mem _ h)
    · split at h
      · split at h
        · exact .inl h
        · rcases List.mem_cons.1 h with h | h
          · exact .inr h
          · exact .inl h
      · rcases List.mem_cons.1 h with h | h
        · exact .inl (h ▸ List.mem_cons_self ..)
        · exact (ih h).imp_left (List.mem_cons_of_mem _)

/-- Writing a byte keeps the canonical form. -/
theorem memSet_wf {m : List Host.Cell} (a : Nat) (b : Byte) (h : memWf m = true) : memWf (memSet m a b) = true := by
  induction m with
  | nil => simp only [memSet]; split <;> simp_all [memWf]
  | cons c r ih =>
    have hr := memWf_tail h
    simp only [memSet]
    split
    · rename_i hca
      split
      · exact hr
      · rename_i hb
        exact memWf_cons hb (fun d hd => hca ▸ memWf_lt h d hd) hr
    · split
      · rename_i hlt
        split
        · exact h
        · rename_i hb
          refine memWf_cons hb (fun d hd => ?_) h
          rcases List.mem_cons.1 hd with rfl | hd
          · exact hlt
          · exact Nat.lt_trans hlt (memWf_lt h d hd)
      · rename_i hne hlt
        refine memWf_cons (memWf_head h) (fun d hd => ?_) (ih hr)
        rcases mem_memSet hd with hd | rfl
        · exact memWf_lt h d hd
        · show c.1 < a
          omega

theorem memWrite_wf {m : List Host.Cell} (a : Nat) (bs : List Byte) (h : memWf m = true) : memWf (memWrite m a bs) = true := by
  induction bs generalizing m a with
  | nil => exact h
  | cons b bs ih => exact ih (a + 1) (memSet_wf a b h)

/-- A memory whose addresses all lie above `a` lists nothing at `a`. -/
theorem memGet_of_lt {m : List Host.Cell} {a : Nat} (h : ∀ d ∈ m, a < d.1) : memGet m a = memDefault := by
  cases m with
  | nil => rfl
  | cons c r =>
    have := h c (List.mem_cons_self ..)
    simp [memGet, Nat.ne_of_gt this, this]

/-- Read after write: the byte written, and every other one as it was. -/
theorem memGet_memSet {m : List Host.Cell} (a : Nat) (b : Byte) (k : Nat) (h : memWf m = true) :
    memGet (memSet m a b) k = if k = a then b else memGet m k := by
  induction m with
  | nil =>
    simp only [memSet]
    split <;> simp only [memGet] <;> repeat' split
    all_goals simp_all
  | cons c r ih =>
    have hr := memWf_tail h
    have hl := memWf_lt h
    have habove : k ≤ c.1 → memGet r k = memDefault := fun hk => memGet_of_lt fun d hd => Nat.lt_of_le_of_lt hk (hl d hd)
    simp only [memSet]
    split
    · rename_i hca
      split
      · rename_i hb
        by_cases hk : k = a
        · subst hk; rw [if_pos rfl, habove (by omega), hb]
        · simp only [if_neg hk, memGet]
          rw [if_neg (by omega : ¬ c.1 = k)]
          split
          · rename_i hlt; exact habove (by omega)
          · rfl
      · by_cases hk : k = a
        · subst hk; simp [memGet]
        · simp only [memGet, if_neg hk, hca, if_neg (fun e => hk e.symm : ¬ a = k)]
    · split
      · rename_i hne hlt
        split
        · rename_i hb
          by_cases hk : k = a
          · subst hk; simp [memGet, hne, hlt, hb]
          · rw [if_neg hk]
        · by_cases hk : k = a
          · subst hk; simp [memGet]
          · rw [if_neg hk]
            conv => lhs; unfold memGet
            simp only [if_neg (fun e => hk e.symm : ¬ a = k)]
            split
            · rename_i hka
              simp [memGet, show ¬ c.1 = k by omega, show k < c.1 by omega]
            · rfl
      · rename_i hne hlt
        simp only [memGet]
        by_cases hck : c.1 = k
        · simp [hck, show ¬ k = a by omega]
        · simp only [if_neg hck]
          split
          · rename_i hkc; rw [if_neg (by omega)]
          · exact ih hr

theorem memGet_memWrite {m : List Host.Cell} (a : Nat) (bs : List Byte) (k : Nat) (h : memWf m = true) :
    memGet (memWrite m a bs) k = if k < a then memGet m k else (bs[k - a]?).getD (memGet m k) := by
  induction bs generalizing m a with
  | nil => simp [memWrite]
  | cons b bs ih =>
    rw [memWrite, ih (a + 1) (memSet_wf a b h), memGet_memSet a b k h]
    by_cases hlt : k < a
    · simp [hlt, show k < a + 1 by omega, show ¬ k = a by omega]
    · by_cases hk : k = a
      · subst hk; simp
      · obtain ⟨j, rfl⟩ : ∃ j, k = a + 1 + j := ⟨k - a - 1, by omega⟩
        simp [show ¬ a + 1 + j < a by omega, show a + 1 + j - a = j + 1 by omega, hk]
        omega

/-- Bytes outside a write stay. -/
theorem memGet_memWrite_out {m : List Host.Cell} {a k : Nat} {bs : List Byte} (h : memWf m = true) (hk : k < a ∨ a + bs.length ≤ k) :
    memGet (memWrite m a bs) k = memGet m k := by
  rw [memGet_memWrite a bs k h]
  split
  · rfl
  · rw [List.getElem?_eq_none (by omega)]; rfl

theorem memGet_memWrite_in {m : List Host.Cell} {a i : Nat} {bs : List Byte} (h : memWf m = true) (hi : i < bs.length) :
    memGet (memWrite m a bs) (a + i) = bs[i] := by
  rw [memGet_memWrite a bs _ h, if_neg (by omega)]
  simp [hi]

@[simp] theorem memRead_length (m : List Host.Cell) (a n : Nat) : (memRead m a n).length = n := by simp [memRead]

/-- A read of exactly the bytes written gives them back. -/
theorem memRead_memWrite {m : List Host.Cell} (a : Nat) (bs : List Byte) (h : memWf m = true) :
    memRead (memWrite m a bs) a bs.length = bs := by
  apply List.ext_getElem
  · simp
  · intro i _ hi
    simp [memRead, memGet_memWrite_in h hi]

/-- A read apart from a write gives what it gave before. -/
theorem memRead_memWrite_out {m : List Host.Cell} {a k n : Nat} {bs : List Byte} (h : memWf m = true) (hk : k + n ≤ a ∨ a + bs.length ≤ k) :
    memRead (memWrite m a bs) k n = memRead m k n := by
  apply List.map_congr_left
  intro i hi
  have := List.mem_range.1 hi
  exact memGet_memWrite_out h (by omega)

/-- Memories in canonical form that read alike are the same list. -/
theorem mem_ext {m m' : List Host.Cell} (h : memWf m = true) (h' : memWf m' = true) (e : ∀ a, memGet m a = memGet m' a) : m = m' := by
  induction m generalizing m' with
  | nil =>
    cases m' with
    | nil => rfl
    | cons c r => exact absurd (e c.1).symm (by simpa [memGet] using memWf_head h')
  | cons c r ih =>
    cases m' with
    | nil => exact absurd (e c.1) (by simpa [memGet] using memWf_head h)
    | cons d r' =>
      have hcd : c.1 = d.1 := by
        rcases Nat.lt_trichotomy c.1 d.1 with hlt | heq | hgt
        · exact absurd (e c.1) (by simpa [memGet, hlt, Nat.ne_of_gt hlt] using memWf_head h)
        · exact heq
        · exact absurd (e d.1).symm (by simpa [memGet, hgt, Nat.ne_of_gt hgt] using memWf_head h')
      have h2 : c.2 = d.2 := by simpa [memGet, hcd] using e c.1
      have hc : c = d := Prod.ext hcd h2
      subst hc
      rw [ih (memWf_tail h) (memWf_tail h') fun a => ?_]
      by_cases ha : a ≤ c.1
      · rw [memGet_of_lt fun x hx => Nat.lt_of_le_of_lt ha (memWf_lt h x hx), memGet_of_lt fun x hx => Nat.lt_of_le_of_lt ha (memWf_lt h' x hx)]
      · simpa [memGet, show ¬ c.1 = a by omega, show ¬ a < c.1 by omega] using e a

end Sys2Proof.Machine
end

