-- ==== Sys2Proof/Laws/Jobs.lean ====
section
/-! SUPPORT. What a job row does with its queue's job: start it, take it further, or leave the state as it was; and that a job ends
once, in its own entry. -/

namespace Sys2Proof.Machine

variable {s s0 : State} {q : QueueId} {mine : Job → Bool} {j : Job} {start again : State → JobRef → Job → State}

/-- A row that starts its queue's next job. -/
theorem State.runJob_starts (h : s.starts q mine j) : s.runJob q.val mine start again = start (s.begun q j) (j.refOn q) j := by
  simp [State.runJob, h.1, h.2]

/-- A row that takes a waiting job further. -/
theorem State.runJob_again (h1 : s.serving = true) (h2 : s.startJob q.val mine = none) (h3 : s.waitingJob q.val mine = some j) :
    s.runJob q.val mine start again = again s (j.refOn q) j := by
  simp [State.runJob, h1, h2, h3]

/-- A row whose start goes on as a later run of it would. -/
theorem State.runJob_takes (h : s.takes q mine j s0) (hs : start s0 (j.refOn q) j = again s0 (j.refOn q) j) :
    s.runJob q.val mine start again = again s0 (j.refOn q) j := by
  obtain ⟨h1, ⟨h2, rfl⟩ | ⟨h2, h3, rfl⟩⟩ := h
  · rw [State.runJob_starts ⟨h1, h2⟩, hs]
  · exact State.runJob_again h1 h2 h3

/-- A row with no job to start or take further changes nothing. -/
theorem State.runJob_idle (h2 : s.startJob q.val mine = none) (h3 : s.waitingJob q.val mine = none) :
    s.runJob q.val mine start again = s := by
  simp [State.runJob, h2, h3]

/-- A job that `find?` gives for a row is the row's own. -/
theorem State.waitingJob_spec (h : s.waitingJob q.val mine = some j) :
    j ∈ (s.queue q.val).jobs ∧ j.phase = .running ∧ mine j = true ∧ j.halted = false := by
  have h1 := List.mem_of_find?_eq_some h
  have h2 := List.find?_some h
  simp at h2
  exact ⟨h1, h2.1.1, h2.1.2, h2.2⟩

/-- A read that a structure of a job needs, as the row runs it. -/
theorem State.access_ok {α : Type} {s t : State} {ag : Agent} {m : Acc α} {a : α} {k : State → α → State} (h : m.go s = (.ok a, t)) :
    s.access ag m k = k t a := by
  simp [State.access, h]

theorem State.accessDma_ok {α : Type} {s t : State} {ag : Agent} {m : Acc α} {a : α} {hint : Option Hint} {k : State → α → State}
    (h : m.go s = (.ok a, t)) : s.accessDma ag m hint k = k (t.waited ag) a := by
  simp [State.accessDma, State.accessOr, h]

/-- A structure that has come. -/
theorem State.withStruct_ok {s t : State} {r : JobRef} {dva len : Nat} {bs : List Byte} {k : State → List Byte → State}
    (h : s.reads r dva len t bs) : s.withStruct r dva len k = k t bs := by
  obtain ⟨h1, u, h2, rfl⟩ | ⟨h1, rfl⟩ := h
  · simp only [State.withStruct, h1]
    exact State.access_ok h2
  · simp only [State.withStruct, h1]

/-- Data that have come. -/
theorem State.withSource_ok {s t : State} {r : JobRef} {w : Word} {len : Nat} {hint : Option Hint} {bs : List Byte}
    {k : State → List Byte → State} (h : s.given r w len hint t bs) : s.withSource r w len hint k = k t bs := by
  rcases h with ⟨rfl, rfl, rfl⟩ | ⟨h1, h2, h3, u, h4, rfl⟩ | ⟨h1, h2, h3, rfl⟩ | ⟨h1, h2, rfl, b, h3, h4, rfl⟩
  · simp [State.withSource]
  · simp only [State.withSource, if_neg h1, h2, Bool.false_eq_true, if_false, h3]
    exact State.accessDma_ok h4
  · simp only [State.withSource, if_neg h1, h2, Bool.false_eq_true, if_false, h3]
  · simp only [State.withSource, if_neg h1, h2, if_true, h3, h4]

/-- Data that have been stored. -/
theorem State.putDva_ok {s t : State} {r : JobRef} {dva : Nat} {bs : List Byte} {hint : Option Hint} {k : State → State}
    (h : s.stores r dva bs hint t) : s.putDva r dva bs hint k = k t := by
  obtain ⟨ls, u, h1, rfl⟩ := h
  rw [State.putDva, State.accessDma_ok h1]

theorem Queue.setJob_job (x : Queue) (seq : Nat) (f : Job → Job) (hf : ∀ j, (f j).seq = j.seq) :
    (x.setJob seq f).job? seq = (x.job? seq).map f := by
  simp only [Queue.setJob, Queue.job?]
  induction x.jobs with
  | nil => rfl
  | cons a l ih =>
    by_cases h : a.seq = seq
    · simp [h, hf]
    · simpa [List.find?_cons, h] using ih

/-- A job's own entry after it is changed. -/
theorem State.job_setJob (s : State) (r : JobRef) (f : Job → Job) (hf : ∀ j, (f j).seq = j.seq) :
    (s.setJob r f).job? r = (s.job? r).map f := by
  simp only [State.job?, State.setJob, State.queue_setQueue_same]
  exact Queue.setJob_job _ _ _ hf

theorem Job.finish_seq (status detail counts : Nat) (j : Job) : (Job.finish status detail counts j).seq = j.seq := by
  simp only [Job.finish]; split <;> rfl

/-- Changing one job changes nothing else. -/
theorem State.setJob_same (s : State) (r : JobRef) (f : Job → Job) : s.sameButJob (s.setJob r f) r := by
  refine ⟨rfl, fun q hq => ?_, ?_, ?_, fun k x hk hx => ?_⟩
  · simp [State.setJob, State.queue_setQueue, hq]
  · simp [State.setJob, Queue.setJob]
  · simp [State.setJob, Queue.setJob]
  · simp [State.setJob, Queue.setJob, hk, hx]

end Sys2Proof.Machine
end

