-- ==== Sys2Proof/WellFormed.lean ====
section
/-! DEFINITION. Which commands are well formed: operands within the ranges that the manual gives a row. A command that
is not well formed names no event of the manual, and nothing is claimed of what it does but what holds of every command
(assumption 1). -/

namespace Sys2Proof

/-- A transport header within its field widths (R271). -/
def Frame.wf (f : Frame) : Bool :=
  f.domain < 2 ^ 16 && f.srcDev < 2 ^ 14 && f.dstDev < 2 ^ 14 && f.srcInc < 2 ^ 32 && f.dstInc < 2 ^ 32 &&
  f.seq < 2 ^ 32 && f.ackSeq < 2 ^ 32 && f.rwin ≤ 64 && !f.sack.getLsbD 63

/-- A request message within its field widths (R111). -/
def ReqMsg.wf (m : ReqMsg) : Bool :=
  m.stepSeq < 2 ^ 48 && m.table < 2 ^ 12 && m.version < 2 ^ 32 && m.reqId < 2 ^ 32 &&
  1 ≤ m.entries.length && m.entries.length ≤ 640 && m.entries.all fun e => e.row < 2 ^ 41 && e.sample < 2 ^ 12

/-- Body of a reply entry within its field widths (R117). -/
def RepEntry.wf : RepEntry → Bool
  | .row r body => r < 2 ^ 41 && 12 ≤ body.length
  | .partialSum smp c v _ => smp < 2 ^ 12 && 1 ≤ c && c ≤ 640 && v < 2 ^ 32
  | .notHeld r => r < 2 ^ 41

def RepMsg.wf (m : RepMsg) : Bool :=
  m.stepSeq < 2 ^ 48 && m.table < 2 ^ 12 && m.version < 2 ^ 32 && m.reqId < 2 ^ 32 && m.entries.length ≤ 640 &&
  m.entries.all RepEntry.wf

/-- A forwarded update record (R135, R273). -/
def UpdRec.wf (r : UpdRec) : Bool :=
  r.table < 2 ^ 12 && r.contrib < 2 ^ 14 && 1 ≤ r.epoch && r.epoch < 2 ^ 32 && r.index < 2 ^ 64 && r.seq < 2 ^ 32 &&
  r.payload.all fun v => if r.fp32 then v < 2 ^ 32 else v < 2 ^ 16

def Marker.wf (m : Marker) : Bool :=
  m.epoch < 2 ^ 32 && m.contrib < 2 ^ 14 && m.records < 2 ^ 64 && m.digest < 2 ^ 64

def GlintBody.wf (g : GlintBody) : Bool :=
  g.device < 2 ^ 14 && g.state < 16 && g.cause < 4 && g.seam < 2 ^ 64 && g.interval < 2 ^ 32

/-- Lease, page and tag of a lent-memory message (R273). -/
def lentWf (lease page tag : Nat) : Bool := lease < 64 && page < 2 ^ 32 && tag < 2 ^ 32

/-- Operands within the ranges of the command's row. -/
def Instr.wf : Instr → Bool
  | .lookupRequest f m _ => f.wf && m.wf
  | .lookupReply f m => f.wf && m.wf && m.entries.all fun e => match e with | .partialSum .. => false | _ => true
  | .pooledReply f m => f.wf && m.wf && m.entries.any fun e => match e with | .partialSum .. => true | _ => false
  | .updateRecord f rs => f.wf && 1 ≤ rs.length && rs.length < 2 ^ 16 && rs.all fun r => r.wf && r.mapped
  | .epochClose f m => f.wf && m.wf
  | .reflectionPush f p => f.wf && p.table < 2 ^ 12 && p.row < 2 ^ 41 && p.version < 2 ^ 32 && p.seam < 2 ^ 64
  | .pushRelease t r => t < 2 ^ 12 && r < 2 ^ 41
  | .lentRead f l p t => f.wf && lentWf l p t
  | .lentWrite f l p t sec data =>
    f.wf && lentWf l p t && data.length = 64 * ((List.range 64).filter fun i => sec.getLsbD i).length
  | .lentResponse f l r t data =>
    f.wf && lentWf l 0 t && r ≤ 4 && (match data with | none => true | some d => d.length = 4096)
  | .lentClaim f l t => f.wf && lentWf l 0 t
  | .lentReturn f l t => f.wf && lentWf l 0 t
  | .glint f g => f.wf && g.wf
  | .linkTestFrame f _ => f.wf
  | .ack f => f.wf
  | .hostMemRead hpa _ _ => hpa % 64 = 0
  | .hostMemWrite hpa data _ => hpa % 64 = 0 && data.length = 64
  | .bisnpResponse line m => line < 0xC000000000 && line % 64 = 0 && (match m with | none => true | some d => d.data.length = 64)
  | .retransmitTimer _ dev _ seq => dev < 2 ^ 14 && seq < 2 ^ 32
  | .ackTimer _ dev _ => dev < 2 ^ 14
  | .windowProbe _ dev _ => dev < 2 ^ 14
  | .catchUpDone t => t < 2 ^ 12
  | .epochReady e => e < 2 ^ 32
  | .epochWriteBack e => e < 2 ^ 32
  | .invalidateRequest _ pasid _ _ => match pasid with | none => true | some p => p < 2 ^ 20
  | .linkTrained _ w r => (w = 4 || w = 8 || w = 16) && (r = 1 || r = 2)
  | .i3cPrivateRead r => 1 ≤ r.count
  | .linkTestEnd _ rs => rs.all fun r => r.laneErrors.length = 8
  | _ => true

end Sys2Proof
end

