-- ==== Sys2Proof/Tests/Slice0.lean ====
section
/-! SUPPORT. Tests: operands that WellFormed refuses, the manual's worked examples, single steps; and for every clause of every
obligation that has hypotheses a concrete state and operands that meet them all together (`witness_<obligation>_<clause>`). Expected
values come from the manual's worked examples or from IEEE 754. -/

namespace Sys2Proof.Tests

open Sys2Proof Sys2Proof.Machine

set_option maxRecDepth 20000
set_option Elab.async false

/-- The value of an access that succeeds. -/
def okOf {ε α : Type} [Inhabited α] : Except ε α → α
  | .ok a => a
  | .error _ => default

def failOf {α : Type} : Except AccFail α → AccFail
  | .ok _ => .poison 0 false 0
  | .error f => f

def isOk {ε α : Type} : Except ε α → Bool
  | .ok _ => true
  | .error _ => false

theorem go_eq {α : Type} [Inhabited α] (m : Acc α) (s : State) (h : isOk (m.go s).1 = true) :
    m.go s = (.ok (okOf (m.go s).1), (m.go s).2) := by
  rcases hm : m.go s with ⟨r, t⟩
  rw [hm] at h
  cases r with
  | ok a => rfl
  | error e => cases h

theorem pair_true {α : Type} (p : α × Bool) (h : p.2 = true) : p = (p.1, true) := by rw [← h]

theorem some_eq {α : Type} {o : Option α} (h : o.isSome = true) : o = some (o.get h) := by simp

theorem pairOf_eq {α β : Type} {o : Option (α × β)} (h : o.isSome = true) : o = some ((o.get h).1, (o.get h).2) := by simp

theorem eq_some_some {α : Type} {m : Acc (Option α)} {s : State} (h : isOk (m.go s).1 = true) (k : (okOf (m.go s).1).isSome = true) :
    m.go s = (.ok (some ((okOf (m.go s).1).get k)), (m.go s).2) := by simpa using go_eq m s h

theorem fill_eq {m : Acc (Option (Nat × Nat × Nat))} {s : State} (h : isOk (m.go s).1 = true) (k : (okOf (m.go s).1).isSome = true) :
    m.go s = (.ok (some (((okOf (m.go s).1).get k).1, ((okOf (m.go s).1).get k).2.1, ((okOf (m.go s).1).get k).2.2)), (m.go s).2) := by
  simpa using go_eq m s h

/-- The failure of an access that fails. -/
theorem error_eq {α : Type} (m : Acc α) (s : State) (h : isOk (m.go s).1 = false) :
    m.go s = (.error (failOf (m.go s).1), (m.go s).2) := by
  rcases hm : m.go s with ⟨r, t⟩
  rw [hm] at h
  cases r with
  | ok a => cases h
  | error e => rfl

theorem fail_eq {α : Type} (m : Acc α) (s : State) (f : AccFail) (h : (match (m.go s).1 with | .ok _ => false | .error g => g == f) = true) :
    m.go s = (.error f, (m.go s).2) := by
  rcases hm : m.go s with ⟨r, t⟩
  rw [hm] at h
  cases r with
  | ok a => cases h
  | error g => rw [show g = f from by simpa using h]

theorem go_val {α : Type} [Inhabited α] {m : Acc α} {s : State} {a : α} (h : isOk (m.go s).1 = true) (k : okOf (m.go s).1 = a) :
    m.go s = (.ok a, (m.go s).2) := by rw [← k]; exact go_eq m s h

theorem go_unit {m : Acc Unit} {s : State} (h : isOk (m.go s).1 = true) : m.go s = (.ok (), (m.go s).2) := go_val h (Subsingleton.elim _ _)

theorem okUnit {r : Except AccFail Unit} (h : isOk r = true) : r = .ok () := by
  cases r with
  | ok => rfl
  | error => cases h

theorem bulk_eq {s : State} {r : JobRef} (h : ((s.job? r).bind (·.bulk)).isSome = true) :
    (s.job? r).bind (·.bulk) = some (((s.job? r).bind (·.bulk)).get h) := (Option.some_get h).symm

theorem given_none {s : State} {r : JobRef} {w : Word} {hint : Option Hint} {len : Nat} (h : len = 0) :
    s.given r w len hint s [] := .inl ⟨h, rfl, rfl⟩

theorem given_dev {s : State} {r : JobRef} {w : Word} {len : Nat} {hint : Option Hint} (h : len ≠ 0) (d : w.getLsbD 63 = false)
    (o : isOk ((readDva (Agent.dma (s.ctxOf r.q) r) (w.field 0 48) len hint).go s).1 = true)
    (n : s.recall r (1, w.field 0 48, len) = none := by decide +kernel) :
    s.given r w len hint ((((readDva (Agent.dma (s.ctxOf r.q) r) (w.field 0 48) len hint).go s).2.waited (Agent.dma (s.ctxOf r.q) r)).remember
      r (1, w.field 0 48, len) (okOf ((readDva (Agent.dma (s.ctxOf r.q) r) (w.field 0 48) len hint).go s).1))
      (okOf ((readDva (Agent.dma (s.ctxOf r.q) r) (w.field 0 48) len hint).go s).1) := .inr (.inl ⟨h, d, n, _, go_eq _ _ o, rfl⟩)

theorem reads_new {s : State} {r : JobRef} {dva len : Nat}
    (o : isOk ((readDva (Agent.struct (s.ctxOf r.q) r) dva len).go s).1 = true)
    (n : s.recall r (0, dva, len) = none := by decide +kernel) :
    s.reads r dva len (((readDva (Agent.struct (s.ctxOf r.q) r) dva len).go s).2.remember r (0, dva, len)
      (okOf ((readDva (Agent.struct (s.ctxOf r.q) r) dva len).go s).1))
      (okOf ((readDva (Agent.struct (s.ctxOf r.q) r) dva len).go s).1) := .inl ⟨n, _, go_eq _ _ o, rfl⟩

theorem stores_ok {s : State} {r : JobRef} {dva : Nat} {bs : List Byte} {hint : Option Hint}
    (o : isOk ((writeDva (Agent.dma (s.ctxOf r.q) r) dva bs hint).go s).1 = true) :
    s.stores r dva bs hint (((writeDva (Agent.dma (s.ctxOf r.q) r) dva bs hint).go s).2.waited (Agent.dma (s.ctxOf r.q) r)) :=
  ⟨_, _, go_eq _ _ o, rfl⟩

theorem takes_start {s : State} {q : QueueId} {mine : Job → Bool} {j : Job} (h : s.starts q mine j) :
    s.takes q mine j (s.begun q j) := ⟨h.1, .inl ⟨h.2, rfl⟩⟩

def isNext {S F R : Type} : Host.Outcome S F R → Bool
  | .next _ => true
  | _ => false

def nextOf {S F R : Type} (d : S) : Host.Outcome S F R → S
  | .next s => s
  | _ => d

theorem next_eq {S F R : Type} (d : S) (o : Host.Outcome S F R) (h : isNext o = true) : o = .next (nextOf d o) := by
  cases o with
  | next s => rfl
  | fault f => cases h
  | refused r => cases h

theorem pair_eq {α β : Type} (p : α × β) : p = (p.1, p.2) := rfl

/-- A TLB entry of context 0: 2 MiB at 0x200000. -/
def page0 : TlbEntry := ⟨0, 0x200000, 0x200000, 0, 0x200000, true⟩

/-- A package in service, 0.2 s after its reset. -/
def on : State := { State.reset with
  pkg := { powered := true, perstN := true, stage := .service, elapsed := 20000000, incarnation := 7 }
  cxl := { linkUp := true, width := 16, rate := 2, hdmCommitted := true }
  xlat := { tlbCp := [page0], tlbCl := Vector.replicate 16 [page0] } }

def job (op : Nat) (ps : List Word) : Job := { seq := 1, opcode := op, barrier := false, ctx := 0, tag := 0, params := ps }

/-- A state whose queue 0 runs and holds one job. -/
def jobOn (s : State) (j : Job) : State :=
  s.setQueue 0 fun x => { x with st := .running, size := 16, base := 0x300000, cmp := 0x400000, gen := 1, nextSeq := 2, dirty := false, jobs := [j] }

def mem (s : State) (a : Nat) (bs : List Byte) : State := { s with hbm := { s.hbm with mem := memWrite s.hbm.mem a bs } }

/-- `s` ten nanoseconds later. -/
def later (s : State) : State := s.advanceTo 20000001

/-- A 256-byte line in the staging cache whose first three sectors are present. -/
def lineOn (s : State) (b : Nat) : State :=
  { s with tiers := { s.tiers with pool := [.line b 0b1110 0b0010 (List.replicate 256 7) .keep] } }

def fetching (b : Option (Nat × Nat)) : State :=
  (jobOn on (job 1 [])).setQueue 0 fun x => { x with jobs := [], tail := 5, backoff := b }

/-- Queue 0 stopped with its rings set, the completion ring at `cmp`. -/
def ringing (cmp : Nat) : State :=
  on.setQueue 0 fun x => { x with qbase := 0x300000, qsize := 16, qcmpBase := cmp }

def ended : Job := { job 1 [] with phase := .done, lines := [0x200000] }

def recordable : State := jobOn on ended

def aborting : Job := { job 0x7F [0] with phase := .running, aux := [0, 3, 1] }

/-- Limits of region 7: 850 mV and 100 %. -/
def limits : List Word := [0x80, 0, 0, 0, 0, 0, 0, 0, 0x0064_0352]

def words (ws : List Nat) : List Byte := ws.flatMap (leBytes 8)

/-- A container with one dense set image of 16 bytes. -/
def container : List Byte :=
  padTo 256 (words [0x0001_0001_36314B4D, 272, 5, 0x0010_0001, 0, 0, 0, 0, 0x1000_0002, 256]) ++ List.replicate 16 7

/-- A resident model with two set slots of 4 KiB and no program. -/
def model0 : Resident := ⟨5, 2, 4096, [], 0x202000, 0, 0⟩

def withModel (s : State) : State := { s with model := { s.model with res := some model0 } }

/-- An I8 table of 65,537 rows of 8 elements, everywhere, its default row zero. -/
def desc0 : Desc := ⟨4095, .i8, .coded, .everywhere, false, true, true, false, 8, 0, 65537, 0, 0, 0, 0, 0, 0, 0, 0x210000, 0x20A000⟩

def table0 : Table := { desc := desc0, defaultRow := List.replicate 8 0, lit := { num := 1, dir := 0x20A000 } }

def withTable (s : State) (t : Table := table0) : State := { withModel s with tabs := { s.tabs with tables := [t] } }

/-- The descriptor as the host writes it: its default row at 0x210000, its directory at 0x20A000. -/
def descBytes (d : Desc) : List Byte := (d.measured.take 56) ++ words [d.defaultDva, d.directory, 0, 0, 0]

/-- A table sharded by range in two. -/
def desc1 : Desc := { desc0 with placement := .range, shardsM1 := 1 }

/-- The same table everywhere, its one shard's directory, and its two blocks: rows at 0x220000 and 0x230000. -/
def stored (s : State) (t : Table := table0) : State :=
  mem (mem (withTable s t) 0x20A000 (words [0x20B000])) 0x20B000 (words [0x220000, 0x2A0000, 0x230000, 0x2B0000])

/-- A live port configuration of device 69. -/
def config : PortCfg := ⟨69, 0, 0x6A16, 0, 0, 1, [], 0⟩

def netted (s : State) : State := { s with fab := { s.fab with cfgLive := some config } }

/-- An authorisation that enrols its own signer's key, of height 10. -/
def auth : List Byte :=
  padTo 32 (words [0x0001_0001_36315541]) ++ padTo 68 (oidBytes Config.oidXmss10) ++ padTo 68 (oidBytes Config.oidXmss10)

def fill : List Word := [0x0000_0001_0000_0FFF, 0x1_0000, 0x200000, 0x0001_0000, 0x0000_0001_0000_0000]

def shadowed : Table := { table0 with shadow := some ⟨⟨2, 0x20A000, []⟩, 0, false⟩, highest := 2 }

def epoch1 : Epoch := { num := 1, contribs := [69], parts := [69], digest := 3 }

/-- Epoch 1 is declared on device 69. -/
def declared1 (s : State) (e : Epoch := epoch1) : State := { netted (withModel s) with upd := { s.upd with epochs := [e] } }

def doneBulk : Bulk := { write := false, pasid := 0, iova := 0x1041, len := 0, next := 0x1041, data := List.replicate 65 6, finished := true }

/-- A copy of 65 bytes from host memory to 0x200000 whose bulk transfer has ended. -/
def copyIn : Job := { job 0x50 [0x8000_0000_0000_1000, 0x200000, 65] with phase := .running, bulk := some doneBulk }

def lent0 : Lent := { id := 63, base := 0x40000000, size := 0x40000000, borrower := 69 }

def borrowed0 : Borrowed := { lender := 69, lease := 63, ctx := 1, base := 0x40000000, size := 0x40000000 }

/-- A frame from device 70 to device 69 of incarnation 7. -/
def frame0 : Frame := ⟨0, 0, 70, 69, 9, 7, false, 1, false, false, 0, 0, 0, false, 0, false, {}⟩

/-- LINK_TEST of port 15 in FRAME mode, begun 1 µs ago. -/
def testing (s : State) : State :=
  { s with fab := { s.fab with test := some ⟨⟨0, 1⟩, 0x8000, 3, false, 69, 19999900, 100, 0x200000, [], [], []⟩ } }

/-- Device 70, up on port 0 and heard of now. -/
def peer0 : Peer := { dev := 70, inc := 9, lastGlint := 20000000, interval := 16384, ports := 1 }

def frame1 : Frame := frame0

/-- Device 69 in a fabric with device 70. -/
def peered (s : State) : State :=
  (netted { s with fab := { s.fab with peers := [peer0], ports := s.fab.ports.map fun p => { p with trained := true } } }).setPort 0
    fun p => { p with st := .up }

def withPeer (p : Peer) : State := { peered on with fab := { (peered on).fab with peers := [p] } }

/-- The second frame of a SERVE space whose first has come. -/
def gotOne : State := withPeer { peer0 with rxS := { ackSeq := 2 } }

def lentTo : Lent := { id := 63, base := 0x40000000, size := 0x40000000, borrower := 70, claimant := some (70, 9) }

def lending : State := { peered on with tiers := { on.tiers with lent := [lentTo] } }

def request0 : ReqMsg := ⟨0, 0, false, false, 4095, .sum, 1, 1, [⟨65536, 0, 0⟩]⟩

def reflecting : State :=
  { on with tabs := { on.tabs with refl := some ⟨0x280000, [{ table := 4095, row := 65536, dva := 0x280000 }], [], []⟩ } }

def sent1 : TxMsg := { seq := 1, kind := 1, body := [], sentAt := some 20000000 }

/-- A message sent, an acknowledgement owed, and a window that has been 0 for 100 µs. -/
def waiting1 : State := withPeer { peer0 with txS := { next := 2, unacked := [sent1] } }
def owing : State := withPeer { peer0 with rxS := { owedSince := some 20000000 } }
def probing : State :=
  withPeer { peer0 with txS := { next := 2, rwin := 0, unacked := [{ sent1 with sentAt := none, queuedAt := 20000000 }], zeroSince := some 5 } }

def atPort (st : PortState) : State := (peered on).setPort 15 fun p => { p with st := st, since := 20000000 }

def atStage (g : Stage) : State := { on with pkg := { on.pkg with stage := g } }

/-- Before the firmware runs. -/
def booting : State := atStage .linked

/-- An image of one code byte, received whole, whose key is the fuses'. -/
def imaged : Boot :=
  { state := .verifying, latchedLen := 10150, received := [0],
    image := memWrite [] 0 ([0x46, 0x57, 0x31, 0x36, 1, 0, 0, 0, 1] ++ List.replicate 58 0 ++ [0x2C]) }

def failing : State := { on with err := { on.err with fatal := some (6, none), causesSeen := 64 } }

def corrected1 : Detected := { cls := 0 }

def bar : BitVec 128 := BitVec.allOnes 128

/-- A program without lookups, and a step of it on cluster 15, in slot 7. -/
def program0 : Program := ⟨0, 0, 0, 1, [], [], [], [], [], [], 0, 0, 0, 0, 0⟩

def step0 : Step :=
  { job := ⟨0, 1⟩, samples := 1, program := program0, deadline := 1, budget := 1, input := 0x200000, output := 0x210000, missing := 0,
    push := 0, tAdm := 20000000, versions := [], map := [], grid := Grid.default, set := 0, refl := none, clusters := [15] }

/-- A step of one output of 4 bytes to an unmapped address. -/
def stepFar : Step := { step0 with program := { program0 with outBytes := 4 }, output := 0x4000_0000_0000 }

def inPhase (s : State) (p : SlotPhase) (st : Step := step0) : State :=
  (jobOn s { job 0x30 [] with phase := .running }).setSlot 7 fun x => { x with phase := p, step := some st }

/-- The step is in DENSE on a cluster. -/
def inDense (f : Cluster → Cluster) : State :=
  (inPhase { on with pkg := { on.pkg with ruReserved := false } } .dense).setCl 15 fun x => f { x with owner := .step 7 }

/-- Region 7's loop runs. -/
def running : State := { on with regions := on.regions.map fun r => { r with resumed := false } }

/-- Memory is active. -/
def serving : State := { on with pkg := { on.pkg with memInfoValid := true, memActive := true } }

/-- One request to the host outstanding, numbered 3. -/
def asking (k : ReqKind) (o : Owner) : State :=
  { jobOn on { job 0x50 [] with phase := .running } with
    xlat := { on.xlat with reqs := [{ id := 3, kind := k, owner := o, pasid := 5, iova := 0x1000, len := 1, hpa := 0x7000, isWrite := false, since := 19000000, range := (0x1000, 4096) }] } }

def inv0 : Invalidate := ⟨some 5, 0x1000, 0x1000, 19900000, true⟩

/-- A read in flight whose translation has been withdrawn by the oldest Invalidate Request, 1 ms ago. -/
def withdrawing : State :=
  { asking .read (.dma 15) with
    xlat := { (asking .read (.dma 15)).xlat with
      invs := [inv0], reqs := (asking .read (.dma 15)).xlat.reqs.map fun r => { r with withdrawn := true } } }

/-- A wait of cluster 15 on a tier, for 20 µs. -/
def stalled (tier : Nat) : State :=
  { on with tiers := { on.tiers with waits := [{ id := 4, tier := tier, since := 19998000, owner := .dma 15, addr := 0x40000000 }] } }

/-- A 128-bit word of its two halves. -/
def w128 (lo hi : Nat) : BitVec 128 := BitVec.ofNat 128 (lo + 2 ^ 64 * hi)

/-- RUN_STEP of one sample of program 0. -/
def runStep0 : Job := job 0x30 [1, 0, 0x200000, 0x210000, 0, 0]

def withProgram (s : State) : State := { s with model := { s.model with res := some { model0 with programs := [program0] } } }

/-- RUN_STEP runs on queue 0 and waits for its admission. -/
def candidate0 : State := (jobOn (withProgram on) { runStep0 with phase := .running }).choose

/-- An entry asked of a member 1 ms ago, that waits. -/
def entry0 : Entry := ⟨4095, 65536, 0, 0, .none, [70], [70], [], none, [1], [], some 19900000, false, 0⟩

/-- A cluster whose units stand at one word each. -/
def mreAt (w : BitVec 128) : State := inDense fun c => { c with mre := { c.mre with stream := [w] } }
def veAt (w : BitVec 128) : State := inDense fun c => { c with ve1 := { c.ve1 with stream := [w] } }
def ruAt (w : BitVec 128) : State := inDense fun c => { c with ru := { c.ru with stream := [w] } }
def dmaAt (w : BitVec 128) : State := inDense fun c => { c with dma := { c.dma with stream := [w] } }

/-- MATMUL of 1 by 2 by 1 codes in I8 to fp32, with HOLD where asked; its operands at 0, 256, 512 and 768. -/
def matmulWord (hold : Nat) : BitVec 128 := w128 (1 + 3 * 2 ^ 9 + hold * 2 ^ 12 + 1 * 2 ^ 34) (1 * 2 ^ 16 + 2 * 2 ^ 32 + 3 * 2 ^ 48)

def chain0 : MreChain := { m := 1, n := 1, lanes := 128, bf := false, accs := [.int (-7)], sums := [0], ranges := [] }

/-- A VE word: OP, SFMT, DFMT, two elements, the fields above bit 24, then D, A, B and C. -/
def veWord (op sf df : Nat) (up fD fA fB fC : Nat) : BitVec 128 :=
  w128 (op + sf * 2 ^ 6 + df * 2 ^ 9 + 1 * 2 ^ 12 + up + fD * 2 ^ 39) (fA + fB * 2 ^ 20 + fC * 2 ^ 40)

/-- The context of a VE word at VE 31. -/
def ctxOf (w : BitVec 128) (sc : Bool) : VeCtx := (veAt w).veCtx 31 step0 ⟨w⟩ sc

theorem loop_eq {α β : Type} {p : α × Option β} (h : p.2.isNone = true) : p = (p.1, none) := by
  rcases p with ⟨a, _ | b⟩
  · rfl
  · cases h

/-- TAKE of two elements of one, its scalar record at T0 1024 with P = 1. -/
def takeWord : BitVec 128 := veWord 0x29 1 1 0 3 0 1 4

def takeAt : State :=
  inDense fun c => { c with t0 := memWrite [] 1032 (leBytes 4 1), ve1 := { c.ve1 with stream := [takeWord] } }

/-- TILE_REDUCE: the maximum of the one row of tile 0 as fp32, to T0 0. -/
def reduceWord : BitVec 128 := w128 (0x31 + 1 * 2 ^ 6 + 1 * 2 ^ 9 + 63 * 2 ^ 12 + 1 * 2 ^ 33) (2 ^ 19)

/-- A REDUCE of VE 31 and the RU instruction that takes its stream. -/
def pairAt : State :=
  inDense fun c => { c with
    ve1 := { c.ve1 with stream := [veWord 0x30 1 0 0 0 0 0 0] }, ru := { c.ru with stream := [w128 (1 + 1 * 2 ^ 4) 0] } }

/-- SET, READ, WRITE and GATHER of 64 bytes at T0 0. -/
def setAt : State := { dmaAt (w128 0 (64 * 2 ^ 16)) with model := { on.model with res := some model0 } }
def readWord : BitVec 128 := w128 0x220000 (64 * 2 ^ 16 + 1 * 2 ^ 62)
def writeWord : BitVec 128 := w128 0x220000 (64 * 2 ^ 16 + 2 * 2 ^ 62)
def gatherWord : BitVec 128 := w128 (64 * 2 ^ 32) (3 * 2 ^ 62)

/-- The step is in EMIT with its share's outputs to store. -/
def emitting : State := (inPhase on .emit).setCl 15 fun x => { x with owner := .step 7 }

/-! ## Operands outside a row's ranges are refused (WellFormed) -/

/-- The first frame with one field out of its range each. -/
theorem test_frame_ranges : ([{ frame0 with domain := 2 ^ 16 }, { frame0 with srcDev := 2 ^ 14 }, { frame0 with dstDev := 2 ^ 14 },
    { frame0 with srcInc := 2 ^ 32 }, { frame0 with dstInc := 2 ^ 32 }, { frame0 with seq := 2 ^ 32 }, { frame0 with ackSeq := 2 ^ 32 },
    { frame0 with rwin := 65 }, { frame0 with sack := 2 ^ 63 }].all fun f => !(Instr.ack f).wf) = true ∧ (Instr.ack frame0).wf = true := by
  decide +kernel

theorem test_request_ranges : ([{ request0 with stepSeq := 2 ^ 48 }, { request0 with table := 4096 }, { request0 with version := 2 ^ 32 },
    { request0 with reqId := 2 ^ 32 }, { request0 with entries := [] }, { request0 with entries := List.replicate 641 ⟨0, 0, 0⟩ },
    { request0 with entries := [⟨2 ^ 41, 0, 0⟩] }, { request0 with entries := [⟨0, 4096, 0⟩] }].all
      fun m => !(Instr.lookupRequest frame0 m []).wf) = true := by decide +kernel

def reply0 : RepMsg := ⟨0, 0, false, true, 4095, 1, 1, [.row 65536 (List.replicate 20 0)]⟩

theorem test_reply_ranges : ([{ reply0 with stepSeq := 2 ^ 48 }, { reply0 with table := 4096 }, { reply0 with version := 2 ^ 32 },
    { reply0 with reqId := 2 ^ 32 }, { reply0 with entries := List.replicate 641 (.notHeld 0) }, { reply0 with entries := [.notHeld (2 ^ 41)] },
    { reply0 with entries := [.row 0 (List.replicate 11 0)] }, { reply0 with entries := [.partialSum 0 1 0 []] }].all
      fun m => !(Instr.lookupReply frame0 m).wf) = true ∧ (Instr.lookupReply frame0 reply0).wf = true := by decide +kernel

theorem test_pooled_ranges : ([{ reply0 with entries := [.partialSum 4096 1 0 []] }, { reply0 with entries := [.partialSum 0 0 0 []] },
    { reply0 with entries := [.partialSum 0 641 0 []] }, { reply0 with entries := [.partialSum 0 1 (2 ^ 32) []] }, reply0].all
      fun m => !(Instr.pooledReply frame0 m).wf) = true := by decide +kernel

def rec0 : UpdRec := ⟨4095, false, true, true, 70, 1, 0, 0, List.replicate 8 0⟩

theorem test_record_ranges : ([{ rec0 with table := 4096 }, { rec0 with contrib := 2 ^ 14 }, { rec0 with epoch := 0 },
    { rec0 with epoch := 2 ^ 32 }, { rec0 with index := 2 ^ 64 }, { rec0 with seq := 2 ^ 32 }, { rec0 with mapped := false },
    { rec0 with payload := [2 ^ 32] }].all fun r => !(Instr.updateRecord frame0 [r]).wf) = true ∧
    (Instr.updateRecord frame0 []).wf = false ∧ (Instr.updateRecord frame0 [rec0]).wf = true := by decide +kernel

theorem test_marker_ranges : ([⟨2 ^ 32, 0, 0, 0⟩, ⟨0, 2 ^ 14, 0, 0⟩, ⟨0, 0, 2 ^ 64, 0⟩, ⟨0, 0, 0, 2 ^ 64⟩].all
    fun m => !(Instr.epochClose frame0 m).wf) = true := by decide +kernel

theorem test_lent_ranges : ([.lentRead frame0 64 0 0, .lentRead frame0 0 (2 ^ 32) 0, .lentRead frame0 0 0 (2 ^ 32),
    .lentWrite frame0 0 0 0 1 [], .lentResponse frame0 0 5 0 none, .lentResponse frame0 0 0 0 (some []), .lentClaim frame0 64 0,
    .lentReturn frame0 0 (2 ^ 32)].all fun i : Instr => !i.wf) = true := by decide +kernel

theorem test_other_ranges : ([.pushRelease 4096 0, .pushRelease 0 (2 ^ 41), .hostMemRead 1 .none [],
    .hostMemWrite 0 [] false, .bisnpResponse 1 none, .bisnpResponse 0 (some ⟨[], false⟩), .retransmitTimer 0 (2 ^ 14) false 0, .ackTimer 0 (2 ^ 14) false,
    .windowProbe 0 (2 ^ 14) false, .catchUpDone 4096, .epochReady (2 ^ 32), .epochWriteBack (2 ^ 32), .linkTrained 0 5 1, .linkTrained 0 16 3,
    .i3cPrivateRead ⟨0x30, 0⟩, .invalidateRequest 0 (some (2 ^ 20)) 0 0].all fun i : Instr => !i.wf) = true := by decide +kernel

/-! ## The manual's worked examples -/

/-- Table 412 of the manual (03, worked example): B8, 64 elements, sharded by hash in 256. -/
def desc412 : Desc :=
  { desc0 with id := 412, format := .b8, placement := .hash, dim := 64, rows := 2000000000, shardsM1 := 255, shardMult := 0x9E3779B900000000 }

/-- 03: index 1,234,567,890 lies in shard 68 at position 4,822,530; the stride is 76 bytes. -/
theorem test_place_hash : desc412.place 1234567890 = (68, 4822530) ∧ desc412.stride = 76 := by decide +kernel

/-- 06: re-coding a B4 row: SCALE 0x3C3F, OFFSET 0, ESC_COUNT 1, the codes, and the escape's BF16 value. -/
theorem test_recode_b4 :
    (recode { desc0 with format := .b4 } Grid.default ([0, 0, 0, 0, 1] ++ List.replicate 13 0) 7
      [0x3E99999A, 0xBF0CCCCD, 0x3DCCCCCD, 0x40866666, 0xBD4CCCCD, 0x3F1EB852, 0xBFB33333, 0x3F59999A]).1 =
    [0x3F, 0x3C, 0, 0, 1, 0, 0, 0, 7, 0, 0, 0, 0xC1, 0x80, 0x3F, 0x49, 0x86, 0x40] := by decide +kernel

/-- 06: a small I8 product, activations 12, −3, 40, 7: K = 4, N = 2, POINT 3; its weights, its corrections. -/
def productWord : BitVec 128 := w128 (1 + 3 * 2 ^ 14 + 3 * 2 ^ 34 + 1 * 2 ^ 48) (1 * 2 ^ 16 + 2 * 2 ^ 32 + 3 * 2 ^ 48)
def productT0 : List Host.Cell :=
  memWrite (memWrite (memWrite (memWrite [] 0 [12, 0xFD, 40, 7]) 256 [3, 0xFE, 0, 5]) 320 [0xF9, 4, 10, 1]) 768
    (words [2 ^ 40 - 34 + 2 ^ 40, 2 ^ 40 - 104 + 0xFE * 2 ^ 40])

/-- 06: the outputs are −2 and 40, codes 0xFE and 0x28. -/
theorem test_matmul_i8 : memRead ((nextOf State.reset (exec (.matmul 15)
    (inDense fun c => { c with t0 := productT0, mre := { c.mre with stream := [productWord] } }))).cl 15).t0 512 2 = [0xFE, 0x28] := by
  decide +kernel

/-- 08: with MASK = 0 an index that is no element stops a TAKE with VE_INDEX (0x13) at that element, operand B; in context 0 such
an error is package-fatal, cause 6 (R421). -/
theorem test_take_index : ((nextOf State.reset (exec (.take 31) (takeAt.setCl 15 fun c =>
    { c with t0 := memWrite c.t0 256 (leBytes 8 (2 ^ 32)) }))).err.fatal.map fun d => (d.1, d.2.map fun r =>
      (r.cause, r.operand, r.elem0))) = some (6, some (0x13, 1, 1)) := by decide +kernel

/-- 16: the words of a RUN_STEP entry. -/
theorem test_run_step_entry :
    (let j := jobOf [0x0006000900040030, 0x5A001, 0x800, 0x0000025800005DC, 0x200040000000, 0x200080000000, 0x200080002000, 0]
     (j.opcode, j.ctx, j.barrier, j.params.length, samplesOf j, checkJob 9 9 j)) = (0x30, 9, false, 6, 2048, none) := by decide +kernel

/-- 16: words 1 and 3 of step A's status record. -/
theorem test_status_words :
    (wordsOf 4 (statusRecord 0 (1 : Nat) 0x30 (52 * 256) 0x5A001 37)) = [0, 0x0000340000300001, 0x5A001, 0x25] := by decide +kernel

/-- 10: the granule at DPA 0x30_0123_4500 lies in pseudo-channel 26, channel 13. -/
theorem test_hbm_channel : Config.channel 0x3001234500 = 13 := by decide +kernel

/-- 20: at 103.0 °C a region's target is 550; at 105.5 °C it is OVER. -/
theorem test_derate : derate16 1648 = 16 * 550 ∧ thermalAt 1648 = .derate ∧ thermalAt 1688 = .over := by decide +kernel

/-- 19: an ATTEST with a MAX of 2,048 ends with BAD_PARAMETER; no leaf is spent. -/
theorem test_attest_small :
    (((nextOf State.reset (exec (.attest 0 ⟨true, true⟩) (jobOn on (job 0x78 [0x210000, 0x200000, 2048])))).job? ⟨0, 1⟩).map fun j =>
      (j.status, j.detail)) = some (stAborted, 0xFFFF0011) := by decide +kernel

/-! ## Numbers (IEEE 754) -/

theorem test_add_rounds : f32Add 0x3F800000 0x33800000 = 0x3F800000 ∧ f32Add 0x3F800001 0x33800000 = 0x3F800002 := by decide +kernel
theorem test_fma_exact : f32Fma 0x3F800001 0x3F800001 0xBF800002 = 0x28800000 := by decide +kernel
theorem test_div_sqrt : f32Div 0x3F800000 0x40400000 = 0x3EAAAAAB ∧ f32Sqrt 0x40000000 = 0x3FB504F3 := by decide +kernel
theorem test_bf16 : f32ToBf16 0x3F808000 = 0x3F80 ∧ f32ToBf16 0x3F818000 = 0x3F82 := by decide +kernel
theorem test_exp : f32Exp 0 = 0x3F800000 ∧ f32Exp 0x3F800000 = 0x402DF854 := by decide +kernel

/-! ## Steps -/

/-- R23: an empty queue lets 10 ns pass. -/
theorem test_idle_tick : (nextOf State.reset (step on)).now = on.now + 1 := by decide +kernel

/-- 22: IDCODE. -/
theorem test_idcode : (nextOf State.reset (step { on with pending := [.idcode] })).out = [.tdo 0x10016AC3 32] := by decide +kernel

/-- R266's example: device 17's port 5 in the domain of PREFIX 0xFD00_0000_0000_0A00. -/
theorem test_interface_identifier :
    PortCfg.address ⟨17, 0, 0, 0, 0xFD00000000000A00, 0, [], 0⟩ 5 17 = beBytes 8 0xFD00000000000A00 ++ beBytes 8 0x115 := by
  decide +kernel

/-- The table of commands gives no words. -/
theorem test_no_words : decodeTableWord 8 1 = none := rfl

/-- R509: the signal block carries 87 signal lands and 11 reserved ones; R505: row CU is 73 and CW 75. -/
theorem test_signal_lands :
    Config.landCount 22 62 4 (fun l => match l with | .signal _ => true | _ => false) = 87 ∧
    Config.landCount 22 62 4 (fun l => l == .reserved) = 11 ∧ Config.land 75 2 = .signal .faultN ∧ Config.land 73 1 = .signal (.refclk .p) := by
  decide +kernel

/-! ## Latent errors of device memory (R241, R243) -/

/-- A later read by another agent meets an error that struck before it; it is met once. -/
theorem test_latent_error :
    let r := (readSlot ((fetching none).queue 0)).go ((mem (fetching none) 0x300000 [1]).strike [(0x300040, .uncorrectable)])
    r.1 = .error (.poison 0x300040 true 0) ∧ r.2.hbm.poison = [0xC001] ∧ (r.2.hbm.stk[0]).uncorrectable = 1 ∧ r.2.hbm.latent = [] := by
  decide +kernel

/-! ## Witnesses -/

theorem witness_stepRunsFront_1 : ∃ (s : State) (c : Instr) (rest : List Instr),
    s.pending = c :: rest :=
  ⟨{ on with pending := [.nop 0] }, .nop 0, [], by decide +kernel⟩

theorem witness_idleTick_1 : ∃ (s : State),
    s.pending = [] ∧ s.pkg.powered = true ∧ s.pkg.perstN = true :=
  ⟨on, by decide +kernel, by decide +kernel⟩

theorem witness_idleTick_1_off : ∃ (s : State),
    s.pending = [] ∧ ¬(s.pkg.powered = true ∧ s.pkg.perstN = true) :=
  ⟨State.reset, by decide +kernel, by decide +kernel⟩

theorem witness_memoryFormKept_1 : ∃ (s t : State),
    s.memOk ∧ s.poolOk ∧ step s = .next t :=
  ⟨{ mem on 0 [1] with pending := [.hostMemWrite 64 (List.replicate 64 2) false] }, _, (show memWf _ = true by decide +kernel), (show
  poolWf _ = true by decide +kernel), next_eq State.reset _ (by decide +kernel)⟩

theorem witness_fusesNeverChange_1 : ∃ (c : Instr) (s t : State),
    exec c s = .next t :=
  ⟨.hostMemWrite 64 (List.replicate 64 2) false, on, _, next_eq State.reset _ (by decide +kernel)⟩

theorem witness_storeLands_1 : ∃ (ag : Agent) (dpa : Nat) (bs : List Byte) (s t : State),
    s.memOk ∧ s.poolOk ∧ (writeDpa ag dpa bs none).go s = (.ok (), t) :=
  ⟨Agent.cp 1 0 ⟨0, 1⟩, 0x3FFF, [1, 2], mem (lineOn on 0x3F) 0x4000 [9], _, (show memWf _ = true by decide +kernel), (show poolWf _ =
  true by decide +kernel), go_eq _ _ (by decide +kernel)⟩

theorem witness_storeLands_1_outside : ∃ (ag : Agent) (dpa : Nat) (bs : List Byte) (s t : State) (a : Nat),
    s.memOk ∧ s.poolOk ∧ (writeDpa ag dpa bs none).go s = (.ok (), t) ∧ (a < dpa ∨ dpa + bs.length ≤ a) :=
  ⟨Agent.cp 1 0 ⟨0, 1⟩, 0x3FFF, [1, 2], mem (lineOn on 0x3F) 0x4000 [9], _, 0x4001, (show memWf _ = true by decide +kernel), (show
  poolWf _ = true by decide +kernel), go_eq _ _ (by decide +kernel), by decide +kernel⟩

theorem witness_storeLands_1_sound : ∃ (ag : Agent) (dpa : Nat) (bs : List Byte) (s t : State),
    s.memOk ∧ s.poolOk ∧ (writeDpa ag dpa bs none).go s = (.ok (), t) ∧ (ag.job.isSome && (s.ctx ag.ctx).upset) = false ∧
    (ag.kind ≠ 6 ∨ s.fqEnabled = false ∨ s.fqFull = false) :=
  ⟨Agent.dma 0 ⟨0, 1⟩, 0x3FFF, [1, 2], mem (lineOn on 0x3F) 0x4000 [9], _, (show memWf _ = true by decide +kernel), (show
  poolWf _ = true by decide +kernel), go_eq _ _ (by decide +kernel), by decide +kernel, by decide +kernel⟩

theorem witness_ringAdvance_1_bounds : ∃ (x : Queue),
    x.fetch < x.size ∧ 1 ≤ x.next.gen ∧ x.next.gen ≤ 255 :=
  ⟨{ fetch := 15, size := 16, gen := 255 }, by decide +kernel, by decide +kernel, by decide +kernel⟩

theorem witness_doorbell_1_past : ∃ (s : State) (q : QueueId) (v : BitVec 32) (x : Queue),
    x = s.queue q.val ∧ s.serving = true ∧ x.st ≠ .unbound ∧ (s.ctx x.ctx).st = .opened ∧ sizeOk x.ringSize = true ∧ (x.st = .stopped →
    x.dirty = true → s.ringsOk x = true) ∧ x.ringSize ≤ v.toNat % 65536 :=
  ⟨ringing 0x500000, 0, 16, _, rfl, by decide +kernel⟩

theorem witness_entryRoundTrip_1 : ∃ (opcode gen ctx tag : Nat) (params : List Word),
    opcode < 2 ^ 16 ∧ gen < 2 ^ 8 ∧ ctx < 2 ^ 16 ∧ tag < 2 ^ 64 ∧ params.length ≤ 14 :=
  ⟨65535, 255, 65535, 2 ^ 64 - 1, List.replicate 14 (BitVec.allOnes 64), by decide +kernel⟩

theorem witness_ringAdvance_1 : ∃ (x : Queue),
    x.fetch < x.size ∧ x.fetch + 1 < x.size ∧ 1 ≤ x.gen ∧ x.gen ≤ 255 :=
  ⟨{ fetch := 14, size := 16, gen := 255 }, by decide +kernel, by decide +kernel, by decide +kernel, by decide +kernel⟩

theorem witness_ringAdvance_1_wrap : ∃ (x : Queue),
    x.fetch < x.size ∧ x.fetch = x.size - 1 ∧ x.gen < 255 :=
  ⟨{ fetch := 15, size := 16, gen := 254 }, by decide +kernel, by decide +kernel, by decide +kernel⟩

theorem witness_ringAdvance_1_wrap255 : ∃ (x : Queue),
    x.fetch < x.size ∧ x.fetch = x.size - 1 ∧ x.gen = 255 :=
  ⟨{ fetch := 15, size := 16, gen := 255 }, by decide +kernel, by decide +kernel, by decide +kernel⟩

theorem witness_entryFetched_1 : ∃ (s t : State) (q : QueueId) (ecc : EccList) (bs : List Byte),
    s.canFetch q.val = true ∧ (s.queue q.val).backoff = none ∧ (readSlot (s.queue q.val)).go (s.strike ecc) = (.ok bs, t) :=
  ⟨mem (fetching none) 0x300000 (slotImage 1 1 0 false 5 []), _, 0, [], _, by decide +kernel, by decide +kernel, go_eq _ _ (by
  decide +kernel)⟩

theorem witness_entryFetched_2 : ∃ (s s0 t : State) (q : QueueId) (now k due : Nat) (bs : List Byte),
    s0 = s.advanceTo now ∧ (s0.queue q.val).backoff = some (k, due) ∧ s0.canFetch q.val = true ∧ due ≤ s0.now ∧ (readSlot (s0.queue
    q.val)).go s0 = (.ok bs, t) :=
  ⟨mem (fetching (some (64, 20000000))) 0x300000 (slotImage 1 1 0 false 5 []), _, _, 0, 20000001, 64, 20000000, _, rfl, by
  decide +kernel, by decide +kernel, by decide +kernel, go_eq _ _ (by decide +kernel)⟩

theorem witness_entryFetched_3 : ∃ (s : State) (q : Nat) (ws : List Word) (x : Queue),
    x = s.queue q ∧ x.part = none ∧ ws.length = 16 ∧ slotsOf ((ws.getD 0 0).field 48 16) = 1 :=
  ⟨fetching none, 0, wordsOf 16 (slotImage 0x60 1 0 false 5 [3]), _, rfl, by decide +kernel, by decide +kernel, by decide +kernel⟩

theorem witness_doorbell_1 : ∃ (s : State) (q : QueueId) (v : BitVec 32) (x : Queue),
    x = s.queue q.val ∧ s.serving = true ∧ x.st ≠ .unbound ∧ (s.ctx x.ctx).st = .opened ∧ sizeOk x.ringSize = true ∧ (x.st = .stopped →
    x.dirty = true → s.ringsOk x = true) ∧ v.toNat % 65536 < x.ringSize :=
  ⟨ringing 0x500000, 0, 0x7FFF000F, _, rfl, by decide +kernel⟩

theorem witness_doorbell_2 : ∃ (x : Queue),
    (x.st = .running ∨ x.st = .idle) :=
  ⟨{ st := .idle }, by decide +kernel⟩

theorem witness_doorbell_3 : ∃ (x : Queue),
    x.st = .stopped ∧ x.dirty = false :=
  ⟨{ st := .stopped, dirty := false }, by decide +kernel, by decide +kernel⟩

theorem witness_doorbell_4 : ∃ (x : Queue),
    x.st = .stopped ∧ x.dirty = true :=
  ⟨{ st := .stopped, dirty := true }, by decide +kernel, by decide +kernel⟩

theorem witness_doorbell_5 : ∃ (s : State) (q : QueueId),
    s.serving = true ∧ (s.queue q.val).st = .running ∧ (s.queue q.val).fetch = (s.queue q.val).tail ∧ (s.queue q.val).expanding = false :=
  ⟨jobOn on (job 1 []), 0, by decide +kernel, by decide +kernel, by decide +kernel, by decide +kernel⟩

theorem witness_registerWrites_1 : ∃ (s : State),
    s.serving = true :=
  ⟨on, by decide +kernel⟩

theorem witness_registerWrites_2 : ∃ (s : State) (v : BitVec 32),
    s.serving = true ∧ (s.regs.fqTail + 2 ^ 32 - v.toNat) % 2 ^ 32 ≤ Config.fqEntries :=
  ⟨{ on with regs := { on.regs with fqTail := 1024, fqDropped := [2] } }, 0, by decide +kernel, by decide +kernel⟩

theorem witness_registerWrites_3 : ∃ (s : State) (v : Word),
    s.rootOpen (v.field 12 28 * 4096) = true :=
  ⟨on, 0xBFFFFFF000, by decide +kernel⟩

theorem witness_registerWrites_4 : ∃ (s : State) (v : Word),
    s.rootOpen (v.field 12 28 * 4096) = false :=
  ⟨on, 0xC000000000, by decide +kernel⟩

theorem witness_registerWrites_5 : ∃ (s : State),
    s.windows = true ∧ s.serving = true :=
  ⟨on, by decide +kernel, by decide +kernel⟩

theorem witness_registerWrites_6 : ∃ (s : State) (bar : Bar) (o size : Nat),
    s.windows = true ∧ o < Bar.size bar ∧ ((size ≠ 4 ∧ size ≠ 8) ∨ o % size ≠ 0) :=
  ⟨on, .control, 0x1FFFFFF, 2, by decide +kernel, by decide +kernel, by decide +kernel⟩

theorem witness_registerWrites_6_unaligned : ∃ (s : State) (bar : Bar) (o size : Nat),
    s.windows = true ∧ o < Bar.size bar ∧ ((size ≠ 4 ∧ size ≠ 8) ∨ o % size ≠ 0) :=
  ⟨on, .control, 4, 8, by decide +kernel, by decide +kernel, by decide +kernel⟩

theorem witness_recordsComplete_1 : ∃ (s s0 s1 s2 t : State) (q : QueueId) (x y : Job) (ls : Unit),
    s.serving = true ∧ s0 = s.settle ∧ (s0.queue q.val).nextRecord = some x ∧ s0.job? ⟨q.val, x.seq⟩ = some x ∧ x.opcode ≠ 0x32 ∧
    x.phase = .done ∧ s0.makeVisible ⟨q.val, x.seq⟩ x = (s1, true) ∧
    ((s1.stepSlot ⟨q.val, x.seq⟩ = none ∧ s2 = s1) ∨ ∃ i, s1.stepSlot ⟨q.val, x.seq⟩ = some i ∧ s2 = s1.deadlineCheck i) ∧
    y = s2.lastDetail ⟨q.val, x.seq⟩ x ∧
    (writeDpa (Agent.cp 2 (s2.ctxOf q.val) ⟨q.val, x.seq⟩) ((s2.queue q.val).cmp + 32 * (y.seq % (s2.queue q.val).size))
      (statusRecord y.seq y.status y.opcode y.detail y.tag y.countsWord)).go s2 = (.ok ls, t) :=
  ⟨recordable, _, _, _, _, 0, ended, _, (), by decide +kernel, rfl, by decide +kernel, by decide +kernel, by decide +kernel, by
  decide +kernel, pair_true _ (by decide +kernel), .inl ⟨by decide +kernel, rfl⟩, rfl, go_eq _ _ (by decide +kernel)⟩

def ranStep : Job := { job 0x30 [] with phase := .done, lines := [0x200000] }

/-- A step whose outputs are written and whose deadline has passed. -/
def lateEmit : State := (jobOn on ranStep).setSlot 7 fun x => { x with phase := .emit, step := some { step0 with tAdm := 1 } }

/-- The record of a step that stands in EMIT. -/
theorem witness_recordsComplete_1_step : ∃ (s s0 s1 s2 t : State) (q : QueueId) (x y : Job) (ls : Unit) (i : Nat),
    s.serving = true ∧ s0 = s.settle ∧ (s0.queue q.val).nextRecord = some x ∧ s0.job? ⟨q.val, x.seq⟩ = some x ∧ x.opcode ≠ 0x32 ∧
    x.phase = .done ∧ s0.makeVisible ⟨q.val, x.seq⟩ x = (s1, true) ∧ s1.stepSlot ⟨q.val, x.seq⟩ = some i ∧ s2 = s1.deadlineCheck i ∧
    y = s2.lastDetail ⟨q.val, x.seq⟩ x ∧
    (writeDpa (Agent.cp 2 (s2.ctxOf q.val) ⟨q.val, x.seq⟩) ((s2.queue q.val).cmp + 32 * (y.seq % (s2.queue q.val).size))
      (statusRecord y.seq y.status y.opcode y.detail y.tag y.countsWord)).go s2 = (.ok ls, t) :=
  ⟨lateEmit, _, _, _, _, 0, ranStep, _, (), 7, by decide +kernel, rfl, by decide +kernel, by decide +kernel, by decide +kernel, by
  decide +kernel, pair_true _ (by decide +kernel), by decide +kernel, rfl, rfl, go_eq _ _ (by decide +kernel)⟩

theorem witness_recordsComplete_2 : ∃ (s t : State) (q : QueueId) (x : Job),
    s.serving = true ∧ s.job? ⟨q.val, (s.queue q.val).cmpSeq + 1⟩ = some x ∧ x.phase = .written ∧ s.makeVisible ⟨q.val, (s.queue
    q.val).cmpSeq + 1⟩ x = (t, true) :=
  ⟨jobOn on { ended with phase := .written, lines := [] }, _, 0, { ended with phase := .written, lines := [] }, by decide +kernel, by
  decide +kernel, by decide +kernel, pair_true _ (by decide +kernel)⟩

theorem witness_nopCompletes_1 : ∃ (s : State) (q : QueueId) (j : Job),
    s.starts q (isOp 0x01) j :=
  ⟨jobOn on (job 1 []), 0, job 1 [], by decide +kernel⟩

theorem witness_nopCompletes_2 : ∃ (s : State) (r : JobRef) (x : Job),
    s.job? r = some x ∧ x.ended = false :=
  ⟨jobOn on (job 1 []), ⟨0, 1⟩, job 1 [], by decide +kernel, by decide +kernel⟩

theorem witness_nopCompletes_2_ended : ∃ (s : State) (r : JobRef) (x : Job),
    s.job? r = some x ∧ x.ended = true :=
  ⟨jobOn on ended, ⟨0, 1⟩, ended, by decide +kernel, by decide +kernel⟩

theorem witness_settingsStaged_1 : ∃ (s s0 : State) (q : QueueId) (j : Job),
    s.starts q (isOp 0x60) j ∧ s0 = s.begun q j ∧ fits (j.p 0) [(0, 4)] = true ∧ (j.p 0).toNat ≤ 8 :=
  ⟨jobOn on (job 0x60 [8]), _, 0, job 0x60 [8], by decide +kernel, rfl, by decide +kernel, by decide +kernel⟩

theorem witness_settingsStaged_2 : ∃ (s s0 : State) (q : QueueId) (j : Job),
    s.starts q (isOp 0x61) j ∧ s0 = s.begun q j ∧ limitsOk j = true :=
  ⟨jobOn on (job 0x61 limits), _, 0, job 0x61 limits, by decide +kernel, rfl, by decide +kernel⟩

theorem witness_settingsStaged_3 : ∃ (s s0 : State) (q : QueueId) (j : Job),
    s.starts q (isOp 0x63) j ∧ s0 = s.begun q j ∧ dimOk j = true :=
  ⟨jobOn on (job 0x63 [0x000000000000_1201, 0]), _, 0, job 0x63 [0x1201, 0], by decide +kernel, rfl, by decide +kernel⟩

theorem witness_settingsStaged_4 : ∃ (s s0 t : State) (q : QueueId) (j : Job) (bs : List Byte),
    s.takes q (isOp 0x62) j s0 ∧ oneDva j = true ∧ s0.reads (j.refOn q) (j.p 0).toNat 288 t bs ∧ portCfgOk bs = true :=
  ⟨mem (jobOn on (job 0x62 [0x200000])) 0x200000 (leBytes 8 0x00006A1600010045), _, _, 0, job 0x62 [0x200000], _, takes_start (by
  decide +kernel), by decide +kernel, reads_new (by decide +kernel), by decide +kernel⟩

theorem witness_settingsStaged_5 : ∃ (s s0 t : State) (q : QueueId) (j : Job) (bs : List Byte),
    s.takes q (isOp 0x64) j s0 ∧ oneDva j = true ∧ s0.reads (j.refOn q) (j.p 0).toNat 544 t bs :=
  ⟨jobOn on (job 0x64 [0x200000]), _, _, 0, job 0x64 [0x200000], _, takes_start (by decide +kernel), by decide +kernel, reads_new (by
  decide +kernel)⟩

theorem witness_settingsStaged_6_order : ∃ (s : State) (r : JobRef) (x : Job) (i : WaitItem),
    s.job? r = some x ∧ (∀ n, ((i, 0), n) ∈ s.sched.stagers → n ≤ x.start) :=
  ⟨jobOn on (job 0x60 [8]), ⟨0, 1⟩, job 0x60 [8], .brim, by decide +kernel, fun _ h => nomatch h⟩

theorem witness_settingsStaged_6 : ∃ (s s0 t : State) (q : QueueId) (j : Job),
    s.starts q (isOp 0x60) j ∧ s0 = s.begun q j ∧ fits (j.p 0) [(0, 4)] = true ∧ (j.p 0).toNat ≤ 8 ∧ exec (.setBrim q) s = .next t :=
  ⟨jobOn on (job 0x60 [8]), _, _, 0, job 0x60 [8], by decide +kernel, rfl, by decide +kernel, by decide +kernel, next_eq State.reset _
  (by decide +kernel)⟩

theorem witness_contextsOpenAndClose_1 : ∃ (s s0 : State) (q : QueueId) (j : Job),
    s.starts q (isOp 0x02) j ∧ s0 = s.begun q j ∧ fits (j.p 0) [(0, 6), (8, 20)] = true ∧ fits (j.p 1) [(0, 40)] = true ∧ (j.p 0).field 0
    6 ≠ 0 ∧ (j.p 1).toNat % 4096 = 0 ∧ (j.p 2).getLsbD 0 = false ∧ (s0.ctx ((j.p 0).field 0 6)).st = .closed ∧ (∀ i ∈ queuesOf (j.p 2),
    (s0.queue i).st = .unbound) :=
  ⟨jobOn on (job 2 [0x0000_0000_0FFF_FF3F, 0xBFFFFFF000, BitVec.allOnes 64 - 1]), _, 0, job 2 [0x0FFFFF3F, 0xBFFFFFF000, BitVec.allOnes
  64 - 1], by decide +kernel, rfl, by decide +kernel⟩

theorem witness_contextsOpenAndClose_2 : ∃ (s s0 : State) (q : QueueId) (j : Job) (a : State × Nat),
    s.starts q (isOp 0x03) j ∧ s0 = s.begun q j ∧ fits (j.p 0) [(0, 6)] = true ∧ (j.p 0).field 0 6 ≠ 0 ∧ (s0.ctx ((j.p 0).field 0 6)).st
    ≠ .closed ∧ a = (s0.queuesFor ((j.p 0).field 0 6)).foldl (fun a i => ((a.1.abortQueue i none).1, a.2 + (a.1.abortQueue i none).2))
    (s0, 0) :=
  ⟨(jobOn on (job 3 [63])).setCtx 63 fun y => { y with st := .opened }, _, 0, job 3 [63], _, by decide +kernel, rfl, by decide +kernel,
  by decide +kernel, by decide +kernel, rfl⟩

theorem witness_contextsOpenAndClose_3 : ∃ (s : State) (x : Job) (c i : Nat),
    c = (x.p 0).field 0 6 ∧ (∀ i ∈ s.queuesFor c, (s.queue i).writtenBelow (s.queue i).nextSeq = true) ∧ ((∀ i < 8, (s.slot i).phase =
    .free ∨ (s.slot i).ctx ≠ c)) ∧ s.errorsOf c 1 = false ∧ s.leasesOf c = [] ∧ (s.queue i).ctx = c ∧ (s.queue i).st ≠ .unbound :=
  ⟨((jobOn on (job 3 [63])).setCtx 63 fun y => { y with st := .lost }).setQueue 63 fun x => { x with ctx := 63, st := .stopped },
  job 3 [63], _, 63, rfl, by decide +kernel⟩

/-- A sequence of one entry whose word 1 is patched from 0x200008. -/
def seq0 : RecSeq := ⟨1023, 0, [wordsOf 16 (slotImage 1 1 0 false 5 [])], [(0, 1)], 0x200000⟩

/-- RUN_SEQUENCE of it, fetched on queue 0 behind another job. -/
def expanding0 : State := { (jobOn on ended).setQueue 0 fun x => { x with expand := some (job 0x32 [1023]) } with seqs := [seq0] }

theorem witness_fences_1 : ∃ (s s0 : State) (q : QueueId) (j : Job),
    s.takes q (isOp 0x40) j s0 ∧ fits (j.p 0) [(0, 8)] = true ∧ (s0.queue q.val).writtenBelow j.seq = true :=
  ⟨jobOn on (job 0x40 [255, 7]), _, 0, job 0x40 [255, 7], takes_start (by decide +kernel), by decide +kernel, by decide +kernel⟩

theorem witness_fences_3 : ∃ (s s0 : State) (q : QueueId) (j : Job),
    s.takes q (isOp 0x41) j s0 ∧ fits (j.p 0) [(0, 9), (32, 32)] = true ∧ (j.p 1).toNat ≤ s0.fence ((j.p 0).field 0 8) :=
  ⟨jobOn on (job 0x41 [0xFF, 0]), _, 0, job 0x41 [0xFF, 0], takes_start (by decide +kernel), by decide +kernel, by decide +kernel⟩

theorem witness_fences_4 : ∃ (s s0 : State) (q : QueueId) (j : Job),
    s.takes q (isOp 0x41) j s0 ∧ fits (j.p 0) [(0, 9), (32, 32)] = true ∧ s0.fence ((j.p 0).field 0 8) < (j.p 1).toNat :=
  ⟨jobOn on (job 0x41 [0xFF, 1]), _, 0, job 0x41 [0xFF, 1], takes_start (by decide +kernel), by decide +kernel, by decide +kernel⟩

theorem witness_fences_5 : ∃ (s s0 : State) (q : QueueId) (now : Nat) (x : Job),
    s0 = s.advanceTo now ∧ s0.alive = true ∧ s0.waitingJob q.val (isOp 0x41) = some x ∧ (x.p 0).field 32 32 ≠ 0 ∧ x.since + 100 * (x.p
    0).field 32 32 ≤ s0.now :=
  ⟨jobOn on { job 0x41 [0x0000_0001_0000_0100, 1] with phase := .running, since := 20000000 }, _, 0, 20000100,
  { job 0x41 [0x0000_0001_0000_0100, 1] with phase := .running, since := 20000000 }, rfl, by decide +kernel, by decide +kernel, by
  decide +kernel, by decide +kernel⟩

theorem witness_abortQueueStops_1 : ∃ (s s0 t t1 : State) (q : QueueId) (j x : Job) (n : Nat),
    s.starts q (isOp 0x7F) j ∧ s0 = s.begun q j ∧ fits (j.p 0) [(0, 6)] = true ∧ (q.val = 0 ∨ (s0.ctxOf ((j.p 0).field 0 6) = s0.ctxOf
    q.val ∧ (s0.queue ((j.p 0).field 0 6)).st ≠ .unbound)) ∧ s0.abortQueue ((j.p 0).field 0 6) (if (j.p 0).field 0 6 = q.val then some
    j.seq else none) = (t, n) ∧ t1 = t.setJob (j.refOn q) (fun x =>
    { x with aux := [(j.p 0).field 0 6, n, if (j.p 0).field 0 6 = q.val then j.seq else (t.queue ((j.p 0).field 0 6)).nextSeq] }) ∧
    t1.job? (j.refOn q) = some x :=
  ⟨jobOn on (job 0x7F [0]), _, _, _, 0, job 0x7F [0], _, _, by decide +kernel, rfl, by decide +kernel, by decide +kernel, pair_eq _, rfl,
  some_eq (by decide +kernel)⟩

theorem witness_abortQueueStops_2 : ∃ (s : State) (q : QueueId) (x : Job),
    s.serving = true ∧ s.startJob q.val (isOp 0x7F) = none ∧ s.waitingJob q.val (isOp 0x7F) = some x ∧ (s.queue (x.aux.getD 0
    0)).writtenBelow (x.aux.getD 2 0) = true :=
  ⟨jobOn on aborting, 0, aborting, by decide +kernel, by decide +kernel, by decide +kernel, by decide +kernel⟩

theorem witness_abortQueueStops_3 : ∃ (s t : State) (q n : Nat) (self : Option Nat),
    s.abortQueue q self = (t, n) :=
  ⟨jobOn on (job 1 []), _, 0, _, none, pair_eq _⟩

theorem witness_abortQueueStops_4 : ∃ (s s0 t1 t2 : State) (q : QueueId) (j : Job) (body list : List Byte) (ps : List (Nat × Nat)),
    s.takes q (isOp 0x31) j s0 ∧ seqOk j = true ∧ s0.reads (j.refOn q) (j.p 1).toNat (128 * (j.p 0).field 16 13) t1 body ∧ (((j.p
    0).field 32 13 = 0 ∧ t2 = t1 ∧ list = []) ∨ ((j.p 0).field 32 13 ≠ 0 ∧ t1.reads (j.refOn q) (j.p 2).toNat (4 * (j.p 0).field 32 13)
    t2 list)) ∧ ((List.range ((j.p 0).field 32 13)).mapM fun i => patchAt ((j.p 0).field 16 13) (leNat ((list.drop (4 * i)).take 4))) =
    some ps ∧ (∀ i < (j.p 0).field 16 13, bodyEntryOk (t2.ctxOf q.val) (wordsOf 16 (body.drop (128 * i))) = true) ∧ ((∀ r ∈ t2.seqs, r.id
    = (j.p 0).field 0 10 → r.ctx = t2.ctxOf q.val)) ∧ t2.patchCount ((j.p 0).field 0 10) + (j.p 0).field 32 13 ≤ 65536 :=
  ⟨mem (jobOn on (job 0x31 [0x0001_0001_0000, 0x200000, 0x200400])) 0x200000 (slotImage 1 1 0 false 5 [] ++ List.replicate 896 0 ++ [0,
  0x10]), _, _, _, 0, job 0x31 [0x0001_0001_0000, 0x200000, 0x200400], _, _, _, takes_start (by decide +kernel), by decide +kernel,
  reads_new (by decide +kernel), (Or.inr ⟨by decide +kernel, reads_new (by decide +kernel)⟩), rfl, by decide +kernel, by decide +kernel, by
  decide +kernel⟩

theorem witness_abortQueueStops_5 : ∃ (s : State) (q : QueueId),
    s.serving = true ∧ (s.queue q.val).st = .running ∧ (s.ctx (s.ctxOf q.val)).st = .opened ∧ s.errorsOf (s.ctxOf q.val) 2 = false ∧
    (s.queue q.val).expand = none :=
  ⟨expanding0.expandNow 0, 0, by decide +kernel⟩

theorem witness_abortQueueStops_5_none : ∃ (s : State) (q : QueueId) (own : Job),
    s.serving = true ∧ (s.queue q.val).st = .running ∧ (s.ctx (s.ctxOf q.val)).st = .opened ∧ s.errorsOf (s.ctxOf q.val) 2 = false ∧
    (s.queue q.val).expand = some own ∧ s.seqOf (s.ctxOf q.val) own = none :=
  ⟨{ expanding0 with seqs := [] }, 0, job 0x32 [1023], by decide +kernel⟩

theorem witness_abortQueueStops_5_held : ∃ (s : State) (q : QueueId) (own : Job) (r : RecSeq),
    s.serving = true ∧ (s.queue q.val).st = .running ∧ (s.ctx (s.ctxOf q.val)).st = .opened ∧ s.errorsOf (s.ctxOf q.val) 2 = false ∧
    (s.queue q.val).expand = some own ∧ s.seqOf (s.ctxOf q.val) own = some r :=
  ⟨expanding0, 0, job 0x32 [1023], seq0, by decide +kernel⟩

theorem witness_abortQueueStops_6 : ∃ (s : State) (q : Nat) (own : Job) (r : RecSeq) (x : Queue),
    x = s.queue q ∧ x.expand = some own ∧ s.seqOf x.ctx own = some r :=
  ⟨expanding0, 0, job 0x32 [1023], seq0, _, rfl, by decide +kernel, by decide +kernel⟩

theorem witness_abortQueueStops_7 : ∃ (s t : State) (q : Nat) (j : Job) (ws ws' : List Word) (slots : List (Nat × Nat)),
    s.errorsOf (s.ctxOf q) 2 = false ∧ (s.queue q).nextEntry = some (j, ws, slots) ∧ (patched (fetchAgent (s.ctxOf q)) ws slots).go s =
    (.ok ws', t) :=
  ⟨expanding0.expandNow 0, _, 0, ((expanding0.expandNow 0).job? ⟨0, 2⟩).getD ended, wordsOf 16 (slotImage 1 1 0 false 5 []), _,
  [(1, 0x200008)], by decide +kernel, by decide +kernel, go_eq _ _ (by decide +kernel)⟩

theorem witness_modelsLoadAndUnload_1 : ∃ (s s0 : State) (q : QueueId) (j : Job),
    s.takes q (isOp 0x11) j s0 ∧ s0.model.res ≠ none ∧ s0.allClosed = true :=
  ⟨withModel (jobOn on (job 0x11 [])), _, 0, job 0x11 [], takes_start (by decide +kernel), by decide +kernel, by decide +kernel⟩

theorem witness_modelsLoadAndUnload_2 : ∃ (s s0 : State) (q : QueueId) (j : Job),
    s.takes q (isOp 0x11) j s0 ∧ s0.model.res = none :=
  ⟨jobOn on (job 0x11 []), _, 0, job 0x11 [], takes_start (by decide +kernel), by decide +kernel⟩

theorem witness_modelsLoadAndUnload_3 : ∃ (s s0 : State) (q : QueueId) (j : Job),
    s.takes q (isOp 0x11) j s0 ∧ s0.model.res ≠ none ∧ s0.allClosed = false :=
  ⟨(withModel (jobOn on (job 0x11 []))).setCtx 63 fun y => { y with st := .lost }, _, 0, job 0x11 [], takes_start (by decide +kernel), by
  decide +kernel, by decide +kernel⟩

theorem witness_modelsLoadAndUnload_5 : ∃ (s s0 b u t1 t2 : State) (q : QueueId) (j : Job) (bs : List Byte) (r : Resident) (sets : List
  (Nat × List Byte)),
    s.takes q (isOp 0x10) j s0 ∧ loadOk j = true ∧ (s0.model.res = none ∨ s0.allClosed = true) ∧ b = (if s0.pkg.draining = true then
    s0.setDrain false else s0) ∧ u = (if b.model.res = none then b else b.unload) ∧
    ({ u with pkg := { u.pkg with loading := true } }).given (j.refOn q) (j.p 0) (j.p 1).toNat none t1 bs ∧ t1.stores (j.refOn q) (j.p
    2).toNat bs none t2 ∧ readContainer bs (j.p 2).toNat (j.p 3).toNat = some (r, sets) :=
  ⟨mem (jobOn on (job 0x10 [0x200000, 272, 0x201000, 0])) 0x200000 container, _, _, _, _, _, 0, job 0x10 [0x200000, 272, 0x201000, 0], _,
  _, _, takes_start (by decide +kernel), by decide +kernel, by decide +kernel, rfl, rfl, given_dev (by decide +kernel) (by
  decide +kernel) (by decide +kernel), stores_ok (by decide +kernel), pairOf_eq (by decide +kernel)⟩

theorem witness_modelsLoadAndUnload_5_set : ∃ (s t : State) (r0 : JobRef) (r : Resident) (k : Nat) (b : List Byte),
    s.stores r0 (r.slotDva k) b none t :=
  ⟨withModel (jobOn on (job 0x10 [])), _, ⟨0, 1⟩, model0, 1, [1, 2], stores_ok (by decide +kernel)⟩

theorem witness_modelsLoadAndUnload_7 : ∃ (s s0 : State) (q : QueueId) (j : Job) (r : Resident),
    s.starts q (isOp 0x12) j ∧ s0 = s.begun q j ∧ s0.model.res = some r ∧ fits (j.p 0) [(0, 4)] = true ∧ (j.p 0).toNat < r.setSlots ∧ j.p
    1 = 0 ∧ j.p 2 = 0 :=
  ⟨withModel (jobOn on (job 0x12 [1, 0, 0])), _, 0, job 0x12 [1, 0, 0], model0, by decide +kernel, rfl, by decide +kernel⟩

theorem witness_modelsLoadAndUnload_8 : ∃ (s s0 t1 t2 : State) (q : QueueId) (j : Job) (r : Resident) (bs : List Byte),
    s.starts q (isOp 0x12) j ∧ s0 = s.begun q j ∧ s0.model.res = some r ∧ fits (j.p 0) [(0, 4)] = true ∧ (j.p 0).toNat < r.setSlots ∧ j.p
    1 ≠ 0 ∧ addrOk (j.p 1) = true ∧ fits (j.p 2) [(0, 40)] = true ∧ (j.p 2).toNat ≤ r.setBytes ∧ s0.setBusy (j.p 0).toNat = false ∧
    s0.given (j.refOn q) (j.p 1) (j.p 2).toNat none t1 bs ∧ t1.setBusy (j.p 0).toNat = false ∧
    t1.stores (j.refOn q) (r.slotDva (j.p 0).toNat) bs none t2 :=
  ⟨mem (withModel (jobOn on (job 0x12 [1, 0x200000, 64]))) 0x200000 [1, 2, 3], _, _, _, 0, job 0x12 [1, 0x200000, 64], model0, _, by
  decide +kernel, rfl, by decide +kernel, by decide +kernel, by decide +kernel, by decide +kernel, by decide +kernel, by decide +kernel,
  by decide +kernel, by decide +kernel, given_dev (by decide +kernel) (by decide +kernel) (by decide +kernel), by decide +kernel,
  stores_ok (by decide +kernel)⟩

theorem witness_tablesDefined_1 : ∃ (s s0 t : State) (q : QueueId) (j : Job) (bs : List Byte) (d : Desc),
    s.takes q (isOp 0x20) j s0 ∧ oneDva j = true ∧ s0.model.res ≠ none ∧ s0.reads (j.refOn q) (j.p 0).toNat 96
    t bs ∧ descAt bs = some d ∧ d.ok = true ∧ t.descBad bs d = none ∧ d.defaultZero = true :=
  ⟨mem (withModel (jobOn on (job 0x20 [0x200000]))) 0x200000 (descBytes desc0), _, _, 0, job 0x20 [0x200000], _, desc0, takes_start (by
  decide +kernel), by decide +kernel, by decide +kernel, reads_new (by decide +kernel), by decide +kernel, by decide +kernel, by
  decide +kernel, by decide +kernel⟩

theorem witness_tablesDefined_1_row : ∃ (s s0 t : State) (q : QueueId) (j : Job) (bs : List Byte) (d : Desc) (t2 : State) (row : List
  Byte),
    s.takes q (isOp 0x20) j s0 ∧ oneDva j = true ∧ s0.model.res ≠ none ∧ s0.reads (j.refOn q) (j.p 0).toNat 96
    t bs ∧ descAt bs = some d ∧ d.ok = true ∧ t.descBad bs d = none ∧ d.defaultZero = false ∧
    t.reads (j.refOn q) d.defaultDva (2 * d.dim) t2 row :=
  ⟨mem (withModel (jobOn on (job 0x20 [0x200000]))) 0x200000 (descBytes { desc0 with defaultZero := false }), _, _, 0, job 0x20
  [0x200000], _, { desc0 with defaultZero := false }, _, _, takes_start (by decide +kernel), by decide +kernel, by decide +kernel,
  reads_new (by decide +kernel), by decide +kernel, by decide +kernel, by decide +kernel, by decide +kernel, reads_new (by
  decide +kernel)⟩

theorem witness_tablesDefined_2 : ∃ (s : State) (d : Desc),
    (∀ u ∈ s.tabs.tables, u.desc.id ≠ d.id) :=
  ⟨withTable on, { desc0 with id := 0 }, by decide +kernel⟩

theorem witness_tablesDefined_3 : ∃ (s s0 t1 t2 : State) (q : QueueId) (j : Job) (h : List Byte) (l : List MapSection),
    s.takes q (isOp 0x21) j s0 ∧ oneDva j = true ∧ s0.model.res ≠ none ∧ s0.reads (j.refOn q) (j.p 0).toNat 32 t1 h ∧ 1 ≤ fieldAt h 0 0
    32 ∧ fieldAt h 0 0 32 ≤ 4096 ∧ (readSections (Agent.struct (t1.ctxOf q.val) (j.refOn q)) (j.p 0).toNat (fieldAt h 0 0 32) 32).go t1 =
    (.ok (some l), t2) ∧ wordAt h 2 = (l.map (·.shards.length)).sum ∧ distinct (l.map (·.table)) = true :=
  ⟨mem (mem (withTable (jobOn on (job 0x21 [0x200000])) { table0 with desc := desc1 }) 0x200000 (words [1, 77, 2, 0, 0x1_0FFF, 0]))
  0x200030 (words [0x0000_0000_4045, 0x00FF_0045_C0C5]), _, _, _, 0, job 0x21 [0x200000], _, _, takes_start (by decide +kernel), by
  decide +kernel, by decide +kernel, reads_new (by decide +kernel), by decide +kernel, by decide +kernel, eq_some_some (by
  decide +kernel) (by decide +kernel), by decide +kernel, by decide +kernel⟩

theorem witness_tablesDefined_4 : ∃ (s s0 t1 t2 t3 t4 : State) (q : QueueId) (j : Job) (t : Table) (v : Version) (shadow : Bool) (rows
  side region : Nat) (bs : List Byte),
    s.takes q (isOp 0x22) j s0 ∧ s0.fillBad j = false ∧ fillOk j = true ∧ s0.model.res ≠ none ∧ s0.table? (tableOf j) = some t ∧
    t.desc.kind ≠ .composed ∧ t.fillVersion ((j.p 0).field 32 32) = some (v, shadow) ∧ (j.p 1).field 0 16 < t.desc.shards ∧ (j.p 1).field
    16 24 < ceilDiv t.desc.shardRows 65536 ∧ (fillBlock (Agent.dma (s0.ctxOf q.val) (j.refOn q)) v ((j.p 1).field 0 16) ((j.p 1).field 16
    24)).go s0 = (.ok (some (rows, side, region)), t1) ∧ (shadow = true → t1.regions[ix 8 region].shadeLive ≠ 0) ∧ (t1.waited (Agent.dma
    (s0.ctxOf q.val) (j.refOn q))).given (j.refOn q) (j.p 2) ((j.p 3).field 16 17 * t.desc.stride + 2 * (j.p 4).field 32 32) none t2 bs ∧
    t2.stores (j.refOn q) (rows + (j.p 3).field 0 16 * t.desc.stride) (bs.take ((j.p 3).field 16 17 * t.desc.stride)) none t3 ∧ t3.stores
    (j.refOn q) (side + 2 * (j.p 4).field 0 32) (bs.drop ((j.p 3).field 16 17 * t.desc.stride)) none t4 :=
  ⟨mem (stored (jobOn on (job 0x22 fill))) 0x200000 (List.replicate 40 9), _, _, _, _, _, 0, job 0x22 fill, table0, table0.lit, false, _,
  _, _, _, takes_start (by decide +kernel), by decide +kernel, by decide +kernel, by decide +kernel, by decide +kernel, by
  decide +kernel, by decide +kernel, by decide +kernel, by decide +kernel, fill_eq (by decide +kernel) (by decide +kernel), (fun h =>
  nomatch h), given_dev (by decide +kernel) (by decide +kernel) (by decide +kernel), stores_ok (by decide +kernel), stores_ok (by
  decide +kernel)⟩

theorem witness_tablesDefined_5 : ∃ (s s0 t : State) (q : QueueId) (j : Job) (r : ReflSet),
    s.takes q (isOp 0x26) j s0 ∧ oneDva j = true ∧ s0.model.res ≠ none ∧ (readSet (Agent.struct (s0.ctxOf q.val) (j.refOn q)) (j.p
    0).toNat).go s0 = (.ok r, t) :=
  ⟨withModel (jobOn on (job 0x26 [0x200000])), _, _, 0, job 0x26 [0x200000], _, takes_start (by decide +kernel), by decide +kernel, by
  decide +kernel, @go_eq _ ⟨⟨0, [], [], []⟩⟩ _ _ (by decide +kernel)⟩

theorem witness_versionsShadowAndSwap_1 : ∃ (s s0 t1 : State) (q : QueueId) (j : Job) (t : Table) (ks : List Kept),
    s.takes q (isOp 0x23) j s0 ∧ shadowOk j = true ∧ s0.model.res ≠ none ∧ s0.table? (tableOf j) = some t ∧ t.desc.kind ≠ .composed ∧
    t.shadow = none ∧ t.highest < (j.p 0).field 32 32 ∧ s0.upd.lastApplied ≤ (j.p 2).field 0 32 ∧ (joinShadow t
    { num := (j.p 0).field 32 32, dir := (j.p 1).toNat } ((j.p 2).field 0 32) s0.upd.recs).go s0 = (.ok ks, t1) :=
  ⟨stored (jobOn on (job 0x23 [0x0000_0002_0000_0FFF, 0x20A000, 0])), _, _, 0, job 0x23 [0x0000_0002_0000_0FFF, 0x20A000, 0], table0, _,
  takes_start (by decide +kernel), by decide +kernel, by decide +kernel, by decide +kernel, by decide +kernel, by decide +kernel, by
  decide +kernel, by decide +kernel, go_eq _ _ (by decide +kernel)⟩

theorem witness_versionsShadowAndSwap_2 : ∃ (s s0 : State) (q : QueueId) (j : Job) (t : Table),
    s.starts q (isOp 0x24) j ∧ s0 = s.begun q j ∧ oneTable j = true ∧ s0.model.res ≠ none ∧ s0.table? (tableOf j) = some t ∧ t.swap =
    .none ∧ t.shadow ≠ none ∧ (t.retired = none ∨ t.releaseStaged = true) :=
  ⟨withTable (jobOn on (job 0x24 [0xFFF])) shadowed, _, 0, job 0x24 [0xFFF], shadowed, by decide +kernel, rfl, by decide +kernel⟩

theorem witness_versionsShadowAndSwap_3 : ∃ (s t1 : State) (table : Nat) (t : Table) (r : JobRef) (x : Shadow),
    s.table? table = some t ∧ t.swap = .waiting r ∧ t.shadow = some x ∧ s.serving = true ∧ s.filling table x.ver.num (((s.job? r).map
    (·.start)).getD 0) = false ∧ (catchUp (s.catchUpds t x)).go s = (.ok true, t1) :=
  ⟨stored (jobOn on { job 0x24 [0xFFF] with phase := .running }) { shadowed with swap := .waiting ⟨0, 1⟩ }, _, 0xFFF,
  { shadowed with swap := .waiting ⟨0, 1⟩ }, ⟨0, 1⟩, ⟨⟨2, 0x20A000, []⟩, 0, false⟩, by decide +kernel, by decide +kernel, by
  decide +kernel, by decide +kernel, by decide +kernel, go_val (by decide +kernel) (by decide +kernel)⟩

theorem witness_versionsShadowAndSwap_4 : ∃ (s s0 : State) (q : QueueId) (j : Job) (t : Table),
    s.starts q (isOp 0x25) j ∧ s0 = s.begun q j ∧ oneTable j = true ∧ s0.model.res ≠ none ∧ s0.table? (tableOf j) = some t ∧ t.retired ≠
    none ∧ t.releaseStaged = false :=
  ⟨withTable (jobOn on (job 0x25 [0xFFF])) { table0 with retired := some ⟨1, 0x20A000, []⟩ }, _, 0, job 0x25 [0xFFF],
  { table0 with retired := some ⟨1, 0x20A000, []⟩ }, by decide +kernel, rfl, by decide +kernel⟩

theorem witness_updatesAndEpochs_1 : ∃ (s s0 t : State) (q : QueueId) (j : Job) (bs : List Byte),
    s.starts q (isOp 0x38) j ∧ s0 = s.begun q j ∧ addrOk (j.p 0) = true ∧ fits (j.p 1) [(0, 40)] = true ∧ s0.model.res ≠ none ∧ s0.device
    ≠ none ∧ j.aux = [] ∧ s0.given (j.refOn q) (j.p 0) (j.p 1).toNat none t bs :=
  ⟨netted (withModel (jobOn on (job 0x38 [0x200000, 16]))), _, _, 0, job 0x38 [0x200000, 16], _, by decide +kernel, rfl, by
  decide +kernel, by decide +kernel, by decide +kernel, by decide +kernel, by decide +kernel, given_dev (by decide +kernel) (by
  decide +kernel) (by decide +kernel)⟩

theorem witness_updatesAndEpochs_2 : ∃ (s : State) (r : JobRef) (x : Job) (me : Nat) (bs : List Byte) (t : State) (i : Intake),
    s.job? r = some x ∧ s.device = some me ∧ s.intake me x.start bs
    { pos := x.aux.getD 0 0, taken := x.aux.getD 1 0, after := x.aux.getD 2 0, held := x.aux.getD 3 0 == 1 } (bs.length + 1) = (t, i) ∧
    i.finished = true :=
  ⟨netted (withModel (jobOn on { job 0x38 [0x200000, 0] with phase := .running })), ⟨0, 1⟩,
  { job 0x38 [0x200000, 0] with phase := .running }, 69, List.replicate 16 0, _, _, by decide +kernel, by decide +kernel, pair_eq _, by
  decide +kernel⟩

theorem witness_updatesAndEpochs_3 : ∃ (s s0 t1 t2 : State) (q : QueueId) (j : Job) (h bs : List Byte),
    s.takes q (closeMine 0) j s0 ∧ closeOk j = true ∧ s0.model.res ≠ none ∧ s0.reads (j.refOn q) (j.p
    1).toNat 16 t1 h ∧ t1.reads (j.refOn q) (j.p 1).toNat (declBytes (fieldAt h 1 0 15) (fieldAt h 1 32 15)) t2 bs ∧ (declEpoch bs).num =
    epochOf j ∧ t2.upd.lastApplied ≠ 0xFFFFFFFF ∧ t2.upd.epochs.length < 255 :=
  ⟨mem (withModel (jobOn on (job 0x39 [0x0000_0001_0000_0000, 0x200000]))) 0x200000 (words [1, 0x0000_0001_0000_0001, 0x0045_0045]), _,
  _, _, 0, job 0x39 [0x0000_0001_0000_0000, 0x200000], _, _, takes_start (by decide +kernel), by decide +kernel, by
  decide +kernel, reads_new (by decide +kernel), reads_new (by decide +kernel), by decide +kernel, by decide +kernel, by decide +kernel⟩

/-- Epoch 1 is declared a second time. -/
theorem witness_updatesAndEpochs_3_again : ∃ (s s0 t1 t2 : State) (q : QueueId) (j : Job) (h bs : List Byte),
    s.takes q (closeMine 0) j s0 ∧ closeOk j = true ∧ s0.model.res ≠ none ∧ s0.reads (j.refOn q) (j.p
    1).toNat 16 t1 h ∧ t1.reads (j.refOn q) (j.p 1).toNat (declBytes (fieldAt h 1 0 15) (fieldAt h 1 32 15)) t2 bs ∧ (declEpoch bs).num =
    epochOf j ∧ t2.upd.lastApplied ≠ 0xFFFFFFFF ∧ t2.upd.epochs.length < 255 ∧
    ¬(t2.declared (epochOf j) = none ∧ t2.upd.lastApplied < epochOf j) :=
  ⟨mem (declared1 (jobOn on (job 0x39 [0x0000_0001_0000_0000, 0x200000]))) 0x200000 (words [1, 0x0000_0001_0000_0001, 0x0045_0045]), _,
  _, _, 0, job 0x39 [0x0000_0001_0000_0000, 0x200000], _, _, takes_start (by decide +kernel), by decide +kernel, by
  decide +kernel, reads_new (by decide +kernel), reads_new (by decide +kernel), by decide +kernel, by decide +kernel, by decide +kernel,
  by decide +kernel⟩

theorem witness_updatesAndEpochs_4 : ∃ (s s0 : State) (q : QueueId) (j : Job) (e : Epoch) (me : Nat),
    s.starts q (closeMine 1) j ∧ s0 = s.begun q j ∧ closeOk j = true ∧ s0.model.res ≠ none ∧ s0.declared (epochOf j) = some e ∧ s0.device
    = some me ∧ j.data = [] ∧ s0.routing (s0.sched.nextStart - 1) = false :=
  ⟨declared1 (jobOn on (job 0x39 [0x0000_0001_0000_0001])), _, 0, job 0x39 [0x0000_0001_0000_0001], epoch1, 69, by decide +kernel, rfl,
  by decide +kernel⟩

theorem witness_updatesAndEpochs_5 : ∃ (s s0 : State) (q : QueueId) (j : Job) (e : Epoch),
    s.starts q (closeMine 2) j ∧ s0 = s.begun q j ∧ closeOk j = true ∧ s0.model.res ≠ none ∧ s0.declared (epochOf j) = some e ∧ e.forced
    = false :=
  ⟨declared1 (jobOn on (job 0x39 [0x0000_0001_0000_0002])), _, 0, job 0x39 [0x0000_0001_0000_0002], epoch1, by decide +kernel, rfl, by
  decide +kernel, by decide +kernel, by decide +kernel, by decide +kernel⟩

theorem witness_updatesAndEpochs_6 : ∃ (s s0 : State) (q : QueueId) (j : Job),
    s.starts q (closeMine 3) j ∧ s0 = s.begun q j ∧ closeOk j = true ∧ s0.model.res ≠ none :=
  ⟨declared1 (jobOn on (job 0x39 [0x0000_0001_0000_0003])), _, 0, job 0x39 [0x0000_0001_0000_0003], by decide +kernel, rfl, by
  decide +kernel, by decide +kernel⟩

theorem witness_copiesComplete_1 : ∃ (s sx s0 t : State) (q : QueueId) (j : Job) (hint : Option Hint) (rel : Bool) (ag : Agent),
    sx = (if s.copyBad q.val = true then s.upset (s.ctxOf q.val) else s) ∧ sx.takes q (isOp 0x50) j s0 ∧ copyOk j = true ∧ copyHint j =
    some (hint, rel) ∧ j.aux ≠ [1] ∧ (j.p 0).getLsbD 63 = false ∧ (j.p 1).getLsbD 63 = false ∧
    ag = Agent.dma (s0.ctxOf q.val) (j.refOn q) ∧
    (copyWithin ag ((j.p 0).field 0 48) ((j.p 1).field 0 48) (copyLen j) hint).go s0 = (.ok (), t) :=
  ⟨mem (jobOn on (job 0x50 [0x200000, 0x201FFF, 0x0000_0000_0000_0041])) 0x200000 [1], _, _, _, 0, job 0x50 [0x200000, 0x201FFF, 0x41],
  none, false, _, rfl, takes_start (by decide +kernel), by decide +kernel, by decide +kernel, by decide +kernel, by decide +kernel,
  by decide +kernel, rfl, go_unit (by decide +kernel)⟩

theorem witness_copiesComplete_1_overlap : ∃ (s sx s0 t : State) (q : QueueId) (j : Job) (hint : Option Hint) (rel : Bool) (ag : Agent),
    s.copyBad q.val = true ∧ sx = (if s.copyBad q.val = true then s.upset (s.ctxOf q.val) else s) ∧ sx.takes q (isOp 0x50) j s0 ∧ copyOk
    j = true ∧ copyHint j = some (hint, rel) ∧ j.aux ≠ [1] ∧ (j.p 0).getLsbD 63 = false ∧ (j.p 1).getLsbD 63 = false ∧
    ag = Agent.dma (s0.ctxOf q.val) (j.refOn q) ∧
    (copyWithin ag ((j.p 0).field 0 48) ((j.p 1).field 0 48) (copyLen j) hint).go s0 = (.ok (), t) :=
  ⟨mem (jobOn on (job 0x50 [0x200000, 0x200040, 0x0000_0000_0000_0041])) 0x200000 [1], _, _, _, 0, job 0x50 [0x200000, 0x200040, 0x41],
  none, false, _, by decide +kernel, rfl, takes_start (by decide +kernel), by decide +kernel, by decide +kernel, by decide +kernel,
  by decide +kernel, by decide +kernel, rfl, go_unit (by decide +kernel)⟩

theorem witness_copiesComplete_2_piece : ∃ (s t1 t2 : State) (ag : Agent) (a n dst : Nat) (hint : Option Hint) (bs : List Byte) (ls : List Nat),
    (readDva ag a n hint).go s = (.ok bs, t1) ∧ (writeDva ag dst bs hint).go t1 = (.ok ls, t2) :=
  ⟨mem on 0x200000 [1], _, _, Agent.dma 0 ⟨0, 1⟩, 0x200000, 65, 0x201FFF, none, _, _, go_eq _ _ (by decide +kernel), go_eq _ _ (by
  decide +kernel)⟩

/-- The second line of the source is poisoned. -/
theorem witness_copiesComplete_3_fault : ∃ (s t1 t2 : State) (ag : Agent) (a n dst : Nat) (hint : Option Hint) (x : AccFail) (ls : List Nat),
    (readDva ag a n hint).go s = (.error x, t1) ∧ x ≠ .hold ∧ (∀ l i, x ≠ .snoop l i) ∧ (∀ l i p d g bs, x ≠ .page l i p d g bs) ∧
    (writeDva ag dst (readSound ag a t1 (lineParts a n)).1 hint).go t1 = (.ok ls, t2) :=
  ⟨{ mem on 0x200000 [1] with hbm := { (mem on 0x200000 [1]).hbm with poison := [0x8004] } }, _, _, Agent.dma 0 ⟨0, 1⟩, 0x200000, 512,
  0x210000, none, .poison 0x200100 false 0, _, fail_eq _ _ _ (by decide +kernel), by decide +kernel, (fun _ _ h => nomatch h),
  (fun _ _ _ _ _ _ h => nomatch h), go_eq _ _ (by decide +kernel)⟩

theorem witness_copiesComplete_4 : ∃ (s sx s0 t1 t2 : State) (q : QueueId) (j : Job) (hint : Option Hint) (rel : Bool) (bs : List Byte),
    sx = (if s.copyBad q.val = true then s.upset (s.ctxOf q.val) else s) ∧ sx.takes q (isOp 0x50) j s0 ∧ copyOk j = true ∧ copyHint j =
    some (hint, rel) ∧ j.aux ≠ [1] ∧ (j.p 0).getLsbD 63 = true ∧ (j.p 1).getLsbD 63 = false ∧ s0.given (j.refOn q) (j.p 0) (copyLen j)
    hint t1 bs ∧ t1.stores (j.refOn q) ((j.p 1).field 0 48) bs hint t2 :=
  ⟨jobOn on copyIn, _, _, _, _, 0, copyIn, none, false, _, rfl, ⟨by decide +kernel, .inr ⟨by decide +kernel, by
  decide +kernel, rfl⟩⟩, by decide +kernel, by decide +kernel, by decide +kernel, by decide +kernel, by decide +kernel,
  .inr (.inr (.inr ⟨by decide +kernel, by decide +kernel, rfl, _, bulk_eq (by decide +kernel), by decide +kernel, rfl⟩)), stores_ok (by
  decide +kernel)⟩

theorem witness_copiesComplete_5 : ∃ (s sx s0 : State) (q : QueueId) (j : Job) (hint : Option Hint) (rel : Bool) (b : Bulk),
    sx = (if s.copyBad q.val = true then s.upset (s.ctxOf q.val) else s) ∧ sx.takes q (isOp 0x50) j s0 ∧ copyOk j = true ∧ copyHint j =
    some (hint, rel) ∧ j.aux = [1] ∧ (s0.job? (j.refOn q)).bind (·.bulk) = some b ∧ b.finished = true :=
  ⟨jobOn on { copyIn with aux := [1] }, _, _, 0, { copyIn with aux := [1] }, none, false, doneBulk, rfl, ⟨by decide +kernel,
  .inr ⟨by decide +kernel, by decide +kernel, rfl⟩⟩, by decide +kernel⟩

theorem witness_leaseJobs_1 : ∃ (s s0 z : State) (q : QueueId) (j : Job) (id base size : Nat),
    s.takes q (isOp 0x58) j s0 ∧ lendOk j = true ∧ base = (j.p 0).toNat ∧ size = (j.p 1).field 0 10 * 2 ^ 30 ∧ s.badLend base size =
    false ∧ (List.range 64).find? (fun i => (s0.lentBy i).isNone) = some id ∧ s0.cxl.heldIn base size = [] ∧ z = s0.zeroRange base
    size :=
  ⟨jobOn on (job 0x58 [0x4000_0000, 0x0045_0001]), _, _, 0, job 0x58 [0x40000000, 0x00450001], 0, _, _, takes_start (by decide +kernel),
  by decide +kernel, rfl, rfl, by decide +kernel, by decide +kernel, by decide +kernel, rfl⟩

theorem witness_leaseJobs_1_held : ∃ (s s0 : State) (q : QueueId) (j : Job) (id base size : Nat),
    s.takes q (isOp 0x58) j s0 ∧ lendOk j = true ∧ base = (j.p 0).toNat ∧ size = (j.p 1).field 0 10 * 2 ^ 30 ∧ s.badLend base size =
    false ∧ (List.range 64).find? (fun i => (s0.lentBy i).isNone) = some id ∧ s0.cxl.heldIn base size ≠ [] :=
  ⟨{ jobOn on (job 0x58 [0x4000_0000, 0x0045_0001]) with cxl := { on.cxl with filter := [⟨0x7FFFFFC0, true⟩] } }, _, 0,
  job 0x58 [0x40000000, 0x00450001], 0, _, _, takes_start (by decide +kernel), by decide +kernel, rfl, rfl, by decide +kernel, by
  decide +kernel, by decide +kernel⟩

theorem witness_leaseJobs_2_zero : ∃ (s : State) (base size : Nat),
    s.memOk ∧ base % 256 = 0 ∧ size % 256 = 0 :=
  ⟨mem (lineOn on 0x3F) 0x4000 [9], 0x3F00, 0x200, (show memWf _ = true by decide +kernel), by decide +kernel, by decide +kernel⟩

theorem witness_leaseJobs_2 : ∃ (h : Hbm),
    memWf h.mem = true :=
  ⟨{ mem := [(5, 1)] }, by decide +kernel⟩

theorem witness_leaseJobs_3 : ∃ (s s0 : State) (q : QueueId) (j : Job),
    s.starts q (isOp 0x59) j ∧ s0 = s.begun q j ∧ fits (j.p 0) [(0, 14), (16, 6), (32, 6)] = true ∧ fits (j.p 1) [(0, 48)] = true ∧ (j.p
    1).toNat % 2 ^ 21 = 0 ∧ (j.p 0).field 32 6 ≠ 0 ∧ s0.model.res ≠ none ∧ (s0.ctx ((j.p 0).field 32 6)).st = .opened ∧
    s0.tiers.borrowed.length + s0.claims < 64 :=
  ⟨(withModel (jobOn on (job 0x59 [0x003F_003F_0045, 0x4000_0000]))).setCtx 63 fun y => { y with st := .opened }, _, 0, job 0x59
  [0x003F_003F_0045, 0x40000000], by decide +kernel, rfl, by decide +kernel⟩

theorem witness_leaseJobs_4 : ∃ (s s0 : State) (q : QueueId) (j : Job) (l : Lent),
    s.starts q revokeMine j ∧ s0 = s.begun q j ∧ fits (j.p 0) [(16, 6), (24, 1)] = true ∧ s0.lentBy ((j.p 0).field 16 6) = some l :=
  ⟨{ jobOn on (job 0x5A [0x013F_0000]) with tiers := { on.tiers with lent := [lent0] } }, _, 0, job 0x5A [0x013F0000], lent0, by
  decide +kernel, rfl, by decide +kernel, by decide +kernel⟩

theorem witness_leaseJobs_5 : ∃ (s s0 : State) (q : QueueId) (j : Job) (b : Borrowed),
    s.starts q returnMine j ∧ s0 = s.begun q j ∧ fits (j.p 0) [(0, 14), (16, 6), (24, 1)] = true ∧ b ∈ s0.tiers.borrowed ∧ b.lender =
    (j.p 0).field 0 14 ∧ b.lease = (j.p 0).field 16 6 ∧ b.returning = none :=
  ⟨{ jobOn on (job 0x5A [0x003F_0045]) with tiers := { on.tiers with borrowed := [borrowed0] } }, _, 0, job 0x5A [0x003F0045], borrowed0,
  by decide +kernel, rfl, by decide +kernel⟩

theorem witness_leaseJobs_6 : ∃ (s s0 : State) (q : QueueId) (now : Nat) (x : Job),
    s0 = s.advanceTo now ∧ s0.waitingJob q.val (isOp 0x59) = some x ∧ s0.alive = true ∧ 1000000 ≤ s0.now - x.since :=
  ⟨jobOn on { job 0x59 [0] with phase := .running, since := 20000000 }, _, 0, 21000000,
  { job 0x59 [0] with phase := .running, since := 20000000 }, rfl, by decide +kernel, by decide +kernel, by decide +kernel⟩

theorem witness_reportsAndIdentity_1 : ∃ (s s0 t : State) (q : QueueId) (j : Job) (words n : Nat) (ws : List Nat) (got : List Byte),
    s.takes q (isOp 0x70) j s0 ∧ monitorsOk j = true ∧ ws = s0.group (s0.ctxOf q.val) (j.p 0).toNat ∧ n = min ws.length (j.p 2).toNat ∧
    got = j.data ++ ((ws.drop (j.data.length / 8)).take words).flatMap (leBytes 8) ∧ 8 * n ≤ got.length ∧ (s0.setJob (j.refOn q) fun x =>
    { x with data := got }).stores (j.refOn q) (j.p 1).toNat (got.take (8 * n)) none t :=
  ⟨jobOn on (job 0x70 [0, 0x200000, 0xFFFFFFFF]), _, _, 0, job 0x70 [0, 0x200000, 0xFFFFFFFF], 512, _, _, _, takes_start (by
  decide +kernel), by decide +kernel, rfl, rfl, rfl, by decide +kernel, stores_ok (by decide +kernel)⟩

theorem witness_reportsAndIdentity_1_part : ∃ (s s0 : State) (q : QueueId) (j : Job) (words n : Nat) (ws : List Nat) (got : List Byte),
    s.takes q (isOp 0x70) j s0 ∧ monitorsOk j = true ∧ ws = s0.group (s0.ctxOf q.val) (j.p 0).toNat ∧ n = min ws.length (j.p 2).toNat ∧
    got = j.data ++ ((ws.drop (j.data.length / 8)).take words).flatMap (leBytes 8) ∧ got.length < 8 * n :=
  ⟨jobOn on (job 0x70 [0, 0x200000, 2]), _, 0, job 0x70 [0, 0x200000, 2], 1, _, _, _, takes_start (by
  decide +kernel), by decide +kernel, rfl, rfl, rfl, by decide +kernel⟩

theorem witness_maintenance_2_poison : ∃ (s : State) (dpa g : Nat),
    dpa % 4096 = 0 ∧ dpa < Config.memBytes ∧ dpa ≠ s.regs.adminRoot ∧ s.hbm.isRetired (dpa / 4096) = false ∧ s.hbm.retired.length <
    Config.maxRetired ∧ g / 64 = dpa / 4096 :=
  ⟨on, 0xBFFFFFF000, 0x2FFFFFFFF, by decide +kernel⟩

/-- A test of the first page of stack 7's channels. -/
def trafficBytes : List Byte := words [0x0001_0000_0007, 0, 4096, 0]

def trafficDesc : TestDesc := ⟨7, 0, false, 1, 1, 0, 4096, 1, 0⟩

def trafficJob : Job := job 0x7C [0x200000, 0x201000]

theorem witness_reportsAndIdentity_2 : ∃ (s s0 t : State) (q : QueueId) (j : Job) (bs : List Byte),
    s.starts q (isOp 0x71) j ∧ s0 = s.begun q j ∧ recorderOk j = true ∧ bs = ((s0.recorder.records.drop ((j.p 0).field 0 16)).take ((j.p
    0).field 32 13)).flatMap EventRec.bytes ∧ (s0.setJob (j.refOn q) fun y =>
    { y with data := bs, aux := [s0.recorder.held, s0.recorder.refused] }).stores (j.refOn q) (j.p 1).toNat bs none t :=
  ⟨jobOn on (job 0x71 [0x1000_0000_0000, 0x200000]), _, _, 0, job 0x71 [0x100000000000, 0x200000], _, by decide +kernel, rfl, by
  decide +kernel, rfl, stores_ok (by decide +kernel)⟩

theorem witness_reportsAndIdentity_3 : ∃ (s s0 t : State) (q : QueueId) (j : Job),
    s.takes q (isOp 0x79) j s0 ∧ certOk j = true ∧ s0.stores (j.refOn q) (j.p 1).toNat (s0.fuses.certificate.take (j.p 2).toNat) none t :=
  ⟨jobOn on (job 0x79 [0, 0x200000, 40]), _, _, 0, job 0x79 [0, 0x200000, 40], takes_start (by decide +kernel), by decide +kernel,
  stores_ok (by decide +kernel)⟩

theorem witness_reportsAndIdentity_4 : ∃ (s s0 t t' : State) (q : QueueId) (j : Job) (bs : List Byte),
    s.takes q (isOp 0x72) j s0 ∧ clearOk j = true ∧ s0.reads (j.refOn q) (j.p 0).toNat (min (j.p 1).toNat 2996) t bs ∧ t' =
    { t with mram := t.mram.mendSelector } :=
  ⟨mem (jobOn on (job 0x72 [0x200000, 2676])) 0x200000 auth, _, _, _, 0, job 0x72 [0x200000, 2676], _, takes_start (by
  decide +kernel), by decide +kernel, reads_new (by decide +kernel), rfl⟩

theorem witness_reportsAndIdentity_4_mend : ∃ m m' m'' : Mram,
    (m.selA.ok = true ∧ m.selB.ok = false) ∧ (m'.selA.ok = false ∧ m'.selB.ok = true) ∧ m''.selA.ok = m''.selB.ok :=
  ⟨{ State.reset.mram with selB := ⟨0, 0, 0⟩ }, { State.reset.mram with selA := ⟨0, 0, 0⟩ }, State.reset.mram, by decide +kernel, by decide +kernel, by decide +kernel⟩

theorem witness_reportsAndIdentity_6 : ∃ (s : State) (m : List Byte),
    s.sec.mapPending = some m ∧ s.alive = true :=
  ⟨{ on with sec := { on.sec with mapPending := some [] } }, [], by decide +kernel, by decide +kernel⟩

theorem witness_maintenance_1 : ∃ (s s0 t : State) (q : QueueId) (j : Job) (bs : List Byte) (a : State × Bool),
    s.takes q (isOp 0x7A) j s0 ∧ retireOk j = true ∧ s0.given (j.refOn q) (j.p 0) (8 * (j.p 1).toNat) none t bs ∧ a = ((List.range (j.p
    1).toNat).map (wordAt bs)).foldl (fun a d => ((a.1.retireEntry d).1, a.2 || (a.1.retireEntry d).2)) (t, false) :=
  ⟨mem (jobOn on (job 0x7A [0x200000, 2])) 0x200000 (words [0xBFFFFFF000, 0xBFFFFFF000]), _, _, 0, job 0x7A [0x200000, 2], _, _,
  takes_start (by decide +kernel), by decide +kernel, given_dev (by decide +kernel) (by decide +kernel) (by decide +kernel), rfl⟩

theorem witness_maintenance_2 : ∃ (s : State) (dpa : Nat),
    dpa % 4096 = 0 ∧ dpa < Config.memBytes ∧ dpa ≠ s.regs.adminRoot ∧ s.hbm.isRetired (dpa / 4096) = false ∧ s.hbm.retired.length <
    Config.maxRetired :=
  ⟨on, 0xBFFFFFF000, by decide +kernel⟩

theorem witness_maintenance_3 : ∃ (s s0 t : State) (q : QueueId) (j : Job) (bs : List Byte) (d : TestDesc),
    s.takes q (isOp 0x7C) j s0 ∧ trafficOk j = true ∧ j.aux ≠ [1] ∧ j.aux ≠ [2] ∧ s0.reads (j.refOn q) (j.p 0).toNat 32 t bs ∧ testAt bs
    = some d :=
  ⟨mem (jobOn on trafficJob) 0x200000 trafficBytes, _, _, 0, trafficJob, _, trafficDesc, takes_start (by decide +kernel), by
  decide +kernel, by decide +kernel, by decide +kernel, reads_new (by decide +kernel), by decide +kernel⟩

theorem witness_maintenance_3_waited : ∃ (s s0 : State) (q : QueueId) (j : Job) (d : TestDesc),
    s.takes q (isOp 0x7C) j s0 ∧ trafficOk j = true ∧ j.aux = [2] ∧ testAt j.data = some d :=
  ⟨jobOn on { trafficJob with aux := [2], data := trafficBytes }, _, 0, { trafficJob with aux := [2], data := trafficBytes }, trafficDesc,
  takes_start (by decide +kernel), by decide +kernel, by decide +kernel, by decide +kernel⟩

theorem witness_maintenance_3_record : ∃ (s s0 v : State) (q : QueueId) (j : Job),
    s.takes q (isOp 0x7C) j s0 ∧ trafficOk j = true ∧ j.aux = [1] ∧ s0.stores (j.refOn q) (j.p 1).toNat j.data none v :=
  ⟨jobOn on { trafficJob with aux := [1], data := trafficBytes }, _, _, 0, { trafficJob with aux := [1], data := trafficBytes },
  takes_start (by decide +kernel), by decide +kernel, by decide +kernel, stores_ok (by decide +kernel)⟩

theorem witness_maintenance_3_go : ∃ (s u v : State) (r m : TrafficResult) (jr : JobRef) (d : TestDesc) (dva : Nat),
    (s.model.res = none ∨ s.regions[ix 8 d.region].shadeLive ≠ 0) ∧ s.cxl.heldIn d.base d.length = [] ∧ m = s.testMeets d r ∧
    u = (s.testEffect d m).setJob jr (fun x => { x with aux := [1], data := s.testRecord d m }) ∧
    u.stores jr dva (s.testRecord d m) none v :=
  ⟨jobOn on trafficJob, _, _, ⟨[], [], [], 1⟩, _, ⟨0, 1⟩, trafficDesc, 0x201000, by decide +kernel, by decide +kernel, rfl, rfl, stores_ok (by
  decide +kernel)⟩

theorem witness_maintenance_3_waits : ∃ (s : State) (d : TestDesc),
    s.model.res ≠ none ∧ s.regions[ix 8 d.region].shadeLive = 0 :=
  ⟨{ withModel (jobOn on trafficJob) with regions := on.regions.map fun r => { r with shadeLive := 0 } }, trafficDesc, by
  decide +kernel, by decide +kernel⟩

theorem witness_maintenance_4 : ∃ (s s0 u : State) (q : QueueId) (j : Job) (t : LinkTest),
    s.takes q (isOp 0x7D) j s0 ∧ linkOk j = true ∧ (linkMode j = 3 → s0.fab.cfgLive ≠ none) ∧ s0.fab.test = none ∧ t =
    { job := j.refOn q, ports := (j.p 0).setWidth 16, mode := linkMode j, prbs13 := (j.p 0).getLsbD 18, peer := (j.p 0).field 32 14, start := s0.now, duration := 100 * (j.p 1).toNat, results := (j.p 2).toNat } ∧
    u = t.portList.foldl (fun s p => (s.setPort p fun y => { y with testing := true, busy := 0 }).movePort p .disabled) ({ s0 with fab := { s0.fab with test := some t } } : State) :=
  ⟨netted (jobOn on (job 0x7D [0x0003_FFFF, 1, 0x200000])), _, _, 0, job 0x7D [0x0003FFFF, 1, 0x200000], _, takes_start (by
  decide +kernel), by decide +kernel, by decide +kernel, by decide +kernel, rfl, rfl⟩

theorem witness_maintenance_5 : ∃ (s s0 : State) (f : Frame) (c : PortCfg),
    s.frameTest f.port.val = true ∧ s0 = s.countFec f.port.val f.fec ∧ s0.fab.cfgLive = some c ∧ s0.alive = true ∧ f.domain = c.domain ∧
    f.dstDev = c.device ∧ (if f.srcDev = c.device then f.srcInc = s0.pkg.incarnation else ∃ p, s0.peer? f.srcDev = some p ∧ p.inc =
    f.srcInc ∧ p.lost = false) ∧ f.dstInc = s0.pkg.incarnation :=
  ⟨netted (testing (jobOn on (job 0x7D [0x0003_8000, 1, 0x200000]))), _, { frame0 with port := 15, srcDev := 69, srcInc := 7 }, config,
  by decide +kernel, rfl, by decide +kernel⟩

theorem witness_maintenance_5_peer : ∃ (s s0 : State) (f : Frame) (c : PortCfg),
    s.frameTest f.port.val = true ∧ s0 = s.countFec f.port.val f.fec ∧ s0.fab.cfgLive = some c ∧ s0.alive = true ∧ f.domain = c.domain ∧
    f.dstDev = c.device ∧ (if f.srcDev = c.device then f.srcInc = s0.pkg.incarnation else ∃ p, s0.peer? f.srcDev = some p ∧ p.inc =
    f.srcInc ∧ p.lost = false) ∧ f.dstInc = s0.pkg.incarnation :=
  ⟨testing (peered on), _, { frame0 with port := 15, ce := true }, config, by decide +kernel, rfl, by decide +kernel, by decide +kernel,
  by decide +kernel, by decide +kernel, ⟨peer0, by decide +kernel, by decide +kernel, by decide +kernel⟩, by decide +kernel⟩

theorem witness_maintenance_6 : ∃ (s s0 t : State) (now : Nat) (rs : List LinkResult) (lt : LinkTest) (x : Job),
    s0 = s.advanceTo now ∧ s0.fab.test = some lt ∧ s0.alive = true ∧ lt.duration ≤ s0.now - lt.start ∧ rs.length = lt.portList.length ∧
    s0.job? lt.job = some x ∧ x.halted = false ∧ s0.stores lt.job lt.results ((lt.portList.zip rs).flatMap fun e => lt.record
    (nearest lt.duration 1000) e.1 e.2) none t :=
  ⟨testing (jobOn on { job 0x7D [0x0003_8000, 1, 0x200000] with phase := .running }), _, _, 20000000, [⟨1, 1, 0, 0, 0, [], 0⟩], _, _,
  rfl, rfl, by decide +kernel, by decide +kernel, by decide +kernel, some_eq (by decide +kernel), by decide +kernel, stores_ok (by
  decide +kernel)⟩

theorem witness_leaseMessages_4_sector : ∃ (m : BitVec 64) (n k i : Nat),
    ((List.range 64).filter fun i => m.getLsbD i)[n]? = some k ∧ i < 64 :=
  ⟨1#64 <<< 63, 0, 63, 63, by decide +kernel, by decide +kernel⟩

theorem witness_leaseMessages_1 : ∃ (s t : State) (f : Frame) (lease page tag : Nat) (l : Lent),
    s.receiveAny f 7 (lentReadBody lease page tag) = (t, true) ∧ t.lentBy lease = some l ∧ l.claimant = some (f.srcDev, f.srcInc) ∧ page
    * 4096 < l.size :=
  ⟨lending, _, frame1, 63, 0x3FFFF, 5, lentTo, pair_true _ (by decide +kernel), by decide +kernel, by decide +kernel, by decide +kernel⟩

theorem witness_leaseMessages_1_write : ∃ (s t : State) (f : Frame) (lease page tag : Nat) (l : Lent) (sectors : BitVec 64)
    (data : List Byte),
    s.receiveAny f 8 (lentWriteBody lease page tag sectors data) = (t, true) ∧ t.lentBy lease = some l ∧ l.claimant = some (f.srcDev,
    f.srcInc) ∧ page * 4096 < l.size :=
  ⟨lending, _, frame1, 63, 0x3FFFF, 5, lentTo, 1, List.replicate 64 2, pair_true _ (by decide +kernel), by decide +kernel, by
  decide +kernel, by decide +kernel⟩

theorem witness_leaseMessages_2 : ∃ (s : State) (l : Lent) (page i : Nat),
    s.poolOk ∧ l.base % 4096 = 0 ∧ i < 4096 ∧ s.hbm.latent = [] ∧ (s.tiers.sector ((l.base + page * 4096 + i) / 64) ≠ none ∨ (l.base +
    page * 4096 + i) / 64 ∉ s.hbm.poison) :=
  ⟨{ lending with hbm := { lending.hbm with poison := [0] } }, lentTo, 262143, 4095, (show poolWf _ = true by decide +kernel), by
  decide +kernel, by decide +kernel, by decide +kernel, .inr (by decide +kernel)⟩

/-- The second sector of block 0x3F of the staging cache, dirty there, stands for the poisoned granule below it. -/
theorem witness_leaseMessages_2_line : ∃ (s : State) (l : Lent) (page i : Nat),
    s.poolOk ∧ l.base % 4096 = 0 ∧ i < 4096 ∧ s.hbm.latent = [] ∧ (s.tiers.sector ((l.base + page * 4096 + i) / 64) ≠ none ∨ (l.base +
    page * 4096 + i) / 64 ∉ s.hbm.poison) :=
  ⟨{ lineOn on 0x3F with hbm := { on.hbm with poison := [0xFD] } }, { lentTo with base := 0 }, 3, 0xF40, (show poolWf _ = true by
  decide +kernel), by decide +kernel, by decide +kernel, by decide +kernel, .inl (by decide +kernel)⟩

theorem witness_leaseMessages_3 : ∃ (s : State) (base : Nat) (m : BitVec 64) (data : List Byte) (n k : Nat),
    s.memOk ∧ s.poolOk ∧ base % 4096 = 0 ∧ data.length = 64 * ((List.range 64).filter fun i => m.getLsbD i).length ∧
    ((List.range 64).filter fun i => m.getLsbD i)[n]? = some k :=
  ⟨mem (lineOn on 0x3F) 0x3FFF [1], 0x3000, 0x8000000000000000, List.replicate 64 2, 0, 63, (show memWf _ = true by decide +kernel),
  (show poolWf _ = true by decide +kernel), by decide +kernel, by decide +kernel, by decide +kernel⟩

theorem witness_leaseMessages_3_kept : ∃ (s : State) (base : Nat) (m : BitVec 64) (data : List Byte) (i a : Nat),
    s.memOk ∧ s.poolOk ∧ base % 4096 = 0 ∧ data.length = 64 * ((List.range 64).filter fun i => m.getLsbD i).length ∧ i < 4096 ∧
    m.getLsbD (i / 64) = false ∧ (a < base ∨ base + 4096 ≤ a) :=
  ⟨mem (lineOn on 0x3F) 0x3FFF [1], 0x3000, 0x8000000000000000, List.replicate 64 2, 4031, 0x4000, (show memWf _ = true by
  decide +kernel), (show poolWf _ = true by decide +kernel), by decide +kernel⟩

theorem witness_leaseMessages_4 : ∃ (s t : State) (f : Frame) (lease tag : Nat) (l : Lent),
    s.receiveAny f 0xA (lentControlBody lease 0 tag) = (t, true) ∧ t.lentBy lease = some l ∧ l.claimant = none ∧ l.borrower = f.srcDev :=
  ⟨{ lending with tiers := { lending.tiers with lent := [{ lentTo with claimant := none }] } }, _, frame1, 63, 5,
  { lentTo with claimant := none }, pair_true _ (by decide +kernel), by decide +kernel, by decide +kernel, by decide +kernel⟩

theorem witness_leaseMessages_5 : ∃ (s t : State) (f : Frame) (lease tag : Nat) (l : Lent),
    s.receiveAny f 0xA (lentControlBody lease 1 tag) = (t, true) ∧ t.lentBy lease = some l ∧ l.claimant = some (f.srcDev, f.srcInc) ∧ 0 <
    l.size :=
  ⟨lending, _, frame1, 63, 5, lentTo, pair_true _ (by decide +kernel), by decide +kernel, by decide +kernel, by decide +kernel⟩

theorem witness_leaseMessages_6 : ∃ (s t : State) (f : Frame) (lease result tag : Nat) (data : Option (List Byte)),
    s.receiveAny f 9 (lentResponseBody lease result tag data) = (t, true) :=
  ⟨peered on, _, frame1, 63, 4, 5, none, pair_true _ (by decide +kernel)⟩

theorem witness_leaseMessages_7 : ∃ (s : State) (f : Frame) (lease tag p : Nat) (old : List Byte),
    s.borrowBy tag = none ∧ s.tiers.tagged f.srcDev lease tag = some (p, old) ∧ s.tiers.late f.srcDev lease p = [] :=
  ⟨{ on with tiers := { on.tiers with pool := [.frame 70 63 7 0 [] .keep (some 5)] } }, frame1, 63, 5, 7, [], by decide +kernel, by
  decide +kernel, by decide +kernel⟩

theorem witness_leaseMessages_8 : ∃ (s : State) (f : Frame) (lease result tag : Nat),
    s.borrowBy tag = none ∧ s.tiers.tagged f.srcDev lease tag = none ∧ (result = 1 ∨ result = 3 ∨ result = 4) :=
  ⟨on, frame1, 63, 4, 5, by decide +kernel, by decide +kernel, by decide +kernel⟩

theorem witness_receiveChecks_3_up : ∃ (s : State) (port : Nat),
    (s.port port).st = .up ∧ s.alive = true :=
  ⟨peered on, 0, by decide +kernel, by decide +kernel⟩

theorem witness_receiveChecks_1 : ∃ (s : State) (f : Frame) (c : PortCfg),
    s.alive = true ∧ s.fab.cfgLive = some c ∧ (s.port f.port.val).st = .up ∧ (f.domain ≠ c.domain ∨ f.dstDev ≠ c.device) :=
  ⟨peered on, { frame1 with domain := 1 }, config, by decide +kernel, by decide +kernel, by decide +kernel, by decide +kernel⟩

theorem witness_receiveChecks_1_device : ∃ (s : State) (f : Frame) (c : PortCfg),
    s.alive = true ∧ s.fab.cfgLive = some c ∧ (s.port f.port.val).st = .up ∧ (f.domain ≠ c.domain ∨ f.dstDev ≠ c.device) :=
  ⟨peered on, { frame1 with dstDev := 70 }, config, by decide +kernel, by decide +kernel, by decide +kernel, by decide +kernel⟩

theorem witness_receiveChecks_2 : ∃ (s : State) (f : Frame) (c : PortCfg) (p : Peer),
    s.alive = true ∧ s.fab.cfgLive = some c ∧ (s.port f.port.val).st = .up ∧ f.domain = c.domain ∧ f.dstDev = c.device ∧ s.peer? f.srcDev
    = some p ∧ (f.dstInc ≠ s.pkg.incarnation ∨ f.srcInc ≠ p.inc ∨ p.lost = true) :=
  ⟨peered on, { frame1 with srcInc := 8 }, config, peer0, by decide +kernel⟩

theorem witness_receiveChecks_3 : ∃ (s t : State) (f : Frame) (b : Bool),
    s.receive f = (t, b) ∧ s.alive = false :=
  ⟨State.reset, _, frame1, _, pair_eq _, by decide +kernel⟩

theorem witness_receiveChecks_4 : ∃ (s : State) (f : Frame) (p : Peer),
    s.rxCheck f false = .pass ∧ f.ackValid = false ∧ s.peer? f.srcDev = some p ∧ (p.rx f.update).has f.seq = true :=
  ⟨gotOne, frame1, { peer0 with rxS := { ackSeq := 2 } }, by decide +kernel, by decide +kernel, by decide +kernel, by decide +kernel⟩

theorem witness_receiveChecks_5 : ∃ (s : State) (f : Frame) (p : Peer),
    s.rxCheck f false = .pass ∧ f.ackValid = false ∧ s.peer? f.srcDev = some p ∧ (p.rx f.update).has f.seq = false :=
  ⟨peered on, frame1, peer0, by decide +kernel, by decide +kernel, by decide +kernel, by decide +kernel⟩

theorem witness_lookupMessages_1 : ∃ (s t : State) (f : Frame),
    s.receive f = (t, true) :=
  ⟨peered on, _, frame1, pair_true _ (by decide +kernel)⟩

theorem witness_lookupMessages_2 : ∃ (s t : State) (blocked : List Nat) (m : ReqMsg) (a : Answering),
    s.alive = true ∧ s.msgRegion m ∉ blocked ∧ (serveMsg m).go s = (.ok a, t) ∧ a.silent = false :=
  ⟨stored (peered on), _, [], request0, _, by decide +kernel, by decide +kernel, @go_eq _ ⟨{ version := 0 }⟩ _ _ (by
  decide +kernel), by decide +kernel⟩

theorem witness_lookupMessages_2_blocked : ∃ (s : State) (blocked : List Nat) (m : ReqMsg),
    s.msgRegion m ∈ blocked :=
  ⟨stored (peered on), List.range 8, request0, by decide +kernel⟩

theorem witness_lookupMessages_3 : ∃ (s t : State) (f : Frame),
    s.receive f = (t, true) :=
  ⟨peered on, _, frame1, pair_true _ (by decide +kernel)⟩

theorem witness_lookupMessages_4 : ∃ (s t : State) (f : Frame),
    s.receive f = (t, true) :=
  ⟨peered on, _, frame1, pair_true _ (by decide +kernel)⟩

theorem witness_lookupMessages_5 : ∃ (s : State) (table row : Nat) (r : Reflection),
    s.reflection? table row = some r ∧ s.alive = true ∧ s.spareRead r = false :=
  ⟨reflecting, 4095, 65536, { table := 4095, row := 65536, dva := 0x280000 }, by decide +kernel, by decide +kernel, by decide +kernel⟩

theorem witness_updateMessages_1 : ∃ (s t : State) (f : Frame) (rs : List UpdRec),
    (rs.map recBytes).sum ≤ s.bufFree ∧ s.receive f = (t, true) :=
  ⟨peered { on with model := { on.model with bufBytes := 0 } }, _, frame1, [], by decide +kernel, pair_true _ (by decide +kernel)⟩

theorem witness_updateMessages_2 : ∃ (s t : State) (f : Frame),
    s.receive f = (t, true) :=
  ⟨peered on, _, frame1, pair_true _ (by decide +kernel)⟩

theorem witness_updateMessages_3 : ∃ (s t : State) (n : Nat) (e : Epoch) (os : List Overlay),
    s.epoch? n = some e ∧ s.alive = true ∧ s.canCompute e = true ∧ (buildOverlays n s.pkg.seamCount (s.epochUpds n)).go s = (.ok os, t) :=
  ⟨declared1 on { epoch1 with closed := true }, _, 1, { epoch1 with closed := true }, _, by decide +kernel, by decide +kernel, by
  decide +kernel, go_eq _ _ (by decide +kernel)⟩

theorem witness_updateMessages_4 : ∃ (s t : State) (n seam : Nat),
    s.upd.appliedSeams.find? (·.1 == n) = some (n, seam) ∧ s.alive = true ∧ s.lookupBelow seam = false ∧ ((s.upd.overlays.filter fun o =>
    o.epoch == n && o.seam.isSome).forM writeOverlay).go s = (.ok (), t) :=
  ⟨{ on with upd := { on.upd with appliedSeams := [(1, 5)] } }, _, 1, 5, by decide +kernel, by decide +kernel, by decide +kernel, go_eq _
  _ (by decide +kernel)⟩

theorem witness_updateMessages_5 : ∃ (s : State) (n : Nat) (e : Epoch),
    s.epoch? n = some e ∧ e.closed = false ∧ (∀ c ∈ e.contribs, e.missing c = false) :=
  ⟨declared1 on { epoch1 with markers := [(69, 0)] }, 1, { epoch1 with markers := [(69, 0)] }, by decide +kernel, by decide +kernel, by
  decide +kernel⟩

theorem witness_transportEvents_1 : ∃ (s t : State) (f : Frame),
    s.receivePlain f true = (t, true) :=
  ⟨peered on, _, frame1, pair_true _ (by decide +kernel)⟩

theorem witness_transportEvents_2 : ∃ (s t : State) (f : Frame),
    s.receivePlain f false = (t, true) ∧ f.update = false :=
  ⟨peered on, _, frame1, pair_true _ (by decide +kernel), by decide +kernel⟩

theorem witness_transportEvents_3 : ∃ (s t : State) (f : Frame),
    s.receivePlain f false = (t, true) ∧ f.update = true :=
  ⟨peered on, _, { frame1 with update := true }, pair_true _ (by decide +kernel), by decide +kernel⟩

theorem witness_transportEvents_4 : ∃ (s s0 : State) (p : PortId) (k : ForeignKind) (fec : FecSeen) (c : FabCounters),
    s0 = s.countFec p.val fec ∧ s0.alive = true ∧ s0.fab.cfgLive ≠ none ∧ ((s0.port p.val).st = .up ∨ (s0.port p.val).st = .degraded) ∧
    s0.frameTest p.val = false ∧ c = (match k with
      | .fcs => s0.fab.ctr
      | .notTransport => { s0.fab.ctr with framesForeign := s0.fab.ctr.framesForeign + 1 }
      | .check => { s0.fab.ctr with framesDroppedCheck := s0.fab.ctr.framesDroppedCheck + 1 }
      | .noBuffer => { s0.fab.ctr with rxDropped := s0.fab.ctr.rxDropped + 1 }) :=
  ⟨peered on, _, 0, .noBuffer, ⟨1, [1]⟩, _, rfl, by decide +kernel, by decide +kernel, by decide +kernel, by decide +kernel, rfl⟩

theorem witness_transportEvents_5 : ∃ (s s0 : State) (now dev : Nat) (update : Bool) (seq t : Nat) (p : Peer) (m : TxMsg),
    s0 = s.advanceTo now ∧ s0.peer? dev = some p ∧ (p.tx update).unacked.find? (·.seq == seq) = some m ∧ m.sentAt = some t ∧ m.timer ≤
    s0.now - t ∧ s0.alive = true ∧ m.expired = false ∧ p.lost = false :=
  ⟨waiting1, _, 20005000, 70, false, 1, 20000000, _, sent1, rfl, some_eq (by decide +kernel), by decide +kernel⟩

theorem witness_transportEvents_6_cut : ∃ (t : TxSpace) (now : Nat),
    ∀ c, t.lastCut = some c → 2000 ≤ now - c :=
  ⟨{ lastCut := some 5 }, 2005, by rintro c ⟨⟩; decide⟩

theorem witness_transportEvents_6 : ∃ (s s0 : State) (now dev : Nat) (update : Bool) (t : Nat) (p : Peer),
    s0 = s.advanceTo now ∧ s0.peer? dev = some p ∧ (p.rx update).owedSince = some t ∧ s0.alive = true ∧ p.lost = false ∧ 200 ≤ s0.now - t
    :=
  ⟨owing, _, 20000200, 70, false, 20000000, _, rfl, some_eq (by decide +kernel), by decide +kernel, by decide +kernel, by decide +kernel,
  by decide +kernel⟩

theorem witness_transportEvents_7 : ∃ (s s0 : State) (now dev : Nat) (update : Bool) (t port : Nat) (p : Peer),
    s0 = s.advanceTo now ∧ s0.peer? dev = some p ∧ (p.tx update).probeAt = some t ∧ s0.choosePort p none = some port ∧ s0.alive = true ∧
    p.lost = false ∧ t ≤ s0.now :=
  ⟨probing, _, 20010000, 70, false, 20010000, 0, _, rfl, some_eq (by decide +kernel), by decide +kernel⟩

theorem witness_transportEvents_8 : ∃ (s s0 : State) (now : Nat),
    s0 = s.advanceTo now ∧ s0.alive = true ∧ s0.fab.cfgLive ≠ none ∧ s0.glintInterval ≤ s0.now - s0.fab.lastGlints :=
  ⟨peered { on with fab := { on.fab with lastGlints := 20000000 } }, _, 20016384, rfl, by decide +kernel, by decide +kernel, by
  decide +kernel⟩

theorem witness_transportEvents_9 : ∃ (s s0 : State) (now dev joined : Nat) (p : Peer),
    s0 = s.advanceTo now ∧ s0.alive = true ∧ s0.now % 4000 = 0 ∧ (dev, joined) ∈ s0.fab.listed ∧ s0.peer? dev = some p ∧ p.lost = false ∧
    3 * p.interval < s0.now - max p.lastGlint joined :=
  ⟨{ peered on with fab := { (peered on).fab with listed := [(70, 0)] } }, _, 20052000, 70, 0, _, rfl, by decide +kernel, by
  decide +kernel, by decide +kernel, some_eq (by decide +kernel), by decide +kernel, by decide +kernel⟩

/-- The same image with another OID in its key. -/
def imagedOther : Boot := { imaged with image := memWrite imaged.image 67 [0x2B] }

theorem witness_portsMove_1 : ∃ (s s0 : State) (now : Nat) (p : PortId),
    s0 = s.portTime now ∧ s0.portsLive = true ∧ (s0.port p.val).st = .training :=
  ⟨atPort .training, _, 20000001, 15, rfl, by decide +kernel, by decide +kernel⟩

theorem witness_powerAndReset_2_tear : ∃ (r : Recorder) (now i : Nat),
    i + 1 < r.held ∧ r.wroteAt ≠ some now :=
  ⟨{ records := [EventRec.torn 0, EventRec.torn 1], writes := 2, wroteAt := some 1 }, 2, 0, by decide +kernel, by decide +kernel⟩

theorem witness_powerAndReset_2_idle : ∃ (s : State) (n : Nat),
    s.leafInWrite = false ∧ s.mram.leaf = some n :=
  ⟨on, 0, by decide +kernel, by decide +kernel⟩

theorem test_leaf_cut_in_copy_b : ((on.mram.cut 0 3).leafA, (on.mram.cut 0 2).leafB) = (Copy.leaf 1, Copy.leaf 0) := by decide +kernel

theorem witness_powerAndReset_5_good : ∃ (s : State),
    s.recorder.badWrites.contains s.recorder.writes = false :=
  ⟨on, by decide +kernel⟩

theorem witness_powerAndReset_5_bad : ∃ (s : State),
    s.recorder.badWrites.contains s.recorder.writes = true ∧ s.err.failed = none ∧ s.err.fatal = none :=
  ⟨{ on with recorder := { on.recorder with badWrites := [on.recorder.writes] } }, by decide +kernel, by decide +kernel, by
  decide +kernel⟩

theorem witness_fatalErrors_3_first : ∃ (s : State),
    s.err.failed = none ∧ s.err.fatal = none :=
  ⟨on, by decide +kernel, by decide +kernel⟩

theorem witness_portsMove_2 : ∃ (s s0 : State) (now : Nat) (p : PortId),
    s0 = s.portTime now ∧ s0.portsLive = true ∧ ((s0.port p.val).st = .up ∨ (s0.port p.val).st = .degraded) :=
  ⟨peered on, _, 20000001, 0, rfl, by decide +kernel, by decide +kernel⟩

theorem witness_portsMove_3 : ∃ (s s0 : State) (now : Nat) (p : PortId),
    s0 = s.portTime now ∧ s0.portsLive = true ∧ (s0.port p.val).st = .up :=
  ⟨peered on, _, 20000001, 0, rfl, by decide +kernel, by decide +kernel⟩

theorem witness_portsMove_4 : ∃ (s s0 : State) (now : Nat) (p : PortId),
    s0 = s.portTime now ∧ s0.portsLive = true ∧ (s0.port p.val).st = .degraded ∧ 10000000 ≤ s0.now - (s0.port p.val).since :=
  ⟨atPort .degraded, _, 30000000, 15, rfl, by decide +kernel, by decide +kernel, by decide +kernel⟩

theorem witness_portsMove_4_early : ∃ (s s0 : State) (now : Nat) (p : PortId),
    s0 = s.portTime now ∧ s0.portsLive = true ∧ (s0.port p.val).st = .degraded ∧ s0.now - (s0.port p.val).since < 10000000 :=
  ⟨atPort .degraded, _, 29999999, 15, rfl, by decide +kernel, by decide +kernel, by decide +kernel⟩

theorem witness_portsMove_5 : ∃ (s s0 : State) (now : Nat) (p : PortId),
    s0 = s.portTime now ∧ s0.portsLive = true ∧ (s0.port p.val).st = .down ∧ 1000000 ≤ s0.now - (s0.port p.val).since :=
  ⟨atPort .down, _, 21000000, 15, rfl, by decide +kernel, by decide +kernel, by decide +kernel⟩

theorem witness_portsMove_6 : ∃ (s s0 : State) (now : Nat) (p : PortId) (dbm : Int),
    s0 = s.portTime now ∧ s0.portsLive = true ∧
    isDue Config.ms (s0.port p.val).laserAt s0.now = true ∧ 1650 ≤ dbm :=
  ⟨peered on, _, 20000001, 15, 1650, rfl, by decide +kernel, by decide +kernel, by decide +kernel⟩

theorem witness_portsMove_6_between : ∃ (s s0 : State) (now : Nat) (p : PortId) (dbm : Int),
    s0 = s.portTime now ∧ s0.portsLive = true ∧
    isDue Config.ms (s0.port p.val).laserAt s0.now = true ∧ 1600 ≤ dbm ∧ dbm < 1650 :=
  ⟨peered on, _, 20000001, 15, 1649, rfl, by decide +kernel, by decide +kernel, by decide +kernel, by decide +kernel⟩

theorem witness_portsMove_6_low : ∃ (s s0 : State) (now : Nat) (p : PortId) (dbm : Int),
    s0 = s.portTime now ∧ s0.portsLive = true ∧
    isDue Config.ms (s0.port p.val).laserAt s0.now = true ∧ dbm < 1600 :=
  ⟨peered on, _, 20000001, 15, 1599, rfl, by decide +kernel, by decide +kernel, by decide +kernel⟩

theorem witness_portsMove_6_early : ∃ (s s0 : State) (now : Nat) (p : PortId),
    s0 = s.portTime now ∧ isDue Config.ms (s0.port p.val).laserAt s0.now = false :=
  ⟨(peered on).setPort 15 fun x => { x with laserAt := 20000000 }, _, 20099999, 15, rfl, by decide +kernel⟩

theorem witness_portsMove_7_late : ∃ (s : State) (now limit : Nat),
    limit = s.boot.tSelfCheck + 5000000 ∧ s.alive = true ∧ s.pkg.stage = .ports ∧ limit < now :=
  ⟨atStage .ports, 5000001, _, rfl, by decide +kernel, by decide +kernel, by decide +kernel⟩

theorem witness_portsMove_7_limit : ∃ (s : State) (now limit : Nat),
    limit = s.boot.tSelfCheck + 5000000 ∧ (s.alive = false ∨ s.pkg.stage ≠ .ports ∨ now ≤ limit) :=
  ⟨atStage .ports, 5000000, _, rfl, by decide +kernel⟩

theorem witness_bootWindow_1_refused : ∃ (s : State),
    s.bootOpen = true ∧ (s.boot.imageAddr % 32768 ≠ 0 ∨ 2 ^ 24 ≤ s.boot.imageAddr) :=
  ⟨{ booting with boot := { booting.boot with imageAddr := 0x1000000 } }, by decide +kernel, by decide +kernel⟩

theorem witness_bootWindow_1_write : ∃ (s : State) (o size : Nat),
    s.windows = true ∧ s.boot.state = .busy ∧ o < Bar.size .boot ∧ (size = 4 ∨ size = 8) ∧ o % size = 0 :=
  ⟨{ booting with boot := { booting.boot with state := .busy } }, 0, 8, by decide +kernel⟩

theorem witness_bootWindow_1_taken : ∃ (s : State) (now : Nat),
    s.alive = true ∧ s.boot.state = .busy ∧ s.now < now :=
  ⟨{ booting with boot := { booting.boot with state := .busy } }, 20000001, by decide +kernel, by decide +kernel, by decide +kernel⟩

theorem witness_portsMove_7 : ∃ (s : State) (p : Nat) (new : PortState),
    (s.port p).st ≠ new ∧ s.pkg.stage = .service :=
  ⟨peered on, 15, .up, by decide +kernel, by decide +kernel⟩

theorem witness_bootWindow_1 : ∃ (s : State),
    s.bootOpen = true ∧ s.boot.imageAddr % 32768 = 0 ∧ s.boot.imageAddr < 2 ^ 24 :=
  ⟨{ booting with boot := { booting.boot with imageAddr := 0xFF8000 } }, by decide +kernel, by decide +kernel, by decide +kernel⟩

theorem witness_bootWindow_2 : ∃ (b : Boot),
    memWf b.image = true ∧ memWf b.chunkBuf = true :=
  ⟨{ imageAddr := 0x8000, chunkBuf := [(0, 1)], image := [(0x7FFF, 1), (0x8001, 1)] }, by decide +kernel, by decide +kernel⟩

theorem witness_bootWindow_3 : ∃ (s : State),
    s.bootOpen = true :=
  ⟨booting, by decide +kernel⟩

theorem witness_bootWindow_4 : ∃ (s : State),
    s.bootOpen = true ∧ s.boot.state ≠ .rejected :=
  ⟨booting, by decide +kernel, by decide +kernel⟩

theorem witness_bootWindow_5 : ∃ (s : State),
    s.windows = true ∧ s.alive = true ∧ s.boot.state = .rejected :=
  ⟨{ booting with boot := { booting.boot with state := .rejected } }, by decide +kernel, by decide +kernel, by decide +kernel⟩

theorem witness_bootWindow_6 : ∃ (s s0 : State) (now : Nat),
    s0 = s.advanceTo now ∧ s0.alive = true ∧ s0.boot.state = .verifying :=
  ⟨{ booting with boot := imaged }, _, 20000001, rfl, by decide +kernel, by decide +kernel⟩

/-- A package whose fuses name a key that is no XMSS^MT key of R457. -/
theorem witness_bootWindow_6_signature : ∃ (s : State) (b : Boot),
    b = s.boot ∧ b.complete = true ∧ b.formed = true ∧ digest b.key = s.fuses.fwKeyHash ∧ b.signatureOk = false :=
  ⟨{ booting with boot := imagedOther, fuses := { booting.fuses with fwKeyHash := digest imagedOther.key } }, imagedOther, rfl, by
  decide +kernel, by decide +kernel, rfl, by decide +kernel⟩

theorem witness_powerAndReset_1 : ∃ (s : State),
    s.pkg.powered = false :=
  ⟨State.reset, by decide +kernel⟩

theorem witness_powerAndReset_3 : ∃ (s : State),
    s.pkg.powered = true ∧ s.pkg.perstN = true ∧ s.pkg.tripped = false :=
  ⟨on, by decide +kernel, by decide +kernel, by decide +kernel⟩

theorem witness_powerAndReset_5 : ∃ (s t : State) (draws : List (BitVec 32)) (straps : BitVec 4) (bad : List Nat) (d : BitVec 32),
    s.pkg.powered = true ∧ s.pkg.perstN = false ∧ draws.find? (fun d => d ≠ 0 && d.toNat ≠ s.mram.lastIncarnation) = some d ∧
    t = State.recorderWrite { s with
      pkg := { s.pkg with perstN := true, straps := straps, stage := .rom, readyPin := .low, cxlTx := .active, incarnation := d.toNat }
      recorder := { s.recorder with badWrites := bad }
      mram := { s.mram with lastIncarnation := d.toNat }
      fab := { s.fab with ports := s.fab.ports.map fun x => { x with st := .training } }
      regions := s.regions.map fun r => { r with setpoint := 750, output := 7500, searching := true } }
        (fun r => { r with powerCycles := r.powerCycles + 1 }) :=
  ⟨{ State.reset with pkg := { State.reset.pkg with powered := true } }, _, [0, 1], 7, [], 1, by decide +kernel, by decide +kernel, by
  decide +kernel, rfl⟩

theorem witness_powerAndReset_6 : ∃ (s s0 : State) (now width rate : Nat),
    s0 = s.advanceTo now ∧ s0.alive = true ∧ s0.pkg.stage = .rom ∧ (width = 4 ∨ width = 8 ∨ width = 16) ∧ (rate = 1 ∨ rate = 2) :=
  ⟨atStage .rom, _, 20000001, 4, 2, rfl, by decide +kernel, by decide +kernel, by decide +kernel, by decide +kernel⟩

theorem witness_powerAndReset_7 : ∃ (s s0 : State) (now : Nat),
    s0 = s.advanceTo now ∧ s0.alive = true ∧ s0.pkg.stage = .hbmTraining ∧ (∀ r : RegionId, s0.regions[r].searching = false) ∧
    s0.now - s0.boot.tLink ≤ 10000000 :=
  ⟨{ atStage .hbmTraining with boot := { on.boot with tLink := 10000000 } }, _, 20000000, rfl, by decide +kernel, by decide +kernel, by
  decide +kernel, by decide +kernel⟩

theorem witness_powerAndReset_8 : ∃ (s s0 : State) (now : Nat),
    s0 = s.advanceTo now ∧ s0.alive = true ∧ s0.pkg.stage = .selfCheck :=
  ⟨atStage .selfCheck, _, 20000001, rfl, by decide +kernel, by decide +kernel⟩

theorem witness_powerAndReset_9 : ∃ (s s0 : State) (now : Nat) (bad pages : List Nat),
    s0 = s.advanceTo now ∧ s0.alive = true ∧ s0.pkg.stage = .selfCheck ∧ pages = (bad.filter fun p => p * 4096 <
    Config.memBytes).eraseDups ∧ pages ≠ [] ∧ pages.length ≤ Config.maxRetired :=
  ⟨atStage .selfCheck, _, 20000001, [0, 0, 0xBFFFFFF], _, rfl, by decide +kernel, by decide +kernel, rfl, by decide +kernel, by
  decide +kernel⟩

theorem witness_powerAndReset_10 : ∃ (s : State) (r : RegionId) (v : Nat),
    s.alive = true ∧ s.regions[r].searching = true ∧ 600 ≤ v ∧ v ≤ 750 ∧ v % 5 = 0 ∧ s.regions[r].output ≤ 10 * v :=
  ⟨{ on with regions := on.regions.map fun r => { r with searching := true, output := 6000 } }, 7, 600, by decide +kernel⟩

theorem witness_powerAndReset_11 : ∃ g : Region,
    g.searching = true ∧ g.limiting = false ∧ 600 ≤ g.ceilLive :=
  ⟨{ on.regions[7] with searching := true }, by decide +kernel, by decide +kernel, by decide +kernel⟩

theorem witness_fatalErrors_1 : ∃ (s s0 : State) (now cause : Nat) (r : Option FaultRec),
    s0 = s.advanceTo now ∧ s0.err.fatal = some (cause, r) ∧ s0.err.failed = none :=
  ⟨failing, _, 20000001, 6, none, rfl, by decide +kernel, by decide +kernel⟩

theorem witness_fatalErrors_2 : ∃ (s s0 : State) (now : Nat),
    s0 = s.advanceTo now ∧ s0.alive = true ∧ s0.pkg.cpAt + 10000000 ≤ s0.now :=
  ⟨{ on with pkg := { on.pkg with cpAt := 10000001 } }, _, 20000001, rfl, by decide +kernel, by decide +kernel⟩

theorem witness_fatalErrors_2_early : ∃ (s s0 : State) (now : Nat),
    s0 = s.advanceTo now ∧ s0.now < s0.pkg.cpAt + 10000000 :=
  ⟨{ on with pkg := { on.pkg with cpAt := 10000002 } }, _, 20000001, rfl, by decide +kernel⟩

theorem witness_fatalErrors_5_order : ∃ (s : State) (d : Detected),
    s.nextError = some d :=
  ⟨{ on with err := { on.err with pending := [corrected1, { corrected1 with cls := 1 }] } }, { corrected1 with cls := 1 }, by
  decide +kernel⟩

/-- A voltage that has been outside its range for as long as it is given. -/
def outsideFor (since : List (Option Nat)) : State := { on with regions := on.regions.map fun r => { r with outside := since } }

theorem witness_fatalErrors_3 : ∃ (s : State),
    s.alive = true :=
  ⟨on, by decide +kernel⟩

theorem witness_fatalErrors_4 : ∃ (s t : State),
    s.alive = true ∧ t = s.overHandled.handleNext.overHandled :=
  ⟨{ on with err := { on.err with pending := [corrected1] } }, _, by decide +kernel, rfl⟩

theorem witness_fatalErrors_5 : ∃ (s : State) (d : Detected),
    s.nextError = some d ∧ s.current = none :=
  ⟨{ on with err := { on.err with pending := [corrected1, { corrected1 with cls := 1 }] } }, { corrected1 with cls := 1 }, by
  decide +kernel, by decide +kernel⟩

/-- A step-class error is in handling when one of context 0 is detected. -/
theorem witness_fatalErrors_5_over : ∃ (s : State) (d : Detected) (h : Handling),
    s.nextError = some d ∧ s.current = some h :=
  ⟨{ on with err := { on.err with pending := [{ cls := 2 }], handling := [⟨{ cls := 1 }, [.event, .finish]⟩] } }, { cls := 2 },
  ⟨{ cls := 1 }, [.event, .finish]⟩, by decide +kernel, by decide +kernel⟩

theorem witness_fatalErrors_5_goOn : ∃ (s : State) (h : Handling),
    s.nextError = none ∧ s.current = some h :=
  ⟨{ on with err := { on.err with handling := [⟨{ cls := 1 }, [.finish]⟩] } }, ⟨{ cls := 1 }, [.finish]⟩, by decide +kernel, by
  decide +kernel⟩

theorem witness_fatalErrors_5_highest : ∃ (s : State) (d e : Detected),
    s.nextError = some d ∧ e ∈ s.err.pending ∧ s.blocked ⟨e, s.actionsOf e⟩ = false :=
  ⟨{ on with err := { on.err with pending := [corrected1, { corrected1 with cls := 1 }] } }, { corrected1 with cls := 1 }, corrected1, by
  decide +kernel, by decide +kernel, by decide +kernel⟩

theorem witness_fatalErrors_6_corrected : ∃ (d : Detected),
    d.cls = 0 :=
  ⟨corrected1, by decide +kernel⟩

theorem witness_fatalErrors_6_step : ∃ (s : State) (d : Detected),
    d.cls = 1 ∧ (d.ctx = 0 ∨ (s.ctx d.ctx).st = .opened) :=
  ⟨on, { cls := 1 }, by decide +kernel, by decide +kernel⟩

theorem witness_fatalErrors_6_lost : ∃ (s : State) (d : Detected),
    d.cls ≠ 0 ∧ d.ctx ≠ 0 ∧ (s.ctx d.ctx).st ≠ .opened :=
  ⟨on, { cls := 2, ctx := 63 }, by decide +kernel, by decide +kernel, by decide +kernel⟩

theorem witness_fatalErrors_6_context : ∃ (s : State) (d : Detected),
    1 < d.cls ∧ (d.ctx = 0 ∨ (s.ctx d.ctx).st = .opened) :=
  ⟨on.setCtx 63 fun y => { y with st := .opened }, { cls := 2, ctx := 63 }, by decide +kernel, by decide +kernel⟩

theorem witness_fatalErrors_7 : ∃ (s : State) (d : Detected) (c q : Nat),
    d.cls = 2 ∧ d.ctx = c ∧ c ≠ 0 ∧ c < 64 ∧ (s.ctx c).st = .opened ∧ q < 64 ∧ (s.queue q).ctx = c ∧ (s.queue q).st ≠ .unbound :=
  ⟨(on.setCtx 63 fun y => { y with st := .opened }).setQueue 63 fun x => { x with ctx := 63, st := .running }, { cls := 2, ctx := 63 },
  63, 63, by decide +kernel⟩

theorem witness_clustersGoOn_1 : ∃ (s : State) (c : ClusterId) (x : Cluster),
    x = s.cls[c] ∧ (s.working c.val).isSome = true ∧ x.mre.faulted = false ∧ x.ve0.faulted = false ∧ x.ve1.faulted = false ∧ x.ru.faulted
    = false ∧ x.dma.faulted = false ∧ (∀ l ∈ [x.mre.stream, x.ve0.stream, x.ve1.stream, x.ru.stream, x.dma.stream], l.head? = some
    (BitVec.allOnes 128)) :=
  ⟨inDense (fun x =>
  { x with mre := { x.mre with stream := [bar] }, ve0 := { x.ve0 with stream := [bar] }, ve1 := { x.ve1 with stream := [bar] }, ru := { x.ru with stream := [bar] }, dma := { x.dma with stream := [bar] } }), 15, _, rfl, by decide +kernel⟩

theorem witness_clustersGoOn_2 : ∃ (s s0 : State) (now i : Nat) (c : ClusterId) (st : Step),
    s0 = s.advanceTo now ∧ s0.slotOfCluster c.val = some i ∧ (s0.slot i).step = some st ∧ s0.serving = true ∧ s0.worksOn c.val i st =
    true ∧ 1000000 ≤ s0.now - (s0.cl c.val).progress :=
  ⟨inDense (fun x => { x with dma := { x.dma with stream := [bar] } }), _, 21000000, 7, 15, step0, rfl, by decide +kernel⟩

theorem witness_clustersGoOn_3 : ∃ (s : State) (c : ClusterId),
    s.alive = true ∧ (s.cl c.val).owner = .check :=
  ⟨on.setCl 15 fun x => { x with owner := .check }, 15, by decide +kernel, by decide +kernel⟩

theorem witness_regionControl_1 : ∃ (s s0 : State) (now v0 v1 : Nat),
    s0 = s.advanceTo now ∧ s0.watched = true ∧ 550 ≤ v0 ∧ v0 ≤ 900 ∧ 550 ≤ v1 ∧ v1 ≤ 900 :=
  ⟨on, _, 20000001, 550, 900, rfl, by decide +kernel⟩

theorem witness_regionControl_1_starts : ∃ (s s0 : State) (now : Nat) (r : RegionId),
    s0 = s.advanceTo now ∧ s0.watched = true ∧ s0.regions[r].outside.getD 0 none = none ∧ s0.regions[r].outside.getD 1 none = none :=
  ⟨on, _, 20000001, 7, rfl, by decide +kernel, by decide +kernel, by decide +kernel⟩

theorem witness_regionControl_2 : ∃ (s s0 : State) (now v0 v1 since : Nat) (r : RegionId),
    s0 = s.advanceTo now ∧ s0.alive = true ∧ s0.pkg.tripped = false ∧
    (((v0 < 550 ∨ 900 < v0) ∧ s0.regions[r].outside.getD 0 none = some since) ∨
      ((v1 < 550 ∨ 900 < v1) ∧ s0.regions[r].outside.getD 1 none = some since)) ∧ since + 1000 ≤ s0.now :=
  ⟨outsideFor [none, some 19999001], _, 20000001, 549, 901, 19999001, 7, rfl, by decide +kernel, by decide +kernel, by decide +kernel,
  by decide +kernel⟩

/-- A region whose last loop ran at `t`. -/
def loopedAt (t : Nat) (resumed : Bool) : State :=
  { on with regions := on.regions.map fun r => { r with loopAt := t, resumed := resumed, output := r.heading } }

theorem witness_regionControl_3_meter : ∃ (s : State) (r current : Nat) (limit : Option Nat) (g : Region),
    g = (s.meter r current limit).regions[ix 8 r] ∧ limit.isSome = true ∧ 0 < g.setpoint :=
  ⟨{ on with regions := on.regions.map fun r => { r with setpoint := 550 } }, 7, 3000, some 0, _, rfl, by decide +kernel, by
  decide +kernel⟩

theorem witness_regionControl_3 : ∃ (s s0 : State) (now : Nat) (r : RegionId) (g : Region),
    s0 = s.advanceTo now ∧ s0.alive = true ∧ g = s0.regions[r] ∧ s0.now % 1000 = 0 ∧ s0.now ≠ g.loopAt ∧ g.idle = false ∧
    g.searching = false ∧ g.resumed = false ∧ g.loopAt + 1000 = s0.now :=
  ⟨loopedAt 20000000 false, _, 20001000, 7, _, rfl, by decide +kernel, rfl, by decide +kernel⟩

theorem witness_regionControl_3_resumed : ∃ (s s0 : State) (now : Nat) (r : RegionId) (g : Region),
    s0 = s.advanceTo now ∧ s0.alive = true ∧ g = s0.regions[r] ∧ s0.now % 1000 = 0 ∧ s0.now ≠ g.loopAt ∧ g.idle = false ∧
    g.searching = false ∧ g.resumed = true ∧ g.output = g.heading :=
  ⟨loopedAt 20000000 true, _, 20001000, 7, _, rfl, by decide +kernel, rfl, by decide +kernel⟩

theorem witness_regionControl_3_missed : ∃ (s s0 : State) (now : Nat) (r : RegionId) (g : Region),
    s0 = s.advanceTo now ∧ s0.alive = true ∧ g = s0.regions[r] ∧ s0.now % 1000 = 0 ∧ s0.now ≠ g.loopAt ∧ g.idle = false ∧
    g.searching = false ∧ g.resumed = false ∧ g.loopAt + 1000 ≠ s0.now :=
  ⟨loopedAt 19999000 false, _, 20001000, 7, _, rfl, by decide +kernel, rfl, by decide +kernel⟩

/-- Region 7's measurement at `t`. -/
def measured (t : Nat) : State :=
  { on with regions := on.regions.map fun r => { r with meas := [(t, 625, 624)], sampleAt := 19900000 } }

theorem witness_regionControl_4 : ∃ (g : Region) (pace : Nat),
    g.state = .normal ∧ 600 ≤ g.setpoint ∧ g.setpoint ≤ min 850 g.ceilLive ∧ 1600 * pace < 990000 :=
  ⟨({ ceilLive := 850, setpoint := 850 } : Region), 618, by decide +kernel, by decide +kernel, by decide +kernel, by decide +kernel⟩

theorem witness_regionControl_4_hold : ∃ (g : Region) (pace : Nat),
    g.state = .normal ∧ 600 ≤ g.setpoint ∧ g.setpoint ≤ min 850 g.ceilLive ∧ 990000 ≤ 1600 * pace ∧ 1600 * pace ≤ 1010000 :=
  ⟨({ ceilLive := 600, setpoint := 600 } : Region), 631, by decide +kernel⟩

theorem witness_regionControl_4_down : ∃ (g : Region) (pace : Nat),
    g.state = .normal ∧ 600 ≤ g.setpoint ∧ g.setpoint ≤ min 850 g.ceilLive ∧ 1010000 < 1600 * pace :=
  ⟨({ ceilLive := 850, setpoint := 600 } : Region), 632, by decide +kernel, by decide +kernel, by decide +kernel, by decide +kernel⟩

theorem witness_regionControl_5 : ∃ (s s0 s1 : State) (now : Nat) (r : RegionId) (g : Region) (ms : List (Nat × Nat × Nat)),
    s0 = s.advanceTo now ∧ s0.alive = true ∧ g = s0.regions[r] ∧ isDue Config.ms g.sampleAt s0.now = true ∧ ms = g.lastMs s0.now ∧
    s1 = s0.setRegion r.val (fun g => { g with
      sampleAt := s0.now, meas := g.meas.filter fun m => s0.now / Config.ms * Config.ms < m.1 }) ∧ ms = [] :=
  ⟨measured 20000001, _, _, 20000002, 7, _, _, rfl, by decide +kernel, rfl, by decide +kernel, rfl, rfl, by decide +kernel⟩

theorem witness_regionControl_5_some : ∃ (s s0 s1 : State) (now : Nat) (r : RegionId) (g : Region) (ms : List (Nat × Nat × Nat)),
    s0 = s.advanceTo now ∧ s0.alive = true ∧ g = s0.regions[r] ∧ isDue Config.ms g.sampleAt s0.now = true ∧ ms = g.lastMs s0.now ∧
    s1 = s0.setRegion r.val (fun g => { g with
      sampleAt := s0.now, meas := g.meas.filter fun m => s0.now / Config.ms * Config.ms < m.1 }) ∧ ms ≠ [] :=
  ⟨measured 20000000, _, _, 20000002, 7, _, _, rfl, by decide +kernel, rfl, by decide +kernel, rfl, rfl, by decide +kernel⟩

theorem witness_regionControl_5_last : ∃ (g : Region) (now stop : Nat) (m : Nat × Nat × Nat),
    stop = now / Config.ms * Config.ms ∧ m ∈ g.meas ∧ stop < m.1 + Config.ms ∧ m.1 ≤ stop :=
  ⟨(measured 20000000).regions[7], 20000002, _, (20000000, 625, 624), rfl, by decide +kernel, by decide +kernel, by decide +kernel⟩

theorem witness_regionControl_6 : ∃ (s s0 : State) (now : Nat) (r : RegionId),
    s0 = s.advanceTo now ∧ s0.alive = true ∧ s0.regions[r].searching = false ∧ ((∀ c, c = 2 * r.val ∨ c = 2 * r.val + 1 →
    ((s0.cl c).owner = .free ∨ (s0.cl c).owner = .withdrawn) ∧ 100 * Config.us ≤ s0.now - (s0.cl c).progress)) ∧
    100 * Config.us ≤ s0.now - s0.regions[r].workAt ∧ (∀ m ∈ s0.tabs.serve, s0.msgRegion m.2 ≠ r.val) :=
  ⟨on, _, 20000001, 7, rfl, by decide +kernel, by decide +kernel, (by rintro c (rfl | rfl) <;> decide +kernel), by decide +kernel,
  (fun _ h => nomatch h)⟩

theorem witness_regionControl_6_work : ∃ (s : State) (r : RegionId),
    s.regions[r].idle = true :=
  ⟨{ on with regions := on.regions.map fun r => { r with idle := true } }, 7, by decide +kernel⟩

theorem witness_regionControl_7 : ∃ (s s0 : State) (now : Nat) (r : RegionId),
    s0 = s.advanceTo now ∧ s0.alive = true ∧ s0.regions[r].idle = true :=
  ⟨{ on with regions := on.regions.map fun r => { r with idle := true } }, _, 20000001, 7, rfl, by decide +kernel, by decide +kernel⟩

theorem witness_regionControl_8 : ∃ (s s0 : State) (now : Nat),
    s0 = s.advanceTo now ∧ s0.watched = true ∧ 1406250000 ≤ s0.now - s0.recorder.hoursMark :=
  ⟨on, _, 1406250000, rfl, by decide +kernel, by decide +kernel⟩

theorem witness_regionControl_9 : ∃ (s s0 : State) (now : Nat) (r : RegionId) (v : Int),
    s0 = s.advanceTo now ∧ s0.watched = true ∧ s0.hbm.stk[r].trained = true ∧ isDue Config.ms s0.hbm.stk[r].readAt s0.now = true ∧
    -40 ≤ v ∧ v ≤ 105 :=
  ⟨{ on with hbm := { on.hbm with stk := on.hbm.stk.map fun k => { k with trained := true } } }, _, 20000001, 7, 105, rfl, by decide +kernel⟩

theorem witness_regionControl_11 : ∃ (l l' : Level) (v0 v1 v2 v3 v4 : Int),
    l ≠ .stop ∧ l' ≠ .stop ∧ v0 ≤ 82 ∧ 85 < v1 ∧ v1 ≤ 92 ∧ l' = .full ∧ 95 < v2 ∧ v2 ≤ 105 ∧ 92 < v3 ∧ v3 ≤ 95 ∧ l = .l50 ∧ l' ≠ .l50 ∧
    105 < v4 :=
  ⟨.l50, .full, 82, 86, 105, 95, 106, by decide +kernel⟩

theorem witness_regionControl_10 : ∃ (s s0 : State) (now : Nat) (r : RegionId) (v : Int),
    s0 = s.advanceTo now ∧ s0.alive = true ∧ s0.hbm.stk[r].trained = true ∧ isDue Config.ms s0.hbm.stk[r].readAt s0.now = true ∧
    105 < v ∧ v ≤ 150 ∧ s0.hbm.stk[r].level ≠ .stop :=
  ⟨{ on with hbm := { on.hbm with stk := on.hbm.stk.map fun k => { k with trained := true } } }, _, 20000001, 7, 106, rfl, by decide +kernel⟩

theorem witness_regionControl_16 : ∃ (s s0 : State) (now : Nat) (e : EngineId),
    s0 = s.advanceTo now ∧ s0.alive = true ∧ isDue Config.ms s0.oes[e].readAt s0.now = true ∧ s0.oes[e].bad = 2 ∧ s0.oes[e].fault = false ∧
    s0.oes[e].hot = false :=
  ⟨{ on with oes := on.oes.map fun x => { x with bad := 2 } }, _, 20000001, 3, rfl, by decide +kernel⟩

theorem witness_regionControl_12 : ∃ (s s0 : State) (now : Nat) (r : RegionId) (i : Fin 4) (v : Int),
    s0 = s.advanceTo now ∧ s0.watched = true ∧
    isDue (10 * Config.us) (s0.regions[r].readAt.getD i 0) s0.now = true ∧ -640 ≤ v ∧ v < 1760 :=
  ⟨on, _, 20000001, 7, 3, -640, rfl, by decide +kernel, by decide +kernel, by decide +kernel, by decide +kernel⟩

theorem witness_regionControl_13 : ∃ (s s0 : State) (now : Nat) (r : RegionId) (i : Fin 4) (v : Int),
    s0 = s.advanceTo now ∧ s0.alive = true ∧
    isDue (10 * Config.us) (s0.regions[r].readAt.getD i 0) s0.now = true ∧ 1760 ≤ v ∧ v ≤ 2400 ∧ 1 ≤ s0.regions[r].hot.getD i 0 :=
  ⟨{ on with regions := on.regions.map fun r => { r with hot := [0, 0, 0, 1] } }, _, 20000001, 7, 3, 1760, rfl, by decide +kernel⟩

theorem witness_regionControl_14 : ∃ (s s0 : State) (now : Nat) (e : EngineId) (v : Int),
    s0 = s.advanceTo now ∧ s0.alive = true ∧ isDue Config.ms s0.oes[e].readAt s0.now = true ∧ -640 ≤ v ∧ v ≤ 1440 :=
  ⟨on, _, 20000001, 3, 1440, rfl, by decide +kernel, by decide +kernel, by decide +kernel, by decide +kernel⟩

theorem witness_regionControl_15 : ∃ (s s0 : State) (now : Nat) (e : EngineId) (v : Int),
    s0 = s.advanceTo now ∧ s0.alive = true ∧ isDue Config.ms s0.oes[e].readAt s0.now = true ∧ 1520 < v ∧ v ≤ 2400 ∧ s0.oes[e].hot = false :=
  ⟨on, _, 20000001, 3, 1521, rfl, by decide +kernel⟩

/-- Memory is active, its first byte at 256 MiB of the host's addresses. -/
def based : State := { serving with cxl := { serving.cxl with hdmBase := 2 ^ 28 } }

theorem witness_hostMemory_1 : ∃ (s t : State) (hpa dpa : Nat) (ecc : EccList) (d : List Byte),
    s.dpaOf hpa = some dpa ∧ s.memOpen = true ∧ (readGran hostAgent (dpa / 64)).go (s.strike ecc) = (.ok d, t) :=
  ⟨mem based 0xBFFFFFFFC0 [1], _, 0xC00FFFFFC0, 0xBFFFFFFFC0, [(0xBFFFFFFFE0, .corrected)], _, by decide +kernel, by decide +kernel,
  go_eq _ _ (by decide +kernel)⟩

theorem witness_hostMemory_1_poison : ∃ (s t : State) (hpa dpa : Nat) (ecc : EccList) (f : AccFail),
    s.dpaOf hpa = some dpa ∧ s.memOpen = true ∧ (readGran hostAgent (dpa / 64)).go (s.strike ecc) = (.error f, t) :=
  ⟨mem based 0xBFFFFFFFC0 [1], _, 0xC00FFFFFC0, 0xBFFFFFFFC0, [(0xBFFFFFFFE0, .uncorrectable)], _, by decide +kernel, by
  decide +kernel, error_eq _ _ (by decide +kernel)⟩

theorem witness_hostMemory_2 : ∃ (s t : State) (hpa dpa : Nat) (excl : Bool) (ecc : EccList) (d : List Byte),
    s.dpaOf hpa = some dpa ∧ s.memOpen = true ∧ (readGran hostAgent (dpa / 64)).go ((s.strike ecc).filterAdd dpa excl) = (.ok d, t) :=
  ⟨mem based 0xBFFFFFFFC0 [1], _, 0xC00FFFFFC0, 0xBFFFFFFFC0, true, [], _, by decide +kernel, by decide +kernel, go_eq _ _ (by
  decide +kernel)⟩

theorem witness_hostMemory_3 : ∃ (s t : State) (hpa dpa : Nat) (data : List Byte),
    s.memOk ∧ s.poolOk ∧ s.dpaOf hpa = some dpa ∧ dpa % 64 = 0 ∧ data.length = 64 ∧ s.memOpen = true ∧ exec (.hostMemWrite hpa data
    false) s = .next t :=
  ⟨lineOn (mem based 0x4000 [1]) 0x3F, _, 0x10003FC0, 0x3FC0, List.replicate 64 2, (show memWf _ = true by decide +kernel), (show poolWf
  _ = true by decide +kernel), by decide +kernel, by decide +kernel, by decide +kernel, by decide +kernel, next_eq State.reset _ (by
  decide +kernel)⟩

theorem witness_hostMemory_3_outside : ∃ (dpa a : Nat),
    a < dpa ∨ dpa + 64 ≤ a :=
  ⟨0x3FC0, 0x4000, by decide +kernel⟩

theorem witness_hostMemory_4 : ∃ (s : State) (hpa dpa : Nat) (data : List Byte),
    s.dpaOf hpa = some dpa ∧ data.length = 64 ∧ s.memOpen = true :=
  ⟨based, 0xC00FFFFFC0, 0xBFFFFFFFC0, List.replicate 64 2, by decide +kernel, by decide +kernel, by decide +kernel⟩

/-- The request outstanding, otherwise. -/
def withReq (s : State) (f : HostReq → HostReq) : State := { s with xlat := { s.xlat with reqs := s.xlat.reqs.map f } }

/-- The request outstanding has been given up. -/
def forsaken (k : ReqKind) : State := withReq (asking k (.dma 15)) fun r => { r with abandoned := true }

theorem witness_hostMemory_5 : ∃ (s : State) (line : Nat) (inv : Bool) (a b : List (Nat × Bool)),
    s.alive = true ∧ s.cxl.snoops = a ++ (line, inv) :: b ∧ (∀ x ∈ a, x.1 ≠ line) :=
  ⟨{ serving with cxl := { serving.cxl with snoops := [(0, false), (64, false), (64, true)] } }, 64, false, [(0, false)], [(64, true)], by
  decide +kernel, by decide +kernel, by decide +kernel⟩

theorem witness_hostAnswers_2_redo : ∃ (b : Bulk) (base size n : Nat),
    n = min b.len (base + size - b.iova) ∧ b.redo = true :=
  ⟨{ write := false, pasid := 5, iova := 0x1FFF, len := 2, next := 0x1000, redo := true }, 0x1000, 4096, 1, by decide +kernel, by
  decide +kernel⟩

theorem witness_hostMemory_7 : ∃ (s : State) (line : Nat) (inv : Bool),
    s.alive = true ∧ s.cxl.snoops.find? (·.1 == line) = some (line, inv) :=
  ⟨{ serving with cxl := { serving.cxl with snoops := [(64, false)] } }, 64, false, by decide +kernel, by decide +kernel⟩

theorem witness_hostMemory_8 : ∃ (s : State) (g : Nat),
    s.tiers.sector g = none ∧ g ∈ s.hbm.poison :=
  ⟨{ serving with hbm := { serving.hbm with poison := [0x2FFFFFFFF] } }, 0x2FFFFFFFF, by decide +kernel, by decide +kernel⟩

theorem witness_hostMemory_9 : ∃ (s t : State) (ag : Agent) (g n : Nat) (bad : Bool) (r : Except AccFail (List Byte)),
    s.tiers.sector g = none ∧ g ∉ s.hbm.poison ∧ s.hbm.decode g = (n, bad) ∧ (readGran ag g).go s = (r, t) ∧ bad = true :=
  ⟨serving.strike [(0, .corrected), (32, .uncorrectable)], _, hostAgent, 0, 1, true, _, by decide +kernel, by decide +kernel, by
  decide +kernel, rfl, rfl⟩

theorem witness_hostMemory_10 : ∃ (s t : State) (ag : Agent) (g n : Nat) (bad : Bool) (r : Except AccFail (List Byte)),
    s.tiers.sector g = none ∧ g ∉ s.hbm.poison ∧ s.hbm.decode g = (n, bad) ∧ (readGran ag g).go s = (r, t) ∧ bad = false :=
  ⟨serving.strike [(0xBFFFFFFFC0, .corrected), (0xBFFFFFFFFF, .corrected)], _, hostAgent, 0x2FFFFFFFF, 2, false, _, by decide +kernel, by
  decide +kernel, by decide +kernel, rfl, rfl⟩

theorem witness_hostMemory_11 : ∃ (h : Hbm) (g : Nat),
    ∀ e ∈ h.latent, e.1 / 64 ≠ g :=
  ⟨{ latent := [(64, .corrected)] }, 0, by decide +kernel⟩

theorem witness_hostLink_1 : ∃ (s : State),
    s.alive = true ∧ s.cxl.linkUp = true :=
  ⟨on, by decide +kernel, by decide +kernel⟩

theorem witness_hostLink_2 : ∃ (s t : State),
    s.alive = true ∧ s.cxl.linkUp = true ∧ t =
    { s with cxl := { s.cxl with ctr := { s.cxl.ctr with p2pRejected := s.cxl.ctr.p2pRejected + 1 } } } :=
  ⟨on, _, by decide +kernel, by decide +kernel, rfl⟩

theorem witness_hostLink_3 : ∃ (s : State),
    s.pkg.powered = true ∧ s.pkg.perstN = true ∧ s.cxl.linkUp = true :=
  ⟨on, by decide +kernel, by decide +kernel, by decide +kernel⟩

/-- A bulk transfer from 0x1000 on that waits for its translation. -/
def translating (inter : Bool) : State :=
  (asking .ats (.job ⟨0, 1⟩)).setJob ⟨0, 1⟩ fun x => { x with
    bulk := some { write := false, pasid := 5, iova := 0x1000, len := 0x2000, next := 0x1000, req := some 3, inter := inter } }

theorem witness_hostLink_5 : ∃ (s s0 t : State) (now width rate : Nat),
    s0 = s.advanceTo now ∧ s0.alive = true ∧ s0.cxl.linkUp = true ∧ (width = 4 ∨ width = 8 ∨ width = 16) ∧ (rate = 1 ∨ rate = 2) ∧ t =
    { s0 with cxl := { s0.cxl with width := width, rate := rate, ctr := { s0.cxl.ctr with linkRecoveries := s0.cxl.ctr.linkRecoveries + 1 } } } :=
  ⟨on, _, _, 20000001, 8, 1, rfl, by decide +kernel, by decide +kernel, by decide +kernel, by decide +kernel, rfl⟩

theorem witness_hostLink_6 : ∃ (s s0 : State) (now : Nat),
    s0 = s.advanceTo now ∧ s0.alive = true ∧ s0.cxl.linkUp = true :=
  ⟨on, _, 20000001, rfl, by decide +kernel, by decide +kernel⟩

theorem witness_hostAnswers_2 : ∃ (s d : State) (id size base : Nat) (r : HostReq) (j : JobRef) (b : Bulk),
    s.alive = true ∧ d = s.dropReq id ∧ s.xlat.reqs.find? (fun r => r.id == id && r.kind = .ats) = some r ∧ r.abandoned = false ∧ r.owner
    = .job j ∧ (d.job? j).bind (·.bulk) = some b ∧ base = r.iova / size * size ∧ b.inter = false :=
  ⟨translating false, _, 3, 4096, _, _, ⟨0, 1⟩, _, by decide +kernel, rfl, some_eq (by decide +kernel), by decide +kernel, by
  decide +kernel, bulk_eq (by decide +kernel), rfl, by decide +kernel⟩

theorem witness_hostAnswers_2_inter : ∃ (s d : State) (id size base : Nat) (r : HostReq) (j : JobRef) (b : Bulk),
    s.alive = true ∧ d = s.dropReq id ∧ s.xlat.reqs.find? (fun r => r.id == id && r.kind = .ats) = some r ∧ r.abandoned = false ∧ r.owner
    = .job j ∧ (d.job? j).bind (·.bulk) = some b ∧ base = r.iova / size * size ∧ b.inter = true :=
  ⟨translating true, _, 3, 4096, _, _, ⟨0, 1⟩, _, by decide +kernel, rfl, some_eq (by decide +kernel), by decide +kernel, by
  decide +kernel, bulk_eq (by decide +kernel), rfl, by decide +kernel⟩

theorem witness_hostAnswers_2_piece : ∃ (b : Bulk) (base size n : Nat),
    n = min b.len (base + size - b.iova) ∧ b.redo = false :=
  ⟨{ write := false, pasid := 5, iova := 0x1FFF, len := 2, next := 0x1FFF }, 0x1000, 4096, 1, by decide +kernel, by decide +kernel⟩

theorem witness_hostAnswers_6_abandoned : ∃ (s : State) (id : Nat) (r : HostReq),
    s.alive = true ∧ s.xlat.reqs.find? (fun r => r.id == id && r.kind = .page && r.len = 1) = some r ∧ r.abandoned = true :=
  ⟨forsaken .page, 3, _, by decide +kernel, some_eq (by decide +kernel), by decide +kernel⟩

theorem witness_hostAnswers_3 : ∃ (s : State) (id c : Nat) (r : HostReq),
    s.alive = true ∧ s.xlat.reqs.find? (fun r => r.id == id && r.kind = .ats) = some r ∧ r.abandoned = false ∧ r.owner = .dma c :=
  ⟨asking .ats (.dma 15), 3, 15, _, by decide +kernel, some_eq (by decide +kernel), by decide +kernel, by decide +kernel⟩

theorem witness_hostAnswers_4 : ∃ (s t : State) (id : Nat) (r : HostReq) (j : JobRef) (rid : Nat),
    s.alive = true ∧ s.xlat.reqs.find? (fun r => r.id == id && r.kind = .page && r.len = 1) = some r ∧ r.abandoned = false ∧ r.owner =
    .job j ∧ ((s.dropReq id).resumeWaits r.owner).sendAts r.owner r.pasid r.iova r.isWrite = (t, rid) :=
  ⟨asking .page (.job ⟨0, 1⟩), _, 3, _, ⟨0, 1⟩, _, by decide +kernel, some_eq (by decide +kernel), by decide +kernel, by decide +kernel,
  pair_eq _⟩

theorem witness_hostAnswers_5 : ∃ (s t : State) (id : Nat) (r : HostReq) (c rid : Nat),
    s.alive = true ∧ s.xlat.reqs.find? (fun r => r.id == id && r.kind = .page && r.len = 1) = some r ∧ r.abandoned = false ∧ r.owner =
    .dma c ∧ ((s.dropReq id).resumeWaits r.owner).sendAts r.owner r.pasid r.iova r.isWrite = (t, rid) :=
  ⟨asking .page (.dma 15), _, 3, _, 15, _, by decide +kernel, some_eq (by decide +kernel), by decide +kernel, by decide +kernel, pair_eq
  _⟩

theorem witness_hostAnswers_6 : ∃ (s d : State) (id : Nat) (r : HostReq),
    s.alive = true ∧ s.xlat.reqs.find? (fun r => r.id == id && r.kind = .page && r.len = 1) = some r ∧ r.abandoned = false ∧ d =
    (s.dropReq id).resumeWaits r.owner :=
  ⟨asking .page (.dma 15), _, 3, _, by decide +kernel, some_eq (by decide +kernel), by decide +kernel, rfl⟩

theorem witness_hostAnswers_7 : ∃ (s s0 : State) (now id : Nat) (r : HostReq),
    s0 = s.advanceTo now ∧ s0.alive = true ∧ s0.xlat.reqs.find? (fun r => r.id == id && r.kind = .page) = some r ∧ r.abandoned = false ∧
    10000000 ≤ s0.now - r.since ∧ r.len ≠ 0 :=
  ⟨asking .page (.dma 15), _, 29000000, 3, _, rfl, by decide +kernel, some_eq (by decide +kernel), by decide +kernel, by decide +kernel, by
  decide +kernel⟩

/-- The page request waits for another of its page group to be answered. -/
theorem witness_hostAnswers_7_unsent : ∃ (s s0 : State) (now id : Nat) (r : HostReq),
    s0 = s.advanceTo now ∧ s0.alive = true ∧ s0.xlat.reqs.find? (fun r => r.id == id && r.kind = .page) = some r ∧ r.abandoned = false ∧
    10000000 ≤ s0.now - r.since ∧ r.len = 0 :=
  ⟨withReq (asking .page (.dma 15)) fun r => { r with len := 0 }, _, 29000000, 3, _, rfl, by decide +kernel, some_eq (by decide +kernel), by
  decide +kernel, by decide +kernel, by decide +kernel⟩

theorem witness_hostAnswers_8 : ∃ (s s0 : State) (now id : Nat) (b : LineBack) (r : HostReq),
    s0 = s.advanceTo now ∧ s0.alive = true ∧ s0.xlat.reqs.find? (fun r => r.id == id && (r.kind = .read || r.kind = .zero)) = some r ∧
    r.kind = .read ∧ (r.inter = false ∨ b.poison = false) :=
  ⟨asking .read (.dma 15), _, 20000001, 3, ⟨[1], true⟩, _, rfl, by decide +kernel, some_eq (by decide +kernel), by decide +kernel, by
  decide +kernel⟩

theorem witness_hostAnswers_8_poison : ∃ (s s0 : State) (now id : Nat) (b : LineBack) (r : HostReq),
    s0 = s.advanceTo now ∧ s0.alive = true ∧ s0.xlat.reqs.find? (fun r => r.id == id && (r.kind = .read || r.kind = .zero)) = some r ∧
    r.kind = .read ∧ r.inter = true ∧ b.poison = true :=
  ⟨withReq (asking .read (.job ⟨0, 1⟩)) fun r => { r with inter := true }, _, 20000001, 3, ⟨[1], true⟩, _, rfl, by decide +kernel, some_eq
  (by decide +kernel), by decide +kernel, by decide +kernel, by decide +kernel⟩

theorem witness_hostAnswers_9 : ∃ (s s0 : State) (now id : Nat) (r : HostReq) (j : JobRef),
    s0 = s.advanceTo now ∧ s0.alive = true ∧ s0.xlat.reqs.find? (fun r => r.id == id && (r.kind = .read || r.kind = .zero)) = some r ∧
    r.kind = .zero ∧ r.owner = .job j :=
  ⟨asking .zero (.job ⟨0, 1⟩), _, 20000001, 3, _, ⟨0, 1⟩, rfl, by decide +kernel, some_eq (by decide +kernel), by decide +kernel, by
  decide +kernel⟩

theorem witness_hostAnswers_10 : ∃ (s t : State) (id : Nat) (r : HostReq),
    s.alive = true ∧ s.xlat.reqs.find? (fun r => r.id == id && r.kind = .write) = some r ∧ t =
    { s with queues := s.queues.map fun q => { q with jobs := q.jobs.map fun x => { x with observe := x.observe.filter (· ≠ id) } } } :=
  ⟨asking .write (.dma 15), _, 3, _, by decide +kernel, some_eq (by decide +kernel), rfl⟩

theorem witness_invalidations_1 : ∃ (s s0 t : State) (now iova len : Nat) (pasid : Option Nat) (v : Invalidate) (x : Xlat),
    s0 = s.advanceTo now ∧ s0.alive = true ∧ s0.xlat.invs.length < 32 ∧ v = ⟨pasid, iova, len, s0.now, false⟩ ∧
    x = { s0.xlat with
      atc := (s0.xlat.atc.filter fun t => !(v.hits t.pasid t.iova t.size && !s0.xlat.inUse t)).map fun (t : Translation) =>
        if v.hits t.pasid t.iova t.size = true then { t with withdrawn := true } else t,
      held := s0.xlat.held.map fun (t : Translation) => if v.hits t.pasid t.iova t.size = true then { t with withdrawn := true } else t,
      reqs := s0.xlat.reqs.map fun (r : HostReq) =>
        if ((r.kind = .read || r.kind = .write) && v.hits r.pasid r.range.1 r.range.2) = true then { r with withdrawn := true } else r,
      ctr := { s0.xlat.ctr with invalidations := s0.xlat.ctr.invalidations + 1 } } ∧
    t = { s0 with xlat := { x with invs := x.invs ++ [{ v with delayed := !(x.undrained v).isEmpty }] } } :=
  ⟨asking .read (.dma 15), _, _, 20000001, 0x1000, 0x1000, some 5, _, _, rfl, by decide +kernel, by decide +kernel, rfl, rfl, rfl⟩

theorem witness_tierStalls_4_paused : ∃ (s s0 : State) (now wait p : Nat) (w : TierWait),
    s0 = s.advanceTo now ∧ s0.tiers.waits.find? (·.id == wait) = some w ∧ w.length s0.now ≤ 2000 ∧ w.paused = some p :=
  ⟨{ stalled 3 with tiers := { on.tiers with waits := [⟨4, 3, 5, .dma 15, 0, 0, false, some 7, none, []⟩] } }, _, 20000001, 4, 7, _, rfl,
  some_eq (by decide +kernel), by decide +kernel, by decide +kernel⟩

theorem witness_invalidations_2 : ∃ (s s0 : State) (now : Nat),
    s0 = s.advanceTo now ∧ s0.alive = true :=
  ⟨on, _, 20000001, rfl, by decide +kernel⟩

theorem witness_invalidations_3 : ∃ (s : State) (v : Invalidate) (rest : List Invalidate),
    s.xlat.invs = v :: rest ∧ s.xlat.undrained v = [] :=
  ⟨{ on with xlat := { on.xlat with invs := [inv0] } }, inv0, [], by decide +kernel, by decide +kernel⟩

theorem witness_invalidations_3_held : ∃ (s : State) (v : Invalidate) (rest : List Invalidate),
    s.xlat.invs = v :: rest ∧ s.xlat.undrained v ≠ [] :=
  ⟨withdrawing, inv0, [], by decide +kernel, by decide +kernel⟩

theorem witness_invalidations_4 : ∃ (s s0 t : State) (now : Nat) (v : Invalidate) (rest : List Invalidate) (late : List HostReq),
    s0 = s.advanceTo now ∧ s0.alive = true ∧ s0.xlat.invs = v :: rest ∧ late = s0.xlat.undrained v ∧ late ≠ [] ∧ 100000 ≤ s0.now -
    v.arrived ∧ t =
    ({ s0 with xlat := { s0.xlat with reqs := s0.xlat.reqs.map fun (r : HostReq) => if late.any (·.id == r.id) = true then { r with abandoned := true, forsaken := true } else r, ctr := { s0.xlat.ctr with withdrawals := s0.xlat.ctr.withdrawals + late.length } } }).releaseLeaving :=
  ⟨withdrawing, _, _, 20000000, inv0, [], _, rfl, by decide +kernel, by decide +kernel, rfl, by decide +kernel, by decide +kernel, rfl⟩

theorem witness_tierStalls_1 : ∃ (s s0 : State) (now wait : Nat) (w : TierWait),
    s0 = s.advanceTo now ∧ s0.alive = true ∧ s0.tiers.waits.find? (·.id == wait) = some w ∧ w.counted = false ∧ 2000 < w.length s0.now :=
  ⟨stalled 3, _, 20000001, 4, _, rfl, by decide +kernel, some_eq (by decide +kernel), by decide +kernel, by decide +kernel⟩

theorem witness_tierStalls_2 : ∃ (s s0 t : State) (now wait : Nat) (w : TierWait),
    s0 = s.advanceTo now ∧ s0.alive = true ∧ s0.tiers.waits.find? (·.id == wait) = some w ∧ w.paused = none ∧ (if w.tier = 3 then 100000
    else 1000000) ≤ w.length s0.now ∧ t = s0.closeWait w ∧ (w.page = none ∨ w.data = []) :=
  ⟨stalled 4, _, _, 20998000, 4, _, rfl, by decide +kernel, some_eq (by decide +kernel), by decide +kernel, by decide +kernel, rfl, .inl
  (by decide +kernel)⟩

/-- A write of cluster 15 that waits for a borrowed page. -/
def writing3 : State :=
  { on with tiers := { on.tiers with
      pool := [.frame 70 63 7 0 [] .keep (some 5)]
      waits := [{ id := 4, tier := 3, since := 19998000, owner := .dma 15, addr := 0x40007FFF, page := some (70, 63, 7), data := [9] }] } }

theorem witness_tierStalls_2_write : ∃ (s s0 t : State) (now wait : Nat) (w : TierWait) (l i p : Nat)
    (late : List (Nat × Nat × Nat × Nat × List Byte)),
    s0 = s.advanceTo now ∧ s0.alive = true ∧ s0.tiers.waits.find? (·.id == wait) = some w ∧ w.paused = none ∧ (if w.tier = 3 then 100000
    else 1000000) ≤ w.length s0.now ∧ t = s0.closeWait w ∧ w.page = some (l, i, p) ∧ w.data ≠ [] ∧ late = if (t.tiers.frameOf l i
    p).isSome = true then [(l, i, p, w.addr % 4096, w.data)] else [] :=
  ⟨writing3, _, _, 20098000, 4, _, 70, 63, 7, _, rfl, by decide +kernel, some_eq (by decide +kernel), by decide +kernel, by
  decide +kernel, rfl, by decide +kernel, by decide +kernel, rfl⟩

theorem witness_tierStalls_3 : ∃ (s s0 : State) (now wait : Nat) (w : TierWait),
    s0 = s.advanceTo now ∧ s0.tiers.waits.find? (·.id == wait) = some w ∧ w.length s0.now ≤ 2000 :=
  ⟨stalled 3, _, 20000000, 4, _, rfl, some_eq (by decide +kernel), by decide +kernel⟩

theorem witness_tierStalls_4 : ∃ (w v : TierWait) (p : Nat),
    w.paused = none ∧ v.paused = some p :=
  ⟨⟨4, 4, 5, .dma 15, 0, 0, false, none, none, []⟩, ⟨4, 4, 5, .dma 15, 0, 0, false, some 7, none, []⟩, 7, by decide +kernel, by
  decide +kernel⟩

/-- A staged brim that came at `t`, and a step in each slot of `l`. -/
def brimStaged (t : Nat) (l : List Nat) : State :=
  l.foldl (fun s i => s.setSlot i fun x => { x with phase := .dense, step := some step0 })
    { on with sched := { on.sched with brimStaged := some 1, arrivals := [(.brim, t)] } }

theorem witness_stepsWait_1 : ∃ (s s0 : State) (q : QueueId) (j : Job) (r : Resident),
    s.serving = true ∧ s.choose.startJob q.val (isOp 0x30) = some j ∧ s0 = s.choose.begun q j ∧ s0.stepOk j = true ∧ s0.model.res = some
    r :=
  ⟨jobOn (withProgram on) runStep0, _, 0, _, _, by decide +kernel, some_eq (by decide +kernel), rfl, by decide +kernel, rfl⟩

theorem witness_stepsWait_2 : ∃ (s : State) (q : Nat) (j : Job),
    s.candidate q = some j :=
  ⟨candidate0, 0, _, some_eq (by decide +kernel)⟩

theorem witness_seamsPass_1 : ∃ (s u : State) (now i : Nat) (rt : Bool) (j : JobRef),
    u = (s.advanceTo now).choose ∧ (s.advanceTo now).serving = true ∧ (s.advanceTo now).sched.binding = none ∧ u.admission = some (rt, j)
    ∧ u.lowestFree = some i :=
  ⟨candidate0, _, 20000001, 0, false, ⟨0, 1⟩, rfl, by decide +kernel, by decide +kernel, by decide +kernel, by decide +kernel⟩

theorem witness_seamsPass_2 : ∃ (s u : State) (now : Nat) (b : Binding),
    u = s.advanceTo now ∧ u.serving = true ∧ u.sched.binding = some b :=
  ⟨candidate0.setBinding (some ⟨false, ⟨0, 1⟩, 0⟩), _, 20000001, ⟨false, ⟨0, 1⟩, 0⟩, rfl, by decide +kernel, by decide +kernel⟩

theorem witness_seamsPass_3 : ∃ (s u : State) (now : Nat),
    u = (s.advanceTo now).choose ∧ (s.advanceTo now).serving = true ∧ (s.advanceTo now).sched.binding = none ∧ (u.admission = none ∨
    u.lowestFree = none) :=
  ⟨on, _, 20000001, rfl, by decide +kernel, by decide +kernel, by decide +kernel⟩

theorem witness_seamsPass_4 : ∃ (s u : State) (now t : Nat),
    u = (s.advanceTo now).choose ∧ (s.advanceTo now).serving = true ∧ u.sched.binding = none ∧ u.admission = none ∧ u.waitingSince = some
    t ∧ 10000 ≤ u.now - max u.sched.lastSeamAt t ∧ (∃ i < 8, (u.slot i).phase = .free) :=
  ⟨brimStaged 19990001 (List.range 7), _, 20000001, 19990001, rfl, by decide +kernel⟩

/-- Program 0 with a section of 64 bytes at 0x200000, about to be fetched. -/
def fetching0 (s : State) : State :=
  (jobOn { s with model := { s.model with res := some { model0 with programs := [{ program0 with dva := 0x200000, bytes := 64 }] } } }
    { runStep0 with phase := .running }).choose

theorem witness_seamsPass_5 : ∃ (s u : State) (now : Nat),
    u = (s.advanceTo now).choose ∧ (s.advanceTo now).serving = true ∧ (∀ i < 8, (u.slot i).phase ≠ .free) :=
  ⟨brimStaged 5 (List.range 8), _, 20000001, rfl, by decide +kernel, by decide +kernel⟩

theorem witness_seamsPass_6 : ∃ (s u : State) (now t : Nat),
    u = (s.advanceTo now).choose ∧ (s.advanceTo now).serving = true ∧ u.waitingSince = some t ∧ u.now - max u.sched.lastSeamAt t < 10000
    :=
  ⟨brimStaged 19990002 [], _, 20000001, 19990002, rfl, by decide +kernel, by decide +kernel, by decide +kernel⟩

theorem witness_seamsPass_7 : ∃ (s : State) (t : Nat) (i : WaitItem),
    s.waitingSince = some t ∧ i ∈ s.waitItems ∧ s.sched.arrival i = some t :=
  ⟨brimStaged 5 [], 5, .brim, by decide +kernel, by decide +kernel, by decide +kernel⟩

theorem witness_seamsPass_8 : ∃ (t : Table) (x : Shadow),
    t.swap = .staged ∧ t.shadow = some x :=
  ⟨{ table0 with swap := .staged, shadow := some ⟨⟨2, 0x20A000, []⟩, 0, false⟩ }, _, by decide +kernel, rfl⟩

theorem witness_admissionBinds_1 : ∃ (s : State) (j : JobRef) (x : Job) (p : Program) (i k : Nat),
    s.job? j = some x ∧ s.programOf x = some p ∧ i < 8 ∧ k < 8 ∧ k ≠ i :=
  ⟨candidate0, ⟨0, 1⟩, _, program0, 7, 0, some_eq (by decide +kernel), by decide +kernel, by decide +kernel, by decide +kernel, by
  decide +kernel⟩

theorem witness_admissionBinds_2 : ∃ (s t : State) (b : Binding) (ag : Agent),
    ag = { Agent.cp 2 (t.ctxOf b.job.q) b.job with space := some 0 } ∧ s.canBind b = false :=
  ⟨jobOn (withProgram on) { runStep0 with phase := .done }, on, ⟨false, ⟨0, 1⟩, 0⟩, _, rfl, by decide +kernel⟩

theorem witness_admissionBinds_2_binds : ∃ (s t : State) (b : Binding) (ag : Agent),
    ag = { Agent.cp 2 (t.ctxOf b.job.q) b.job with space := some 0 } ∧ s.canBind b = true ∧ s.fetchProgram b.job = (.ok (), t) :=
  ⟨fetching0 on, _, ⟨false, ⟨0, 1⟩, 0⟩, _, rfl, by decide +kernel, Prod.ext (okUnit (by decide +kernel)) rfl⟩

/-- The host holds the program's line exclusive. -/
theorem witness_admissionBinds_2_snoop : ∃ (s t : State) (b : Binding) (ag : Agent) (l : Nat) (i : Bool),
    ag = { Agent.cp 2 (t.ctxOf b.job.q) b.job with space := some 0 } ∧ s.canBind b = true ∧
    s.fetchProgram b.job = (.error (.snoop l i), t) :=
  ⟨fetching0 { on with cxl := { on.cxl with filter := [⟨0x200000, true⟩] } }, _, ⟨false, ⟨0, 1⟩, 0⟩, _, 0x200000, false, rfl, by
  decide +kernel, Prod.ext (by decide +kernel) rfl⟩

/-- The program's line is poisoned. -/
theorem witness_admissionBinds_2_poison : ∃ (s t : State) (b : Binding) (ag : Agent) (f : AccFail),
    ag = { Agent.cp 2 (t.ctxOf b.job.q) b.job with space := some 0 } ∧ s.canBind b = true ∧
    s.fetchProgram b.job = (.error f, t) ∧ f ≠ .hold ∧ (∀ l i, f ≠ .snoop l i) :=
  ⟨fetching0 { on with hbm := { on.hbm with poison := [0x8000] } }, _, ⟨false, ⟨0, 1⟩, 0⟩, _, .poison 0x200000 false 0, rfl, by
  decide +kernel, Prod.ext (by decide +kernel) rfl, by decide +kernel, (fun _ _ h => nomatch h)⟩

/-- The outputs of cluster 15's share go to a poisoned page of a borrowed lease. -/
theorem witness_stepsEnd_2_fault : ∃ (s t : State) (c : ClusterId) (i : Nat) (st : Step) (ag : Agent) (f : AccFail),
    s.slotOfCluster c.val = some i ∧ (s.slot i).step = some st ∧ s.serving = true ∧ (s.slot i).phase = .emit ∧ st.halted = false ∧ c.val
    ∈ st.left ∧ st.pushedOf c.val = none ∧ ag = s.dmaAgent c.val i st none ∧
    (emitWrites ag st c.val (s.shareOut c.val st)).go s = (.error f, t) ∧ f ≠ .hold ∧ (∀ l b, f ≠ .snoop l b) ∧
    (∀ l i p d b w, f ≠ .page l i p d b w) :=
  ⟨(inPhase on .emit stepFar).setCl 15 fun x => { x with owner := .step 7 }, _, 15, 7, stepFar, _, .dva 0x31 3 0x400000000000 15, by decide +kernel, by
  decide +kernel, by decide +kernel, by decide +kernel, by decide +kernel, by decide +kernel, by decide +kernel, rfl,
  fail_eq _ _ _ (by decide +kernel), by decide +kernel, (fun _ _ h => nomatch h), (fun _ _ _ _ _ _ h => nomatch h)⟩

theorem witness_admissionBinds_3 : ∃ (s : State) (b : Binding),
    ∀ x ∈ (s.queue b.job.q).jobs, x.seq = b.job.seq → x.ended = true :=
  ⟨jobOn (withProgram on) { runStep0 with phase := .done }, ⟨false, ⟨0, 1⟩, 0⟩, by decide +kernel⟩

theorem witness_admissionBinds_4 : ∃ (s : State) (i k : Nat),
    s.lowestFree = some i ∧ k < i :=
  ⟨brimStaged 5 [0], 1, 0, by decide +kernel, by decide +kernel⟩

theorem witness_admissionBinds_5 : ∃ (s : State) (brim c d : Nat),
    c ∈ s.openCls false brim ∧ c ∈ s.openCls true brim ∧ c ∈ Config.clusterOrder.drop brim ∧ d ∈ s.openCls true brim :=
  ⟨on, 15, Config.clusterOrder.getD 15 0, Config.clusterOrder.getD 0 0, by decide +kernel, by decide +kernel, by decide +kernel, by
  decide +kernel⟩

theorem witness_lookupPhases_1 : ∃ (s u t : State) (i : SlotId) (st : Step) (p : Prefetched),
    (s.slot i.val).step = some st ∧ s.serving = true ∧ (s.slot i.val).phase = .prefetch ∧ st.halted = false ∧ s.prefetchTurn i.val = true
    ∧ u = (if s.bagFault i.val = true then s.upset (s.slot i.val).ctx else s) ∧ (ExceptT.run (u.prefetch i.val st (u.slot
    i.val).stepSeq)).run u = (.ok p, t) :=
  ⟨inPhase on .prefetch, inPhase on .prefetch, inPhase on .prefetch, 7, step0, ⟨{}, [], 0, 0⟩, by decide +kernel, by decide +kernel, by
  decide +kernel, by decide +kernel, by decide +kernel, rfl, rfl⟩

theorem witness_lookupPhases_2 : ∃ (s : State) (i : Nat) (st : Step) (p : Prefetched),
    (s.slot i).step = some st ∧ st.expired = false ∧ p.z.entries = [] ∧ st.halted = false :=
  ⟨inPhase on .prefetch, 7, step0, ⟨{}, [], 0, 0⟩, by decide +kernel, by decide +kernel, by decide +kernel, by decide +kernel⟩

theorem witness_lookupPhases_3 : ∃ (s : State) (i : SlotId),
    s.alive = true ∧ s.roundOpen i.val = true :=
  ⟨inPhase on .lookup { step0 with entries := [⟨4095, 65536, 0, 0, .none, [70], [], [], none, [], [], none, false, 0⟩] }, 7, by
  decide +kernel, by decide +kernel⟩

theorem witness_lookupPhases_4 : ∃ (s u t : State) (i : SlotId) (st : Step) (a : Known × List (Nat × Nat × Nat × List Byte)),
    (s.slot i.val).step = some st ∧ s.serving = true ∧ (s.slot i.val).phase = .lookup ∧ st.halted = false ∧ (∀ e ∈ st.entries,
    e.answer.isSome = true) ∧ u = (if s.resultsPast st = true then s.upset (s.slot i.val).ctx else s) ∧ (ExceptT.run (u.finishReads
    i.val st)).run u = (.ok a, t) :=
  ⟨inPhase on .lookup, inPhase on .lookup, _, 7, step0, _, by decide +kernel, by decide +kernel, by decide +kernel, by decide +kernel, by
  decide +kernel, rfl, rfl⟩

theorem witness_limitsExpire_1 : ∃ (s s0 : State) (now : Nat) (i : SlotId) (st : Step),
    s0 = s.advanceTo now ∧ (s0.slot i.val).step = some st ∧ s0.alive = true ∧ st.halted = false ∧ st.expired = false ∧ st.budget ≠ 0 ∧
    ((s0.slot i.val).phase = .prefetch ∨ (s0.slot i.val).phase = .lookup) ∧ 100 * st.budget ≤ s0.now - st.tAdm :=
  ⟨inPhase on .lookup, _, 20000100, 7, step0, rfl, by decide +kernel⟩

theorem witness_limitsExpire_1_before : ∃ (s s0 : State) (now : Nat) (i : SlotId) (st : Step),
    s0 = s.advanceTo now ∧ (s0.slot i.val).step = some st ∧ s0.alive = true ∧ st.halted = false ∧ st.expired = false ∧ st.budget ≠ 0 ∧
    ((s0.slot i.val).phase = .prefetch ∨ (s0.slot i.val).phase = .lookup) ∧ s0.now - st.tAdm < 100 * st.budget :=
  ⟨inPhase on .prefetch, _, 20000099, 7, step0, rfl, by decide +kernel⟩

theorem witness_limitsExpire_2 : ∃ (s s0 : State) (now : Nat) (i : SlotId) (st : Step),
    s0 = s.advanceTo now ∧ (s0.slot i.val).step = some st ∧ s0.alive = true ∧ st.deadline ≠ 0 ∧ (s0.slot i.val).phase ≠ .free ∧ 100 *
    st.deadline ≤ s0.now - st.tAdm :=
  ⟨inPhase on .discard, _, 20000100, 7, step0, rfl, by decide +kernel⟩

theorem witness_limitsExpire_2_before : ∃ (s s0 : State) (now : Nat) (i : SlotId) (st : Step),
    s0 = s.advanceTo now ∧ (s0.slot i.val).step = some st ∧ s0.alive = true ∧ st.deadline ≠ 0 ∧ (s0.slot i.val).phase ≠ .free ∧ s0.now -
    st.tAdm < 100 * st.deadline :=
  ⟨inPhase on .lookup, _, 20000099, 7, step0, rfl, by decide +kernel⟩

theorem witness_hedgesGoOut_2 : ∃ (d l d' l' : Nat),
    l ≠ 0 ∧ d ≠ 0 ∧ d < l ∧ (l' = 0 ∨ d' = 0 ∨ l' ≤ d') :=
  ⟨1, 2, 5, 5, by decide +kernel, by decide +kernel, by decide +kernel, by decide +kernel⟩

theorem witness_hedgesGoOut_1 : ∃ (s s0 : State) (now k : Nat) (i : SlotId) (st : Step) (e : Entry) (t : Nat),
    s0 = s.advanceTo now ∧ (s0.slot i.val).step = some st ∧ st.entries[k]? = some e ∧ e.sentAt = some t ∧ t + s0.hedgeTime e.table ≤
    s0.now ∧ s0.alive = true ∧ (s0.slot i.val).phase = .lookup ∧ st.halted = false ∧ e.answer = none ∧ e.exhausted = false :=
  ⟨inPhase (withTable (peered on)) .lookup { step0 with entries := [entry0] }, _, 20100000, 0, 7, { step0 with entries := [entry0] },
  entry0, 19900000, rfl, by decide +kernel⟩

theorem witness_hedgesGoOut_3 : ∃ (s t : State) (now : Nat) (i : SlotId),
    exec (.deadlinePass now i) s = .next t :=
  ⟨inPhase on .lookup, _, 20000100, 7, next_eq State.reset _ (by decide +kernel)⟩

theorem witness_stepsEnd_1 : ∃ (s s0 : State) (i : SlotId) (st : Step),
    (s.slot i.val).step = some st ∧ s.serving = true ∧ (s.slot i.val).phase = .dense ∧ st.halted = false ∧ (∀ c ∈ st.left, (s.cl c).dense
    = true) ∧ s0 = st.left.foldl (fun s c => s.setCl c fun x => { x with mre := { x.mre with chain := none } }) s :=
  ⟨inPhase on .dense, _, 7, step0, by decide +kernel, by decide +kernel, by decide +kernel, by decide +kernel, by decide +kernel, rfl⟩

theorem witness_stepsEnd_2 : ∃ (s t : State) (c : ClusterId) (i : Nat) (st : Step) (ls : List Nat),
    s.slotOfCluster c.val = some i ∧ (s.slot i).step = some st ∧ s.serving = true ∧ (s.slot i).phase = .emit ∧ st.halted = false ∧ c.val
    ∈ st.left ∧ st.pushedOf c.val = none ∧ (emitWrites (s.dmaAgent c.val i st none) st c.val (s.shareOut c.val st)).go s = (.ok ls, t) :=
  ⟨emitting, _, 15, 7, step0, _, by decide +kernel, by decide +kernel, by decide +kernel, by decide +kernel, by decide +kernel, by
  decide +kernel, by decide +kernel, go_eq _ _ (by decide +kernel)⟩

theorem witness_stepsEnd_2_pushing : ∃ (s : State) (c : ClusterId) (i done : Nat) (st : Step),
    s.slotOfCluster c.val = some i ∧ (s.slot i).step = some st ∧ s.serving = true ∧ (s.slot i).phase = .emit ∧ st.halted = false ∧ c.val
    ∈ st.left ∧ st.pushedOf c.val = some done :=
  ⟨(inPhase on .emit { step0 with pushed := [(15, 1)] }).setCl 15 fun x => { x with owner := .step 7 }, 15, 7, 1,
  { step0 with pushed := [(15, 1)] }, by decide +kernel⟩

theorem witness_stepsEnd_3 : ∃ (s : State) (c i done : Nat) (st : Step) (out : List Byte),
    (st.push = 0 ∨ (st.pushLines c out).length ≤ done) ∧ (s.slot i).step = some st :=
  ⟨inPhase on .emit { step0 with push := 2 ^ 63 + 0x1000 }, 15, 7, 1, { step0 with push := 2 ^ 63 + 0x1000 }, [1, 2], .inr (by
  decide +kernel), by decide +kernel⟩

theorem witness_stepsEnd_4 : ∃ (s : State) (i : SlotId) (st : Step) (x : Job),
    (s.slot i.val).step = some st ∧ s.alive = true ∧ (s.slot i.val).phase = .discard ∧ s.job? st.job = some x ∧ x.ended = true :=
  ⟨jobOn (inPhase on .discard) { runStep0 with phase := .done }, 7, step0, _, by decide +kernel, by decide +kernel, by decide +kernel,
  some_eq (by decide +kernel), by decide +kernel⟩

theorem witness_stepsEnd_5 : ∃ (i : Nat),
    i < 8 :=
  ⟨7, by decide +kernel⟩

theorem witness_codesRead_1 : ∃ (c : Nat),
    c < 256 :=
  ⟨255, by decide +kernel⟩

theorem witness_codesRead_2 : ∃ (c : Nat),
    c < 16 :=
  ⟨15, by decide +kernel⟩

theorem witness_scaleZero_1 : ∃ (d : Desc) (g : Grid),
    d.format.bell = true ∧ gposOf d.format g ≤ 0 :=
  ⟨{ desc0 with format := .b4 }, { Grid.default with b4 := List.replicate 16 0 }, by decide +kernel, by decide +kernel⟩

theorem witness_codesRead_3 : ∃ (v w : VeCtx),
    v.x.sfmt = 2 ∧ w.x.sfmt = 4 :=
  ⟨ctxOf (veWord 0x1A 2 1 0 2 0 0 4) true, ctxOf (veWord 0x1A 4 1 0 2 0 0 4) true, by decide +kernel, by decide +kernel⟩

theorem witness_codesRead_4 : ∃ (i : Nat),
    i < 256 ∧ 0 < (Grid.default.b8.getD i 0).toInt :=
  ⟨128, by decide +kernel, by decide +kernel⟩

theorem witness_matrixRuns_1 : ∃ (s : State) (c : ClusterId) (i : Nat) (st : Step) (x : MreOp) (out : EngMem) (ch : Option MreChain)
    (y : Nat × Nat),
    s.mreHead c.val = some (i, st, x) ∧ x.op = 1 ∧ x.bad = false ∧ x.chainBad (s.cl c.val).mre.chain = false ∧ (∀ e ∈ tileOrder x.m x.n
    x.group x.lanes, x.elemOk e = true) ∧ out = x.write ⟨(s.cl c.val).t0, []⟩ st.grid (s.cl c.val).mre.chain (s.ruReserved c.val)
    (tileOrder x.m x.n x.group x.lanes) ∧ ch = x.chain ⟨(s.cl c.val).t0, []⟩ st.grid (s.cl c.val).mre.chain (s.now, (s.cl
    c.val).mre.pos) ∧ y = rowsRange x.yBase x.m x.n x.yBits ∧ x.overlaps (s.cl c.val).mre.chain = false :=
  ⟨mreAt (matmulWord 0), 15, 7, step0, ⟨matmulWord 0⟩, _, _, _, by decide +kernel, by decide +kernel, by decide +kernel, by
  decide +kernel, by decide +kernel, rfl, rfl, rfl, by decide +kernel⟩

/-- The same with its output at its first operand. -/
def matmulOver : BitVec 128 := w128 (1 + 3 * 2 ^ 9 + 1 * 2 ^ 34) (1 * 2 ^ 16 + 0 * 2 ^ 32 + 3 * 2 ^ 48)

theorem witness_matrixRuns_1_over : ∃ (s : State) (c : ClusterId) (i : Nat) (st : Step) (x : MreOp) (out : EngMem) (ch : Option MreChain)
    (y : Nat × Nat),
    s.mreHead c.val = some (i, st, x) ∧ x.op = 1 ∧ x.bad = false ∧ x.chainBad (s.cl c.val).mre.chain = false ∧ (∀ e ∈ tileOrder x.m x.n
    x.group x.lanes, x.elemOk e = true) ∧ out = x.write ⟨(s.cl c.val).t0, []⟩ st.grid (s.cl c.val).mre.chain (s.ruReserved c.val)
    (tileOrder x.m x.n x.group x.lanes) ∧ ch = x.chain ⟨(s.cl c.val).t0, []⟩ st.grid (s.cl c.val).mre.chain (s.now, (s.cl
    c.val).mre.pos) ∧ y = rowsRange x.yBase x.m x.n x.yBits ∧ x.overlaps (s.cl c.val).mre.chain = true :=
  ⟨mreAt matmulOver, 15, 7, step0, ⟨matmulOver⟩, _, _, _, by decide +kernel, by decide +kernel, by decide +kernel, by decide +kernel, by
  decide +kernel, rfl, rfl, rfl, by decide +kernel⟩

theorem witness_matrixRuns_5 : ∃ (d c : Nat),
    ix 16 d ≠ ix 16 c :=
  ⟨0, 15, by decide +kernel⟩

theorem witness_matrixRuns_2 : ∃ (x : MreOp),
    x.hold = true :=
  ⟨⟨matmulWord 1⟩, by decide +kernel⟩

theorem witness_matrixRuns_3 : ∃ (s : State) (c : ClusterId) (i : Nat) (st : Step) (x : MreOp) (h : MreChain),
    s.mreHead c.val = some (i, st, x) ∧ x.op = 2 ∧ x.reserved = false ∧ (s.cl c.val).mre.chain = some h ∧ x.yBase + 8 * (h.m * h.lanes) ≤
    Config.t0Bytes :=
  ⟨inDense fun c => { c with mre := { c.mre with stream := [w128 2 (0xF * 2 ^ 32)], chain := some chain0 } }, 15, 7, step0, ⟨w128 2 (0xF
  * 2 ^ 32)⟩, chain0, by decide +kernel⟩

theorem witness_matrixRuns_4 : ∃ (s : State) (c : ClusterId) (i : Nat) (st : Step) (x : MreOp),
    s.mreHead c.val = some (i, st, x) ∧ x.reserved = true ∧ x.op = 1 :=
  ⟨mreAt (matmulWord 2), 15, 7, step0, ⟨matmulWord 2⟩, by decide +kernel, by decide +kernel, by decide +kernel⟩

theorem witness_matrixRuns_4_read : ∃ (s : State) (c : ClusterId) (i : Nat) (st : Step) (x : MreOp),
    s.mreHead c.val = some (i, st, x) ∧ x.reserved = true ∧ x.op = 2 :=
  ⟨mreAt (w128 (2 + 2 ^ 13) 0), 15, 7, step0, ⟨w128 (2 + 2 ^ 13) 0⟩, by decide +kernel, by decide +kernel, by decide +kernel⟩

theorem witness_matrixRuns_6 : ∃ (x : MreOp),
    x.bf = false ∧ x.accIn = false :=
  ⟨⟨matmulWord 0⟩, by decide +kernel, by decide +kernel⟩

theorem witness_matrixRuns_7 : ∃ (x : MreOp) (h : MreChain) (m j : Nat) (v : Int),
    x.bf = false ∧ x.accIn = true ∧ h.accs[m * x.n + j]? = some (.int v) :=
  ⟨⟨matmulWord 0 ||| w128 (2 ^ 11) 0⟩, chain0, 0, 0, -7, by decide +kernel, by decide +kernel, by decide +kernel⟩

theorem witness_elementsComputed_1 : ∃ (s : State) (u : VeId) (i : Nat) (st : Step) (r : ElemRow) (v : VeCtx) (m : EngMem)
    (a : State × EngMem × Option (Nat × Nat × Nat)),
    r ∈ elemRows ∧ s.veHead u.val = some (i, st, v.x) ∧ v.x.op = r.op ∧ v = s.veCtx u.val st v.x (r.scalar v.x) ∧ v.fine r.ok r.scalar
    r.pOk ∧ veLoop v (fun _ e => rangeChk (r.form.refs v e)) (r.value v) (s.engOf u.val) = (m, none) ∧ a = s.veClash u.val i v v.x.count
    (clash (v.x.d.range v.x.dw v.x.count) v.x.dw (r.form.srcs v)) (m, none) :=
  ⟨veAt (veWord 0x01 1 1 0 2 0 1 0), 31, 7, step0, _, ctxOf (veWord 0x01 1 1 0 2 0 1 0) false, _, _, .head _, by decide +kernel, by
  decide +kernel, rfl, by decide +kernel, loop_eq (by decide +kernel), rfl⟩

theorem witness_elementsComputed_2 : ∃ (s : State) (u : VeId) (i : Nat) (st : Step) (r : ElemRow) (x : VeOp),
    r ∈ elemRows ∧ s.veHead u.val = some (i, st, x) ∧ x.op = r.op ∧ x.reserved = true :=
  ⟨veAt (veWord 0x01 7 1 0 2 0 1 0), 31, 7, step0, _, ⟨veWord 0x01 7 1 0 2 0 1 0⟩, .head _, by decide +kernel, by decide +kernel, by
  decide +kernel⟩

theorem witness_elementsComputed_3 : ∃ (u c : Nat),
    u < 32 ∧ ix 16 c ≠ ix 16 (u / 2) :=
  ⟨31, 14, by decide +kernel, by decide +kernel⟩

/-- Elements 0 and 1 under mask 1, of which 1 is active; a byte below the destination, and one of a tile. -/
theorem witness_masksRespected_1_each : ∃ (v : VeCtx) (e f a : Nat) (o : Opnd),
    e < v.x.count ∧ v.active e = true ∧ f < v.x.count ∧ v.active f = false ∧ (a < v.x.d.start ∨ v.x.d.start + ceilDiv (v.x.count *
    v.x.dw) 8 ≤ a) ∧ o.tile ≠ v.x.d.tile ∧ (∀ t, v.x.d.tile = some t → o.tile = none) :=
  ⟨{ ctxOf (veWord 0x01 1 1 (1 * 2 ^ 25) 2 0 1 0) false with masks := Vector.replicate 8 2 }, 1, 0, 511, ⟨some 0, 0⟩, by
  decide +kernel, by decide +kernel, by decide +kernel, by decide +kernel, by decide +kernel, by decide +kernel, by
  intro t h; exact absurd h (by rw [show Opnd.tile _ = none from by decide +kernel]; exact nofun)⟩

theorem witness_masksRespected_1 : ∃ (v : VeCtx) (chk : EngMem → Nat → Option (Nat × Nat)) (val : Nat → Nat) (m0 m : EngMem),
    memWf m0.t0 = true ∧ memWf m0.tiles = true ∧ veLoop v chk (fun _ e => val e) m0 = (m, none) :=
  ⟨ctxOf (veWord 0x01 1 1 (1 * 2 ^ 25 + 2 ^ 29) 2 0 1 0) false, fun _ _ => none, fun e => e, ⟨[], []⟩, _, by decide +kernel, by
  decide +kernel, loop_eq (by decide +kernel)⟩

theorem witness_masksComputed_1 : ∃ (s : State) (u : VeId) (i : Nat) (st : Step) (v : VeCtx) (bs : List Bool),
    s.veHead u.val = some (i, st, v.x) ∧ v.x.op = 0x20 ∧ v = s.veCtx u.val st v.x (bitOf v.x.param 3) ∧ v.fine (fun x => (isF x.sfmt ||
    x.sfmt == 6) && x.mdst ≠ 0 && fieldOf x.param 0 3 ≤ 5) (fun x => bitOf x.param 3) anyP ∧ maskLoop v (fun
    e => rangeChk (if bitOf v.x.param 3 then [v.refA e] else [v.refA e, v.refB e])) (fun e => if v.x.sfmt = 6 then cmpU (fieldOf
    v.x.param 0 3) (v.rawA (s.engOf u.val) e) (if bitOf v.x.param 3 then v.sc.p else v.rawB (s.engOf u.val) e) else cmpF (fieldOf
    v.x.param 0 3) (v.fa (s.engOf u.val) e) (if bitOf v.x.param 3 then v.sc.s0 else v.fb (s.engOf u.val) e)) (fun _ => false) (v.masks[ix
    8 v.x.mdst]) = (bs, none) :=
  ⟨veAt (veWord 0x20 6 1 (7 * 2 ^ 30) 1 0 1 0), 31, 7, step0, ctxOf (veWord 0x20 6 1 (7 * 2 ^ 30) 1 0 1 0) false, _, by decide +kernel,
  by decide +kernel, rfl, by decide +kernel, loop_eq (by decide +kernel)⟩

theorem witness_masksComputed_2 : ∃ (s : State) (u : VeId) (i : Nat) (st : Step) (v : VeCtx) (bs : List Bool),
    s.veHead u.val = some (i, st, v.x) ∧ v.x.op = 0x22 ∧ v = s.veCtx u.val st v.x false ∧ v.fine (fun x => x.mask == 0 && x.mdst ≠ 0)
    noScalar anyP ∧ maskLoop v (fun e => rangeChk [packedRef 0 v.x.a e]) (fun e => bitOf ((s.engOf u.val).elem
    v.x.a 8 (e / 8)) (e % 8)) (fun e => !v.x.mzero && bitOf (v.masks[ix 8 v.x.mdst]) e) (v.masks[ix 8 v.x.mdst]) = (bs, none) :=
  ⟨veAt (veWord 0x22 1 1 (7 * 2 ^ 30) 0 0 0 0), 31, 7, step0, ctxOf (veWord 0x22 1 1 (7 * 2 ^ 30) 0 0 0 0) false, _, by decide +kernel,
  by decide +kernel, rfl, by decide +kernel, loop_eq (by decide +kernel)⟩

theorem witness_masksComputed_4 : ∃ (s : State) (u : VeId) (i : Nat) (st : Step) (v : VeCtx),
    s.veHead u.val = some (i, st, v.x) ∧ v.x.op = 0x23 ∧ v = s.veCtx u.val st v.x false ∧ v.fine (fun _ => true)
    noScalar anyP ∧ v.x.mask = 0 ∧ v.x.mneg = false ∧ v.x.d.ok 8 ((v.x.count - 1) / 8) = true :=
  ⟨veAt (veWord 0x23 1 1 (7 * 2 ^ 33) 0 0 0 0), 31, 7, step0, ctxOf (veWord 0x23 1 1 (7 * 2 ^ 33) 0 0 0 0) false, by decide +kernel, by
  decide +kernel, rfl, by decide +kernel, by decide +kernel, by decide +kernel, by decide +kernel⟩

theorem witness_blocksComputed_1 : ∃ (s : State) (u : VeId) (i : Nat) (st : Step) (v : VeCtx) (m : EngMem) (out : List F32)
    (a : State × EngMem × Option (Nat × Nat × Nat)),
    s.veHead u.val = some (i, st, v.x) ∧ v.x.op = 0x1B ∧ v = s.veCtx u.val st v.x false ∧ v.fine (fun x => x.ff && fieldOf x.param 0 2 ≠
    3) noScalar anyP ∧ out = rotateAll (6 + fieldOf v.x.param 0 2)
    128 ((List.range v.x.count).map (v.rotIn s.now (s.engOf u.val))) ∧ veLoop v (fun _ e => rangeChk (formA.refs v e)) (fun _ e => storeF
    v.x.dfmt (out.getD e 0)) (s.engOf u.val) = (m, none) ∧ a = s.veClash u.val i v v.x.count (clash (v.x.d.range v.x.dw v.x.count) v.x.dw
    (formA.srcs v)) (m, none) :=
  ⟨veAt (veWord 0x1B 1 1 0 1 0 0 0), 31, 7, step0, ctxOf (veWord 0x1B 1 1 0 1 0 0 0) false, _, _, _, by decide +kernel, by
  decide +kernel, rfl, by decide +kernel, rfl, loop_eq (by decide +kernel), rfl⟩

theorem witness_blocksComputed_2 : ∃ (lg : Nat) (xs : List F32),
    xs.length < 2 ^ lg :=
  ⟨6, List.replicate 63 0, by decide +kernel⟩

theorem witness_blocksComputed_3 : ∃ (s : State) (u : VeId) (i : Nat) (st : Step) (v : VeCtx) (m : EngMem)
    (a : State × EngMem × Option (Nat × Nat × Nat)),
    s.veHead u.val = some (i, st, v.x) ∧ v.x.op = 0x29 ∧ v = s.veCtx u.val st v.x true ∧ v.fine VeOp.same hasScalar (fun v => 1 ≤ v.sc.p)
    ∧ veLoop v (takeChk v) (fun m e => v.rawA m (m.elem v.x.b 32 e)) (s.engOf u.val) = (m, none) ∧ a = s.veClash u.val i v v.x.count
    (clash (v.x.d.range v.x.dw v.x.count) v.x.dw [(v.x.a.range v.x.sw v.sc.p, v.x.sw, false), (v.x.b.range 32 v.x.count, 32, true),
    v.srcS]) (m, none) :=
  ⟨takeAt, 31, 7, step0, takeAt.veCtx 31 step0 ⟨takeWord⟩ true, _, _, by decide +kernel, by decide +kernel, rfl, by decide +kernel,
  loop_eq (by decide +kernel), rfl⟩

theorem witness_blocksComputed_4 : ∃ (s : State) (u : VeId) (i : Nat) (st : Step) (v : VeCtx) (out : List Nat)
    (a : State × EngMem × Option (Nat × Nat × Nat)),
    s.veHead u.val = some (i, st, v.x) ∧ v.x.op = 0x31 ∧ v = s.veCtx u.val st v.x false ∧ v.fine (fun x => isF x.sfmt && fieldOf x.param
    0 3 ≤ 5 && (if argKind (fieldOf x.param 0 3) then x.dfmt == 6 else isF x.dfmt) && x.a.tile.isSome && x.count % x.rowWidth == 0)
    noScalar anyP ∧ v.x.a.start / 256 + v.x.count / v.x.rowWidth ≤ 128 ∧ out = (tileSegs v (s.engOf u.val)).map (reduceSeg (fieldOf
    v.x.param 0 3)) ∧ (∀ e < out.length, v.x.d.ok v.x.dw e = true) ∧ a = s.veClash u.val i v out.length (clash (v.x.d.range v.x.dw
    out.length) v.x.dw [v.srcA]) (((List.range out.length).zip out).foldl (fun m p => m.setElem v.x.d v.x.dw p.1 (reduceOut (fieldOf
    v.x.param 0 3) v.x.dfmt p.2)) (s.engOf u.val), none) :=
  ⟨veAt reduceWord, 31, 7, step0, ctxOf reduceWord false, _, _, by decide +kernel, by decide +kernel, rfl, by decide +kernel, by
  decide +kernel, rfl, by decide +kernel, rfl⟩

theorem witness_reductionsRun_1 : ∃ (s : State) (u : VeId) (i : Nat) (st : Step) (x : VeOp) (r : RuOp) (v : VeCtx)
    (xs : List (Option F32)),
    s.veHead u.val = some (i, st, x) ∧ x.op = 0x30 ∧ x.reserved = false ∧ isF x.sfmt = true ∧ s.ruReserved (u.val / 2) = false ∧
    s.ruReady u.val = some r ∧ r.bad = false ∧ r.rangeBad x.count = false ∧ v = s.veCtx u.val st x false ∧ (∀ e < x.count, v.active e =
    true → x.a.ok x.sw e = true) ∧ xs = (List.range x.count).map (fun e => if v.active e = true then some (v.fa (s.engOf u.val) e) else
    none) :=
  ⟨pairAt, 31, 7, step0, ⟨veWord 0x30 1 0 0 0 0 0 0⟩, _, _, _, by decide +kernel, by decide +kernel, by decide +kernel, by decide +kernel,
  by decide +kernel, some_eq (by decide +kernel), by decide +kernel, by decide +kernel, rfl, by decide +kernel, rfl⟩

theorem witness_reductionsRun_1_waits : ∃ (s : State) (u : VeId) (i : Nat) (st : Step) (x : VeOp),
    s.veHead u.val = some (i, st, x) ∧ x.op = 0x30 ∧ x.reserved = false ∧ isF x.sfmt = true ∧ s.ruReserved (u.val / 2) = false ∧
    s.ruReady u.val = none :=
  ⟨veAt (veWord 0x30 1 0 0 0 0 0 0), 31, 7, step0, ⟨veWord 0x30 1 0 0 0 0 0 0⟩, by decide +kernel⟩

theorem witness_reductionsRun_2 : ∃ (s : State) (c : ClusterId) (i : Nat) (st : Step) (x : RuOp),
    s.ruHead c.val = some (i, st, x) ∧ s.ruReserved c.val = false ∧ x.bad = false ∧ x.src = 2 ∧ x.rangeBad x.count = false :=
  ⟨ruAt (w128 (1 + 2 * 2 ^ 4 + 1 * 2 ^ 9) (1 * 2 ^ 16)), 15, 7, step0, ⟨w128 (1 + 2 * 2 ^ 4 + 1 * 2 ^ 9) (1 * 2 ^ 16)⟩, by decide +kernel⟩

theorem witness_reductionsRun_3 : ∃ (s : State) (c : ClusterId) (i k u : Nat) (st st' : Step) (x : RuOp) (y : VeOp) (v : VeCtx)
    (xs : List (Option F32)),
    (s.ruHead c.val = some (i, st, x) ∧ s.ruReserved c.val = false ∧ x.bad = false ∧ x.src < 2 ∧ u = 2 * c.val + x.src) ∧
    s.veHead u = some (k, st', y) ∧ y.op = 0x30 ∧ y.reserved = false ∧ isF y.sfmt = true ∧ x.rangeBad y.count = false ∧ v = s.veCtx u st y false ∧ (∀ e <
    y.count, v.active e = true → y.a.ok y.sw e = true) ∧ xs = (List.range y.count).map (fun e => if v.active e = true then some (v.fa
    (s.engOf u) e) else none) :=
  ⟨pairAt, 15, 7, 7, 31, step0, step0, ⟨w128 (1 + 1 * 2 ^ 4) 0⟩, ⟨veWord 0x30 1 0 0 0 0 0 0⟩, _, _, by decide +kernel, by decide +kernel,
  by decide +kernel, by decide +kernel, by decide +kernel, by decide +kernel, rfl, by decide +kernel, rfl⟩

theorem witness_dmaWordsRun_1 : ∃ (s t : State) (c : ClusterId) (i : Nat) (st : Step) (x : DmaOp) (r : Resident) (bs : List Byte),
    s.dmaHead c.val = some (i, st, x) ∧ s.model.res = some r ∧ x.kind = 0 ∧ x.badSet r.setBytes = false ∧ (readDva (s.dmaAgent c.val i st
    (some 0)) (r.slotDva st.set + x.offset) x.length).go s = (.ok bs, t) :=
  ⟨setAt, _, 15, 7, step0, ⟨w128 0 (64 * 2 ^ 16)⟩, model0, _, by decide +kernel, by decide +kernel, by decide +kernel, by decide +kernel,
  go_eq _ _ (by decide +kernel)⟩

theorem witness_dmaWordsRun_2 : ∃ (s t : State) (c : ClusterId) (ecc : EccList) (i : Nat) (st : Step) (x : DmaOp) (h : Option Hint) (rel
  : Bool) (bs : List Byte),
    s.dmaHead c.val = some (i, st, x) ∧ x.kind = 1 ∧ x.badMove = false ∧ x.hint = some (h, rel) ∧ (readDva (s.dmaAgent c.val i st
    none) x.dva x.length h).go (s.strike ecc) = (.ok bs, t) :=
  ⟨dmaAt readWord, _, 15, [], 7, step0, ⟨readWord⟩, none, false, _, by decide +kernel, by decide +kernel, by decide +kernel, by
  decide +kernel, go_eq _ _ (by decide +kernel)⟩

theorem witness_dmaWordsRun_3 : ∃ (s t : State) (c : ClusterId) (i : Nat) (st : Step) (x : DmaOp) (h : Option Hint) (rel : Bool) (ls :
  List Nat),
    s.dmaHead c.val = some (i, st, x) ∧ x.kind = 2 ∧ x.badMove = false ∧ x.hint = some (h, rel) ∧ (writeDva (s.dmaAgent c.val i st
    none) x.dva (memRead (s.cl c.val).t0 x.t0 x.length) h).go s = (.ok ls, t) :=
  ⟨dmaAt writeWord, _, 15, 7, step0, ⟨writeWord⟩, none, false, _, by decide +kernel, by decide +kernel, by decide +kernel, by
  decide +kernel, go_eq _ _ (by decide +kernel)⟩

theorem witness_dmaWordsRun_4 : ∃ (s t w : State) (c : ClusterId) (i : Nat) (st : Step) (x : DmaOp) (h : Option Hint) (rel : Bool)
    (bs : List Byte) (ks : List Nat),
    s.dmaHead c.val = some (i, st, x) ∧ x.kind = 3 ∧ x.badGather (st.share c.val).2 = false ∧ x.hint = some (h, rel) ∧ ks = (List.range
    (st.share c.val).2).map ((st.share c.val).1 + ·) ∧ (gatherRead (s.dmaAgent c.val i st none) (st.input + x.tableOff) x.elem h ks).go s
    = (.ok bs, t) ∧ w = t.waited (s.dmaAgent c.val i st none) :=
  ⟨dmaAt gatherWord, _, _, 15, 7, step0, ⟨gatherWord⟩, none, false, _, _, by decide +kernel, by decide +kernel, by decide +kernel, by
  decide +kernel, rfl, go_eq _ _ (by decide +kernel), rfl⟩

theorem witness_dmaWordsRun_5 : ∃ (s t : State) (c : ClusterId) (ecc : EccList) (i : Nat) (st : Step) (x : DmaOp) (h : Option Hint)
    (rel : Bool) (f : AccFail) (ag : Agent),
    s.dmaHead c.val = some (i, st, x) ∧ x.kind = 1 ∧ x.badMove = false ∧ x.hint = some (h, rel) ∧ ag = s.dmaAgent c.val i st none ∧
    (readDva ag x.dva x.length h).go (s.strike ecc) = (.error f, t) ∧ f ≠ .hold ∧ (∀ l b, f ≠ .snoop l b) ∧
    (∀ l i p d b w, f ≠ .page l i p d b w) :=
  ⟨dmaAt readWord, _, 15, [(0x220000, .uncorrectable)], 7, step0, ⟨readWord⟩, none, false, .poison 0x220000 true 15, _,
  by decide +kernel, by decide +kernel, by decide +kernel, by decide +kernel, rfl, fail_eq _ _ _ (by decide +kernel), nofun, nofun, nofun⟩

theorem witness_dmaWordsRun_6 : ∃ (s : State) (c : ClusterId) (i : Nat) (st : Step) (x : DmaOp),
    s.dmaHead c.val = some (i, st, x) ∧ x.badMove = true ∧ x.kind = 1 :=
  ⟨dmaAt (w128 0 (1 * 2 ^ 62)), 15, 7, step0, ⟨w128 0 (1 * 2 ^ 62)⟩, by decide +kernel, by decide +kernel, by decide +kernel⟩

theorem witness_dmaWordsRun_6_write : ∃ (s : State) (c : ClusterId) (i : Nat) (st : Step) (x : DmaOp),
    s.dmaHead c.val = some (i, st, x) ∧ x.badMove = true ∧ x.kind = 2 :=
  ⟨dmaAt (w128 0 (2 * 2 ^ 62)), 15, 7, step0, ⟨w128 0 (2 * 2 ^ 62)⟩, by decide +kernel, by decide +kernel, by decide +kernel⟩

theorem witness_sidebandTarget_1 : ∃ (s : State) (a : I3cAssign),
    s.pkg.powered = true ∧ s.pkg.perstN = true ∧ s.i3c.dyn = none ∧ a.static.toNat = s.i3cStatic :=
  ⟨on, ⟨0x30, 0x08⟩, by decide +kernel, by decide +kernel, by decide +kernel, by decide +kernel⟩

theorem witness_sidebandTarget_1_other : ∃ (s : State) (a : I3cAssign),
    s.pkg.powered = true ∧ s.pkg.perstN = true ∧ (a.static.toNat ≠ s.i3cStatic ∨ s.i3c.dyn ≠ none) ∧ s.i3c.dyn ≠ none :=
  ⟨{ on with i3c := { on.i3c with dyn := some 9 } }, ⟨0x30, 0x08⟩, by decide +kernel, by decide +kernel, by decide +kernel, by
  decide +kernel⟩

theorem witness_sidebandTarget_2 : ∃ (s : State) (a : BitVec 7),
    s.pkg.powered = true ∧ s.pkg.perstN = true ∧ (a.toNat = 0x30 + s.pkg.straps.toNat % 8 ∨ s.i3c.dyn = some a) :=
  ⟨{ on with pkg := { on.pkg with straps := 0xF } }, 0x37, by decide +kernel, by decide +kernel, by decide +kernel⟩

theorem witness_sidebandTarget_3 : ∃ (s : State) (a : BitVec 7),
    s.i3cTarget a = true :=
  ⟨{ on with i3c := { on.i3c with dyn := some 9 } }, 9, by decide +kernel⟩

theorem witness_sidebandTarget_3_other : ∃ (s : State) (a : BitVec 7),
    s.i3cTarget a = false :=
  ⟨{ on with pkg := { on.pkg with straps := 7 } }, 0x30, by decide +kernel⟩

theorem witness_sidebandTarget_5_early : ∃ (s : State),
    s.now < 100000 :=
  ⟨{ on with pkg := { on.pkg with elapsed := 99999 } }, by decide +kernel⟩

theorem witness_sidebandTarget_4 : ∃ (s : State),
    s.pkg.powered = true ∧ s.pkg.perstN = true :=
  ⟨on, by decide +kernel, by decide +kernel⟩

theorem witness_sidebandTarget_5 : ∃ (s : State),
    s.pkg.perstN = false :=
  ⟨State.reset, by decide +kernel⟩

theorem witness_testAccess_1 : ∃ (s : State),
    s.pkg.powered = true :=
  ⟨on, by decide +kernel⟩

theorem witness_testAccess_2 : ∃ (s : State),
    s.pkg.powered = true :=
  ⟨on, by decide +kernel⟩

theorem witness_testAccess_3 : ∃ (s : State),
    s.pkg.powered = true ∧ s.pkg.perstN = false :=
  ⟨{ State.reset with pkg := { State.reset.pkg with powered := true } }, by decide +kernel, by decide +kernel⟩

theorem witness_testAccess_4 : ∃ (s : State),
    s.pkg.powered = true ∧ s.pkg.perstN = true :=
  ⟨on, by decide +kernel, by decide +kernel⟩

theorem witness_testAccess_5 : ∃ (s : State),
    s.pkg.powered = true ∧ s.pkg.perstN = true :=
  ⟨on, by decide +kernel, by decide +kernel⟩

theorem witness_testAccess_5_low : ∃ (s : State),
    s.pkg.powered = true ∧ s.pkg.perstN = false :=
  ⟨{ State.reset with pkg := { State.reset.pkg with powered := true } }, by decide +kernel, by decide +kernel⟩

theorem witness_testAccess_6 : ∃ (s : State) (code : Byte),
    s.pkg.powered = true ∧ tapCodes.contains code = false :=
  ⟨on, 0x9C, by decide +kernel, by decide +kernel⟩

theorem witness_testAccess_7 : ∃ (s : State),
    s.pkg.perstN = true :=
  ⟨on, by decide +kernel⟩


/-- A word of every element-wise row on fp32 or its codes: A at T0 0, B at 256, the scalar record at 1024, D at 512. -/
def elemWord (op : Nat) : BitVec 128 := veWord op (if op = 0x1A then 2 else 1) (if op = 0x19 then 2 else 1) 0 2 0 1 4

/-- Its scalar record has P = 1. -/
def elemAt (op : Nat) : State :=
  inDense fun c => { c with t0 := memWrite [] 1032 (leBytes 4 1), ve1 := { c.ve1 with stream := [elemWord op] } }

/-- Every element-wise row runs in such a state. -/
theorem witness_elementsComputed_rows : ∀ r ∈ elemRows,
    let s := elemAt r.op
    let v := s.veCtx 31 step0 ⟨elemWord r.op⟩ (r.scalar ⟨elemWord r.op⟩)
    s.veHead 31 = some (7, step0, v.x) ∧ v.x.op = r.op ∧ v.fine r.ok r.scalar r.pOk ∧
    clash (v.x.d.range v.x.dw v.x.count) v.x.dw (r.form.srcs v) = false ∧
    (veLoop v (fun _ e => rangeChk (r.form.refs v e)) (r.value v) (s.engOf 31)).2 = none := by decide +kernel

/-! ATTEST: the signature's bytes are free, its length is not. -/

theorem list_spine {α : Type} (l : List α) (d : α) (n : Nat) (h : l.length = n) : l = (List.range n).map fun i => l.getD i d := by
  subst h
  apply List.ext_getElem
  · simp
  · intro i h1 h2
    simp [List.getD, List.getElem?_eq_getElem h1]

theorem padTo_length (n : Nat) (bs : List Byte) : (padTo n bs).length = n := by
  simp only [padTo, List.length_append, List.length_take, List.length_replicate]
  omega

/-- ATTEST of queue 0: nonce at 0x210000, destination 0x200000. -/
def attestJob : Job := job 0x78 [0x210000, 0x200000, 4096]
def attesting : State := jobOn { on with sec := { on.sec with quotesLeft := 3 } } attestJob
def attested : State := attesting.begun 0 attestJob

def nonce0 : List Byte := List.replicate 32 0

/-- After the nonce has been read, and once the leaf is used. -/
def attestRead : State :=
  ((readDva (Agent.struct (attested.ctxOf 0) ⟨0, 1⟩) 0x210000 32).go attested).2.remember ⟨0, 1⟩ (0, 0x210000, 32) nonce0
def attestUsed : State :=
  { attestRead.readLeaf with
    mram := { attestRead.readLeaf.mram with leafA := Copy.leaf 1, leafB := Copy.leaf 1 }
    sec := { attestRead.readLeaf.sec with quotesLeft := attestRead.readLeaf.sec.quotesLeft - 1 } }
def attestSigned : State :=
  attestUsed.setJob ⟨0, 1⟩ fun x => { x with data := attestUsed.quote 0 nonce0, aux := [Config.leaves - 1] }
def attestRow : Job := (attestSigned.job? ⟨0, 1⟩).getD attestJob

theorem quote_length : (attestUsed.quote 0 nonce0).length = Config.quoteBytes := by
  simp only [State.quote, List.length_append, padTo_length]
  have : (attestUsed.quoteBody 0 nonce0).length = 224 := by decide +kernel
  rw [this]; rfl

theorem row_eq : attestSigned.job? ⟨0, 1⟩ = some attestRow := by
  have h : (attestSigned.job? ⟨0, 1⟩).isSome = true := by decide +kernel
  rw [attestRow, Option.getD_of_ne_none (by intro e; rw [e] at h; cases h)]

theorem quote_stores : isOk ((writeDva (Agent.dma 0 ⟨0, 1⟩) 0x200000
    ((List.range Config.quoteBytes).map fun i => (attestUsed.quote 0 nonce0).getD i 0) none).go attestSigned).1 = true := by decide +kernel

theorem witness_reportsAndIdentity_5 : ∃ (s s0 t u v v' : State) (q : QueueId) (w : LeafWorld) (j : Job) (nonce : List Byte) (n : Nat)
    (y : Job), s.takes q (isOp 0x78) j s0 ∧ attestOk j = true ∧ j.data = [] ∧
    s0.reads (j.refOn q) (j.p 0).toNat 32 t nonce ∧ t.sec.mapPending = none ∧ t.engineFree (j.refOn q) = true ∧ t.readLeaf.mram.leaf = some n ∧ t.readLeaf.sec.quotesLeft ≠ 0 ∧ n ≠ Config.leaves ∧
    w = ⟨true, true⟩ ∧
    u = ({ t.readLeaf with
      mram := { t.readLeaf.mram with leafA := Copy.leaf (n + 1), leafB := Copy.leaf (n + 1) }
      sec := { t.readLeaf.sec with quotesLeft := t.readLeaf.sec.quotesLeft - 1 } }) ∧
    v = u.setJob (j.refOn q) (fun x => { x with data := u.quote n nonce, aux := [Config.leaves - (n + 1)] }) ∧
    v.job? (j.refOn q) = some y ∧ v.stores (j.refOn q) (y.p 1).toNat y.data none v' :=
  ⟨attesting, attested, attestRead, attestUsed, attestSigned, _, 0, ⟨true, true⟩, attestJob, nonce0, 0, attestRow,
   takes_start (by decide +kernel), by decide +kernel, rfl,
   .inl ⟨by decide +kernel, _, go_val (by decide +kernel) (by decide +kernel), rfl⟩, by decide +kernel, by decide +kernel, by decide +kernel, by
   decide +kernel, by decide +kernel, rfl, rfl, rfl, row_eq,
   stores_ok (by
     rw [show attestRow.data = attestUsed.quote 0 nonce0 from rfl, list_spine _ 0 _ quote_length]
     exact quote_stores)⟩

theorem witness_powerAndReset_2_writing : ∃ (s : State) (n : Nat),
    s.mram.leaf = some n ∧ s.leafInWrite = true ∧ n < Config.leaves :=
  ⟨attested, 0, by decide +kernel, by decide +kernel, by decide +kernel⟩

end Sys2Proof.Tests
end

section
/-! The fields of an entry, a record or a message body read back from the packed number (R7, R363, R371): what the first
field's width takes from the number, and what is left for the fields above it. -/

namespace Sys2Proof.Machine

/-- The lowest field of a packed number is its value cut to its width: the fields above it are multiples of `2 ^ w`. -/
theorem packFields_cons_mod (v w : Nat) (fs : List (Nat × Nat)) :
    packFields ((v, w) :: fs) % 2 ^ w = v % 2 ^ w := by
  rw [packFields, Nat.add_mul_mod_self_left, Nat.mod_mod]

/-- Dropping the lowest field of a packed number leaves the rest packed: the cut value stays below `2 ^ w`. -/
theorem packFields_cons_div (v w : Nat) (fs : List (Nat × Nat)) :
    packFields ((v, w) :: fs) / 2 ^ w = packFields fs := by
  have hw : 0 < 2 ^ w := Nat.two_pow_pos w
  rw [packFields, Nat.add_mul_div_left _ _ hw, Nat.div_eq_of_lt (Nat.mod_lt v hw), Nat.zero_add]

/-- Reading the widths of a list of fields from its packed number peels one field at a time, so no value is mixed with
its neighbour's bits. -/
theorem unpackFields_packFields (fs : List (Nat × Nat)) :
    unpackFields (fs.map (·.2)) (packFields fs) = fs.map (fun f => f.1 % 2 ^ f.2) := by
  induction fs with
  | nil => rfl
  | cons f fs ih =>
    obtain ⟨v, w⟩ := f
    rw [List.map_cons, unpackFields, packFields_cons_mod, packFields_cons_div, ih, List.map_cons]

/-- Settles O7, by induction on the list of fields. -/
theorem fieldsRoundTrip : Obligations.FieldsRoundTrip :=
  unpackFields_packFields

end Sys2Proof.Machine
end

section
/-! What the recorder and the errors leave: an event, an MRAM write of the recorder and a package-fatal cause change nothing outside
them (R444, R445, R452). -/

namespace Sys2Proof.Machine

/-- A package-fatal error is noted in the errors and, where its record is written already, in that record. -/
theorem State.raiseFatal_only (s : State) (cause : Nat) (frec : Option FaultRec) :
    ∃ r e, s.raiseFatal cause frec = { s with recorder := r, err := e } := by
  unfold State.raiseFatal
  split
  · exact ⟨s.recorder, _, rfl⟩
  · exact ⟨_, _, rfl⟩

theorem State.recorderWrite_only (s : State) (f : Recorder → Recorder) :
    ∃ r e, s.recorderWrite f = { s with recorder := r, err := e } := by
  unfold State.recorderWrite
  dsimp only
  split
  · obtain ⟨r, e, h⟩ := State.raiseFatal_only
      { s with recorder := { f { s.recorder with wroteAt := none } with writes := s.recorder.writes + 1 } } 9 none
    exact ⟨r, e, h⟩
  · exact ⟨_, s.err, rfl⟩

theorem State.checkTorn_only (s : State) : ∃ r e, s.checkTorn = { s with recorder := r, err := e } := by
  unfold State.checkTorn
  dsimp only
  split
  · exact ⟨s.recorder, s.err, rfl⟩
  · split
    · exact ⟨_, s.err, rfl⟩
    · split
      · exact ⟨_, s.err, rfl⟩
      · exact State.recorderWrite_only _ _

theorem State.recordEvent_only (s : State) (e : Event) : ∃ r x, s.recordEvent e = { s with recorder := r, err := x } := by
  unfold State.recordEvent
  split
  · exact ⟨s.recorder, s.err, rfl⟩
  · obtain ⟨r, x, h⟩ := s.checkTorn_only
    dsimp only
    split
    · obtain ⟨r', x', h'⟩ := State.recorderWrite_only s.checkTorn _
      exact ⟨r', x', by rw [State.writeSlotAt, h', h]⟩
    · obtain ⟨r', x', h'⟩ := State.recorderWrite_only s.checkTorn _
      exact ⟨r', x', by rw [h', h]⟩

theorem State.recordPort_only (s : State) (port old new lanes : Nat) :
    ∃ r x, s.recordPort port old new lanes = { s with recorder := r, err := x } := by
  unfold State.recordPort
  split
  · split
    · exact State.recorderWrite_only _ _
    · exact ⟨s.recorder, s.err, rfl⟩
  · obtain ⟨r, x, h⟩ := s.recordEvent_only { code := 0x30, payload := leBytes 4 (packFields [(port, 4), (0, 4), (old, 3), (0, 1), (new, 3),
      (0, 1), (lanes, 8), (0, 8)]) }
    dsimp only
    rw [h]
    split
    · exact ⟨_, x, rfl⟩
    · exact ⟨r, x, rfl⟩

@[simp] theorem State.recordEvent_pkg (s : State) (e : Event) : (s.recordEvent e).pkg = s.pkg := by
  obtain ⟨r, x, h⟩ := s.recordEvent_only e
  rw [h]

@[simp] theorem State.noteEvent_pkg (s : State) (e : Event) : (s.noteEvent e).pkg = s.pkg := by
  unfold State.noteEvent
  split <;> simp

/-! ### Package-fatal causes -/

/-- The first package-fatal cause of a package that runs. -/
theorem State.raiseFatal_of_alive {s : State} (h : s.alive = true) (cause : Nat) (frec : Option FaultRec) :
    s.raiseFatal cause frec = { s with err := { s.err with
      fatal := some (cause, frec), fatalAt := (s.pkg.elapsed, s.pkg.seamCount), causesSeen := 2 ^ cause } } := by
  simp only [State.alive, Bool.and_eq_true, Option.isNone_iff_eq_none] at h
  obtain ⟨⟨-, hfailed⟩, hfatal⟩ := h
  simp only [State.raiseFatal, hfailed, hfatal]

theorem State.raiseFatal_fatal {s : State} (h : s.alive = true) (cause : Nat) (frec : Option FaultRec) :
    (s.raiseFatal cause frec).err.fatal = some (cause, frec) := by
  rw [State.raiseFatal_of_alive h]

/-- No package runs on after a package-fatal error: it has failed, or its cause waits for the fatal controller. -/
theorem State.raiseFatal_not_alive (s : State) (cause : Nat) (frec : Option FaultRec) : (s.raiseFatal cause frec).alive = false := by
  unfold State.raiseFatal
  split
  · simp [State.alive]
  · rename_i hstopped
    refine Bool.eq_false_iff.mpr fun ha => ?_
    simp only [State.alive, Bool.and_eq_true, Option.isNone_iff_eq_none] at ha
    obtain ⟨⟨-, hfailed⟩, hfatal⟩ := ha
    exact hstopped hfailed hfatal

@[simp] theorem State.raiseFatal_pkg (s : State) (cause : Nat) (frec : Option FaultRec) : (s.raiseFatal cause frec).pkg = s.pkg := by
  obtain ⟨r, e, h⟩ := s.raiseFatal_only cause frec
  rw [h]
@[simp] theorem State.raiseFatal_hbm (s : State) (cause : Nat) (frec : Option FaultRec) : (s.raiseFatal cause frec).hbm = s.hbm := by
  obtain ⟨r, e, h⟩ := s.raiseFatal_only cause frec
  rw [h]
@[simp] theorem State.raiseFatal_regions (s : State) (cause : Nat) (frec : Option FaultRec) :
    (s.raiseFatal cause frec).regions = s.regions := by
  obtain ⟨r, e, h⟩ := s.raiseFatal_only cause frec
  rw [h]

end Sys2Proof.Machine
end

section
/-! The passing of time (R15, R496): what the ports' work and a reference period leave, and the tick. -/

namespace Sys2Proof.Machine

/-- What a reference period moves by its length alone, or leaves: ELAPSED_NS, and what holds the host's work. -/
structure Steady where
  elapsed : Nat
  powered : Bool
  perstN : Bool
  seamCount : Nat
  astray : Option Scope
  mem : List Host.Cell
  queues : Vector Queue 64
  slots : Vector Slot 8
  regs : Regs

/-- The part of a state that the ports' work leaves as it is. -/
def State.steady (s : State) : Steady :=
  ⟨s.pkg.elapsed, s.pkg.powered, s.pkg.perstN, s.pkg.seamCount, s.pkg.astray, s.hbm.mem, s.queues, s.slots, s.regs⟩

theorem foldl_steady {α : Type} {f : State → α → State} (hf : ∀ s x, (f s x).steady = s.steady) (l : List α) (s : State) :
    (l.foldl f s).steady = s.steady := by
  induction l generalizing s with
  | nil => rfl
  | cons x l ih => rw [List.foldl_cons, ih, hf]

variable (s : State)

@[simp] theorem State.setPort_steady (p : Nat) (f : Port → Port) : (s.setPort p f).steady = s.steady := rfl
@[simp] theorem State.setPeer_steady (d : Nat) (f : Peer → Peer) : (s.setPeer d f).steady = s.steady := rfl
@[simp] theorem State.emit_steady (o : Output) : (s.emit o).steady = s.steady := rfl
@[simp] theorem State.withFab_steady (f : Fabric) : ({ s with fab := f } : State).steady = s.steady := rfl
@[simp] theorem State.sendAck_steady (d : Nat) (a : AckOut) : (s.sendAck d a).steady = s.steady := rfl

@[simp] theorem State.recordEvent_steady (e : Event) : (s.recordEvent e).steady = s.steady := by
  obtain ⟨r, x, h⟩ := s.recordEvent_only e
  rw [h]; rfl

@[simp] theorem State.recordPort_steady (port old new lanes : Nat) : (s.recordPort port old new lanes).steady = s.steady := by
  obtain ⟨r, x, h⟩ := s.recordPort_only port old new lanes
  rw [h]; rfl

@[simp] theorem State.startFrame_steady (port : Nat) (f : TxFrame) : (s.startFrame port f).steady = s.steady := by
  unfold State.startFrame
  extract_lets a sent acked first noted
  have hacked : acked.steady = s.steady := by
    clear_value a
    cases a <;> rfl
  split
  · exact hacked
  · have hnoted : noted.steady = s.steady := hacked
    split <;> exact hnoted

@[simp] theorem State.runPort_steady (port budget fuel : Nat) : (s.runPort port budget fuel).steady = s.steady := by
  induction fuel generalizing s budget with
  | zero => rfl
  | succ n ih =>
    simp only [State.runPort]
    split
    · rfl
    · split
      · rfl
      · split
        · rfl
        · rw [ih, State.startFrame_steady, State.setPort_steady]

@[simp] theorem State.queueFrame_steady (port : Nat) (f : TxFrame) : (s.queueFrame port f).steady = s.steady := by
  simp [State.queueFrame]

@[simp] theorem State.sprayMsg_steady (dev : Nat) (update : Bool) (seq : Nat) :
    (s.sprayMsg dev update seq).steady = s.steady := by
  unfold State.sprayMsg
  dsimp only
  repeat' split
  all_goals simp

@[simp] theorem State.retransmit_steady (dev : Nat) (update : Bool) (seq : Nat) :
    (s.retransmit dev update seq).steady = s.steady := by
  unfold State.retransmit
  dsimp only
  repeat' split
  all_goals simp

@[simp] theorem State.spray_steady (dev : Nat) (update : Bool) : (s.spray dev update).steady = s.steady := by
  unfold State.spray
  split
  · rfl
  · exact foldl_steady (fun s m => by split <;> simp) _ _

@[simp] theorem State.sprayAll_steady : s.sprayAll.steady = s.steady := foldl_steady (fun s p => by simp) _ _

@[simp] theorem State.resendPlain_steady (f : TxFrame) : (s.resendPlain f).steady = s.steady := by
  unfold State.resendPlain
  repeat' split
  all_goals simp

@[simp] theorem State.returnFrames_steady (port : Nat) : (s.returnFrames port).steady = s.steady := by
  refine (foldl_steady (fun s e => ?_) _ _).trans (s.setPort_steady port _)
  repeat' split
  all_goals simp

@[simp] theorem State.sendGlint_steady (dev : Nat) : (s.sendGlint dev).steady = s.steady := by
  unfold State.sendGlint
  dsimp only
  repeat' split
  all_goals simp

@[simp] theorem State.sendGlints_steady : s.sendGlints.steady = s.steady := foldl_steady (fun s d => by simp) _ _

@[simp] theorem State.bringupReady_steady : s.bringupReady.steady = s.steady := by
  unfold State.bringupReady
  split
  · rfl
  · exact State.recordEvent_steady _ _

@[simp] theorem State.movePort_steady (p : Nat) (new : PortState) : (s.movePort p new).steady = s.steady := by
  unfold State.movePort
  dsimp only
  split
  · rfl
  · rw [State.bringupReady_steady]
    repeat' split
    all_goals simp

@[simp] theorem State.endTraining_steady : s.endTraining.steady = s.steady :=
  foldl_steady (fun s p => by split <;> simp) _ _

@[simp] theorem State.runTest_steady (port budget fuel : Nat) : (s.runTest port budget fuel).steady = s.steady := by
  induction fuel generalizing s budget with
  | zero => rfl
  | succ n ih =>
    simp only [State.runTest]
    split
    · rfl
    · split
      · rfl
      · rw [ih]; simp

@[simp] theorem State.runTests_steady (dt : Nat) : (s.runTests dt).steady = s.steady := by
  unfold State.runTests
  split
  · rfl
  · split
    · rfl
    · exact foldl_steady (fun s p => by simp) _ _

theorem State.advance_steady (dt : Nat) (hp : s.pkg.powered = true) (hn : s.pkg.perstN = true) :
    (s.advance dt).steady = { s.steady with elapsed := s.pkg.elapsed + dt } := by
  unfold State.advance
  extract_lets later drawn moved
  rw [if_neg (by simp [hp, hn])]
  split
  · rfl
  · rw [foldl_steady (fun s p => by simp), State.runTests_steady]; rfl

theorem State.advanceTo_steady {now : Nat} (hn : s.steady.elapsed ≤ now) (hp : s.steady.powered = true)
    (hr : s.steady.perstN = true) :
    (s.advanceTo now).steady = { s.steady with elapsed := now } := by
  rw [State.advanceTo, s.advance_steady _ hp hr]
  exact congrArg (fun n => { s.steady with elapsed := n }) (Nat.add_sub_cancel' hn)

/-- A limit of the first training that lies before the next instant has been reached already. -/
theorem State.portTime_steady (hp : s.pkg.powered = true) (hr : s.pkg.perstN = true) :
    (s.portTime (s.now + 1)).steady = { s.steady with elapsed := s.pkg.elapsed + 1 } := by
  have hnext : s.pkg.elapsed ≤ s.now + 1 := Nat.le_succ _
  unfold State.portTime
  extract_lets limit
  split
  · rename_i hlim
    have hstay : ((s.advanceTo limit).endTraining).steady = s.steady := by
      have hle : limit - s.pkg.elapsed = 0 := by
        have hlt : limit < s.pkg.elapsed + 1 := by
          rw [Bool.and_eq_true, decide_eq_true_eq] at hlim
          exact hlim.2
        omega
      rw [State.endTraining_steady, State.advanceTo, hle, s.advance_steady 0 hp hr]; rfl
    rw [State.advanceTo_steady _ (by rw [hstay]; exact hnext) (by rw [hstay]; exact hp) (by rw [hstay]; exact hr),
      hstay]
    rfl
  · rw [s.advanceTo_steady hnext hp hr]; rfl

theorem State.wrecked_elapsed (x : Scope) : (s.wrecked x).pkg.elapsed = s.pkg.elapsed := by
  unfold State.wrecked
  extract_lets u
  split <;> rfl

theorem State.stray_elapsed : s.stray.pkg.elapsed = s.pkg.elapsed := by
  unfold State.stray
  split
  · split
    · exact s.wrecked_elapsed _
    · rfl
  · rfl

theorem State.stray_of_none (h : s.pkg.astray = none) : s.stray = s := by simp [State.stray, h]

theorem State.tick_elapsed (hp : s.pkg.powered = true) (hr : s.pkg.perstN = true) :
    s.tick.pkg.elapsed = s.pkg.elapsed + 1 := by
  rw [State.tick, State.stray_elapsed]
  exact congrArg Steady.elapsed (s.portTime_steady hp hr)

theorem State.tick_steady (hp : s.pkg.powered = true) (hr : s.pkg.perstN = true) (ha : s.pkg.astray = none) :
    s.tick.steady = { s.steady with elapsed := s.pkg.elapsed + 1 } := by
  have h := s.portTime_steady hp hr
  rw [State.tick, State.stray_of_none _ ((congrArg Steady.astray h).trans ha), h]

theorem State.advance_off (dt : Nat) (h : ¬(s.pkg.powered = true ∧ s.pkg.perstN = true)) : s.advance dt = s := by
  rw [State.advance, if_pos (by rwa [Bool.not_eq_true', ← Bool.not_eq_true, Bool.and_eq_true])]

theorem State.tick_off (h : ¬(s.pkg.powered = true ∧ s.pkg.perstN = true)) : s.tick = s := by
  have halive : s.alive = false := by
    rw [Bool.eq_false_iff]
    intro ha
    simp only [State.alive, Bool.and_eq_true] at ha
    obtain ⟨⟨hon, -⟩, -⟩ := ha
    exact h hon
  have hstray : s.stray = s := by
    unfold State.stray
    split
    · rw [if_neg (by rwa [Bool.and_eq_true])]
    · rfl
  rw [State.tick, State.portTime, halive]
  simp [State.advanceTo, s.advance_off _ h, hstray]

/-- Settles O2: the lines' work, and the end of the ports' first training where it falls in the tick, leave `State.steady` but for the
period that passes; only a host error that goes on touches more. -/
theorem idleTick : Obligations.IdleTick := by
  intro s hq
  have hstep : step s = .next s.tick := by rw [step, hq]
  refine ⟨fun ⟨hp, hr⟩ => ⟨s.tick, hstep, s.tick_elapsed hp hr, fun ha => ?_⟩, fun hoff => by rw [hstep, s.tick_off hoff]⟩
  have hkeep := s.tick_steady hp hr ha
  exact ⟨congrArg Steady.seamCount hkeep, congrArg Steady.mem hkeep, congrArg Steady.queues hkeep,
    congrArg Steady.slots hkeep, congrArg Steady.regs hkeep⟩

end Sys2Proof.Machine
end

section
/-! What reset leaves (R45, R359, R418). -/

namespace Sys2Proof.Machine

/-- A vector of equal entries of which one is set: context 0 and queue 0 alone differ at reset. -/
theorem vector_replicate_set_get {α : Type} {n : Nat} (a b : α) (k i : Fin n) :
    ((Vector.replicate n a).set k.val b k.isLt)[i] = if i = k then b else a := by
  simp [Vector.getElem_set, Fin.ext_iff, eq_comm]

theorem Ctx.resetAll_st (i : Fin 64) : Ctx.resetAll[i].st = if i = 0 then .opened else .closed := by
  rw [show Ctx.resetAll[i] = _ from vector_replicate_set_get _ _ 0 i]
  split <;> rfl

theorem Queue.resetAll_st (i : Fin 64) : Queue.resetAll[i].st = if i = 0 then .stopped else .unbound := by
  rw [show Queue.resetAll[i] = _ from vector_replicate_set_get _ _ 0 i]
  split <;> rfl

theorem Queue.resetAll_nextSeq (i : Fin 64) : Queue.resetAll[i].nextSeq = 1 := by
  rw [show Queue.resetAll[i] = _ from vector_replicate_set_get _ _ 0 i]
  split <;> rfl

theorem State.reset_slot (i : Nat) : State.reset.slot i = {} := Vector.getElem_replicate _
theorem State.reset_cl (i : Nat) : State.reset.cl i = {} := Vector.getElem_replicate _
theorem State.reset_fence (i : Nat) : State.reset.fence i = 0 := Vector.getElem_replicate _

theorem State.reset_byteAt (a : Nat) : State.reset.byteAt a = 0 := rfl

/-- Settles O5: the vectors that reset fills entry by entry are read through the lemmas above, the rest is how the state is written. -/
theorem resetState : Obligations.ResetState := by
  refine ⟨⟨rfl, rfl, rfl, fun i => ?_, fun c => ?_, fun c => Ctx.resetAll_st _, fun q => Queue.resetAll_st _,
    fun q => Queue.resetAll_nextSeq _, State.reset_fence, rfl, rfl, rfl, rfl, rfl, rfl, ?_⟩, rfl, rfl, State.reset_byteAt⟩
  · rw [State.reset_slot]
  · rw [State.reset_cl]
  · rfl

end Sys2Proof.Machine
end

section
/-! Clusters that go on (R21, R22, R24, R433, R437): the barrier, a hung cluster, the end of a recovery check. -/

namespace Sys2Proof.Machine

/-- All five streams stand at a barrier word and no unit is stopped: the guard of CLUSTER_BARRIER passes (R22). -/
theorem clusterBarrier_passes (s : State) (c : ClusterId) (hw : (s.working c.val).isSome = true)
    (hm : s.cls[c].mre.faulted = false) (h0 : s.cls[c].ve0.faulted = false) (h1 : s.cls[c].ve1.faulted = false)
    (hr : s.cls[c].ru.faulted = false) (hd : s.cls[c].dma.faulted = false)
    (hb : ∀ l ∈ [s.cls[c].mre.stream, s.cls[c].ve0.stream, s.cls[c].ve1.stream, s.cls[c].ru.stream, s.cls[c].dma.stream],
      l.head? = some (BitVec.allOnes 128)) :
    exec (.clusterBarrier c) s = .next (s.setCl c.val fun x => { x with
      mre := { x.mre with stream := x.mre.stream.tail, pos := x.mre.pos + 1 }
      ve0 := { x.ve0 with stream := x.ve0.stream.tail, pos := x.ve0.pos + 1 }
      ve1 := { x.ve1 with stream := x.ve1.stream.tail, pos := x.ve1.pos + 1 }
      ru := { x.ru with stream := x.ru.stream.tail, pos := x.ru.pos + 1 }
      dma := { x.dma with stream := x.dma.stream.tail, pos := x.dma.pos + 1 }
      barriers := x.barriers + 1 }) := by
  simp only [List.forall_mem_cons] at hb
  obtain ⟨b0, b1, b2, b3, b4, -⟩ := hb
  show execClusterBarrier c s = _
  obtain ⟨w, hw⟩ := Option.isSome_iff_exists.1 hw
  simp [execClusterBarrier, hw, hm, h0, h1, hr, hd, b0, b1, b2, b3, b4, isBarrier, -Fin.getElem_fin]

theorem clusterHung_detects (s : State) (now i : Nat) (c : ClusterId) (st : Step)
    (hi : (s.advanceTo now).slotOfCluster c.val = some i) (hst : ((s.advanceTo now).slot i).step = some st)
    (hs : (s.advanceTo now).serving = true) (hw : (s.advanceTo now).worksOn c.val i st = true)
    (hp : 1000000 ≤ (s.advanceTo now).now - ((s.advanceTo now).cl c.val).progress) :
    exec (.clusterHung now c) s = .next (((s.advanceTo now).detect ((s.advanceTo now).hungError c.val i st)).setStep i
      fun st => { st with hung := c.val :: st.hung }) := by
  have hlim : ¬ (s.advanceTo now).now - ((s.advanceTo now).cl c.val).progress < 10 * Config.ms := Nat.not_lt.mpr hp
  show execClusterHung now c s = _
  simp [execClusterHung, hi, hst, hs, hw, hlim]

theorem recoveryCheckDone_passed (s : State) (c : ClusterId) (ha : s.alive = true) (hc : (s.cl c.val).owner = .check) :
    exec (.recoveryCheckDone c 0) s = .next (s.setCl c.val fun x => { x with owner := .free }).choose := by
  show execRecoveryCheckDone c 0 s = _
  simp [execRecoveryCheckDone, ha, hc]

theorem recoveryCheckDone_mismatches (s : State) (c : ClusterId) (n : Nat) (ha : s.alive = true)
    (hc : (s.cl c.val).owner = .check) (hn : n ≠ 0) :
    exec (.recoveryCheckDone c n) s = .next ((s.setCl c.val fun x => { x with owner := .withdrawn }).detect
      { cls := 0, event := some { code := 0x14, payload := leBytes 4 c.val ++ leBytes 4 n } }) := by
  show execRecoveryCheckDone c n s = _
  simp [execRecoveryCheckDone, ha, hc, hn]

/-- Settles O36, one lemma for each of the three commands. -/
theorem clustersGoOn : Obligations.ClustersGoOn := by
  refine ⟨?_, ?_, fun s c ha hc => ⟨recoveryCheckDone_passed s c ha hc, fun n => recoveryCheckDone_mismatches s c n ha hc⟩⟩
  · rintro s c x rfl hw hm h0 h1 hr hd hb
    exact clusterBarrier_passes s c hw hm h0 h1 hr hd hb
  · rintro s s0 now i c st rfl hi hst hs hw hp
    exact clusterHung_detects s now i c st hi hst hs hw hp

end Sys2Proof.Machine
end

section
/-! The words of a cluster's DMA stream (R397): what each word does with its access when that ends, and when it fails. -/

namespace Sys2Proof.Machine

/-- An access of a DMA engine that ends: its waits end and the work goes on. -/
theorem State.accessOr_ok {α : Type} {s t : State} {ag : Agent} {m : Acc α} {hint : Option Hint} {a : α}
    {k : State → α → State} {fail : State → AccFail → State} (h : m.go s = (.ok a, t)) :
    s.accessOr ag m hint k fail = k (t.waited ag) a := by
  rw [State.accessOr, h]

/-- An access that fails, and neither waits for the host nor for a page nor is held, is left to `fail`. -/
theorem State.accessOr_fails {α : Type} {s t : State} {ag : Agent} {m : Acc α} {hint : Option Hint} {f : AccFail}
    {k : State → α → State} {fail : State → AccFail → State} (h : m.go s = (.error f, t)) (hh : f ≠ .hold)
    (hs : ∀ l b, f ≠ .snoop l b) (hp : ∀ l i p d b w, f ≠ .page l i p d b w) :
    s.accessOr ag m hint k fail = fail (t.endPartials (· == ag.owner)) f := by
  cases f with
  | hold => exact absurd rfl hh
  | snoop l b => exact absurd rfl (hs l b)
  | page l i p d b w => exact absurd rfl (hp l i p d b w)
  | dva | poison | lent => rw [State.accessOr, h]

theorem State.dmaIn_ok {s t : State} {c : Nat} {ag : Agent} {dva len t0 : Nat} {hint : Option Hint} {k : State → State}
    {bs : List Byte} (h : (readDva ag dva len hint).go s = (.ok bs, t)) :
    s.dmaIn c ag dva len t0 hint k = (k (t.waited ag)).dmaNext c (memWrite · t0 bs) :=
  State.accessOr_ok h

/-- A cluster's own entry. -/
theorem State.cl_val (s : State) (c : ClusterId) : s.cl c.val = s.cls[c] := by simp [State.cl]

variable {s t : State} {c : ClusterId} {ecc : EccList} {i : Nat} {st : Step} {x : DmaOp} {h : Option Hint} {rel : Bool}

theorem dmaSet_word {r : Resident} (hx : s.dmaHead c.val = some (i, st, x)) (hr : s.model.res = some r) (hk : x.kind = 0)
    (hb : x.badSet r.setBytes = false) :
    exec (.dmaSet c) s = .next (s.dmaIn c.val (s.dmaAgent c.val i st (some 0)) (r.slotDva st.set + x.offset) x.length x.t0
      none id) := by
  show execDmaSet c s = _
  simp [execDmaSet, hx, hr, hk, hb]

theorem dmaRead_word (hx : s.dmaHead c.val = some (i, st, x)) (hk : x.kind = 1) (hb : x.badMove = false)
    (hh : x.hint = some (h, rel)) :
    exec (.dmaRead c ecc) s = .next ((s.strike ecc).dmaIn c.val (s.dmaAgent c.val i st none) x.dva x.length x.t0 h
      fun s' => s'.releaseAll rel (s.dmaAgent c.val i st none) [(x.dva, x.length)]) := by
  show execDmaRead c ecc s = _
  simp [execDmaRead, hx, hk, hb, hh]

theorem dmaRead_bad (hx : s.dmaHead c.val = some (i, st, x)) (hk : x.kind = 1) (hb : x.badMove = true) :
    exec (.dmaRead c ecc) s = .next (s.dmaBad c.val i st) := by
  show execDmaRead c ecc s = _
  simp [execDmaRead, hx, hk, hb]

theorem dmaWrite_bad (hx : s.dmaHead c.val = some (i, st, x)) (hk : x.kind = 2) (hb : x.badMove = true) :
    exec (.dmaWrite c) s = .next (s.dmaBad c.val i st) := by
  show execDmaWrite c s = _
  simp [execDmaWrite, hx, hk, hb]

theorem dmaSet_moves {r : Resident} {bs : List Byte} (hx : s.dmaHead c.val = some (i, st, x)) (hr : s.model.res = some r)
    (hk : x.kind = 0) (hb : x.badSet r.setBytes = false)
    (hm : (readDva (s.dmaAgent c.val i st (some 0)) (r.slotDva st.set + x.offset) x.length).go s = (.ok bs, t)) :
    exec (.dmaSet c) s = .next ((t.waited (s.dmaAgent c.val i st (some 0))).dmaNext c.val (memWrite · x.t0 bs)) := by
  rw [dmaSet_word hx hr hk hb, State.dmaIn_ok hm]; rfl

theorem dmaWrite_moves {ls : List Nat} (hx : s.dmaHead c.val = some (i, st, x)) (hk : x.kind = 2) (hb : x.badMove = false)
    (hh : x.hint = some (h, rel))
    (hm : (writeDva (s.dmaAgent c.val i st none) x.dva (memRead (s.cl c.val).t0 x.t0 x.length) h).go s = (.ok ls, t)) :
    exec (.dmaWrite c) s = .next (((t.waited (s.dmaAgent c.val i st none)).releaseAll rel
      (s.dmaAgent c.val i st none) [(x.dva, x.length)]).dmaNext c.val id) := by
  rw [State.cl_val] at hm
  show execDmaWrite c s = _
  simp only [execDmaWrite, hx, hk, hb, hh, State.accessOr_ok hm, ne_eq, not_true_eq_false, Bool.false_eq_true, if_false]

theorem dmaGather_moves {bs : List Byte} (hx : s.dmaHead c.val = some (i, st, x)) (hk : x.kind = 3)
    (hb : x.badGather (st.share c.val).2 = false) (hh : x.hint = some (h, rel))
    (hm : (gatherRead (s.dmaAgent c.val i st none) (st.input + x.tableOff) x.elem h
      ((List.range (st.share c.val).2).map ((st.share c.val).1 + ·))).go s = (.ok bs, t)) :
    exec (.dmaGather c) s = .next (((t.waited (s.dmaAgent c.val i st none)).releaseAll rel (s.dmaAgent c.val i st none)
      (gatherRanges (s.dmaAgent c.val i st none) (st.input + x.tableOff) x.elem
        ((List.range (st.share c.val).2).map ((st.share c.val).1 + ·)) (t.waited (s.dmaAgent c.val i st none)))).dmaNext c.val
      (memWrite · x.t0 bs)) := by
  show execDmaGather c s = _
  simp only [execDmaGather, hx, hk, hb, hh, State.accessOr_ok hm, ne_eq, not_true_eq_false, Bool.false_eq_true, if_false]

theorem dmaRead_fails {f : AccFail} (hx : s.dmaHead c.val = some (i, st, x)) (hk : x.kind = 1) (hb : x.badMove = false)
    (hh : x.hint = some (h, rel)) (hm : (readDva (s.dmaAgent c.val i st none) x.dva x.length h).go (s.strike ecc) = (.error f, t))
    (hf : f ≠ .hold) (hs : ∀ l b, f ≠ .snoop l b) (hp : ∀ l i p d b w, f ≠ .page l i p d b w) :
    exec (.dmaRead c ecc) s = .next ((t.endPartials (· == (s.dmaAgent c.val i st none).owner)).dmaFail c.val
      (s.dmaAgent c.val i st none) x.t0 (readSound (s.dmaAgent c.val i st none) x.dva
        (t.endPartials (· == (s.dmaAgent c.val i st none).owner)) (lineParts x.dva x.length)) f) := by
  rw [dmaRead_word hx hk hb hh, State.dmaIn, State.accessOr_fails hm hf hs hp]

theorem State.cl_dmaNext (s : State) (c : Nat) (f : List Host.Cell → List Host.Cell) :
    ((s.dmaNext c f).cl c).t0 = f (s.cl c).t0 ∧ ((s.dmaNext c f).cl c).dma.stream = (s.cl c).dma.stream.drop 1 := by
  simp [State.dmaNext]

/-- Settles O58: each word is one access, whose end and whose failure `State.accessOr` gives. -/
theorem dmaWordsRun : Obligations.DmaWordsRun := by
  refine ⟨?_, ?_, ?_, ?_, ?_, fun _ _ _ _ _ _ => rfl, ?_, ?_⟩
  · intro s t c i st x r bs hx hr hk hb hm
    exact dmaSet_moves hx hr hk hb hm
  · intro s t c ecc i st x h rel bs hx hk hb hh hm
    rw [dmaRead_word hx hk hb hh, State.dmaIn_ok hm]
  · intro s t c i st x h rel ls hx hk hb hh hm
    exact dmaWrite_moves hx hk hb hh hm
  · rintro s t w c i st x h rel bs ks hx hk hb hh rfl hm rfl
    exact dmaGather_moves hx hk hb hh hm
  · rintro s t c ecc i st x h rel f ag hx hk hb hh rfl hm hf hs hp
    exact dmaRead_fails hx hk hb hh hm hf hs hp
  · intro s c f
    obtain ⟨h0, hd⟩ := s.cl_dmaNext c f
    exact ⟨h0, hd, rfl, rfl, rfl⟩
  · intro s c i st x ecc hx hb
    exact ⟨fun hk => dmaRead_bad hx hk hb, fun hk => dmaWrite_bad hx hk hb⟩

end Sys2Proof.Machine
end

section
/-! Power and temperature (R16, R250, R309, R448, R471 to R483): each row of the monitors where it is due. -/

namespace Sys2Proof.Machine

theorem State.watched_of_alive {s : State} (h : s.alive = true) : s.watched = true := by
  simp only [State.alive, Bool.and_eq_true] at h
  simp [State.watched, h]

/-! ### Supply -/

theorem outsideSince_inside {since : Option Nat} {now v : Nat} (h1 : 550 ≤ v) (h2 : v ≤ 900) : outsideSince since now v = none := by
  simp [outsideSince, Nat.not_lt.mpr h1, Nat.not_lt.mpr h2]

theorem outsideSince_outside {since : Option Nat} {now v : Nat} (h : v < 550 ∨ 900 < v) :
    outsideSince since now v = some (since.getD now) := by
  simp [outsideSince, h]

theorem outsideSince_eq (since : Option Nat) (now v : Nat) :
    outsideSince since now v = if v < 550 ∨ 900 < v then some (since.getD now) else none := by
  simp [outsideSince]

/-- A monitor that has only now left its window has not been outside for 10 µs. -/
theorem outsideSince_fresh (now v : Nat) : (outsideSince none now v).any (· + 10 * Config.us ≤ now) = false := by
  by_cases h : v < 550 ∨ 900 < v
  · simp [outsideSince_outside h, Config.us]
  · simp [outsideSince, h]

theorem Region.supply_inside {now v0 v1 : Nat} (h1 : 550 ≤ v0) (h2 : v0 ≤ 900) (h3 : 550 ≤ v1) (h4 : v1 ≤ 900) :
    Region.supply now v0 v1 = fun g => { g with vmon0 := v0, vmon1 := v1, outside := [none, none] } := by
  funext g
  rw [Region.supply, outsideSince_inside h1 h2, outsideSince_inside h3 h4]

/-- Whether a monitor of a region has read outside its window for 10 µs (R483). -/
def Region.longOutside (now : Nat) (g : Region) : Bool := g.outside.any fun o => o.any (· + 10 * Config.us ≤ now)

variable {s s0 : State} {now v0 v1 : Nat} {r : RegionId}

theorem regionSupply_watched (h0 : s0 = s.advanceTo now) (hw : s0.watched = true) :
    exec (.regionSupply now r v0 v1) s = .next
      (if (Region.supply s0.now v0 v1 s0.regions[r]).longOutside s0.now && !s0.pkg.tripped then
        (s0.setRegion r.val (Region.supply s0.now v0 v1)).raiseFatal 0x0B none
       else s0.setRegion r.val (Region.supply s0.now v0 v1)) := by
  show execRegionSupply now r v0 v1 s = _
  simp only [execRegionSupply, ← h0, hw, Bool.not_true, Bool.false_eq_true, if_false, State.setRegion_same]
  rfl

theorem regionSupply_quiet (h0 : s0 = s.advanceTo now) (hw : s0.watched = true)
    (hq : (Region.supply s0.now v0 v1 s0.regions[r]).longOutside s0.now = false) :
    exec (.regionSupply now r v0 v1) s = .next (s0.setRegion r.val (Region.supply s0.now v0 v1)) := by
  simp only [regionSupply_watched h0 hw, hq, Bool.false_and, Bool.false_eq_true, if_false]

theorem regionSupply_inside (h0 : s0 = s.advanceTo now) (hw : s0.watched = true)
    (h1 : 550 ≤ v0) (h2 : v0 ≤ 900) (h3 : 550 ≤ v1) (h4 : v1 ≤ 900) :
    exec (.regionSupply now r v0 v1) s =
      .next (s0.setRegion r.val fun g => { g with vmon0 := v0, vmon1 := v1, outside := [none, none] }) := by
  rw [regionSupply_quiet h0 hw (by rw [Region.supply_inside h1 h2 h3 h4]; rfl), Region.supply_inside h1 h2 h3 h4]

theorem regionSupply_first (h0 : s0 = s.advanceTo now) (hw : s0.watched = true)
    (hn0 : s0.regions[r].outside.getD 0 none = none) (hn1 : s0.regions[r].outside.getD 1 none = none) :
    exec (.regionSupply now r v0 v1) s = .next (s0.setRegion r.val (Region.supply s0.now v0 v1)) := by
  apply regionSupply_quiet h0 hw
  simp only [Region.longOutside, Region.supply, hn0, hn1, List.any_cons, List.any_nil, outsideSince_fresh, Bool.or_false]

theorem regionSupply_fatal {since : Nat} (h0 : s0 = s.advanceTo now) (ha : s0.alive = true) (ht : s0.pkg.tripped = false)
    (ho : ((v0 < 550 ∨ 900 < v0) ∧ s0.regions[r].outside.getD 0 none = some since) ∨
      ((v1 < 550 ∨ 900 < v1) ∧ s0.regions[r].outside.getD 1 none = some since)) (hs : since + 1000 ≤ s0.now) :
    ∃ t, exec (.regionSupply now r v0 v1) s = .next t ∧ t.err.fatal = some (0x0B, none) := by
  have hdue : (some since).any (· + 10 * Config.us ≤ s0.now) = true := decide_eq_true hs
  have hlong : (Region.supply s0.now v0 v1 s0.regions[r]).longOutside s0.now = true := by
    rcases ho with ⟨hv, hm⟩ | ⟨hv, hm⟩ <;>
      simp only [Region.longOutside, Region.supply, outsideSince_outside hv, hm, Option.getD_some, List.any_cons, hdue,
        Bool.true_or, Bool.or_true]
  refine ⟨_, regionSupply_watched h0 (State.watched_of_alive ha), ?_⟩
  simp only [hlong, ht, Bool.not_false, Bool.and_self, if_true]
  exact State.raiseFatal_fatal (s := s0.setRegion _ _) ha 0x0B none

/-! ### The control loop -/

theorem clamp_up {g : Region} {pace : Nat} (hn : g.state = .normal) (hlo : 600 ≤ g.setpoint) (h : 1600 * pace < 990000) :
    g.clampTo (g.step pace) = min (g.setpoint + 5) (min 850 g.ceilLive) := by
  have hstep : g.step pace = g.setpoint + 5 := by
    simp only [Region.step, Region.target16, hn]
    rw [if_pos (by omega)]
  rw [hstep, Region.clampTo, Nat.max_eq_right (by omega)]

theorem clamp_hold {g : Region} {pace : Nat} (hn : g.state = .normal) (hlo : 600 ≤ g.setpoint)
    (hhi : g.setpoint ≤ min 850 g.ceilLive) (h1 : 990000 ≤ 1600 * pace) (h2 : 1600 * pace ≤ 1010000) :
    g.clampTo (g.step pace) = g.setpoint := by
  have hstep : g.step pace = g.setpoint := by
    simp only [Region.step, Region.target16, hn]
    rw [if_neg (by omega), if_neg (by omega)]
  rw [hstep, Region.clampTo, Nat.max_eq_right hlo, Nat.min_eq_left hhi]

theorem clamp_down {g : Region} {pace : Nat} (hn : g.state = .normal) (hlo : 600 ≤ g.setpoint)
    (hhi : g.setpoint ≤ min 850 g.ceilLive) (h : 1010000 < 1600 * pace) :
    g.clampTo (g.step pace) = max 600 (g.setpoint - 5) := by
  have hstep : g.step pace = g.setpoint - 5 := by
    simp only [Region.step, Region.target16, hn]
    rw [if_neg (by omega), if_pos (by omega)]
  rw [hstep, Region.clampTo, Nat.min_eq_left (by omega)]

@[simp] theorem State.thermal_now (s : State) (r : Nat) : (s.thermal r).now = s.now := by
  unfold State.thermal
  extract_lets g new s'
  split
  · rw [State.now, State.noteEvent_pkg]; rfl
  · rfl

theorem State.meter_now (s : State) (r current : Nat) (limit : Option Nat) : (s.meter r current limit).now = s.now := rfl

theorem State.meter_bounds (s : State) (r current : Nat) (limit : Option Nat) :
    ((s.meter r current limit).regions[ix 8 r]).current = min current 3000 ∧
    ((s.meter r current limit).regions[ix 8 r]).limiting = limit.isSome ∧ (s.meter r current limit).power.pkgCurrent ≤ 2000 ∧
    (limit.isSome = true → 0 < ((s.meter r current limit).regions[ix 8 r]).setpoint →
      ((s.meter r current limit).regions[ix 8 r]).limitTo < 10 * ((s.meter r current limit).regions[ix 8 r]).setpoint) := by
  have hg : (s.meter r current limit).regions[ix 8 r] = { s.regions[ix 8 r] with
      current := min current Config.regionCurrentMax, limiting := limit.isSome,
      limitTo := 10 * s.regions[ix 8 r].setpoint - max 1 (limit.getD 0), loopAt := s.now } := vmod_get_same ..
  rw [hg]
  refine ⟨rfl, rfl, Nat.min_le_right _ _, fun _ hpos => ?_⟩
  dsimp only at hpos ⊢
  omega

section
variable {a b current : Nat} {limit : Option Nat} (h0 : s0 = s.advanceTo now) (ha : s0.alive = true) (hat : s0.now % 1000 = 0)
  (hl : s0.now ≠ s0.regions[r].loopAt) (hi : s0.regions[r].idle = false) (hs : s0.regions[r].searching = false)
include h0 ha hat hl hi hs

/-- The loop of a region that is neither idle nor searching, whose output has come back: it measures and moves its set point, or, after
idle or an interval that it has not run through, only resumes (R473, R474, R482). -/
theorem controlLoop_runs (ho : s0.regions[r].resumed = true → s0.regions[r].output = s0.regions[r].heading) :
    exec (.controlLoop now r a b current limit) s =
      if s0.regions[r].resumed = true ∨ s0.regions[r].loopAt + 10 * Config.us ≠ s0.now then
        .next (((s0.meter r.val current limit).thermal r.val).setRegion r.val fun g => { g with resumed := false })
      else .next (((s0.meter r.val current limit).thermal r.val).setRegion r.val fun g =>
        { g with setpoint := g.clampTo (g.step (min a b)), meas := g.meas ++ [(s0.now, a, b)] }) := by
  have hready : (s0.regions[r].resumed && decide (s0.regions[r].output ≠ s0.regions[r].heading)) = false := by
    cases hr : s0.regions[r].resumed with
    | false => rfl
    | true => rw [ho hr]; simp
  have hgrid : s0.now % (10 * Config.us) = 0 := hat
  show execControlLoop now r a b current limit s = _
  simp only [execControlLoop, ← h0, ha, hgrid, hl, hi, hs, hready, State.thermal_now, State.meter_now, ne_eq, not_true_eq_false,
    decide_false, Bool.not_true, Bool.or_false, Bool.false_eq_true, if_false, Bool.or_eq_true, decide_eq_true_eq]

theorem controlLoop_moves (hr : s0.regions[r].resumed = false) (hnext : s0.regions[r].loopAt + 1000 = s0.now) :
    exec (.controlLoop now r a b current limit) s = .next (((s0.meter r.val current limit).thermal r.val).setRegion r.val fun g =>
      { g with setpoint := g.clampTo (g.step (min a b)), meas := g.meas ++ [(s0.now, a, b)] }) := by
  have hwhole : ¬(s0.regions[r].resumed = true ∨ s0.regions[r].loopAt + 10 * Config.us ≠ s0.now) := by
    rw [not_or, Bool.not_eq_true]
    exact ⟨hr, not_not_intro hnext⟩
  rw [controlLoop_runs h0 ha hat hl hi hs fun h => absurd (hr.symm.trans h) Bool.false_ne_true, if_neg hwhole]

theorem controlLoop_resumes (hr : s0.regions[r].resumed = true) (ho : s0.regions[r].output = s0.regions[r].heading) :
    exec (.controlLoop now r a b current limit) s =
      .next (((s0.meter r.val current limit).thermal r.val).setRegion r.val fun g => { g with resumed := false }) := by
  rw [controlLoop_runs h0 ha hat hl hi hs fun _ => ho, if_pos (.inl hr)]

theorem controlLoop_missed (hr : s0.regions[r].resumed = false) (hmiss : s0.regions[r].loopAt + 1000 ≠ s0.now) :
    exec (.controlLoop now r a b current limit) s =
      .next (((s0.meter r.val current limit).thermal r.val).setRegion r.val fun g => { g with resumed := false }) := by
  rw [controlLoop_runs h0 ha hat hl hi hs fun h => absurd (hr.symm.trans h) Bool.false_ne_true, if_pos (.inr hmiss)]

end

/-! ### Pace samples -/

theorem paceSample_due {g : Region} {ms : List (Nat × Nat × Nat)} {s1 : State} (h0 : s0 = s.advanceTo now) (ha : s0.alive = true)
    (hg : g = s0.regions[r]) (hd : isDue Config.ms g.sampleAt s0.now = true) (hms : ms = g.lastMs s0.now)
    (h1 : s1 = s0.setRegion r.val (fun g => { g with
      sampleAt := s0.now, meas := g.meas.filter fun m => s0.now / Config.ms * Config.ms < m.1 })) :
    exec (.paceSample now r) s = if ms.isEmpty then .next (s1.countPace r.val false) else
      .next ((s1.setRegion r.val fun g => { g with
        paceMre := meanOf (ms.map (·.2.1)), paceGe := meanOf (ms.map (·.2.2)) }).countPace r.val
          (meanOf (ms.map (·.2.1)) < s0.dim.cfgLive.field 16 16 || meanOf (ms.map (·.2.2)) < s0.dim.cfgLive.field 32 16)) := by
  subst hg hms h1
  show execPaceSample now r s = _
  simp only [execPaceSample, ← h0, ha, hd, Bool.not_true, Bool.or_self, Bool.false_eq_true, if_false]
  rfl

theorem Region.mem_lastMs (g : Region) (now : Nat) (m : Nat × Nat × Nat) :
    m ∈ g.lastMs now ↔ m ∈ g.meas ∧ now / Config.ms * Config.ms < m.1 + Config.ms ∧ m.1 ≤ now / Config.ms * Config.ms := by
  simp [Region.lastMs]

/-! ### Idle and work -/

theorem State.clusterWorks_rested {s : State} {c : Nat} (ho : (s.cl c).owner = .free ∨ (s.cl c).owner = .withdrawn)
    (hp : 100 * Config.us ≤ s.now - (s.cl c).progress) : s.clusterWorks c = false := by
  rcases ho with ho | ho <;> simp [State.clusterWorks, ho, hp]

theorem State.regionWorks_rested {s : State} {r : RegionId}
    (hc : ∀ c, c = 2 * r.val ∨ c = 2 * r.val + 1 →
      ((s.cl c).owner = .free ∨ (s.cl c).owner = .withdrawn) ∧ 100 * Config.us ≤ s.now - (s.cl c).progress)
    (hw : 100 * Config.us ≤ s.now - s.regions[r].workAt) (hm : ∀ m ∈ s.tabs.serve, s.msgRegion m.2 ≠ r.val) :
    s.regionWorks r.val = false := by
  obtain ⟨ho0, hp0⟩ := hc _ (.inl rfl)
  obtain ⟨ho1, hp1⟩ := hc _ (.inr rfl)
  have hserve : (s.tabs.serve.any fun m => s.msgRegion m.2 == r.val) = false := by
    simpa [List.any_eq_false] using hm
  simp only [State.regionWorks, State.clusterWorks_rested ho0 hp0, State.clusterWorks_rested ho1 hp1, hserve, ix_fin,
    Nat.not_lt.mpr hw, decide_false, Bool.or_false]

theorem regionIdle_rested (h0 : s0 = s.advanceTo now) (ha : s0.alive = true) (hs : s0.regions[r].searching = false)
    (hw : s0.regionWorks r.val = false) :
    exec (.regionIdle now r) s = .next (s0.setRegion r.val fun g => { g with idle := true, limiting := false }) := by
  show execRegionIdle now r s = _
  simp only [execRegionIdle, ← h0, ha, hs, hw, Bool.not_true, Bool.or_false, Bool.false_eq_true, if_false]

theorem State.atWork_region (s : State) (r : RegionId) : (s.atWork r.val).regions[r] = Region.work s.now s.regions[r] :=
  State.setRegion_same ..

theorem regionWake_idle (h0 : s0 = s.advanceTo now) (ha : s0.alive = true) (hi : s0.regions[r].idle = true) :
    exec (.regionWake now r) s = .next (s0.setRegion r.val fun g => { g with idle := false, resumed := true }) := by
  show execRegionWake now r s = _
  simp only [execRegionWake, ← h0, ha, hi, Bool.not_true, Bool.or_self, Bool.false_eq_true, if_false]

theorem hoursTick_due (h0 : s0 = s.advanceTo now) (hw : s0.watched = true) (hd : 1406250000 ≤ s0.now - s0.recorder.hoursMark) :
    exec (.hoursTick now) s =
      .next (s0.recorderWrite fun r => { r with hours := r.hours + 1, hoursMark := r.hoursMark + 1406250000 }) := by
  show execHoursTick now s = _
  simp only [execHoursTick, ← h0, hw, Nat.not_lt.mpr hd, Bool.not_true, decide_false, Bool.or_self, Bool.false_eq_true, if_false]

/-! ### Stacks -/

/-- A level is STOP only above 105 °C, or where it has been STOP before (R250). -/
theorem Level.next_eq_stop {l : Level} {v : Int} : l.next v = .stop ↔ 105 < v ∨ l = .stop := by
  unfold Level.next
  split
  · simp_all
  · split
    · simp_all
    · split <;> simp_all

/-- A valid reading takes a stack into STOP where it is above 105 °C and the stack is not there. -/
theorem Level.next_enters_stop {l : Level} {v : Int} :
    (decide (l.next v = .stop) && decide (l ≠ .stop)) = true ↔ 105 < v ∧ l ≠ .stop := by
  rw [Bool.and_eq_true, decide_eq_true_eq, decide_eq_true_eq, Level.next_eq_stop]
  exact ⟨fun ⟨h, hl⟩ => ⟨h.resolve_right hl, hl⟩, fun ⟨h, hl⟩ => ⟨.inl h, hl⟩⟩

theorem hbmTempReading_valid {v : Int} (h0 : s0 = s.advanceTo now) (hw : s0.watched = true) (ht : s0.hbm.stk[r].trained = true)
    (hd : isDue Config.ms s0.hbm.stk[r].readAt s0.now = true) (h1 : -40 ≤ v) (h2 : v ≤ 150) :
    exec (.hbmTempReading now r (some v)) s = .next
      (if s0.hbm.stk[r].level.next v = .stop && s0.hbm.stk[r].level ≠ .stop then
        (s0.setStack r.val fun k => { k with temp := v, badReads := 0, sensorFault := false, level := s0.hbm.stk[r].level.next v,
                                             readAt := s0.now }).raiseFatal 2 none
       else s0.setStack r.val fun k => { k with temp := v, badReads := 0, sensorFault := false,
                                                level := s0.hbm.stk[r].level.next v, readAt := s0.now }) := by
  have hv : (some v).filter stackTempOk = some v := by simp [Option.filter, stackTempOk, h1, h2]
  show execHbmTempReading now r (some v) s = _
  simp only [execHbmTempReading, ← h0, hw, ht, hd, hv, Bool.not_true, Bool.or_self, Bool.false_eq_true, if_false]

theorem State.setStack_congr (s : State) (r : RegionId) {f g : Stack → Stack} (h : f s.hbm.stk[r] = g s.hbm.stk[r]) :
    s.setStack r.val f = s.setStack r.val g := by
  simp only [State.setStack, vmod, ix_fin, h]

theorem State.setStack_same (s : State) (r : RegionId) (f : Stack → Stack) : (s.setStack r.val f).hbm.stk[r] = f s.hbm.stk[r] := by
  simp [State.setStack]

theorem hbmTempReading_moderate {v : Int} (h0 : s0 = s.advanceTo now) (hw : s0.watched = true)
    (ht : s0.hbm.stk[r].trained = true) (hd : isDue Config.ms s0.hbm.stk[r].readAt s0.now = true) (h1 : -40 ≤ v) (h2 : v ≤ 105) :
    exec (.hbmTempReading now r (some v)) s = .next (s0.setStack r.val fun k =>
      { k with temp := v, badReads := 0, sensorFault := false, level := k.level.next v, readAt := s0.now }) := by
  rw [hbmTempReading_valid h0 hw ht hd h1 (by omega), if_neg (by rw [Level.next_enters_stop]; omega)]
  exact congrArg _ (State.setStack_congr s0 r rfl)

theorem hbmTempReading_hot {v : Int} (h0 : s0 = s.advanceTo now) (ha : s0.alive = true)
    (ht : s0.hbm.stk[r].trained = true) (hd : isDue Config.ms s0.hbm.stk[r].readAt s0.now = true) (h1 : 105 < v) (h2 : v ≤ 150)
    (hl : s0.hbm.stk[r].level ≠ .stop) :
    ∃ t, exec (.hbmTempReading now r (some v)) s = .next t ∧ t.err.fatal = some (2, none) ∧ t.hbm.stk[r].level = .stop := by
  have hstop : s0.hbm.stk[r].level.next v = .stop := Level.next_eq_stop.mpr (.inl h1)
  refine ⟨_, hbmTempReading_valid h0 (State.watched_of_alive ha) ht hd (by omega) h2, ?_⟩
  rw [if_pos (Level.next_enters_stop.mpr ⟨h1, hl⟩)]
  refine ⟨State.raiseFatal_fatal (s := s0.setStack _ _) ha 2 none, ?_⟩
  rw [State.raiseFatal_hbm, State.setStack_same, hstop]

theorem Level.next_levels {l : Level} (v : Int) (hl : l ≠ .stop) : (v ≤ 82 → l.next v = .full) ∧
    (85 < v → v ≤ 92 → l = .full → l.next v = .l75) ∧ (95 < v → v ≤ 105 → l.next v = .l50) ∧
    (92 < v → v ≤ 95 → l = .l50 → l.next v = .l50) ∧ (92 < v → v ≤ 95 → l ≠ .l50 → l.next v = .l75) ∧
    (105 < v → l.next v = .stop) := by
  refine ⟨fun h => ?_, fun h1 h2 hf => ?_, fun h1 h2 => ?_, fun h1 h2 h5 => ?_, fun h1 h2 h5 => ?_,
    fun h => Level.next_eq_stop.mpr (.inl h)⟩
  · rw [Level.next, if_neg (by simp [hl]; omega), if_neg (by simp; omega), if_neg (by simp; omega)]
  · rw [Level.next, if_neg (by simp [hl]; omega), if_neg (by simp [hf]; omega), if_pos (by simp [h1])]
  · rw [Level.next, if_neg (by simp [hl]; omega), if_pos (by simp [h1])]
  · rw [Level.next, if_neg (by simp [hl]; omega), if_pos (by simp [h1, h5])]
  · rw [Level.next, if_neg (by simp [hl]; omega), if_neg (by simp [h5]; omega), if_pos (by simp; omega)]

/-! ### Region sensors -/

/-- A region after a valid reading of its sensor `i`, the `hot`th in a row of 110 °C (R478, R480). -/
def Region.sensed (now i : Nat) (v : Int) (hot : Nat) (g : Region) : Region :=
  { g with readAt := g.readAt.set i now, temps := g.temps.set i v, bad := g.bad.set i 0, faulted := g.faulted.set i false,
           hot := g.hot.set i hot }

theorem tempSensorReading_valid {i : Fin 4} {v : Int} (h0 : s0 = s.advanceTo now) (hw : s0.watched = true)
    (hd : isDue (10 * Config.us) (s0.regions[r].readAt.getD i 0) s0.now = true) (h1 : -640 ≤ v) (h2 : v ≤ 2400) {hot : Nat}
    (hh : hot = if 1760 ≤ v then s0.regions[r].hot.getD i 0 + 1 else 0) :
    exec (.tempSensorReading now r i (some v)) s =
      .next (if 2 ≤ hot then ((s0.setRegion r.val (Region.sensed s0.now i v hot)).reheat r.val).trip
        else (s0.setRegion r.val (Region.sensed s0.now i v hot)).reheat r.val) := by
  have hv : (some v).filter tempOk = some v := by simp [Option.filter, tempOk, h1, h2]
  subst hh
  show execTempSensorReading now r i (some v) s = _
  simp only [execTempSensorReading, ← h0, hw, hd, hv, State.setRegion_setRegion, Bool.not_true, Bool.or_self, Bool.false_eq_true,
    if_false]
  rfl

theorem tempSensorReading_cool {i : Fin 4} {v : Int} (h0 : s0 = s.advanceTo now) (hw : s0.watched = true)
    (hd : isDue (10 * Config.us) (s0.regions[r].readAt.getD i 0) s0.now = true) (h1 : -640 ≤ v) (h2 : v < 1760) :
    exec (.tempSensorReading now r i (some v)) s = .next ((s0.setRegion r.val (Region.sensed s0.now i v 0)).reheat r.val) := by
  rw [tempSensorReading_valid h0 hw hd h1 (by omega) (if_neg (by omega)).symm, if_neg (by decide)]

theorem State.trip_effect (s : State) : s.trip.pkg.tripped = true ∧
    (∀ k : RegionId, s.trip.regions[k].output = 0 ∧ s.trip.hbm.stk[k].level = .stop) ∧ s.trip.alive = false := by
  unfold State.trip
  extract_lets off pin stop
  refine ⟨by rw [State.raiseFatal_pkg], fun k => ⟨?_, ?_⟩, State.raiseFatal_not_alive _ _ _⟩
  · rw [State.raiseFatal_regions]; simp [off]
  · rw [State.raiseFatal_hbm]; simp [stop]

theorem tempSensorReading_trips {i : Fin 4} {v : Int} (h0 : s0 = s.advanceTo now) (ha : s0.alive = true)
    (hd : isDue (10 * Config.us) (s0.regions[r].readAt.getD i 0) s0.now = true) (h1 : 1760 ≤ v) (h2 : v ≤ 2400)
    (hh : 1 ≤ s0.regions[r].hot.getD i 0) :
    ∃ t : State, exec (.tempSensorReading now r i (some v)) s = .next t.trip := by
  refine ⟨(s0.setRegion r.val (Region.sensed s0.now i v (s0.regions[r].hot.getD i 0 + 1))).reheat r.val, ?_⟩
  rw [tempSensorReading_valid h0 (State.watched_of_alive ha) hd (by omega) h2 (if_pos h1).symm, if_pos (by omega)]

/-! ### Optical engines -/

variable {e : EngineId}

theorem oeTempReading_valid {v : Int} {hot : Bool} (h0 : s0 = s.advanceTo now) (ha : s0.alive = true)
    (hd : isDue Config.ms s0.oes[e].readAt s0.now = true) (h1 : -640 ≤ v) (h2 : v ≤ 2400)
    (hh : hot = (decide (1520 < v) || (s0.oes[e].hot && decide (1440 < v)))) {s1 : State}
    (hs1 : s1 = s0.setOe e.val fun x => { x with
      temp := v, tempMax := max x.tempMax v, bad := 0, fault := false, hot := hot, readAt := s0.now }) :
    exec (.oeTempReading now e (some v)) s =
      .next ((if hot && !s0.oes[e].hot then s1.recordHot e.val (twos 16 v) else s1).darken e.val hot) := by
  have hv : (some v).filter tempOk = some v := by simp [Option.filter, tempOk, h1, h2]
  subst hh hs1
  show execOeTempReading now e (some v) s = _
  simp only [execOeTempReading, ← h0, ha, hd, hv, Bool.not_true, Bool.or_self, Bool.false_eq_true, if_false]

theorem oeTempReading_cool {v : Int} (h0 : s0 = s.advanceTo now) (ha : s0.alive = true)
    (hd : isDue Config.ms s0.oes[e].readAt s0.now = true) (h1 : -640 ≤ v) (h2 : v ≤ 1440) :
    exec (.oeTempReading now e (some v)) s = .next ((s0.setOe e.val fun x => { x with
      temp := v, tempMax := max x.tempMax v, bad := 0, fault := false, hot := false, readAt := s0.now }).darken e.val false) := by
  have hcool : false = (decide (1520 < v) || (s0.oes[e].hot && decide (1440 < v))) := by
    rw [decide_eq_false (by omega), decide_eq_false (by omega), Bool.and_false, Bool.or_false]
  rw [oeTempReading_valid h0 ha hd h1 (by omega) hcool rfl, Bool.false_and, if_neg Bool.false_ne_true]

theorem oeTempReading_hot {v : Int} (h0 : s0 = s.advanceTo now) (ha : s0.alive = true)
    (hd : isDue Config.ms s0.oes[e].readAt s0.now = true) (h1 : 1520 < v) (h2 : v ≤ 2400) (hc : s0.oes[e].hot = false) :
    exec (.oeTempReading now e (some v)) s = .next (((s0.setOe e.val fun x => { x with
      temp := v, tempMax := max x.tempMax v, bad := 0, fault := false, hot := true, readAt := s0.now }).recordEvent
        { code := 0x52, payload := leBytes 2 e.val ++ leBytes 2 (twos 16 v) }).darken e.val true) := by
  have hhot : true = (decide (1520 < v) || (s0.oes[e].hot && decide (1440 < v))) := by
    rw [decide_eq_true h1, Bool.true_or]
  rw [oeTempReading_valid h0 ha hd (by omega) h2 hhot rfl, hc, Bool.not_false, Bool.and_self, if_pos rfl]
  rfl

/-- The third invalid reading in a row faults an engine's sensor, and the engine goes dark (R481, R484). -/
theorem oeTempReading_faults (h0 : s0 = s.advanceTo now) (ha : s0.alive = true)
    (hd : isDue Config.ms s0.oes[e].readAt s0.now = true) (hb : s0.oes[e].bad = 2) (hf : s0.oes[e].fault = false)
    (hc : s0.oes[e].hot = false) :
    exec (.oeTempReading now e none) s = .next ((((s0.setOe e.val fun x => { x with
      bad := x.bad + 1, fault := true, hot := true, readAt := s0.now }).recordEvent
        { code := 0x51, payload := leBytes 4 (1 + e.val * 16) }).recordEvent
        { code := 0x52, payload := leBytes 2 e.val ++ leBytes 2 0x8000 }).darken e.val true) := by
  have hnone : (none : Option Int).filter tempOk = none := rfl
  have hset : (s0.setOe e.val fun x => { x with bad := x.bad + 1, fault := x.fault || true, hot := x.hot || true, readAt := s0.now }) =
      s0.setOe e.val fun x => { x with bad := x.bad + 1, fault := true, hot := true, readAt := s0.now } := by
    simp only [Bool.or_true]
  show execOeTempReading now e none s = _
  simp only [execOeTempReading, ← h0, ha, hd, hnone, hb, hf, hc, Nat.reduceAdd, decide_true, Bool.not_true, Bool.not_false,
    Bool.and_self, Bool.or_self, Bool.false_eq_true, if_false, if_true, hset]
  rfl

/-- Settles O37, from one lemma for each row of the monitors and each of its cases. -/
theorem regionControl : Obligations.RegionControl := by
  refine ⟨fun s s0 now v0 v1 r h0 hw => ⟨regionSupply_inside h0 hw, regionSupply_first h0 hw⟩,
    fun s s0 now v0 v1 since r => regionSupply_fatal, ?_, ?_, ?_, ?_, ?_, ?_, ?_, ?_, ?_, ?_, ?_, ?_, ?_,
    fun l v => Level.next_levels v, ?_, ?_, ?_, ?_, ?_⟩
  · intro since now v
    rw [outsideSince_eq]
    cases since <;> rfl
  · rintro s s0 now a b current limit r g h0 ha rfl hat hl hi hs
    exact ⟨controlLoop_moves h0 ha hat hl hi hs, controlLoop_resumes h0 ha hat hl hi hs, controlLoop_missed h0 ha hat hl hi hs⟩
  · rintro s r current limit g rfl
    exact s.meter_bounds r current limit
  · intro g pace hn hlo hhi
    exact ⟨clamp_up hn hlo, clamp_hold hn hlo hhi, clamp_down hn hlo hhi⟩
  · intro s s0 s1 now r g ms h0 ha hg hd hms h1
    have hrun := paceSample_due h0 ha hg hd hms h1
    exact ⟨fun he => by rw [hrun, if_pos (List.isEmpty_iff.mpr he)],
      fun hne => by rw [hrun, if_neg (mt List.isEmpty_iff.mp hne)]⟩
  · rintro g now stop m rfl
    exact g.mem_lastMs now m
  · intro s s0 now r h0 ha hs hc hw hm
    exact regionIdle_rested h0 ha hs (State.regionWorks_rested hc hw hm)
  · intro s r hi
    simp [-Fin.getElem_fin, State.atWork_region, Region.work, hi]
  · intro s s0 now r
    exact regionWake_idle
  · intro s s0 now
    exact hoursTick_due
  · intro s s0 now r v
    exact hbmTempReading_moderate
  · intro s s0 now r v
    exact hbmTempReading_hot
  · intro v
    exact Level.next_eq_stop.mpr (.inr rfl)
  · intro s s0 now r i v
    exact tempSensorReading_cool
  · intro s s0 now r i v h0 ha hd h1 h2 hh
    obtain ⟨t, ht⟩ := tempSensorReading_trips h0 ha hd h1 h2 hh
    exact ⟨t.trip, ht, t.trip_effect⟩
  · intro s s0 now e v
    exact oeTempReading_cool
  · intro s s0 now e v
    exact oeTempReading_hot
  · intro s s0 now e
    exact oeTempReading_faults

end Sys2Proof.Machine
end

section
/-! Writes of the host's registers (R62, R315, R357, R360, R381, R382, R419). -/

namespace Sys2Proof.Machine

variable {s : State}

theorem fqBaseWrite_serving (hs : s.serving = true) (v : Word) : exec (.fqBaseWrite v) s =
    .next { s with regs := { s.regs with fqBase := v &&& 0x000000FFFFFF0001, fqHead := 0, fqTail := 0 } } := by
  show execFqBaseWrite v s = _
  simp only [execFqBaseWrite, hs, Bool.not_true, Bool.false_eq_true, if_false]

theorem fqHeadWrite_inside (hs : s.serving = true) {v : BitVec 32}
    (hv : (s.regs.fqTail + 2 ^ 32 - v.toNat) % 2 ^ 32 ≤ Config.fqEntries) : exec (.fqHeadWrite v) s = .next { s with
      regs := { s.regs with fqHead := v.toNat, fqDropped := if v.toNat = s.regs.fqTail then [] else s.regs.fqDropped } } := by
  show execFqHeadWrite v s = _
  simp only [execFqHeadWrite, hs, Nat.not_lt.mpr hv, Bool.not_true, Bool.false_eq_true, if_false]

theorem adminRootWrite_open {v : Word} (ho : s.rootOpen (v.field 12 28 * 4096) = true) : exec (.adminRootWrite v) s =
    .next (({ s with regs := { s.regs with adminRoot := v.field 12 28 * 4096 } }).dropTlb 0) :=
  if_pos ho

theorem adminRootWrite_ignored {v : Word} (ho : s.rootOpen (v.field 12 28 * 4096) = false) :
    exec (.adminRootWrite v) s = .next s :=
  if_neg (Bool.eq_false_iff.mp ho)

/-! ### The windows -/

/-- Each queue's QBASE stands 0x18 above its page of the control window (R360). -/
theorem regAt_qbase (q : QueueId) : regAt (0x10018 + 0x1000 * q.val) = .qbase q.val := by
  have hq := q.isLt
  have hpage : (0x10018 + 0x1000 * q.val - 0x10000) / 0x1000 = q.val := by omega
  have hoff : (0x10018 + 0x1000 * q.val - 0x10000) % 0x1000 = 0x18 := by omega
  have hin : 0x10000 ≤ 0x10018 + 0x1000 * q.val ∧ 0x10018 + 0x1000 * q.val < 0x50000 := by omega
  unfold regAt
  iterate 11 rw [if_neg (by omega)]
  rw [if_pos hin]
  simp only [hpage, hoff]

theorem State.writeControl_qbase (s : State) (q : QueueId) (v : Word) :
    s.writeControl (0x10018 + 0x1000 * q.val) 8 v =
      .next (s.writeRing q.val fun x => { x with qbase := v.toNat % 2 ^ 40 }) := by
  have hword : (0x10018 + 0x1000 * q.val) / 8 * 8 = 0x10018 + 0x1000 * q.val := by omega
  simp only [State.writeControl, hword, regAt_qbase, mergeReg, fieldOf, if_true, Nat.pow_zero, Nat.div_one]

theorem registerWrite_control {o size : Nat} {v : Word} (hw : s.windows = true) (hs : s.serving = true) (ho : o < 2 ^ 25)
    (ha : windowAccess o size = true) : exec (.registerWrite .control o size v) s = s.writeControl o size v := by
  have hin : ¬ Bar.size .control ≤ o := Nat.not_le.mpr ho
  show execRegisterWrite .control o size v s = _
  simp only [execRegisterWrite, hw, hs, ha, hin, Bool.not_true, decide_false, Bool.or_self, Bool.false_eq_true, if_false, if_true]

theorem windowAccess_bad {o size : Nat} (h : (size ≠ 4 ∧ size ≠ 8) ∨ o % size ≠ 0) : windowAccess o size = false := by
  rcases h with ⟨h4, h8⟩ | hm
  · simp only [windowAccess, h4, h8, decide_false, Bool.or_self, Bool.false_and]
  · simp only [windowAccess, hm, decide_false, Bool.and_false]

theorem registerWrite_unsupported {bar : Bar} {o size : Nat} {v : Word} (hw : s.windows = true) (ho : o < Bar.size bar)
    (ha : windowAccess o size = false) : exec (.registerWrite bar o size v) s = .next s.unsupported := by
  show execRegisterWrite bar o size v s = _
  simp only [execRegisterWrite, hw, ha, Nat.not_le.mpr ho, Bool.not_true, Bool.not_false, decide_false, Bool.or_self,
    Bool.false_eq_true, if_false, if_true]

/-- Settles O12, from one lemma for each register. -/
theorem registerWrites : Obligations.RegisterWrites := by
  refine ⟨fun s v hs => fqBaseWrite_serving hs v, fun s v hs hv => fqHeadWrite_inside hs hv,
    fun s v => adminRootWrite_open, fun s v => adminRootWrite_ignored, fun s q v hw hs => ?_,
    fun s bar o size v hw ho hbad => registerWrite_unsupported hw ho (windowAccess_bad hbad)⟩
  have hq := q.isLt
  have haccess : windowAccess (0x10018 + 0x1000 * q.val) 8 = true := by simp [windowAccess]; omega
  rw [registerWrite_control hw hs (by omega) haccess, State.writeControl_qbase]
  rfl

end Sys2Proof.Machine
end

section
/-! Settings that wait for a seam (R62, R64, R66, R67, R167, R267, R308, R410, R429). -/

namespace Sys2Proof.Machine

variable {s s0 t : State} {q : QueueId} {j : Job}

/-- A row that starts its queue's next job, and takes no waiting one further. -/
theorem State.runOnce_starts {mine : Job → Bool} {start : State → JobRef → Job → State}
    (h : s.starts q mine j) : s.runOnce q.val mine start = start (s.begun q j) (j.refOn q) j :=
  State.runJob_starts h

/-- The state in which a SET_BRIM has staged its value. -/
def State.stageBrim (s : State) (n : Nat) : State :=
  s.staged fun s => { s with sched := { s.sched with brimStaged := if n = s.sched.brimLive then none else some n } }

theorem setBrim_stages (hs : s.starts q (isOp 0x60) j) (hf : fits (j.p 0) [(0, 4)] = true) (hn : (j.p 0).toNat ≤ 8) :
    exec (.setBrim q) s = .next (((s.begun q j).stageBrim (j.p 0).toNat).finishStaged (j.refOn q)) := by
  show execSetBrim q s = _
  rw [execSetBrim, State.runOnce_starts hs]
  simp only [hf, Nat.not_lt.mpr hn, Bool.not_true, decide_false, Bool.or_self, Bool.false_eq_true, if_false]
  rfl

theorem setRegionLimits_stages (hs : s.starts q (isOp 0x61) j) (hok : limitsOk j = true) :
    exec (.setRegionLimits q) s = .next (((s.begun q j).staged fun s => s.stageLimits j).finishStaged (j.refOn q)) := by
  show execSetRegionLimits q s = _
  rw [execSetRegionLimits, State.runOnce_starts hs, if_pos hok]

theorem setDim_stages (hs : s.starts q (isOp 0x63) j) (hok : dimOk j = true) :
    exec (.setDim q) s = .next (((s.begun q j).staged fun s => { s with
      dim := { s.dim with cfgStaged := if j.p 0 = s.dim.cfgLive then none else some (j.p 0) } }).finishStaged (j.refOn q)) := by
  show execSetDim q s = _
  rw [execSetDim, State.runOnce_starts hs, if_pos hok]
  rfl

theorem setPortConfig_stages {bs : List Byte} (hs : s.takes q (isOp 0x62) j s0) (hd : oneDva j = true)
    (hr : s0.reads (j.refOn q) (j.p 0).toNat 288 t bs) (hok : portCfgOk bs = true) : exec (.setPortConfig q) s =
      .next ((t.stageFor (j.refOn q) .ports fun s => s.stagePorts (portCfgAt bs)).finishStaged (j.refOn q)) := by
  show execSetPortConfig q s = _
  rw [execSetPortConfig, State.runJob_takes hs (if_pos hd), State.portsRun, State.withStruct_ok hr, if_pos hok]

theorem setGrid_stages {bs : List Byte} (hs : s.takes q (isOp 0x64) j s0) (hd : oneDva j = true)
    (hr : s0.reads (j.refOn q) (j.p 0).toNat 544 t bs) : exec (.setGrid q) s =
      .next ((t.stageFor (j.refOn q) (.grid (t.ctxOf q.val)) fun s => s.setCtx (t.ctxOf q.val) fun y =>
        { y with gridStaged := stageValue y.grid (gridAt bs) }).finishStaged (j.refOn q)) := by
  show execSetGrid q s = _
  rw [execSetGrid, State.runJob_takes hs (if_pos hd), State.gridRun, State.withStruct_ok hr]

/-! ### Which command has staged a setting last -/

theorem State.overruled_latest {r : JobRef} {x : Job} {i : WaitItem} {n : Nat} (hx : s.job? r = some x)
    (h : ∀ m, ((i, n), m) ∈ s.sched.stagers → m ≤ x.start) : s.overruled r i n = false := by
  unfold State.overruled
  rw [hx]
  cases hfind : s.sched.stagers.find? (·.1 == (i, n)) with
  | none => rfl
  | some e =>
    obtain ⟨key, m⟩ := e
    obtain rfl : key = (i, n) := by simpa using List.find?_some hfind
    exact decide_eq_false (Nat.not_lt.mpr (h m (List.mem_of_find?_eq_some hfind)))

/-- A setting has one last stager: the command that has just staged it. -/
theorem State.stagedBy_stagers {r : JobRef} {i : WaitItem} {n m : Nat} (h : ((i, n), m) ∈ (s.stagedBy r i n).sched.stagers) :
    m = ((s.job? r).map (·.start)).getD 0 := by
  rcases List.mem_cons.mp h with h | h
  · exact congrArg Prod.snd h
  · exact absurd rfl (of_decide_eq_true (List.mem_filter.mp h).2)

theorem State.stageFor_latest {r : JobRef} {x : Job} {i : WaitItem} (f : State → State) (hx : s.job? r = some x)
    (h : ∀ n, ((i, 0), n) ∈ s.sched.stagers → n ≤ x.start) : s.stageFor r i f = (s.staged f).stagedBy r i 0 := by
  rw [State.stageFor, State.overruled_latest hx h, if_neg Bool.false_ne_true]

/-! ### SET_BRIM's state -/

@[simp] theorem State.begun_waitItems : (s.begun q j).waitItems = s.waitItems := rfl
@[simp] theorem State.begun_arrival (i : WaitItem) : (s.begun q j).sched.arrival i = s.sched.arrival i := rfl
@[simp] theorem State.begun_now : (s.begun q j).now = s.now := rfl
@[simp] theorem State.begun_brimLive : (s.begun q j).sched.brimLive = s.sched.brimLive := rfl
@[simp] theorem State.finishStaged_sched (r : JobRef) : (s.finishStaged r).sched = s.sched := rfl
@[simp] theorem State.finishStaged_waitItems (r : JobRef) : (s.finishStaged r).waitItems = s.waitItems := rfl
@[simp] theorem State.finishStaged_seamWaiting (r : JobRef) : (s.finishStaged r).seamWaiting = s.seamWaiting := rfl
@[simp] theorem State.stageBrim_brimLive (n : Nat) : (s.stageBrim n).sched.brimLive = s.sched.brimLive := rfl

/-- Staging keeps the arrivals of what has waited, and notes this instant for what begins to wait (R42). -/
theorem State.stageBrim_arrivals (n : Nat) : (s.stageBrim n).sched.arrivals = (s.stageBrim n).waitItems.map
    (fun i => (i, if s.waitItems.contains i = true then (s.sched.arrival i).getD s.now else s.now)) := rfl

theorem State.stageBrim_cancels {n : Nat} (h : n = s.sched.brimLive) : (s.stageBrim n).sched.brimStaged = none := if_pos h

theorem State.stageBrim_other {n : Nat} (h : n ≠ s.sched.brimLive) : (s.stageBrim n).sched.brimStaged = some n := if_neg h

/-- A staged brim waits for a seam. -/
theorem State.seamWaiting_of_brim {n : Nat} (h : s.sched.brimStaged = some n) : s.seamWaiting = true := by
  have hmem : WaitItem.brim ∈ s.waitItems := by
    simp only [State.waitItems, h, Option.isSome_some, WaitItem.if, List.mem_append, if_true, List.mem_singleton, true_or, or_true]
  rw [State.seamWaiting, Bool.not_eq_true', List.isEmpty_eq_false_iff]
  exact List.ne_nil_of_mem hmem

/-- Settles O15, from one lemma for each command, the order of a setting's stagers, and what SET_BRIM's staging leaves. -/
theorem settingsStaged : Obligations.SettingsStaged := by
  refine ⟨?_, ?_, ?_, fun s s0 t q j bs => setPortConfig_stages, fun s s0 t q j bs => setGrid_stages,
    fun s r x i f hx h => ⟨State.stageFor_latest f hx h, fun n => State.stagedBy_stagers⟩, ?_⟩
  · rintro s s0 q j hs rfl
    exact setBrim_stages hs
  · rintro s s0 q j hs rfl
    exact setRegionLimits_stages hs
  · rintro s s0 q j hs rfl
    exact setDim_stages hs
  · rintro s s0 t q j hs rfl hf hn ht
    rw [setBrim_stages hs hf hn] at ht
    obtain rfl := Host.Outcome.next.inj ht
    have harr := (s.begun q j).stageBrim_arrivals (j.p 0).toNat
    simp only [State.begun_waitItems, State.begun_arrival, State.begun_now] at harr
    simp only [State.finishStaged_sched, State.finishStaged_waitItems, State.finishStaged_seamWaiting, State.stageBrim_brimLive,
      State.begun_brimLive, true_and]
    by_cases h : (j.p 0).toNat = s.sched.brimLive
    · exact ⟨.inl ⟨h, State.stageBrim_cancels h⟩, harr, .inr h⟩
    · have hstaged : ((s.begun q j).stageBrim (j.p 0).toNat).sched.brimStaged = some (j.p 0).toNat := State.stageBrim_other h
      exact ⟨.inr ⟨h, hstaged⟩, harr, .inl (State.seamWaiting_of_brim hstaged)⟩

end Sys2Proof.Machine
end

section
/-! The commands of a table's versions (R71, R157 to R160, R403). -/

namespace Sys2Proof.Machine

/-- The command of a table whose words pass its check, on a package with a model (R385, R394). -/
theorem tableStart_ok {ok : Job → Bool} {k : State → JobRef → Job → State} {s : State} {r : JobRef} {j : Job} (hok : ok j = true)
    (hm : s.model.res ≠ none) : tableStart ok k s r j = k s r j := by
  simp only [tableStart, hok, Option.isNone_eq_false_iff.mpr (Option.isSome_iff_ne_none.mpr hm), Bool.not_true, Bool.false_eq_true,
    if_false]

/-- A BEGIN_SHADOW that the table's versions let pass. -/
theorem State.shadowRun_joins {s t1 : State} {r : JobRef} {j : Job} {t : Table} {ks : List Kept} (ht : s.table? (tableOf j) = some t)
    (hkind : t.desc.kind ≠ .composed) (hnone : t.shadow = none) (hnum : t.highest < (j.p 0).field 32 32)
    (hbase : s.upd.lastApplied ≤ (j.p 2).field 0 32)
    (hjoin : (joinShadow t { num := (j.p 0).field 32 32, dir := (j.p 1).toNat } ((j.p 2).field 0 32) s.upd.recs).go s = (.ok ks, t1)) :
    s.shadowRun r j = (({ t1 with upd := { t1.upd with recs := ks } }).setTable t.desc.id fun t => { t with
      shadow := some { ver := { num := (j.p 0).field 32 32, dir := (j.p 1).toNat }, baseEpoch := (j.p 2).field 0 32 }
      highest := (j.p 0).field 32 32 }).finishJob r 0 0 0 := by
  simp only [State.shadowRun, ht, hkind, hnone, Nat.not_le.mpr hnum, Nat.not_lt.mpr hbase, Option.isSome_none, decide_false,
    Bool.or_self, Bool.false_eq_true, if_false]
  exact State.access_ok hjoin

/-- A SWAP_VERSION with a shadow, and no earlier swap or retired version in its way, waits for its rebuild. -/
theorem State.swapStart_waits {s : State} {r : JobRef} {j : Job} {t : Table} (ht : s.table? (tableOf j) = some t)
    (hswap : t.swap = .none) (hshadow : t.shadow ≠ none) (hfree : t.retired = none ∨ t.releaseStaged = true) :
    s.swapStart r j = s.setTable t.desc.id fun t => { t with swap := .waiting r } := by
  have hsome : t.shadow.isNone = false := Option.isNone_eq_false_iff.mpr (Option.isSome_iff_ne_none.mpr hshadow)
  have hold : (t.retired.isSome && !t.releaseStaged) = false := by
    rcases hfree with h | h <;> simp [h]
  simp only [State.swapStart, ht, hswap, hsome, hold, Bool.or_self, Bool.false_eq_true, ne_eq, not_true_eq_false, if_false]

/-- A rebuild that has caught up begins the tracking of its shadow. -/
theorem catchUpDone_tracks {s t1 : State} {table : Nat} {t : Table} {r : JobRef} {x : Shadow} (ht : s.table? table = some t)
    (hswap : t.swap = .waiting r) (hshadow : t.shadow = some x) (hs : s.serving = true)
    (hfill : s.filling table x.ver.num (((s.job? r).map (·.start)).getD 0) = false)
    (hgo : (catchUp (s.catchUpds t x)).go s = (.ok true, t1)) :
    exec (.catchUpDone table) s = .next (t1.beginTracking table r) := by
  show execCatchUpDone table s = _
  simp only [execCatchUpDone, ht, hswap, hshadow, hs, hfill, Bool.not_true, Bool.or_self, Bool.false_eq_true, if_false,
    State.access_ok hgo, if_true]

theorem releaseVersion_stages {s : State} {q : QueueId} {j : Job} {t : Table} (hs : s.starts q (isOp 0x25) j)
    (hok : oneTable j = true) (hm : (s.begun q j).model.res ≠ none) (ht : (s.begun q j).table? (tableOf j) = some t)
    (hretired : t.retired ≠ none) (hstaged : t.releaseStaged = false) :
    exec (.releaseVersion q) s = .next (((s.begun q j).staged fun s => s.setTable t.desc.id fun t =>
      { t with releaseStaged := true }).finishStaged (j.refOn q)) := by
  have hsome : t.retired.isNone = false := Option.isNone_eq_false_iff.mpr (Option.isSome_iff_ne_none.mpr hretired)
  show execReleaseVersion q s = _
  rw [execReleaseVersion, State.runOnce_starts hs, tableStart_ok hok hm]
  simp only [ht, hsome, hstaged, Bool.or_self, Bool.false_eq_true, if_false]

/-- Settles O21, from one lemma for each command of a table's versions. -/
theorem versionsShadowAndSwap : Obligations.VersionsShadowAndSwap := by
  refine ⟨fun s s0 t1 q j t ks hs hok hm ht hkind hnone hnum hbase hjoin => ?_,
    fun s s0 q j t hs h0 hok hm ht hswap hshadow hfree => ?_, fun s t1 table t r x => catchUpDone_tracks,
    fun s s0 q j t hs h0 hok hm ht hretired hstaged => ?_⟩
  · show execBeginShadow q s = _
    rw [execBeginShadow, State.runJob_takes hs (tableStart_ok hok hm), State.shadowRun_joins ht hkind hnone hnum hbase hjoin]
  · subst h0
    show execSwapVersion q s = _
    rw [execSwapVersion, State.runOnce_starts hs, tableStart_ok hok hm, State.swapStart_waits ht hswap hshadow hfree]
  · subst h0
    exact releaseVersion_stages hs hok hm ht hretired hstaged

end Sys2Proof.Machine
end

section
/-! Admission (R39, R44, R47 to R49, R57, R244, R428, R429): the clusters that a class may take, the slot that a step takes, and
what the binding does before it. -/

namespace Sys2Proof.Machine

variable {s t : State}

/-! ### Clusters and slots that are free -/

theorem State.mem_openCls {rt : Bool} {brim c : Nat} : c ∈ s.openCls rt brim ↔
    c ∈ (if rt then Config.clusterOrder else Config.clusterOrder.drop brim) ∧ (s.cl c).owner = .free := by
  rw [State.openCls, List.mem_filter, decide_eq_true_eq]

theorem clusterOrder_nodup : Config.clusterOrder.Nodup := by decide

/-- A cluster that stands behind the brim is not one of the brim's (R47, R48). -/
theorem notMem_brim {brim c : Nat} (h : c ∈ Config.clusterOrder.drop brim) : c ∉ Config.clusterOrder.take brim :=
  fun ht => List.disjoint_take_drop clusterOrder_nodup le_rfl ht h

theorem State.lowestFree_spec {i : Nat} (h : s.lowestFree = some i) :
    i < 8 ∧ (s.slot i).phase = .free ∧ ∀ k < i, (s.slot k).phase ≠ .free := by
  rw [State.lowestFree, List.find?_range_eq_some] at h
  obtain ⟨hfree, hin, hbelow⟩ := h
  exact ⟨List.mem_range.mp hin, of_decide_eq_true hfree, fun k hk => by simpa using hbelow k hk⟩

/-! ### A step takes its clusters -/

/-- A step takes the clusters of a list, in order. -/
abbrev State.takeClusters (s : State) (i ctx : Nat) (cls : List Nat) : State := cls.foldl (fun s c => s.takeCluster i ctx c) s

/-- Taking a cluster changes the clusters, its region's signs of work and the stalls that clearing it costs. -/
theorem State.takeCluster_only (s : State) (i ctx c : Nat) :
    ∃ cls regions tiers, s.takeCluster i ctx c = { s with cls := cls, regions := regions, tiers := tiers } := by
  unfold State.takeCluster
  extract_lets foreign u
  split
  · exact ⟨u.cls, u.regions, _, rfl⟩
  · exact ⟨u.cls, u.regions, s.tiers, rfl⟩

theorem State.takeClusters_only (i ctx : Nat) (l : List Nat) (s : State) :
    ∃ cls regions tiers, s.takeClusters i ctx l = { s with cls := cls, regions := regions, tiers := tiers } := by
  induction l generalizing s with
  | nil => exact ⟨s.cls, s.regions, s.tiers, rfl⟩
  | cons c l ih =>
    obtain ⟨cls, regions, tiers, hc⟩ := s.takeCluster_only i ctx c
    obtain ⟨cls', regions', tiers', hl⟩ := ih (s.takeCluster i ctx c)
    exact ⟨cls', regions', tiers', by rw [State.takeClusters, List.foldl_cons]; exact hl.trans (by rw [hc])⟩

theorem State.takeCluster_cls (s : State) (i ctx c : Nat) :
    ∃ f : Cluster → Cluster, (∀ x, (f x).owner = .step i) ∧ (s.takeCluster i ctx c).cls = (s.setCl c f).cls := by
  unfold State.takeCluster
  extract_lets foreign u
  refine ⟨fun x => { x with owner := .step i, scratchCtx := some ctx, t0 := if foreign then [] else x.t0,
                            dma := { x.dma with pos := 0 } }, fun x => rfl, ?_⟩
  exact (apply_ite State.cls _ _ _).trans (ite_self _)

/-- The cluster that a step takes becomes its own, and one that was its own already stays so. -/
theorem State.takeCluster_owner (s : State) {i ctx c k : Nat} (h : k = c ∨ (s.cl k).owner = .step i) :
    ((s.takeCluster i ctx c).cl k).owner = .step i := by
  obtain ⟨f, hf, hcls⟩ := s.takeCluster_cls i ctx c
  rw [State.cl, hcls, ← State.cl, State.cl_setCl]
  split
  · exact hf _
  · rename_i hne
    exact h.resolve_left fun hk => hne (by rw [hk])

theorem State.takeClusters_owner {i ctx k : Nat} (l : List Nat) (s : State) (h : k ∈ l ∨ (s.cl k).owner = .step i) :
    ((s.takeClusters i ctx l).cl k).owner = .step i := by
  induction l generalizing s with
  | nil => exact h.resolve_left List.not_mem_nil
  | cons c l ih =>
    rw [List.mem_cons, or_right_comm] at h
    exact ih _ (h.symm.imp id fun h => s.takeCluster_owner h)

/-! ### The step that a RUN_STEP becomes -/

/-- The clusters that a RUN_STEP takes: the first free ones of its class (R48). -/
def State.boundCls (s : State) (rt : Bool) (x : Job) (p : Program) : List Nat :=
  (s.openCls rt s.sched.brimLive).take (p.clusters (samplesOf x))

/-- The slot of a step that has just been admitted. -/
def State.boundSlot (s : State) (rt : Bool) (j : JobRef) (x : Job) (p : Program) : Slot :=
  { phase := .prefetch, rt := rt, ctx := s.ctxOf j.q, stepSeq := s.pkg.seamCount, step := some (s.bind j x p (s.boundCls rt x p)) }

variable {rt : Bool} {j : JobRef} {x : Job} {p : Program} {i : Nat}

theorem State.admitStep_eq (hx : s.job? j = some x) (hp : s.programOf x = some p) : ∃ c, s.admitStep rt j i =
    { ((s.setSlot i fun _ => s.boundSlot rt j x p).markBound (s.programTables p)).takeClusters i (s.ctxOf j.q) (s.boundCls rt x p) with
      sched := c } := by
  simp only [State.admitStep, hx, hp]
  exact ⟨_, rfl⟩

/-- Admission changes one slot, the clusters and what stands for their use, and the settings of tables and scheduling. -/
theorem State.admitStep_only (hx : s.job? j = some x) (hp : s.programOf x = some p) : ∃ tabs cls regions tiers c, s.admitStep rt j i =
    { s.setSlot i (fun _ => s.boundSlot rt j x p) with tabs := tabs, cls := cls, regions := regions, tiers := tiers, sched := c } := by
  obtain ⟨c, h⟩ := State.admitStep_eq (rt := rt) (i := i) hx hp
  obtain ⟨cls, regions, tiers, ht⟩ := State.takeClusters_only i (s.ctxOf j.q) (s.boundCls rt x p)
    ((s.setSlot i fun _ => s.boundSlot rt j x p).markBound (s.programTables p))
  exact ⟨_, cls, regions, tiers, c, by rw [h, ht]; rfl⟩

theorem State.admitStep_slot (hx : s.job? j = some x) (hp : s.programOf x = some p) (k : Nat) :
    (s.admitStep rt j i).slot k = if ix 8 k = ix 8 i then s.boundSlot rt j x p else s.slot k := by
  obtain ⟨_, _, _, _, _, h⟩ := State.admitStep_only (rt := rt) (i := i) hx hp
  rw [h]
  exact s.slot_setSlot i k _

theorem State.admitStep_owner (hx : s.job? j = some x) (hp : s.programOf x = some p) {c : Nat} (hc : c ∈ s.boundCls rt x p) :
    ((s.admitStep rt j i).cl c).owner = .step i := by
  obtain ⟨_, h⟩ := State.admitStep_eq (rt := rt) (i := i) hx hp
  rw [h]
  exact State.takeClusters_owner _ _ (.inl hc)

/-! ### The binding -/

/-- A job that has ended is no queue's next step. -/
theorem State.candidate_open {q : Nat} {x : Job} (h : s.candidate q = some x) : x ∈ (s.queue q).jobs ∧ x.ended = false := by
  unfold State.candidate at h
  split at h
  · obtain ⟨hnext, -⟩ := Option.filter_eq_some_iff.mp h
    have hopen := List.find?_some hnext
    simp only [Bool.and_eq_true, Bool.not_eq_true'] at hopen
    obtain ⟨⟨-, hended⟩, -⟩ := hopen
    exact ⟨List.mem_of_find?_eq_some hnext, hended⟩
  · exact absurd h nofun

theorem State.canBind_ended {b : Binding} (h : ∀ x ∈ (s.queue b.job.q).jobs, x.seq = b.job.seq → x.ended = true) :
    s.canBind b = false := by
  have hpick : s.stillPick b.job = false := by
    refine Bool.eq_false_iff.mpr fun hp => ?_
    rw [State.stillPick, beq_iff_eq, Option.map_eq_some_iff] at hp
    obtain ⟨x, hx, hseq⟩ := hp
    obtain ⟨hmem, hopen⟩ := State.candidate_open hx
    exact absurd (h x hmem hseq) (Bool.eq_false_iff.mp hopen)
  rw [State.canBind, hpick, Bool.false_and]

section
variable {b : Binding}

theorem State.bindStep_gone (hb : s.canBind b = false) : s.bindStep b = s.setBinding none := by
  rw [State.bindStep, hb]; rfl

theorem State.bindStep_admits (hb : s.canBind b = true) (hf : s.fetchProgram b.job = (.ok (), t)) : s.bindStep b =
    (if (((t.setBinding none).picked (some b.job)).map (t.setBinding none).badProgram).getD false = true then
      (t.setBinding none).upset ((t.setBinding none).ctxOf b.job.q) else t.setBinding none).admitStep b.rt b.job b.slot := by
  rw [State.bindStep, hb, hf]; rfl

theorem State.bindStep_snoops {l : Nat} {inv : Bool} (hb : s.canBind b = true) (hf : s.fetchProgram b.job = (.error (.snoop l inv), t)) :
    s.bindStep b = s.sendSnoop l inv := by
  rw [State.bindStep, hb, hf]; rfl

theorem State.bindStep_fails {f : AccFail} (hb : s.canBind b = true) (hf : s.fetchProgram b.job = (.error f, t)) (hh : f ≠ .hold)
    (hs : ∀ l i, f ≠ .snoop l i) : s.bindStep b =
      (t.accError { Agent.cp 2 (t.ctxOf b.job.q) b.job with space := some 0 } f).setBinding none := by
  rw [State.bindStep, hb, hf]
  cases f with
  | hold => exact absurd rfl hh
  | snoop l inv => exact absurd rfl (hs l inv)
  | dva | poison | lent | page => rfl

end

/-- Settles O45, from what admission changes, the cases of the binding, and the clusters that a class may take. -/
theorem admissionBinds : Obligations.AdmissionBinds := by
  refine ⟨fun s rt j x p i hx hp hi => ⟨?_, fun k hk hne => ?_, ?_⟩, ?_, fun s b => State.canBind_ended,
    fun s i => State.lowestFree_spec, fun s brim c => ⟨fun h => ?_, fun h => (State.mem_openCls.mp h).2, fun h hc => ?_⟩⟩
  · have hslot := State.admitStep_slot (rt := rt) (i := i) hx hp i
    rw [if_pos rfl] at hslot
    rw [hslot]
    exact ⟨_, rfl, rfl, rfl, rfl, rfl, rfl, rfl, rfl, rfl, rfl, rfl, rfl, rfl, rfl, fun c hc => State.admitStep_owner hx hp hc⟩
  · have hix : ix 8 k ≠ ix 8 i := fun h => hne (by
      simpa [Nat.mod_eq_of_lt hk, Nat.mod_eq_of_lt hi] using congrArg Fin.val h)
    rw [State.admitStep_slot hx hp, if_neg hix]
  · obtain ⟨_, _, _, _, _, h⟩ := State.admitStep_only (rt := rt) (i := i) hx hp
    rw [h]
    exact ⟨rfl, rfl, rfl, rfl⟩
  · rintro s t b ag rfl
    exact ⟨State.bindStep_gone, State.bindStep_admits, fun l i => State.bindStep_snoops, fun f => State.bindStep_fails⟩
  · obtain ⟨hc, hfree⟩ := State.mem_openCls.mp h
    exact ⟨notMem_brim hc, hfree⟩
  · exact State.mem_openCls.mpr ⟨hc, (State.mem_openCls.mp h).2⟩

end Sys2Proof.Machine
end

section
/-! The limits of a step (R57, R58, R59): the lookup budget and the deadline, before they have run and when they have. -/

namespace Sys2Proof.Machine

variable {s s0 : State} {now : Nat} {i : SlotId} {st : Step}

theorem lookupBudgetExpiry_due (h0 : s0 = s.advanceTo now) (hst : (s0.slot i.val).step = some st) (ha : s0.alive = true)
    (hh : st.halted = false) (he : st.expired = false) (hb : st.budget ≠ 0)
    (hp : (s0.slot i.val).phase = .prefetch ∨ (s0.slot i.val).phase = .lookup) (hd : 100 * st.budget ≤ s0.now - st.tAdm) :
    exec (.lookupBudgetExpiry now i) s = .next
      (if (s0.slot i.val).phase = .lookup then (s0.setStep i.val fun st => { st with expired := true }).expire i.val
       else s0.setStep i.val fun st => { st with expired := true }) := by
  have hphase : (decide ((s0.slot i.val).phase = .prefetch) || decide ((s0.slot i.val).phase = .lookup)) = true := by
    rwa [Bool.or_eq_true, decide_eq_true_eq, decide_eq_true_eq]
  show execLookupBudgetExpiry now i s = _
  simp only [execLookupBudgetExpiry, ← h0, hst, ha, hh, he, hb, Nat.not_lt.mpr hd, hphase, Bool.not_true, decide_false,
    Bool.or_self, Bool.false_eq_true, if_false]

theorem lookupBudgetExpiry_early (h0 : s0 = s.advanceTo now) (hst : (s0.slot i.val).step = some st)
    (hd : s0.now - st.tAdm < 100 * st.budget) : exec (.lookupBudgetExpiry now i) s = .next s0 := by
  show execLookupBudgetExpiry now i s = _
  simp only [execLookupBudgetExpiry, ← h0, hst, hd, decide_true, Bool.or_true, Bool.true_or, if_true]

/-- A step's deadline has passed. -/
theorem State.deadlineCheck_due {i : Nat} (hst : (s.slot i).step = some st) (hn : st.deadline ≠ 0)
    (hd : 100 * st.deadline ≤ s.now - st.tAdm) : s.deadlineCheck i = s.setSlot i fun x =>
      { x with deadlinePast := true, step := x.step.map fun st => { st with deadlineMissed := true } } := by
  simp only [State.deadlineCheck, hst, hn, Nat.not_lt.mpr hd, decide_false, Bool.or_self, Bool.false_eq_true, if_false]

theorem State.deadlineCheck_early {i : Nat} (hst : (s.slot i).step = some st) (hd : s.now - st.tAdm < 100 * st.deadline) :
    s.deadlineCheck i = s := by
  simp only [State.deadlineCheck, hst, hd, decide_true, Bool.or_true, if_true]

theorem deadlinePass_checks (h0 : s0 = s.advanceTo now) (ha : s0.alive = true) (hf : (s0.slot i.val).phase ≠ .free) :
    exec (.deadlinePass now i) s = .next (s0.deadlineCheck i.val) := by
  show execDeadlinePass now i s = _
  simp only [execDeadlinePass, ← h0, ha, hf, Bool.not_true, decide_false, Bool.or_self, Bool.false_eq_true, if_false]

/-- Settles O47, from what each row does once its limit has run and before. -/
theorem limitsExpire : Obligations.LimitsExpire := by
  refine ⟨fun s s0 now i st h0 hst ha hh he hb hp => ⟨lookupBudgetExpiry_due h0 hst ha hh he hb hp,
    lookupBudgetExpiry_early h0 hst⟩, fun s s0 now i st h0 hst ha hn hf => ?_⟩
  rw [deadlinePass_checks h0 ha hf]
  exact ⟨fun hd => by rw [State.deadlineCheck_due hst hn hd], fun hd => by rw [State.deadlineCheck_early hst hd]⟩

end Sys2Proof.Machine
end

section
/-! The commands that define a table and its rows (R75, R86, R96, R127, R400 to R402). -/

namespace Sys2Proof.Machine

/-! ### The table that DEFINE_TABLE adds -/

/-- A search that the inserted table does not meet finds what it found before. -/
theorem find?_tableInsert_of_neg {p : Table → Bool} {t : Table} (ht : p t = false) (l : List Table) :
    (tableInsert t l).find? p = l.find? p := by
  induction l with
  | nil => rw [tableInsert, List.find?_cons_of_neg (Bool.eq_false_iff.mp ht)]
  | cons a l ih =>
    rw [tableInsert]
    split
    · rw [List.find?_cons_of_neg (Bool.eq_false_iff.mp ht)]
    · rw [List.find?_cons, List.find?_cons, ih]

/-- A search that the inserted table alone meets finds it. -/
theorem find?_tableInsert_of_pos {p : Table → Bool} {t : Table} (ht : p t = true) {l : List Table} (hl : ∀ u ∈ l, ¬p u = true) :
    (tableInsert t l).find? p = some t := by
  induction l with
  | nil => rw [tableInsert, List.find?_cons_of_pos ht]
  | cons a l ih =>
    obtain ⟨ha, hrest⟩ := List.forall_mem_cons.mp hl
    rw [tableInsert]
    split
    · rw [List.find?_cons_of_pos ht]
    · rw [List.find?_cons_of_neg ha, ih hrest]

theorem State.table?_define_same {s : State} {d : Desc} (row : List BF16) (hnew : ∀ u ∈ s.tabs.tables, u.desc.id ≠ d.id) :
    ((s.define d row).table? d.id).map (·.desc) = some d := by
  rw [State.table?, State.define, find?_tableInsert_of_pos (beq_self_eq_true d.id) fun u hu => by simpa using hnew u hu,
    Option.map_some]

theorem State.table?_define_other (s : State) {d : Desc} (row : List BF16) {i : Nat} (hi : i ≠ d.id) :
    (s.define d row).table? i = s.table? i :=
  find?_tableInsert_of_neg (p := (·.desc.id == i)) (beq_false_of_ne hi.symm) s.tabs.tables

/-! ### What the end of an access leaves -/

theorem State.closeWait_only (s : State) (w : TierWait) : ∃ t, s.closeWait w = { s with tiers := t } := by
  rw [State.closeWait]
  split
  · exact ⟨_, rfl⟩
  · exact ⟨_, rfl⟩

theorem State.closeWaits_only (s : State) (p : TierWait → Bool) : ∃ t, s.closeWaits p = { s with tiers := t } := by
  rw [State.closeWaits]
  refine List.foldlRecOn (motive := fun u => ∃ t, u = { s with tiers := t }) _ _ ⟨s.tiers, rfl⟩ fun u hu w _ => ?_
  obtain ⟨t, rfl⟩ := hu
  exact State.closeWait_only _ w

/-- The waits of an access that ends are the tiers' alone. -/
@[simp] theorem State.waited_regions (s : State) (ag : Agent) : (s.waited ag).regions = s.regions := by
  obtain ⟨t, h⟩ := (s.endPartials (· == ag.owner)).closeWaits_only fun w => w.tier == 3 && w.owner == ag.owner
  rw [State.waited, h, State.endPartials]

/-! ### The commands -/

section Commands

variable {s s0 t : State} {q : QueueId} {j : Job} {r : JobRef}

/-- A row of a table opcode whose job passes the checks and starts as a later run would go on. -/
theorem State.runJob_table {mine ok : Job → Bool} {k : State → JobRef → Job → State} (hs : s.takes q mine j s0)
    (hok : ok j = true) (hm : s0.model.res ≠ none) :
    s.runJob q.val mine (tableStart ok k) k = k s0 (j.refOn q) j :=
  State.runJob_takes hs (tableStart_ok hok hm)

/-- A descriptor that has come and passes its checks, before its default row. -/
theorem State.defineRun_reads {bs : List Byte} {d : Desc} (hr : s.reads r (j.p 0).toNat 96 t bs) (hd : descAt bs = some d)
    (hok : d.ok = true) (hbad : t.descBad bs d = none) : s.defineRun r j =
      if d.defaultZero = true then (t.define d (List.replicate d.dim 0)).finishJob r 0 0 0
      else t.withStruct r d.defaultDva (2 * d.dim) fun s row => (s.define d (bf16s d.dim row)).finishJob r 0 0 0 := by
  rw [State.defineRun, State.withStruct_ok hr]
  simp only [hd, hok, hbad, Bool.not_true, Option.isSome_none, Bool.false_eq_true, if_false, stOk]

/-- A map whose header and sections have come and agree (R401). -/
theorem State.mapRun_stages {t1 t2 : State} {h : List Byte} {l : List MapSection} (hr : s.reads r (j.p 0).toNat 32 t1 h)
    (hlo : 1 ≤ fieldAt h 0 0 32) (hhi : fieldAt h 0 0 32 ≤ 4096)
    (hgo : (readSections (Agent.struct (t1.ctxOf r.q) r) (j.p 0).toNat (fieldAt h 0 0 32) 32).go t1 = (.ok (some l), t2))
    (hsum : wordAt h 2 = (l.map (·.shards.length)).sum) (hdist : distinct (l.map (·.table)) = true) :
    s.mapRun r j = (t2.stageMapFor r l (wordAt h 1)).finishStaged r := by
  rw [State.mapRun, State.withStruct_ok hr]
  simp only [Nat.ne_of_gt hlo, Nat.not_lt.mpr hhi, decide_false, Bool.or_self, Bool.false_eq_true, if_false, State.access_ok hgo,
    hsum, hdist, ne_eq, not_true_eq_false, Bool.not_true]

/-- A FILL_TABLE whose block is held and open, and whose source has come: first the rows, then the side list. -/
theorem State.fillRun_stores {t1 t2 t3 t4 : State} {x : Table} {v : Version} {shadow : Bool} {rows side region : Nat} {bs : List Byte}
    (hx : s.table? (tableOf j) = some x) (hkind : x.desc.kind ≠ .composed)
    (hv : x.fillVersion ((j.p 0).field 32 32) = some (v, shadow)) (hshard : (j.p 1).field 0 16 < x.desc.shards)
    (hblock : (j.p 1).field 16 24 < ceilDiv x.desc.shardRows 65536)
    (hgo : (fillBlock (Agent.dma (s.ctxOf r.q) r) v ((j.p 1).field 0 16) ((j.p 1).field 16 24)).go s =
      (.ok (some (rows, side, region)), t1))
    (hshade : shadow = true → t1.regions[ix 8 region].shadeLive ≠ 0)
    (hsource : (t1.waited (Agent.dma (s.ctxOf r.q) r)).given r (j.p 2)
      ((j.p 3).field 16 17 * x.desc.stride + 2 * (j.p 4).field 32 32) none t2 bs)
    (hrows : t2.stores r (rows + (j.p 3).field 0 16 * x.desc.stride) (bs.take ((j.p 3).field 16 17 * x.desc.stride)) none t3)
    (hside : t3.stores r (side + 2 * (j.p 4).field 0 32) (bs.drop ((j.p 3).field 16 17 * x.desc.stride)) none t4) :
    s.fillRun r j = t4.finishJob r 0 0 0 := by
  have hopen : ¬(shadow && decide ((t1.waited (Agent.dma (s.ctxOf r.q) r)).regions[ix 8 region].shadeLive = 0)) = true := by
    rw [Bool.and_eq_true, decide_eq_true_eq, State.waited_regions]
    exact fun ⟨h, h0⟩ => hshade h h0
  simp only [State.fillRun, hx, hkind, hv, if_false, Nat.not_le.mpr hshard, Nat.not_le.mpr hblock, decide_false, Bool.or_self,
    Bool.false_eq_true, State.accessDma_ok hgo]
  rw [if_neg hopen, State.withSource_ok hsource, State.putDva_ok hrows, State.putDva_ok hside]
  rfl

/-- A FILL_TABLE of a version that may be filled (R86). -/
theorem fillTable_allowed (hs : s.takes q (isOp 0x22) j s0) (hbad : s0.fillBad j = false) (hok : fillOk j = true)
    (hm : s0.model.res ≠ none) : exec (.fillTable q) s = .next (s0.fillRun (j.refOn q) j) := by
  show execFillTable q s = _
  refine congrArg _ (State.runJob_takes hs ?_)
  rw [tableStart_ok hok hm, hbad, if_neg Bool.false_ne_true]

theorem State.reflRun_stages {x : ReflSet} (hgo : (readSet (Agent.struct (s.ctxOf r.q) r) (j.p 0).toNat).go s = (.ok x, t)) :
    s.reflRun r j = (t.stageFor r .reflections fun s => { s with
      tabs := { s.tabs with reflStaged := if t.tabs.refl.map (·.dva) = some x.dva then none else some x } }).finishStaged r := by
  rw [State.reflRun, State.access_ok hgo]
  simp only [beq_iff_eq]

end Commands

/-- Settles O20, from one lemma for each command and what a search of the tables finds after one is inserted. -/
theorem tablesDefined : Obligations.TablesDefined := by
  refine ⟨fun s s0 t q j bs d hs hj hm hr hd hok hbad => ?_,
    fun s d row hnew => ⟨s.table?_define_same row hnew, fun i => s.table?_define_other row⟩,
    fun s s0 t1 t2 q j h l hs hj hm hr hlo hhi hgo hsum hdist => ?_,
    fun s s0 t1 t2 t3 t4 q j t v shadow rows side region bs hs hbad hj hm ht hkind hv hshard hblock hgo hshade hsource hrows hside => ?_,
    fun s s0 t q j r hs hj hm hgo => ?_⟩
  · have hrun : exec (.defineTable q) s = .next (s0.defineRun (j.refOn q) j) := congrArg _ (State.runJob_table hs hj hm)
    rw [hrun, State.defineRun_reads hr hd hok hbad]
    refine ⟨fun hz => by rw [if_pos hz], fun t2 row hz hrow => ?_⟩
    rw [if_neg (Bool.eq_false_iff.mp hz), State.withStruct_ok hrow]
  · show execMapShards q s = _
    rw [execMapShards, State.runJob_table hs hj hm, State.mapRun_stages hr hlo hhi hgo hsum hdist]
  · rw [fillTable_allowed hs hbad hj hm,
      State.fillRun_stores (r := j.refOn q) ht hkind hv hshard hblock hgo hshade hsource hrows hside]
  · show execSetReflections q s = _
    rw [execSetReflections, State.runJob_table hs hj hm, State.reflRun_stages (r := j.refOn q) hgo]

end Sys2Proof.Machine
end

section
/-! Update records and epochs (R135, R140 to R147, R406, R407): the intake of a list that ends, and one lemma for each operation of
CLOSE_EPOCH. -/

namespace Sys2Proof.Machine

section Commands

variable {s s0 t : State} {q : QueueId} {j : Job} {r : JobRef} {e : Epoch} {me : Nat}

/-! ### UPDATE_ROWS -/

/-- An UPDATE_ROWS that has taken nothing in yet starts on the list that has come. -/
theorem State.updateRun_begins {bs : List Byte} (haux : j.aux = [])
    (hsource : s.given r (j.p 0) (j.p 1).toNat none t bs) : s.updateRun r j = t.intakeRun r bs := by
  rw [State.updateRun, haux, List.isEmpty_nil, if_pos rfl, State.withSource_ok hsource]

theorem updateRows_begins {bs : List Byte} (hs : s.starts q (isOp 0x38) j) (hp0 : addrOk (j.p 0) = true)
    (hp1 : fits (j.p 1) [(0, 40)] = true) (hm : (s.begun q j).model.res ≠ none) (hd : (s.begun q j).device ≠ none)
    (haux : j.aux = []) (hsource : (s.begun q j).given (j.refOn q) (j.p 0) (j.p 1).toNat none t bs) :
    exec (.updateRows q) s = .next (t.intakeRun (j.refOn q) bs) := by
  show execUpdateRows q s = _
  rw [execUpdateRows, State.runJob_starts hs]
  simp only [hp0, hp1, Option.isNone_eq_false_iff.mpr (Option.isSome_iff_ne_none.mpr hm),
    Option.isNone_eq_false_iff.mpr (Option.isSome_iff_ne_none.mpr hd), Bool.and_self, Bool.not_true, Bool.false_eq_true, if_false]
  exact congrArg _ (State.updateRun_begins (j := { j with start := (s.begun q j).sched.nextStart - 1 }) haux hsource)

/-- The intake that reaches the end of its list sends what it forwards and completes with its counts (R406). -/
theorem State.intakeRun_finished {x : Job} {bs : List Byte} {i : Intake} (hx : s.job? r = some x) (hme : s.device = some me)
    (hrun : s.intake me x.start bs
      { pos := x.aux.getD 0 0, taken := x.aux.getD 1 0, after := x.aux.getD 2 0, held := x.aux.getD 3 0 == 1 }
      (bs.length + 1) = (t, i)) (hend : i.finished = true) :
    s.intakeRun r bs = (t.sendRecs i.out).finishJob r 0 i.after i.taken := by
  simp only [State.intakeRun, hx, hme, hrun, hend, if_true, stOk]

/-! ### CLOSE_EPOCH -/

theorem closeStart_ok {k : State → JobRef → Job → State} (hok : closeOk j = true) (hm : s.model.res ≠ none) :
    closeStart k s r j = k s r j := by
  simp only [closeStart, hok, Option.isNone_eq_false_iff.mpr (Option.isSome_iff_ne_none.mpr hm), Bool.not_true, Bool.false_eq_true,
    if_false]

/-- A CLOSE_EPOCH that starts and passes the checks that every operation begins with. -/
theorem runJob_closeStart {mine : Job → Bool} {k again : State → JobRef → Job → State} (hs : s.starts q mine j)
    (hok : closeOk j = true) (hm : (s.begun q j).model.res ≠ none) :
    s.runJob q.val mine (closeStart k) again = k (s.begun q j) (j.refOn q) j := by
  rw [State.runJob_starts hs, closeStart_ok hok hm]

/-- A declaration that has come and finds room: a host error where its epoch was declared before or is not above the last applied
one (R141). -/
theorem State.declare_opens {bs : List Byte} (hnum : (declEpoch bs).num = epochOf j) (hlast : s.upd.lastApplied ≠ 0xFFFFFFFF)
    (hroom : s.upd.epochs.length < 255) : s.declare r j bs =
      if s.declared (epochOf j) = none ∧ s.upd.lastApplied < epochOf j then (s.openEpoch (declEpoch bs)).finishJob r 0 0 0
      else ((s.openEpoch (declEpoch bs)).finishJob r 0 0 0).wrecked .system := by
  have hwrong : ((s.declared (epochOf j)).isSome || decide (epochOf j ≤ s.upd.lastApplied)) = true ↔
      ¬(s.declared (epochOf j) = none ∧ s.upd.lastApplied < epochOf j) := by
    rw [Bool.or_eq_true, decide_eq_true_eq, Option.isSome_iff_ne_none, ← Nat.not_lt, not_and_or]
  simp only [State.declare, hnum, ne_eq, not_true_eq_false, hlast, Nat.not_le.mpr hroom, if_false, stOk]
  rw [if_congr hwrong rfl rfl, ite_not]

theorem State.declareRun_reads {t1 t2 : State} {h bs : List Byte} (hhead : s.reads r (j.p 1).toNat 16 t1 h)
    (hbody : t1.reads r (j.p 1).toNat (declBytes (fieldAt h 1 0 15) (fieldAt h 1 32 15)) t2 bs) :
    s.declareRun r j = t2.declare r j bs := by
  rw [State.declareRun, State.withStruct_ok hhead, State.withStruct_ok hbody]

/-- The state in which MARK has noted the start number at which it was accepted: the records of later UPDATE_ROWS come after it
(R142). -/
def State.noteMark (s : State) (epoch start : Nat) : State :=
  { s with upd := { s.upd with marked := s.upd.marked ++ [(epoch, start)] } }


/-- A MARK that has sent nothing yet, with every earlier record routed, sends its markers. -/
theorem State.markRun_sends (he : s.declared (epochOf j) = some e) (hme : s.device = some me) (hdata : j.data = [])
    (hroute : s.routing j.start = false) :
    s.markRun r j = ((s.sendMarks r e me).setJob r fun x => { x with data := [1] }).markEnd r := by
  simp only [State.markRun, he, hme, hdata, List.isEmpty_nil, hroute, Bool.false_eq_true, if_false, if_true]

theorem closeEpochMark_sends (hs : s.starts q (closeMine 1) j) (h0 : s0 = s.begun q j) (hok : closeOk j = true)
    (hm : s0.model.res ≠ none) (he : s0.declared (epochOf j) = some e) (hme : s0.device = some me) (hdata : j.data = [])
    (hroute : s0.routing (s0.sched.nextStart - 1) = false) :
    exec (.closeEpochMark q) s = .next ((((s0.noteMark (epochOf j) (s0.sched.nextStart - 1)).sendMarks (j.refOn q) e me).setJob
      (j.refOn q) fun x => { x with data := [1] }).markEnd (j.refOn q)) := by
  subst h0
  show execCloseEpochMark q s = _
  rw [execCloseEpochMark, runJob_closeStart hs hok hm]
  simp only [he, hme, Option.isNone_some, Bool.or_self, Bool.false_eq_true, if_false]
  exact congrArg _ (State.markRun_sends (s := (s.begun q j).noteMark (epochOf j) ((s.begun q j).sched.nextStart - 1))
    (j := { j with start := (s.begun q j).sched.nextStart - 1 }) he hme hdata hroute)

/-- FORCE of a declared epoch that no FORCE has closed (R145). -/
theorem closeEpochForce_closes (hs : s.starts q (closeMine 2) j) (h0 : s0 = s.begun q j) (hok : closeOk j = true)
    (hm : s0.model.res ≠ none) (he : s0.declared (epochOf j) = some e) (hforced : e.forced = false) :
    exec (.closeEpochForce q) s = .next (if e.closed = true then s0.finishJob (j.refOn q) 0 0 0 else
      ((s0.setEpoch e.num fun e => { e with closed := true, forced := true }).updCtr fun c =>
        { c with epochsForced := c.epochsForced + 1 }).finishJob (j.refOn q) 0x31 e.missingCount 0) := by
  subst h0
  show execCloseEpochForce q s = _
  rw [execCloseEpochForce, State.runOnce, runJob_closeStart hs hok hm]
  simp only [he, hforced, Bool.false_eq_true, if_false, stOk, stEpochForced]

/-- AWAIT completes with the seam of an applied epoch, and otherwise goes on waiting (R147, R407). -/
theorem closeEpochAwait_completes (hs : s.starts q (closeMine 3) j) (h0 : s0 = s.begun q j) (hok : closeOk j = true)
    (hm : s0.model.res ≠ none) : exec (.closeEpochAwait q) s = .next
      (if epochOf j ≤ s0.upd.lastApplied then s0.finishJob (j.refOn q) 0 (s0.seamOf (epochOf j)) 0 else s0) := by
  subst h0
  exact congrArg _ (runJob_closeStart hs hok hm)

end Commands

/-- Settles O22, from the intake that ends and one lemma for each operation of CLOSE_EPOCH. -/
theorem updatesAndEpochs : Obligations.UpdatesAndEpochs := by
  refine ⟨?_, fun s r x me bs t i hx hme hrun hend => State.intakeRun_finished hx hme hrun hend, ?_,
    fun s s0 q j e me hs h0 hok hm he hme hdata hroute => closeEpochMark_sends hs h0 hok hm he hme hdata hroute,
    fun s s0 q j e hs h0 hok hm he hforced => closeEpochForce_closes hs h0 hok hm he hforced,
    fun s s0 q j hs h0 hok hm => closeEpochAwait_completes hs h0 hok hm⟩
  · rintro s s0 t q j bs hs rfl hp0 hp1 hm hd haux hsource
    exact updateRows_begins hs hp0 hp1 hm hd haux hsource
  · intro s s0 t1 t2 q j h bs hs hok hm hhead hbody hnum hlast hroom
    show execCloseEpochDeclare q s = _
    rw [execCloseEpochDeclare, State.runJob_takes hs (closeStart_ok hok hm), State.declareRun_reads hhead hbody,
      State.declare_opens hnum hlast hroom]

end Sys2Proof.Machine
end

section
/-! A number that bytes spell, and the row that `recode` writes (R7, R81, R173): its header's lowest field is SCALE. -/

namespace Sys2Proof.Machine

@[simp] theorem leBytes_length (n v : Nat) : (leBytes n v).length = n := by simp [leBytes]

/-- The lowest byte stands first, and the others spell what is left. -/
theorem leBytes_succ (n v : Nat) : leBytes (n + 1) v = BitVec.ofNat 8 v :: leBytes n (v / 256) := by
  simp [leBytes, List.range_succ_eq_map, Nat.div_div_eq_div_mul, Nat.pow_succ']

/-- `n` bytes keep a number modulo `256 ^ n`. -/
theorem leNat_leBytes (n v : Nat) : leNat (leBytes n v) = v % 256 ^ n := by
  induction n generalizing v with
  | zero => simp [leBytes, leNat, Nat.mod_one]
  | succ n ih =>
    rw [Nat.pow_succ', Nat.mod_mul, leBytes_succ, leNat, ih, BitVec.toNat_ofNat]

/-- A body that begins with a packed header reads its SCALE as the first field. -/
theorem rowScale_header (scale : F16) (fields : List (Nat × Nat)) (rest : List Byte) :
    rowScale (leBytes 12 (packFields ((scale.toNat, 16) :: fields)) ++ rest) = scale := by
  have hhead (v : Nat) : (leBytes 12 v ++ rest).take 12 = leBytes 12 v := List.take_left' (leBytes_length 12 v)
  apply BitVec.eq_of_toNat_eq
  rw [rowScale, rowHeader, hhead, leNat_leBytes, fieldOf, Nat.pow_zero, Nat.div_one,
    Nat.mod_mod_of_dvd _ (show 2 ^ 16 ∣ 256 ^ 12 by decide), packFields_cons_mod, BitVec.toNat_ofNat, Nat.mod_mod]
  exact Nat.mod_eq_of_lt scale.isLt

/-- A re-coded row's SCALE is the one that `scaleOffset` gives for the elements that are no escapes. -/
theorem rowScale_recode (d : Desc) (g : Grid) (old : List Byte) (version : Nat) (xs : List F32) :
    ∃ remaining, rowScale (recode d g old version xs).1 = (scaleOffset d.format g remaining).1 := by
  simp only [recode, List.append_assoc, rowScale_header]
  exact ⟨_, rfl⟩

/-- Without a positive grid point both header values of a bell format are 0, whatever elements remain (R173). -/
theorem scaleOffset_of_gposOf_nonpos {f : Format} {g : Grid} (hb : f.bell = true) (hg : gposOf f g ≤ 0) (remaining : List F32) :
    scaleOffset f g remaining = (0, 0) := by
  simp only [scaleOffset, hb, hg, if_true]

/-- Settles O51, from the SCALE that `recode` writes into the header. -/
theorem scaleZero : Obligations.ScaleZero := by
  intro d g old version xs hb hg
  obtain ⟨remaining, h⟩ := rowScale_recode d g old version xs
  rw [h, scaleOffset_of_gposOf_nonpos hb hg]

end Sys2Proof.Machine
end

section
/-! The matrix row engine (R181 to R193): the 40-bit entry, what an instruction that is carried out leaves, and one lemma for each
way that MATMUL and READ_ACC end. -/

namespace Sys2Proof.Machine

/-! ### The 40-bit entry -/

theorem wrap40_eq_bmod (v : Int) : wrap40 v = v.bmod (2 ^ 40) := BitVec.toInt_ofInt ..

theorem wrap40_bounds (v : Int) : -(2 ^ 39) ≤ wrap40 v ∧ wrap40 v < 2 ^ 39 :=
  ⟨BitVec.le_toInt (BitVec.ofInt 40 v), BitVec.toInt_lt (x := BitVec.ofInt 40 v)⟩

/-- Two's complement takes off a multiple of `2 ^ 40`. -/
theorem wrap40_congr (v : Int) : ∃ k : Int, v = wrap40 v + k * 2 ^ 40 := by
  rw [wrap40_eq_bmod]
  exact ⟨v.bdiv (2 ^ 40), by rw [Int.mul_comm]; exact (Int.bmod_add_bdiv v (2 ^ 40)).symm⟩

/-- Reducing the entry before the next sum is added changes nothing: only the last reduction counts. -/
theorem wrap40_add (a b : Int) : wrap40 (wrap40 a + b) = wrap40 (a + b) := by
  simp only [wrap40_eq_bmod, Int.bmod_add_bmod]

variable {x : MreOp} {mem : EngMem} {g : Grid}

/-- The products of a row of A and a row of W, summed exactly (R175). -/
def MreOp.dot (x : MreOp) (mem : EngMem) (g : Grid) (m j : Nat) : Int :=
  (((x.aInts mem g m).zip (x.wInts mem g j)).map fun p => p.1 * p.2).sum

theorem MreOp.acc_code_fresh (hb : x.bf = false) (ha : x.accIn = false) (m j : Nat) :
    x.acc mem g none m j = .int (wrap40 (x.dot mem g m j)) := by
  simp [MreOp.acc, MreOp.dot, hb, ha]

theorem MreOp.acc_code_held {h : MreChain} {m j : Nat} {v : Int} (hb : x.bf = false) (ha : x.accIn = true)
    (hv : h.accs[m * x.n + j]? = some (.int v)) : x.acc mem g (some h) m j = .int (wrap40 (v + x.dot mem g m j)) := by
  simp [MreOp.acc, MreOp.dot, hb, ha, hv]

/-- With HOLD nothing is written, and the chain goes on. -/
theorem MreOp.hold_keeps (hh : x.hold = true) (c : Option MreChain) (res : Bool) (es : List (Nat × Nat)) (stamp : Nat × Nat) :
    x.write mem g c res es = mem ∧ (x.chain mem g c stamp).isSome = true := by
  simp [MreOp.write, MreOp.chain, hh]

/-! ### What an instruction leaves -/

@[simp] theorem State.cl_mreDone (s : State) (c : Nat) (t0 : List Host.Cell) (ch : Option MreChain) :
    (s.mreDone c t0 ch).cl c = { s.cl c with
      t0 := t0
      mre := { (s.cl c).mre with stream := (s.cl c).mre.stream.drop 1, pos := (s.cl c).mre.pos + 1, chain := ch }
      progress := s.pkg.elapsed } := by
  simp [State.mreDone]

theorem State.cl_mreDone_other (s : State) {c d : Nat} (t0 : List Host.Cell) (ch : Option MreChain) (hd : ix 16 d ≠ ix 16 c) :
    (s.mreDone c t0 ch).cl d = s.cl d := by
  rw [State.mreDone, State.cl_setCl, if_neg hd]

/-- Where every element can be completed, all of them come before the first fault, and there is none (R193). -/
theorem takeWhile_find?_of_forall {α : Type} {p : α → Bool} {l : List α} (h : ∀ a ∈ l, p a = true) :
    l.takeWhile p = l ∧ l.find? (fun a => !p a) = none := by
  refine ⟨List.takeWhile_eq_self_iff.mpr h, List.find?_eq_none.mpr fun a ha => ?_⟩
  simp [h a ha]

section Commands

variable {s : State} {c : ClusterId} {i : Nat} {st : Step}

theorem matmul_reserved (hx : s.mreHead c.val = some (i, st, x)) (hop : x.op = 1) (hr : x.reserved = true) :
    exec (.matmul c) s = .next (s.mreFault c.val i st 0x01 0 0) := by
  show execMatmul c s = _
  simp [execMatmul, hx, hop, MreOp.bad, hr]

theorem readAcc_reserved (hx : s.mreHead c.val = some (i, st, x)) (hop : x.op = 2) (hr : x.reserved = true) :
    exec (.readAcc c) s = .next (s.mreFault c.val i st 0x01 0 0) := by
  show execReadAcc c s = _
  simp [execReadAcc, hx, hop, hr]

/-- The outputs that a MATMUL within T0 writes, in folding order (R184). -/
def State.matmulOut (s : State) (c : Nat) (st : Step) (x : MreOp) : EngMem :=
  x.write ⟨(s.cl c).t0, []⟩ st.grid (s.cl c).mre.chain (s.ruReserved c) (tileOrder x.m x.n x.group x.lanes)

/-- The chain that it leaves (R189). -/
def State.matmulChain (s : State) (c : Nat) (st : Step) (x : MreOp) : Option MreChain :=
  x.chain ⟨(s.cl c).t0, []⟩ st.grid (s.cl c).mre.chain (s.now, (s.cl c).mre.pos)

/-- A valid MATMUL whose elements all lie within T0: its outputs stand, or where they meet its operands are free (R188). -/
theorem matmul_runs (hx : s.mreHead c.val = some (i, st, x)) (hop : x.op = 1) (hbad : x.bad = false)
    (hchain : x.chainBad (s.cl c.val).mre.chain = false) (hok : ∀ e ∈ tileOrder x.m x.n x.group x.lanes, x.elemOk e = true) :
    exec (.matmul c) s = .next (
      if x.overlaps (s.cl c.val).mre.chain = true then
        (s.upset (s.slot i).ctx).mreDone c.val ((s.matmulOut c.val st x).scramble s.now c.val ⟨none, 0⟩
          (rowsRange x.yBase x.m x.n x.yBits).1 (rowsRange x.yBase x.m x.n x.yBits).2).t0 (s.matmulChain c.val st x)
      else s.mreDone c.val (s.matmulOut c.val st x).t0 (s.matmulChain c.val st x)) := by
  have hres : x.opReserved = false := by simp [MreOp.opReserved, hop]
  obtain ⟨htake, hfind⟩ := takeWhile_find?_of_forall hok
  show execMatmul c s = _
  rw [State.cl_val] at hchain
  simp only [execMatmul, State.matmulOut, State.matmulChain, hx, hop, hres, hbad, hchain, htake, hfind, State.cl_val, OfNat.one_ne_ofNat,
    Bool.or_self, Bool.false_eq_true, if_false]
  split <;> rfl

/-- Entry (m, l) of a chain ends no later than its last one. -/
theorem entry_le {m l rows lanes : Nat} (hm : m < rows) (hl : l < lanes) : m * lanes + l + 1 ≤ rows * lanes :=
  calc m * lanes + l + 1 ≤ m * lanes + lanes := by omega
    _ = (m + 1) * lanes := (Nat.succ_mul m lanes).symm
    _ ≤ rows * lanes := Nat.mul_le_mul_right lanes hm

theorem readAcc_runs {h : MreChain} (hx : s.mreHead c.val = some (i, st, x)) (hop : x.op = 2) (hr : x.reserved = false)
    (hh : (s.cl c.val).mre.chain = some h) (hin : x.yBase + 8 * (h.m * h.lanes) ≤ Config.t0Bytes) :
    exec (.readAcc c) s = .next (s.mreDone c.val
      (((List.range h.m).flatMap fun m => (List.range h.lanes).map fun l => (m, l)).foldl
        (fun t e => memWrite t (x.yBase + 8 * (e.1 * h.lanes + e.2)) (accEntry c.val h e.1 e.2)) (s.cl c.val).t0) (some h)) := by
  have hres : x.opReserved = false := by simp [MreOp.opReserved, hop]
  have hok : ∀ e ∈ (List.range h.m).flatMap fun m => (List.range h.lanes).map fun l => (m, l),
      decide (x.yBase + 8 * (e.1 * h.lanes + e.2) + 8 ≤ Config.t0Bytes) = true := by
    simp only [List.mem_flatMap, List.mem_map, List.mem_range]
    rintro _ ⟨m, hm, l, hl, rfl⟩
    have := entry_le hm hl
    exact decide_eq_true (by dsimp only; omega)
  obtain ⟨htake, hfind⟩ := takeWhile_find?_of_forall hok
  show execReadAcc c s = _
  rw [State.cl_val] at hh ⊢
  simp only [execReadAcc, hx, hop, hres, hr, hh, htake, hfind, OfNat.ofNat_ne_one, Bool.or_self, Bool.false_eq_true, if_false]

end Commands

/-- Settles O52, from one lemma for each end of MATMUL and READ_ACC, and the arithmetic of the 40-bit entry. -/
theorem matrixRuns : Obligations.MatrixRuns := by
  refine ⟨?_, fun x mem g h res es k hh => MreOp.hold_keeps hh h res es k,
    fun s c i st x h hx hop hr hh hin => readAcc_runs hx hop hr hh hin,
    fun s c i st x hx hr => ⟨fun hop => matmul_reserved hx hop hr, fun hop => readAcc_reserved hx hop hr⟩,
    fun s c t0 ch => ?_, fun x mem g m j hb ha => MreOp.acc_code_fresh hb ha m j,
    fun x mem g h m j v hb ha hv => MreOp.acc_code_held hb ha hv,
    fun v => ⟨(wrap40_bounds v).1, (wrap40_bounds v).2, wrap40_congr v⟩, wrap40_add⟩
  · rintro s c i st x out ch y hx hop hbad hchain hok rfl rfl rfl
    have hrun := matmul_runs hx hop hbad hchain hok
    exact ⟨fun ho => hrun.trans (by rw [if_neg (Bool.eq_false_iff.mp ho)]; rfl), fun ho => hrun.trans (by rw [if_pos ho]; rfl)⟩
  · have hc := s.cl_mreDone c t0 ch
    exact ⟨by rw [hc], by rw [hc], by rw [hc], rfl, rfl, rfl, fun d hd => s.cl_mreDone_other t0 ch hd⟩

end Sys2Proof.Machine
end

section
/-! The vector operations on blocks and whole streams (R179, R198, R205 to R207): an instruction whose checks pass, and how it
ends. -/

namespace Sys2Proof.Machine

/-- Checks that pass hand on the instruction's context (R198, R201). -/
theorem State.veFront_fine {s : State} {op u i : Nat} {st : Step} {v : VeCtx} {ok scalar : VeOp → Bool} {pOk : VeCtx → Bool}
    {k : Nat → Step → VeCtx → Host.Outcome State Fault Refusal} (hx : s.veHead u = some (i, st, v.x)) (hop : v.x.op = op)
    (hv : v = s.veCtx u st v.x (scalar v.x)) (hf : v.fine ok scalar pOk) : s.veFront op u ok scalar pOk k = k i st v := by
  obtain ⟨hres, hok, hscalar, hp⟩ := hf
  have hrecord : (scalar v.x && v.x.c.tile.isSome) = false := by
    rw [Bool.and_eq_false_imp]
    intro hs
    rw [(hscalar hs).1, Option.isSome_none]
  have hrange : (scalar v.x && decide (Config.t0Bytes < v.x.c.start + 16)) = false := by
    rw [Bool.and_eq_false_imp]
    intro hs
    exact decide_eq_false (Nat.not_lt.mpr (hscalar hs).2)
  rw [hv] at hp
  simp only [State.veFront, hx, hop, hres, hok, hrecord, hrange, hp, ne_eq, not_true_eq_false, false_and, decide_false, Bool.not_true,
    Bool.or_self, Bool.false_eq_true, if_false]
  exact congrArg (k i st) hv.symm

/-- An instruction that no element stops: its bytes are in place, or free where its destination met its sources, and the next word
follows. -/
theorem State.veEnd_veClash (s : State) (u i : Nat) (st : Step) (v : VeCtx) (n : Nat) (bad : Bool) (m : EngMem) :
    (s.veClash u i v n bad (m, none)).1.veEnd u i st (s.veClash u i v n bad (m, none)).2 =
      .next (((s.veClash u i v n bad (m, none)).1.putEng u (s.veClash u i v n bad (m, none)).2.1).veNext u) := by
  cases bad <;> rfl

theorem rotateAll_short {lg : Nat} {xs : List F32} (h : xs.length < 2 ^ lg) (n : Nat) : rotateAll lg n xs = xs := by
  cases n with
  | zero => rfl
  | succ n => exact if_pos h

/-- A destination element within its space stops nothing (R196). -/
theorem rangeChk_refD {v : VeCtx} {e : Nat} (h : v.x.d.ok v.x.dw e = true) : rangeChk [v.refD e] = none := by
  simp [rangeChk, VeCtx.refD, h]

/-- One result of a TILE_REDUCE into its element of the destination, unless an earlier one was out of range (R201, R207). -/
def VeCtx.putResult (v : VeCtx) (kind : Nat) (r : EngMem × Option (Nat × Nat × Nat)) (p : Nat × Nat) :
    EngMem × Option (Nat × Nat × Nat) :=
  match r.2 with
  | some _ => r
  | none =>
    match rangeChk [v.refD p.1] with
    | some (c, o) => (r.1, some (c, o, p.1))
    | none => (r.1.setElem v.x.d v.x.dw p.1 (reduceOut kind v.x.dfmt p.2), none)

/-- Results that all lie in range are written one after the other. -/
theorem foldl_putResult {v : VeCtx} (kind : Nat) {ps : List (Nat × Nat)} (h : ∀ p ∈ ps, v.x.d.ok v.x.dw p.1 = true) (m : EngMem) :
    ps.foldl (v.putResult kind) (m, none) =
      (ps.foldl (fun m p => m.setElem v.x.d v.x.dw p.1 (reduceOut kind v.x.dfmt p.2)) m, none) := by
  induction ps generalizing m with
  | nil => rfl
  | cons p ps ih =>
    have hp : v.putResult kind (m, none) p = (m.setElem v.x.d v.x.dw p.1 (reduceOut kind v.x.dfmt p.2), none) := by
      simp only [VeCtx.putResult, rangeChk_refD (h p (List.mem_cons_self ..))]
    rw [List.foldl_cons, List.foldl_cons, hp, ih fun q hq => h q (List.mem_cons_of_mem p hq)]

section Commands

variable {s : State} {u : VeId} {i : Nat} {st : Step} {v : VeCtx}

theorem rotate_writes {m : EngMem} (hx : s.veHead u.val = some (i, st, v.x)) (hop : v.x.op = 0x1B)
    (hv : v = s.veCtx u.val st v.x false) (hf : v.fine (fun x => x.ff && fieldOf x.param 0 2 ≠ 3) noScalar anyP)
    (hloop : veLoop v (fun _ e => rangeChk (formA.refs v e)) (fun _ e => storeF v.x.dfmt
      ((rotateAll (6 + fieldOf v.x.param 0 2) 128 ((List.range v.x.count).map (v.rotIn s.now (s.engOf u.val)))).getD e 0))
      (s.engOf u.val) = (m, none)) {a : State × EngMem × Option (Nat × Nat × Nat)}
    (ha : a = s.veClash u.val i v v.x.count (clash (v.x.d.range v.x.dw v.x.count) v.x.dw (formA.srcs v)) (m, none)) :
    exec (.rotate u) s = .next ((a.1.putEng u.val a.2.1).veNext u.val) := by
  subst ha
  show execRotate u s = _
  simp only [execRotate, State.veFront_fine hx hop hv hf, hloop, State.veEnd_veClash]

theorem take_writes {m : EngMem} (hx : s.veHead u.val = some (i, st, v.x)) (hop : v.x.op = 0x29)
    (hv : v = s.veCtx u.val st v.x true) (hf : v.fine VeOp.same hasScalar (fun v => 1 ≤ v.sc.p))
    (hloop : veLoop v (takeChk v) (fun m e => v.rawA m (m.elem v.x.b 32 e)) (s.engOf u.val) = (m, none))
    {a : State × EngMem × Option (Nat × Nat × Nat)}
    (ha : a = s.veClash u.val i v v.x.count (clash (v.x.d.range v.x.dw v.x.count) v.x.dw
      [(v.x.a.range v.x.sw v.sc.p, v.x.sw, false), (v.x.b.range 32 v.x.count, 32, true), v.srcS]) (m, none)) :
    exec (.take u) s = .next ((a.1.putEng u.val a.2.1).veNext u.val) := by
  subst ha
  show execTake u s = _
  simp only [execTake, State.veFront_fine hx hop hv hf, hloop, State.veEnd_veClash]

/-- A TILE_REDUCE of whole tile rows, up to the loop over its results. -/
theorem tileReduce_loop (hx : s.veHead u.val = some (i, st, v.x)) (hop : v.x.op = 0x31)
    (hv : v = s.veCtx u.val st v.x false) (hf : v.fine (fun x => isF x.sfmt && fieldOf x.param 0 3 ≤ 5 &&
      (if argKind (fieldOf x.param 0 3) then x.dfmt == 6 else isF x.dfmt) && x.a.tile.isSome && x.count % x.rowWidth == 0) noScalar anyP)
    (hrows : v.x.a.start / 256 + v.x.count / v.x.rowWidth ≤ 128) {out : List Nat}
    (hout : out = (tileSegs v (s.engOf u.val)).map (reduceSeg (fieldOf v.x.param 0 3)))
    {r : State × EngMem × Option (Nat × Nat × Nat)}
    (hr : r = s.veClash u.val i v out.length (clash (v.x.d.range v.x.dw out.length) v.x.dw [v.srcA])
      (((List.range out.length).zip out).foldl (v.putResult (fieldOf v.x.param 0 3)) (s.engOf u.val, none))) :
    exec (.tileReduce u) s = r.1.veEnd u.val i st r.2 := by
  subst hout hr
  show execTileReduce u s = _
  rw [execTileReduce, State.veFront_fine hx hop hv hf, if_neg (Nat.not_lt.mpr hrows)]
  rfl

end Commands

/-- Settles O56: the checks pass, the loop writes its elements, and `State.veEnd_veClash` ends the instruction. -/
theorem blocksComputed : Obligations.BlocksComputed := by
  refine ⟨?_, fun lg n xs h => rotateAll_short h n, fun s u i st v m a hx hop hv hf hloop ha => take_writes hx hop hv hf hloop ha, ?_⟩
  · rintro s u i st v m out a hx hop hv hf rfl hloop ha
    exact rotate_writes hx hop hv hf hloop ha
  · intro s u i st v out a hx hop hv hf hrows hout hok ha
    have hin : ∀ p ∈ (List.range out.length).zip out, v.x.d.ok v.x.dw p.1 = true := fun p hp =>
      hok p.1 (List.mem_range.mp (List.of_mem_zip hp).1)
    rw [tileReduce_loop hx hop hv hf hrows hout rfl, foldl_putResult _ hin, State.veEnd_veClash, ha]

end Sys2Proof.Machine
end

section
/-! The element-wise vector operations (R195 to R198, R203 to R206): one equation for the twenty rows, how each of them ends, and what
an instruction that has been carried out leaves. -/

namespace Sys2Proof.Machine

/-! ### What an instruction leaves -/

theorem State.ve_setVe_same (s : State) (u : Nat) (f : Ve → Ve) : (s.setVe u f).ve u = f (s.ve u) := by
  by_cases hu : u % 2 = 0 <;> simp [State.setVe, State.ve, hu]

theorem State.t0_setVe (s : State) (u c : Nat) (f : Ve → Ve) : ((s.setVe u f).cl c).t0 = (s.cl c).t0 := by
  rw [State.setVe, State.cl_setCl]
  split
  · by_cases hu : u % 2 = 0 <;> simp [hu]
  · rfl

theorem State.cl_setVe_other (s : State) {u c : Nat} (f : Ve → Ve) (hc : ix 16 c ≠ ix 16 (u / 2)) : (s.setVe u f).cl c = s.cl c := by
  rw [State.setVe, State.cl_setCl, if_neg hc]

/-- T0 changes apart from a cluster's vector engines. -/
theorem State.ve_setCl_t0 (s : State) (u : Nat) (t0 : List Host.Cell) :
    (s.setCl (u / 2) fun c => { c with t0 := t0 }).ve u = s.ve u := by
  simp [State.ve]

theorem State.ve_putEng (s : State) (u : Nat) (m : EngMem) : (s.putEng u m).ve u = { s.ve u with tiles := m.tiles } := by
  rw [State.putEng, State.ve_setVe_same, State.ve_setCl_t0]

theorem State.t0_putEng (s : State) (u : Nat) (m : EngMem) : ((s.putEng u m).cl (u / 2)).t0 = m.t0 := by
  rw [State.putEng, State.t0_setVe, State.cl_setCl_same]

theorem State.cl_putEng_other (s : State) {u c : Nat} (m : EngMem) (hc : ix 16 c ≠ ix 16 (u / 2)) : (s.putEng u m).cl c = s.cl c := by
  rw [State.putEng, State.cl_setVe_other _ _ hc, State.cl_setCl, if_neg hc]

theorem State.ve_veNext (s : State) (u : Nat) :
    (s.veNext u).ve u = { s.ve u with stream := (s.ve u).stream.drop 1, pos := (s.ve u).pos + 1 } :=
  s.ve_setVe_same u _

/-- The engine reads back the bytes that its instruction left. -/
theorem State.engOf_putEng_veNext (s : State) (u : Nat) (m : EngMem) : ((s.putEng u m).veNext u).engOf u = m := by
  have ht0 : (((s.putEng u m).veNext u).cl (u / 2)).t0 = m.t0 := (State.t0_setVe _ u _ _).trans (s.t0_putEng u m)
  rw [State.engOf, ht0, State.ve_veNext, State.ve_putEng]

theorem State.cl_putEng_veNext_other (s : State) {u c : Nat} (m : EngMem) (hc : ix 16 c ≠ ix 16 (u / 2)) :
    ((s.putEng u m).veNext u).cl c = s.cl c := by
  rw [State.veNext, State.cl_setVe_other _ _ hc, State.cl_putEng_other _ _ hc]

/-! ### The rows -/

/-- A reserved bit faults before element 0 (R201, R203). -/
theorem State.veFront_reserved {s : State} {op u i : Nat} {st : Step} {x : VeOp} {ok scalar : VeOp → Bool} {pOk : VeCtx → Bool}
    {k : Nat → Step → VeCtx → Host.Outcome State Fault Refusal} (hx : s.veHead u = some (i, st, x)) (hop : x.op = op)
    (hr : x.reserved = true) : s.veFront op u ok scalar pOk k = .next (s.veFault u i st 0x11 0 0) := by
  simp [State.veFront, hx, hop, hr]

/-- Each row of the table runs its command: R205's operations are one loop with the row's checks, streams and value. -/
theorem exec_elemRow {r : ElemRow} (hr : r ∈ elemRows) (u : VeId) (s : State) :
    exec (r.command u) s = s.veRun r.op u.val r.ok r.scalar r.pOk r.form r.value := by
  fin_cases hr <;> rfl

/-- An element-wise instruction whose checks pass and that no element stops (R200, R206). -/
theorem State.veRun_fine {s : State} {op u i : Nat} {st : Step} {v : VeCtx} {m : EngMem} {ok scalar : VeOp → Bool}
    {pOk : VeCtx → Bool} {form : VeForm} {value : VeCtx → EngMem → Nat → Nat} (hx : s.veHead u = some (i, st, v.x))
    (hop : v.x.op = op) (hv : v = s.veCtx u st v.x (scalar v.x)) (hf : v.fine ok scalar pOk)
    (hloop : veLoop v (fun _ e => rangeChk (form.refs v e)) (value v) (s.engOf u) = (m, none))
    {a : State × EngMem × Option (Nat × Nat × Nat)}
    (ha : a = s.veClash u i v v.x.count (clash (v.x.d.range v.x.dw v.x.count) v.x.dw (form.srcs v)) (m, none)) :
    s.veRun op u ok scalar pOk form value = .next ((a.1.putEng u a.2.1).veNext u) := by
  subst ha
  simp only [State.veRun, State.veFront_fine hx hop hv hf, hloop, State.veEnd_veClash]

/-- Settles O53: `exec_elemRow` makes the twenty operations one, whose checks and loop end as `State.veRun_fine` says. -/
theorem elementsComputed : Obligations.ElementsComputed := by
  refine ⟨fun s u i st r v m a hr hx hop hv hf hloop ha => ?_, fun s u i n v m => ⟨rfl, rfl⟩, fun s u i st r x hr hx hop hres => ?_,
    fun s u m _ => ⟨s.engOf_putEng_veNext u m, ?_, ?_, rfl, rfl, rfl, fun c hc => s.cl_putEng_veNext_other m hc⟩⟩
  · rw [exec_elemRow hr, State.veRun_fine hx hop hv hf hloop ha]
  · rw [exec_elemRow hr, State.veRun, State.veFront_reserved hx hop hres]
  · rw [State.ve_veNext, State.ve_putEng]
  · rw [State.ve_veNext, State.ve_putEng]

end Sys2Proof.Machine
end

section
/-! The vector operations on masks (R199, R200, R205): the bits of a mask as a number, the packed bits that MSTORE writes, and one lemma
for each command. -/

namespace Sys2Proof.Machine

/-! ### Bits as a number -/

theorem bitOf_zero_left (k : Nat) : bitOf 0 k = false := by simp [bitOf]

theorem bitOf_cons_zero (b : Bool) (n : Nat) : bitOf (b2n b + 2 * n) 0 = b := by
  cases b <;> simp [bitOf, b2n, Nat.add_mod]

/-- Bits above the lowest are those of the half. -/
theorem bitOf_cons_succ (b : Bool) (n k : Nat) : bitOf (b2n b + 2 * n) (k + 1) = bitOf n k := by
  have hb : b2n b < 2 := by cases b <;> decide
  have hhalf : (b2n b + 2 * n) / 2 = n := by omega
  rw [bitOf, bitOf, Nat.pow_succ', ← Nat.div_div_eq_div_mul, hhalf]

theorem bitOf_bitsNat (bs : List Bool) (k : Nat) : bitOf (bitsNat bs) k = bs.getD k false := by
  induction bs generalizing k with
  | nil => exact bitOf_zero_left k
  | cons b bs ih =>
    cases k with
    | zero => exact bitOf_cons_zero b (bitsNat bs)
    | succ k => rw [bitsNat, bitOf_cons_succ, ih, List.getD_cons_succ]

/-! ### Packed bits -/

/-- The elements before one that lies within its space lie within it too (R196). -/
theorem Opnd.ok_of_le {o : Opnd} {w e f : Nat} (hf : o.ok w f = true) (he : e ≤ f) : o.ok w e = true := by
  have hend : (o.bytes w e).1 + (o.bytes w e).2 ≤ (o.bytes w f).1 + (o.bytes w f).2 := by
    by_cases hw : w = 4
    · simp only [Opnd.bytes, if_pos hw]
      omega
    · have hbytes : e * (w / 8) ≤ f * (w / 8) := Nat.mul_le_mul_right _ he
      simp only [Opnd.bytes, if_neg hw]
      omega
  exact decide_eq_true (hend.trans (of_decide_eq_true hf))

/-- Without a mask every element is active (R199). -/
theorem VeCtx.active_unmasked {v : VeCtx} (hmask : v.x.mask = 0) (hneg : v.x.mneg = false) (e : Nat) : v.active e = true := by
  simp [VeCtx.active, maskBit, hmask, hneg]

/-- One bit of an MSTORE into its byte of the destination, unless an earlier one was out of range (R200, R205). -/
def VeCtx.storeBit (v : VeCtx) (r : EngMem × Option (Nat × Nat × Nat)) (e : Nat) : EngMem × Option (Nat × Nat × Nat) :=
  match r.2 with
  | some _ => r
  | none =>
    if v.active e then
      match rangeChk [packedRef 3 v.x.d e] with
      | some (c, o) => (r.1, some (c, o, e))
      | none => (r.1.setBit v.x.d e (maskBit v.masks (fieldOf v.x.param 0 3) e), none)
    else if v.x.mzero && v.x.d.ok 8 (e / 8) then (r.1.setBit v.x.d e false, none)
    else r

theorem VeCtx.storeBit_active {v : VeCtx} {e : Nat} (ha : v.active e = true) (hok : v.x.d.ok 8 (e / 8) = true) (m : EngMem) :
    v.storeBit (m, none) e = (m.setBit v.x.d e (maskBit v.masks (fieldOf v.x.param 0 3) e), none) := by
  have hchk : rangeChk [packedRef 3 v.x.d e] = none := by simp [rangeChk, packedRef, hok]
  simp only [VeCtx.storeBit, ha, if_true, hchk]

/-- Active bits that all lie in range are stored one after the other. -/
theorem VeCtx.foldl_storeBit {v : VeCtx} {es : List Nat} (h : ∀ e ∈ es, v.active e = true ∧ v.x.d.ok 8 (e / 8) = true) (m : EngMem) :
    es.foldl v.storeBit (m, none) =
      (es.foldl (fun m e => m.setBit v.x.d e (maskBit v.masks (fieldOf v.x.param 0 3) e)) m, none) := by
  refine List.foldl_rel (r := fun r m => r = (m, none)) rfl fun e he r m hr => ?_
  obtain ⟨ha, hok⟩ := h e he
  rw [hr, VeCtx.storeBit_active ha hok]

/-! ### The commands -/

section Commands

variable {s : State} {u : VeId} {i : Nat} {st : Step} {v : VeCtx} {bs : List Bool}

theorem cmp_writes (hx : s.veHead u.val = some (i, st, v.x)) (hop : v.x.op = 0x20)
    (hv : v = s.veCtx u.val st v.x (bitOf v.x.param 3))
    (hf : v.fine (fun x => (isF x.sfmt || x.sfmt == 6) && x.mdst ≠ 0 && fieldOf x.param 0 3 ≤ 5) (fun x => bitOf x.param 3) anyP)
    (hloop : maskLoop v (fun e => rangeChk (if bitOf v.x.param 3 then [v.refA e] else [v.refA e, v.refB e]))
      (fun e =>
        if v.x.sfmt = 6 then
          cmpU (fieldOf v.x.param 0 3) (v.rawA (s.engOf u.val) e) (if bitOf v.x.param 3 then v.sc.p else v.rawB (s.engOf u.val) e)
        else cmpF (fieldOf v.x.param 0 3) (v.fa (s.engOf u.val) e) (if bitOf v.x.param 3 then v.sc.s0 else v.fb (s.engOf u.val) e))
      (fun _ => false) (v.masks[ix 8 v.x.mdst]) = (bs, none)) :
    exec (.cmp u) s =
      .next ((s.setVe u.val fun x => { x with masks := vmod x.masks (ix 8 v.x.mdst) fun _ => bitsNat bs }).veNext u.val) := by
  show execCmp u s = _
  rw [execCmp, State.veFront_fine hx hop hv hf]
  dsimp only
  rw [hloop, State.maskEnd]

theorem mload_writes (hx : s.veHead u.val = some (i, st, v.x)) (hop : v.x.op = 0x22) (hv : v = s.veCtx u.val st v.x false)
    (hf : v.fine (fun x => x.mask == 0 && x.mdst ≠ 0) noScalar anyP)
    (hloop : maskLoop v (fun e => rangeChk [packedRef 0 v.x.a e]) (fun e => bitOf ((s.engOf u.val).elem v.x.a 8 (e / 8)) (e % 8))
      (fun e => !v.x.mzero && bitOf (v.masks[ix 8 v.x.mdst]) e) (v.masks[ix 8 v.x.mdst]) = (bs, none)) :
    exec (.mload u) s =
      .next ((s.setVe u.val fun x => { x with masks := vmod x.masks (ix 8 v.x.mdst) fun _ => bitsNat bs }).veNext u.val) := by
  show execMload u s = _
  rw [execMload, State.veFront_fine hx hop hv hf]
  dsimp only
  rw [hloop, State.maskEnd]

/-- The unused high bits of the last byte of `n` packed bits become 0 (R205). -/
def EngMem.clearPad (m : EngMem) (d : Opnd) (n : Nat) : EngMem :=
  (List.range ((8 - n % 8) % 8)).foldl (fun m k => m.setBit d (n + k) false) m

/-- An MSTORE whose checks pass, up to the loop over its bits. -/
theorem mstore_loop (hx : s.veHead u.val = some (i, st, v.x)) (hop : v.x.op = 0x23) (hv : v = s.veCtx u.val st v.x false)
    (hf : v.fine (fun _ => true) noScalar anyP) {r : EngMem × Option (Nat × Nat × Nat)}
    (hr : r = (List.range v.x.count).foldl v.storeBit (s.engOf u.val, none)) :
    exec (.mstore u) s =
      s.veEnd u.val i st (if r.2.isNone && v.x.d.ok 8 ((v.x.count - 1) / 8) then (r.1.clearPad v.x.d v.x.count, none) else r) := by
  subst hr
  show execMstore u s = _
  rw [execMstore, State.veFront_fine hx hop hv hf]
  rfl

/-- An unmasked MSTORE whose last byte lies in range: every bit before it does too, so all are stored. -/
theorem mstore_writes (hx : s.veHead u.val = some (i, st, v.x)) (hop : v.x.op = 0x23) (hv : v = s.veCtx u.val st v.x false)
    (hf : v.fine (fun _ => true) noScalar anyP) (hmask : v.x.mask = 0) (hneg : v.x.mneg = false)
    (hlast : v.x.d.ok 8 ((v.x.count - 1) / 8) = true) :
    exec (.mstore u) s = .next ((s.putEng u.val (((List.range v.x.count).foldl (fun m e =>
      m.setBit v.x.d e (maskBit v.masks (fieldOf v.x.param 0 3) e)) (s.engOf u.val)).clearPad v.x.d v.x.count)).veNext u.val) := by
  have hin : ∀ e ∈ List.range v.x.count, v.active e = true ∧ v.x.d.ok 8 (e / 8) = true := fun e he =>
    ⟨VeCtx.active_unmasked hmask hneg e,
      Opnd.ok_of_le hlast (Nat.div_le_div_right (Nat.le_pred_of_lt (List.mem_range.mp he)))⟩
  rw [mstore_loop hx hop hv hf rfl, VeCtx.foldl_storeBit hin, hlast]
  rfl

end Commands

/-- Settles O55, from one lemma for each command and the bits of a mask read back from its number. -/
theorem masksComputed : Obligations.MasksComputed :=
  ⟨fun _ _ _ _ _ _ hx hop hv hf hloop => cmp_writes hx hop hv hf hloop,
    fun _ _ _ _ _ _ hx hop hv hf hloop => mload_writes hx hop hv hf hloop,
    bitOf_bitsNat,
    fun _ _ _ _ _ hx hop hv hf hmask hneg hlast => mstore_writes hx hop hv hf hmask hneg hlast⟩

end Sys2Proof.Machine
end

section
/-! Waits on the tiers and their limits (R233, R234, R384). -/

namespace Sys2Proof.Machine

variable {s s0 t : State} {now wait : Nat} {w : TierWait}

theorem stallThreshold_counts (h0 : s0 = s.advanceTo now) (ha : s0.alive = true)
    (hw : s0.tiers.waits.find? (·.id == wait) = some w) (hc : w.counted = false) (hl : 2000 < w.length s0.now) :
    exec (.stallThreshold now wait) s = .next { s0 with tiers := { s0.tiers.countStall w.tier with
      waits := s0.tiers.waits.map fun (x : TierWait) => if x.id = wait then { x with counted := true } else x } } := by
  show execStallThreshold now wait s = _
  simp only [execStallThreshold, ← h0, hw, ha, hc, Nat.not_le.mpr hl, Bool.not_true, Bool.or_self, decide_false, Bool.false_eq_true,
    if_false]

theorem stallThreshold_short (h0 : s0 = s.advanceTo now) (hw : s0.tiers.waits.find? (·.id == wait) = some w)
    (hl : w.length s0.now ≤ 2000) : exec (.stallThreshold now wait) s = .next s0 := by
  show execStallThreshold now wait s = _
  simp only [execStallThreshold, ← h0, hw, hl, decide_true, Bool.or_true, if_true]

/-- The bytes that the abandoned write of a wait leaves to its page's frame (R234). -/
def State.lateOf (t : State) (w : TierWait) : List (Nat × Nat × Nat × Nat × List Byte) :=
  match w.page with
  | some (l, i, p) => if w.data.isEmpty || (t.tiers.frameOf l i p).isNone then [] else [(l, i, p, w.addr % 4096, w.data)]
  | none => []

/-- Only a write that waits for a page leaves bytes, and only where the page's frame is there. -/
theorem State.lateOf_eq {late : List (Nat × Nat × Nat × Nat × List Byte)} (hnone : w.page = none ∨ w.data = [] → late = [])
    (hsome : ∀ l i p, w.page = some (l, i, p) → w.data ≠ [] →
      late = if (t.tiers.frameOf l i p).isSome = true then [(l, i, p, w.addr % 4096, w.data)] else []) : t.lateOf w = late := by
  unfold State.lateOf
  split
  · rename_i l i p hp
    by_cases hd : w.data = []
    · rw [hnone (.inr hd), if_pos (by simp [hd])]
    · rw [hsome l i p hp hd]
      cases t.tiers.frameOf l i p <;> simp [hd]
  · rename_i hp
    exact (hnone (.inl hp)).symm

theorem tierStallLimit_abandons (h0 : s0 = s.advanceTo now) (ha : s0.alive = true)
    (hw : s0.tiers.waits.find? (·.id == wait) = some w) (hp : w.paused = none)
    (hl : (if w.tier = 3 then 100000 else 1000000) ≤ w.length s0.now) (ht : t = s0.closeWait w) :
    exec (.tierStallLimit now wait) s = .next (({ t with
      tiers := { t.tiers with stallLimits := t.tiers.stallLimits + 1, lateWrites := t.tiers.lateWrites ++ t.lateOf w,
                              partials := t.tiers.partials.filter (·.owner ≠ w.owner) }
      xlat := { t.xlat with reqs := t.xlat.reqs.map fun (r : HostReq) =>
        if r.owner = w.owner then { r with abandoned := true } else r } }).ownerError w.owner 0x52 0x13 w.tier w.pasid
        (if w.tier = 4 then w.addr / 4096 * 4096 else w.addr)) := by
  subst ht
  show execTierStallLimit now wait s = _
  simp only [execTierStallLimit, ← h0, hw, ha, hp, Nat.not_lt.mpr hl, Option.isSome_none, Bool.not_true, Bool.or_self, decide_false,
    Bool.false_eq_true, if_false]
  rfl

/-- Settles O42, from one lemma for each command and each side of its threshold. -/
theorem tierStalls : Obligations.TierStalls := by
  refine ⟨fun s s0 now wait w => stallThreshold_counts, ?_, fun s s0 now wait w => stallThreshold_short, fun w now => ⟨?_, ?_⟩⟩
  · intro s s0 t now wait w late h0 ha hw hp hl ht hnone hsome
    rw [tierStallLimit_abandons h0 ha hw hp hl ht, State.lateOf_eq hnone hsome]
  · intro hp
    rw [TierWait.length, hp, Option.getD_none]
  · intro p hp
    rw [TierWait.length, hp, Option.getD_some]

end Sys2Proof.Machine
end

section
/-! The staging cache's pool (R219, R220, R223, R226): what keeps its address lines well formed, and what a sector reads as after the
line of its block changes. -/

namespace Sys2Proof.Machine

/-! ### Well-formed pools -/

/-- The block of an address line. -/
def PoolEntry.block? : PoolEntry → Option Nat
  | .line b .. => some b
  | _ => none

/-- An address line holds 256 bytes, and its dirty sectors are valid. -/
def PoolEntry.fine : PoolEntry → Prop
  | .line _ v d data _ => data.length = 256 ∧ d &&& ~~~v = 0
  | _ => True

@[simp] theorem PoolEntry.block?_line (b : Nat) (v d : BitVec 4) (data : List Byte) (h : Hint) :
    (PoolEntry.line b v d data h).block? = some b := rfl
@[simp] theorem PoolEntry.block?_row (r : Nat) (t : LineTag) (bs : List Byte) (n : Nat) : (PoolEntry.row r t bs n).block? = none := rfl
@[simp] theorem PoolEntry.block?_frame (l i p : Nat) (d : BitVec 64) (bs : List Byte) (h : Hint) (z : Option Nat) :
    (PoolEntry.frame l i p d bs h z).block? = none := rfl
@[simp] theorem PoolEntry.fine_line (b : Nat) (v d : BitVec 4) (data : List Byte) (h : Hint) :
    (PoolEntry.line b v d data h).fine ↔ data.length = 256 ∧ d &&& ~~~v = 0 := Iff.rfl
@[simp] theorem PoolEntry.fine_row (r : Nat) (t : LineTag) (bs : List Byte) (n : Nat) : (PoolEntry.row r t bs n).fine := trivial
@[simp] theorem PoolEntry.fine_frame (l i p : Nat) (d : BitVec 64) (bs : List Byte) (h : Hint) (z : Option Nat) :
    (PoolEntry.frame l i p d bs h z).fine := trivial

theorem PoolEntry.isLine_eq (b : Nat) (e : PoolEntry) : e.isLine b = (e.block? == some b) := by
  cases e <;> simp [PoolEntry.isLine]

theorem PoolEntry.isLine_iff {b : Nat} {e : PoolEntry} : e.isLine b = true ↔ e.block? = some b := by
  rw [PoolEntry.isLine_eq, beq_iff_eq]

theorem PoolEntry.block?_of_isFrame {e : PoolEntry} {l i p : Nat} (h : e.isFrame l i p = true) : e.block? = none := by
  cases e with
  | frame => rfl
  | line | row => cases h

theorem PoolEntry.fine_of_block?_none {e : PoolEntry} (h : e.block? = none) : e.fine := by
  cases e with
  | line => cases h
  | row | frame => trivial

/-- A pool is well formed where its address lines are, and no two name one block. -/
theorem poolWf_iff {pool : List PoolEntry} :
    poolWf pool = true ↔ (∀ e ∈ pool, e.fine) ∧ (pool.filterMap PoolEntry.block?).Nodup := by
  have hblocks : (pool.filterMap PoolEntry.lineOf).map (·.1) = pool.filterMap PoolEntry.block? := by
    rw [List.map_filterMap]
    refine List.filterMap_congr fun e _ => ?_
    cases e <;> rfl
  have hfine (e : PoolEntry) : e.fine ↔ (∀ x, e.lineOf = some x → x.2 = 256) ∧ e.dirtyValid = true := by
    cases e <;> simp [PoolEntry.lineOf, PoolEntry.dirtyValid]
  simp only [poolWf, hblocks, Bool.and_eq_true, List.all_eq_true, decide_eq_true_eq, List.mem_filterMap, beq_iff_eq, hfine]
  constructor
  · rintro ⟨⟨hlen, hnd⟩, hdv⟩
    exact ⟨fun e he => ⟨fun x hx => hlen x ⟨e, he, hx⟩, hdv e he⟩, hnd⟩
  · rintro ⟨hf, hnd⟩
    exact ⟨⟨fun x ⟨e, he, hx⟩ => (hf e he).1 x hx, hnd⟩, fun e he => (hf e he).2⟩

theorem poolWf_fine {pool : List PoolEntry} (h : poolWf pool = true) {e : PoolEntry} (he : e ∈ pool) : e.fine :=
  (poolWf_iff.mp h).1 e he

theorem poolWf_nil : poolWf [] = true := rfl

/-- Entries that leave, or stand in another order, leave a well-formed pool. -/
theorem poolWf_subperm {pool l : List PoolEntry} (h : poolWf pool = true) (hl : l.Subperm pool) : poolWf l = true := by
  obtain ⟨hf, hnd⟩ := poolWf_iff.mp h
  exact poolWf_iff.mpr ⟨fun e he => hf e (hl.subset he), by
    obtain ⟨l', hperm, hsub⟩ := hl
    exact ((hperm.filterMap _).nodup_iff).mp (hnd.sublist (hsub.filterMap _))⟩

theorem poolWf_perm {pool l : List PoolEntry} (h : poolWf pool = true) (hl : l.Perm pool) : poolWf l = true :=
  poolWf_subperm h hl.subperm

theorem poolWf_filter {pool : List PoolEntry} (h : poolWf pool = true) (p : PoolEntry → Bool) : poolWf (pool.filter p) = true :=
  poolWf_subperm h List.filter_sublist.subperm

/-- Those that satisfy `p` first: the pool in another order. -/
theorem poolWf_front {pool : List PoolEntry} (h : poolWf pool = true) (p : PoolEntry → Bool) :
    poolWf (pool.filter p ++ pool.filter (!p ·)) = true :=
  poolWf_perm h (List.filter_append_perm p pool)

/-- A new entry that is no address line, or the line of a block that has none. -/
theorem poolWf_cons {pool : List PoolEntry} (h : poolWf pool = true) {e : PoolEntry} (he : e.fine)
    (hb : ∀ b, e.block? = some b → pool.any (·.isLine b) = false) : poolWf (e :: pool) = true := by
  obtain ⟨hf, hnd⟩ := poolWf_iff.mp h
  refine poolWf_iff.mpr ⟨List.forall_mem_cons.mpr ⟨he, hf⟩, ?_⟩
  cases hblock : e.block? with
  | none => rwa [List.filterMap_cons_none hblock]
  | some b =>
    rw [List.filterMap_cons_some hblock, List.nodup_cons]
    refine ⟨fun hmem => ?_, hnd⟩
    obtain ⟨x, hx, hxb⟩ := List.mem_filterMap.mp hmem
    exact absurd (PoolEntry.isLine_iff.mpr hxb) (List.any_eq_false.mp (hb b hblock) x hx)

theorem poolWf_append {pool : List PoolEntry} (h : poolWf pool = true) {e : PoolEntry} (he : e.fine)
    (hb : ∀ b, e.block? = some b → pool.any (·.isLine b) = false) : poolWf (pool ++ [e]) = true :=
  poolWf_perm (poolWf_cons h he hb) (List.perm_append_singleton e pool)

theorem poolWf_insert {pool : List PoolEntry} (h : poolWf pool = true) {e : PoolEntry} (he : e.fine)
    (hb : ∀ b, e.block? = some b → pool.any (·.isLine b) = false) (hint : Hint) : poolWf (poolInsert pool e hint) = true := by
  cases hint with
  | stream => exact poolWf_cons h he hb
  | keep | last => exact poolWf_append h he hb

/-- A change of entries that keeps every line's block and form. -/
theorem poolWf_map {pool : List PoolEntry} (h : poolWf pool = true) {f : PoolEntry → PoolEntry}
    (hb : ∀ e ∈ pool, (f e).block? = e.block?) (hf : ∀ e ∈ pool, e.fine → (f e).fine) : poolWf (pool.map f) = true := by
  obtain ⟨hfine, hnd⟩ := poolWf_iff.mp h
  refine poolWf_iff.mpr ⟨List.forall_mem_map.mpr fun e he => hf e he (hfine e he), ?_⟩
  have hsame : pool.filterMap (PoolEntry.block? ∘ f) = pool.filterMap PoolEntry.block? := List.filterMap_congr hb
  rwa [List.filterMap_map, hsame]

/-- A change of frames, or of other entries that are no address lines. -/
theorem poolWf_map_frames {pool : List PoolEntry} (h : poolWf pool = true) {f : PoolEntry → PoolEntry}
    (hf : ∀ e, f e = e ∨ (e.block? = none ∧ (f e).block? = none)) : poolWf (pool.map f) = true := by
  refine poolWf_map h (fun e _ => ?_) fun e _ he => ?_
  · rcases hf e with heq | ⟨h1, h2⟩
    · rw [heq]
    · rw [h1, h2]
  · rcases hf e with heq | ⟨-, h2⟩
    · rwa [heq]
    · exact PoolEntry.fine_of_block?_none h2

/-! ### The first entry of a kind -/

theorem removeFirst_some {α : Type} {p : α → Bool} {l r : List α} {x : α} (h : removeFirst p l = some (x, r)) :
    p x = true ∧ ∃ a b, l = a ++ x :: b ∧ r = a ++ b ∧ ∀ y ∈ a, p y = false := by
  induction l generalizing r with
  | nil => cases h
  | cons y l ih =>
    rw [removeFirst] at h
    split at h
    · rename_i hy
      cases h
      exact ⟨hy, [], l, rfl, rfl, by simp⟩
    · rename_i hy
      obtain ⟨⟨x', r'⟩, hr, heq⟩ := Option.map_eq_some_iff.mp h
      cases heq
      obtain ⟨hx, a, b, rfl, rfl, ha⟩ := ih hr
      exact ⟨hx, y :: a, b, rfl, rfl, List.forall_mem_cons.mpr ⟨Bool.eq_false_iff.mpr hy, ha⟩⟩

theorem removeFirst_split {α : Type} {p : α → Bool} {a b : List α} {x : α} (hx : p x = true) (ha : ∀ y ∈ a, p y = false) :
    removeFirst p (a ++ x :: b) = some (x, a ++ b) := by
  induction a with
  | nil => simp [removeFirst, hx]
  | cons y a ih =>
    obtain ⟨hy, ha⟩ := List.forall_mem_cons.mp ha
    simp [removeFirst, hy, ih ha]

theorem removeFirst_perm {α : Type} {p : α → Bool} {l r : List α} {x : α} (h : removeFirst p l = some (x, r)) :
    (x :: r).Perm l := by
  obtain ⟨-, a, b, rfl, rfl, -⟩ := removeFirst_some h
  exact List.perm_middle.symm

theorem poolWf_rest {pool r : List PoolEntry} {p : PoolEntry → Bool} {e : PoolEntry} (h : poolWf pool = true)
    (hr : removeFirst p pool = some (e, r)) : poolWf r = true :=
  poolWf_subperm h ((List.sublist_cons_self e r).subperm.trans (removeFirst_perm hr).subperm)

/-- An entry that moves to the newest position. -/
theorem poolWf_newest {pool r : List PoolEntry} {p : PoolEntry → Bool} {e : PoolEntry} (h : poolWf pool = true)
    (hr : removeFirst p pool = some (e, r)) : poolWf (r ++ [e]) = true :=
  poolWf_perm h ((List.perm_append_singleton e r).trans (removeFirst_perm hr))

/-! ### The line of a block -/

theorem find?_isLine_iff {pool : List PoolEntry} (h : poolWf pool = true) {b : Nat} {e : PoolEntry} :
    pool.find? (·.isLine b) = some e ↔ e ∈ pool ∧ e.block? = some b := by
  refine ⟨fun hfind => ⟨List.mem_of_find?_eq_some hfind, PoolEntry.isLine_iff.mp (List.find?_some hfind)⟩, fun ⟨hmem, hb⟩ => ?_⟩
  obtain ⟨l, r, rfl⟩ := List.append_of_mem hmem
  obtain ⟨-, hnd⟩ := poolWf_iff.mp h
  rw [List.filterMap_append, List.filterMap_cons_some hb, List.nodup_append] at hnd
  have hnone : ∀ x ∈ l, ¬x.isLine b = true := fun x hx hline =>
    hnd.2.2 b (List.mem_filterMap.mpr ⟨x, hx, PoolEntry.isLine_iff.mp hline⟩) b (List.mem_cons_self ..) rfl
  rw [List.find?_append, List.find?_eq_none.mpr hnone, Option.none_or,
    List.find?_cons_of_pos (PoolEntry.isLine_iff.mpr hb)]

/-- Which line a block has does not depend on the order of the pool. -/
theorem find?_isLine_perm {pool l : List PoolEntry} (h : poolWf pool = true) (hl : l.Perm pool) (b : Nat) :
    l.find? (·.isLine b) = pool.find? (·.isLine b) := by
  refine Option.ext fun e => ?_
  rw [find?_isLine_iff (poolWf_perm h hl), find?_isLine_iff h, hl.mem_iff]

theorem Tiers.find?_onLine (t : Tiers) (b k : Nat) {f : PoolEntry → PoolEntry} (hf : ∀ e, (f e).block? = e.block?) :
    (t.onLine b f).pool.find? (·.isLine k) =
      (t.pool.find? (·.isLine k)).map fun e => if e.isLine b = true then f e else e := by
  have hline : ∀ e : PoolEntry, (if e.isLine b = true then f e else e).isLine k = e.isLine k := fun e => by
    split <;> simp [PoolEntry.isLine_eq, hf]
  simp only [Tiers.onLine, List.find?_map, Function.comp_def, hline]

theorem poolWf_onLine {t : Tiers} (h : poolWf t.pool = true) (b : Nat) {f : PoolEntry → PoolEntry}
    (hb : ∀ e, (f e).block? = e.block?) (hf : ∀ e, e.fine → (f e).fine) : poolWf (t.onLine b f).pool = true := by
  refine poolWf_map h (fun e _ => ?_) fun e _ he => ?_ <;> split
  · exact hb e
  · rfl
  · exact hf e he
  · exact he

/-! ### Sectors -/

@[simp] theorem PoolEntry.block?_setSector (i : Nat) (sec : List Byte) (dirty : Bool) (e : PoolEntry) :
    (e.setSector i sec dirty).block? = e.block? := by
  cases e <;> rfl

theorem putSector_length {data sec : List Byte} {i : Nat} (hd : data.length = 256) (hs : sec.length = 64) (hi : i < 4) :
    (putSector data i sec).length = 256 := by
  simp only [putSector, List.length_append, List.length_take, List.length_drop, hd, hs]
  omega

theorem putSector_same {data sec : List Byte} {i : Nat} (hd : data.length = 256) (hs : sec.length = 64) (hi : i < 4) :
    ((putSector data i sec).drop (64 * i)).take 64 = sec := by
  have hlen : (data.take (64 * i)).length = 64 * i := by
    rw [List.length_take, hd]
    omega
  rw [putSector, List.append_assoc, List.drop_append_of_le_length (Nat.le_of_eq hlen.symm),
    List.drop_eq_nil_of_le (Nat.le_of_eq hlen), List.nil_append, ← hs, List.take_left]

theorem putSector_other {data sec : List Byte} {i j : Nat} (hd : data.length = 256) (hs : sec.length = 64) (hi : i < 4) (hij : j ≠ i) :
    ((putSector data i sec).drop (64 * j)).take 64 = (data.drop (64 * j)).take 64 := by
  refine List.ext_getElem? fun n => ?_
  simp only [List.getElem?_take, List.getElem?_drop, putSector, List.getElem?_append, List.length_append, List.length_take, hd, hs]
  split
  · rename_i hn
    have hmin : min (64 * i) 256 = 64 * i := by omega
    rw [hmin]
    rcases Nat.lt_or_gt_of_ne hij with h | h
    · rw [if_pos (by omega), if_pos (by omega), if_pos (by omega)]
    · rw [if_neg (by omega)]
      congr 1
      omega
  · rfl

/-- A filled or written sector keeps a line's form. -/
theorem PoolEntry.fine_setSector {e : PoolEntry} {i : Nat} {sec : List Byte} (dirty : Bool) (h : e.fine) (hs : sec.length = 64) (hi : i < 4) :
    (e.setSector i sec dirty).fine := by
  cases e with
  | row | frame => trivial
  | line b v d data hint =>
    obtain ⟨hd, hv⟩ := h
    refine ⟨putSector_length hd hs hi, ?_⟩
    have hv' : ∀ k < 4, d.getLsbD k = true → v.getLsbD k = true := fun k hk hdk => by
      have := congrArg (·.getLsbD k) hv
      simpa [hdk, hk] using this
    refine BitVec.eq_of_getLsbD_eq fun k hk => ?_
    cases dirty
    all_goals
      have := hv' k hk
      simp [hk]
      grind

theorem Tiers.sector_of_line {t : Tiers} {g b : Nat} {v d : BitVec 4} {data : List Byte} {h : Hint}
    (hline : t.pool.find? (·.isLine (g / 4)) = some (.line b v d data h)) :
    t.sector g = if v.getLsbD (g % 4) = true then some ((data.drop (64 * (g % 4))).take 64) else none := by
  rw [Tiers.sector, hline]

theorem Tiers.sector_of_none {t : Tiers} {g : Nat} (h : t.pool.find? (·.isLine (g / 4)) = none) : t.sector g = none := by
  rw [Tiers.sector, h]

/-- A sector reads alike in pools whose lines are alike. -/
theorem Tiers.sector_congr {t u : Tiers} {g : Nat}
    (h : t.pool.find? (·.isLine (g / 4)) = u.pool.find? (·.isLine (g / 4))) : t.sector g = u.sector g := by
  rw [Tiers.sector, Tiers.sector, h]

theorem find?_isLine_shape {pool : List PoolEntry} {b : Nat} {e : PoolEntry} (h : pool.find? (·.isLine b) = some e) :
    ∃ v d data hint, e = .line b v d data hint := by
  have hb : e.block? = some b := PoolEntry.isLine_iff.mp (List.find?_some h)
  cases e with
  | line c v d data hint =>
    cases hb
    exact ⟨v, d, data, hint, rfl⟩
  | row | frame => cases hb

theorem Tiers.sector_length {t : Tiers} {g : Nat} {sec : List Byte} (h : poolWf t.pool = true) (hs : t.sector g = some sec) :
    sec.length = 64 := by
  cases hline : t.pool.find? (·.isLine (g / 4)) with
  | none => rw [Tiers.sector_of_none hline] at hs; cases hs
  | some e =>
    obtain ⟨v, d, data, hint, rfl⟩ := find?_isLine_shape hline
    obtain ⟨hlen, -⟩ := poolWf_fine h (List.mem_of_find?_eq_some hline)
    rw [Tiers.sector_of_line hline] at hs
    split at hs
    · cases hs
      rw [List.length_take, List.length_drop, hlen]
      omega
    · cases hs

/-- The sectors of a pool after one of a present line is filled or written. -/
theorem Tiers.sector_setSector {t : Tiers} {g : Nat} {sec : List Byte} (h : poolWf t.pool = true)
    (hp : t.pool.any (·.isLine (g / 4)) = true) (hs : sec.length = 64) (dirty : Bool) (k : Nat) :
    (t.onLine (g / 4) (PoolEntry.setSector (g % 4) sec dirty)).sector k = if k = g then some sec else t.sector k := by
  have hfind := t.find?_onLine (g / 4) (k / 4) (f := PoolEntry.setSector (g % 4) sec dirty) fun e => e.block?_setSector ..
  by_cases hblock : k / 4 = g / 4
  · cases hline : t.pool.find? (·.isLine (k / 4)) with
    | none =>
      rw [hblock] at hline
      exact absurd (List.find?_eq_none.mp hline) (by simpa using hp)
    | some e =>
      obtain ⟨v, d, data, hint, rfl⟩ := find?_isLine_shape hline
      obtain ⟨hlen, -⟩ := poolWf_fine h (List.mem_of_find?_eq_some hline)
      have hi : g % 4 < 4 := Nat.mod_lt _ (by decide)
      rw [hline, Option.map_some, if_pos (by simp [PoolEntry.isLine, hblock]), PoolEntry.setSector] at hfind
      rw [Tiers.sector_of_line hfind]
      by_cases hk : k = g
      · subst hk
        rw [if_pos (by simp [hi]), if_pos rfl, putSector_same hlen hs hi]
      · have hmod : k % 4 ≠ g % 4 := by omega
        rw [if_neg hk, Tiers.sector_of_line hline, putSector_other hlen hs hi hmod]
        simp [Ne.symm hmod]
  · have hk : k ≠ g := fun hk => hblock (hk ▸ rfl)
    rw [if_neg hk]
    refine Tiers.sector_congr (hfind.trans ?_)
    cases hline : t.pool.find? (·.isLine (k / 4)) with
    | none => rfl
    | some e =>
      obtain ⟨v, d, data, hint, rfl⟩ := find?_isLine_shape hline
      rw [Option.map_some, if_neg (by simpa [PoolEntry.isLine] using hblock)]

end Sys2Proof.Machine
end

section
/-! What an access does at its controller (R27, R218, R220, R233, R241 to R245, R251): the fields that it leaves, and what device memory
shows afterwards. -/

namespace Sys2Proof.Machine

/-! ### Errors -/

theorem State.halt_only (s : State) (d : Detected) : ∃ q x, s.halt d = { s with queues := q, slots := x } := by
  unfold State.halt
  split
  · exact ⟨s.queues, s.slots, rfl⟩
  · dsimp only
    split <;> split <;> (try split) <;> exact ⟨_, _, rfl⟩

/-- A corrected error whose record is not held stops nothing (R382, R439). -/
theorem State.halt_corrected {s : State} {d : Detected} (hc : d.cls = 0) (hh : s.heldError d = false) : s.halt d = s := by
  rw [State.halt, hc, hh]
  rfl

theorem State.detect_only (s : State) (d : Detected) :
    ∃ q x r e, s.detect d = { s with queues := q, slots := x, recorder := r, err := e } := by
  unfold State.detect
  dsimp only
  split
  · obtain ⟨r, e, h⟩ := s.raiseFatal_only 6 d.frec
    exact ⟨s.queues, s.slots, r, e, h⟩
  · obtain ⟨q, x, h⟩ := s.halt_only { d with at' := (s.pkg.elapsed, s.pkg.seamCount) }
    rw [h]
    exact ⟨q, x, s.recorder, _, rfl⟩

theorem State.detect_corrected {s : State} {d : Detected} (hc : d.cls = 0) (hh : s.heldError d = false) :
    (s.detect d).queues = s.queues ∧ (s.detect d).slots = s.slots := by
  have hhalt : s.halt { d with at' := (s.pkg.elapsed, s.pkg.seamCount) } = s := State.halt_corrected hc hh
  rw [State.detect, if_neg (by simp [hc]), hhalt]
  exact ⟨rfl, rfl⟩

/-! ### Controllers -/

theorem State.reach_only (s : State) (g : Nat) : ∃ r w x y, s.reach g =
    { s with regions := r, tiers := { s.tiers with writing := w, stalls := x, stallTime := y } } := by
  unfold State.reach
  dsimp only
  split <;> exact ⟨_, _, _, _, rfl⟩

theorem State.admitGran_only (s : State) (unit : Bool) (g : Nat) : ∃ k x y, s.admitGran unit g =
    { s with hbm := { s.hbm with stk := k }, tiers := { s.tiers with stalls := x, stallTime := y } } := by
  unfold State.admitGran
  dsimp only
  split
  · exact ⟨_, _, _, rfl⟩
  · split <;> exact ⟨_, _, _, rfl⟩

/-- An admission leaves a stack's counts of errors. -/
theorem State.admitGran_stack (s : State) (unit : Bool) (g : Nat) (r : Fin 8) :
    ∃ l, (s.admitGran unit g).hbm.stk[r] = { s.hbm.stk[r] with traffic := l } := by
  have hset (f : List (Nat × Nat)) : ∃ l,
      (vmod s.hbm.stk (ix 8 (Config.regionOf (64 * g))) fun k => { k with traffic := f })[r] = { s.hbm.stk[r] with traffic := l } := by
    rw [vmod_get]
    split
    · exact ⟨f, rfl⟩
    · exact ⟨_, rfl⟩
  unfold State.admitGran
  dsimp only
  split
  · exact ⟨_, rfl⟩
  · split <;> exact hset _

variable (s : State)

@[simp] theorem State.reach_hbm (g : Nat) : (s.reach g).hbm = s.hbm := by
  obtain ⟨r, w, x, y, h⟩ := s.reach_only g
  rw [h]
@[simp] theorem State.reach_pool (g : Nat) : (s.reach g).tiers.pool = s.tiers.pool := by
  obtain ⟨r, w, x, y, h⟩ := s.reach_only g
  rw [h]
@[simp] theorem State.reach_cxl (g : Nat) : (s.reach g).cxl = s.cxl := by
  obtain ⟨r, w, x, y, h⟩ := s.reach_only g
  rw [h]
@[simp] theorem State.admitGran_pool (u : Bool) (g : Nat) : (s.admitGran u g).tiers.pool = s.tiers.pool := by
  obtain ⟨l, x, y, h⟩ := s.admitGran_only u g
  rw [h]
@[simp] theorem State.admitGran_mem (u : Bool) (g : Nat) : (s.admitGran u g).hbm.mem = s.hbm.mem := by
  obtain ⟨l, x, y, h⟩ := s.admitGran_only u g
  rw [h]
@[simp] theorem State.admitGran_poison (u : Bool) (g : Nat) : (s.admitGran u g).hbm.poison = s.hbm.poison := by
  obtain ⟨l, x, y, h⟩ := s.admitGran_only u g
  rw [h]
@[simp] theorem State.admitGran_latent (u : Bool) (g : Nat) : (s.admitGran u g).hbm.latent = s.hbm.latent := by
  obtain ⟨l, x, y, h⟩ := s.admitGran_only u g
  rw [h]
@[simp] theorem State.admitGran_decode (u : Bool) (g k : Nat) : (s.admitGran u g).hbm.decode k = s.hbm.decode k := by
  rw [Hbm.decode, State.admitGran_latent]; rfl
@[simp] theorem Hbm.clearGran_mem (h : Hbm) (g : Nat) : (h.clearGran g).mem = h.mem := by
  unfold Hbm.clearGran; split <;> rfl
@[simp] theorem Hbm.putGran_mem (h : Hbm) (g : Nat) (data : List Byte) : (h.putGran g data).mem = memWrite h.mem (64 * g) data := by
  rw [Hbm.putGran]; simp
@[simp] theorem State.putStack_mem (u : Bool) (g : Nat) (data : List Byte) :
    (s.putStack u g data).hbm.mem = memWrite s.hbm.mem (64 * g) data := by
  simp [State.putStack]
@[simp] theorem State.putStack_pool (u : Bool) (g : Nat) (data : List Byte) : (s.putStack u g data).tiers.pool = s.tiers.pool :=
  s.admitGran_pool u g

/-- The counts of a corrected read, before its page's record (R241). -/
def State.countCorrected (s : State) (dpa n : Nat) : State :=
  let old := ((s.hbm.weak.find? (·.1 == dpa / 4096)).map (·.2)).getD 0
  let s := s.setStack (Config.regionOf dpa) fun k => { k with corrected := k.corrected + n }
  { s with hbm := { s.hbm with weak := (dpa / 4096, old + n) :: s.hbm.weak.filter (·.1 != dpa / 4096) } }

/-- The counts of the read that makes its page weak (R242). -/
def State.countWeak (s : State) (dpa n : Nat) : State :=
  (s.countCorrected dpa n).setStack (Config.regionOf dpa) fun k => { k with pagesWeak := k.pagesWeak + 1 }

/-- The record of a page's sixteenth corrected error, which names the agent (R242, R384). -/
def State.weakPage (s : State) (ag : Agent) (dpa : Nat) : Detected :=
  let r := { s.agentRec ag 0x40 0 with address := dpa / 4096 * 4096, region := Config.regionOf dpa }
  { cls := 0, frec := some r, job := ag.job, slot := ag.slot, ctx := ag.ctx, event := some { code := 0x20, payload := r.bytes } }

theorem State.corrected_eq (ag : Agent) (dpa n : Nat) : s.corrected ag dpa n = s.countCorrected dpa n ∨
    s.corrected ag dpa n = (s.countWeak dpa n).detect ((s.countWeak dpa n).weakPage ag dpa) := by
  unfold State.corrected
  dsimp only
  split
  · exact .inr rfl
  · exact .inl rfl

theorem State.countWeak_only (dpa n : Nat) : ∃ k w, s.countWeak dpa n = { s with hbm := { s.hbm with stk := k, weak := w } } :=
  ⟨_, _, rfl⟩

/-- A corrected read changes counts, and what its error's record concerns (R241, R242). -/
theorem State.corrected_only (ag : Agent) (dpa n : Nat) : ∃ k w q x r e, s.corrected ag dpa n =
    { s with hbm := { s.hbm with stk := k, weak := w }, queues := q, slots := x, recorder := r, err := e } := by
  rcases s.corrected_eq ag dpa n with h | h
  · exact ⟨_, _, s.queues, s.slots, s.recorder, s.err, h⟩
  · obtain ⟨k, w, hw⟩ := s.countWeak_only dpa n
    obtain ⟨q, x, r, e, hd⟩ := (s.countWeak dpa n).detect_only ((s.countWeak dpa n).weakPage ag dpa)
    exact ⟨k, w, q, x, r, e, by rw [h, hd, hw]⟩

theorem State.stk_setStack_same (r : Nat) (f : Stack → Stack) : (s.setStack r f).hbm.stk[ix 8 r] = f (s.hbm.stk[ix 8 r]) :=
  vmod_get_same ..

theorem State.countCorrected_stk (dpa n : Nat) : (s.countCorrected dpa n).hbm.stk[ix 8 (Config.regionOf dpa)] =
    { s.hbm.stk[ix 8 (Config.regionOf dpa)] with corrected := (s.hbm.stk[ix 8 (Config.regionOf dpa)]).corrected + n } :=
  s.stk_setStack_same _ _

/-- A corrected read counts its errors in its region's stack, and no error of another kind. -/
theorem State.corrected_stk (ag : Agent) (dpa n : Nat) : ∃ p, (s.corrected ag dpa n).hbm.stk[ix 8 (Config.regionOf dpa)] =
    { s.hbm.stk[ix 8 (Config.regionOf dpa)] with
      corrected := (s.hbm.stk[ix 8 (Config.regionOf dpa)]).corrected + n, pagesWeak := p } := by
  rcases s.corrected_eq ag dpa n with h | h <;> rw [h]
  · exact ⟨_, s.countCorrected_stk dpa n⟩
  · obtain ⟨q, x, r, e, hd⟩ := (s.countWeak dpa n).detect_only ((s.countWeak dpa n).weakPage ag dpa)
    rw [hd]
    exact ⟨_, ((s.countCorrected dpa n).stk_setStack_same _ _).trans (by rw [s.countCorrected_stk])⟩

/-- A corrected error of a unit that no full fault queue holds up leaves queues and slots. -/
theorem State.corrected_jobs (ag : Agent) (dpa n : Nat) (h : ag.kind ≠ 6 ∨ s.fqEnabled = false ∨ s.fqFull = false) :
    (s.corrected ag dpa n).queues = s.queues ∧ (s.corrected ag dpa n).slots = s.slots := by
  rcases s.corrected_eq ag dpa n with hc | hc <;> rw [hc]
  · exact ⟨rfl, rfl⟩
  · refine State.detect_corrected rfl ?_
    have hkind (u : State) : (u.agentRec ag 0x40 0).unitKind = ag.kind := by
      simp only [State.agentRec]
      split <;> split <;> rfl
    have hheld : (ag.kind == 6 && s.fqEnabled && s.fqFull) = false := by
      rcases h with h | h | h <;> simp [h]
    simp only [State.heldError, State.weakPage, Option.map_some, Option.getD_some, Bool.not_false, Bool.true_and]
    refine Eq.trans ?_ hheld
    exact congrArg (· == 6 && s.fqEnabled && s.fqFull) (hkind _)

end Sys2Proof.Machine
end

section
/-! Accesses (R218, R220, R240 to R245): how one runs, what a granule reads as, and what reads and writes of device memory do with the bytes
that the coherence point shows. -/

namespace Sys2Proof.Machine

/-! ### Running an access -/

section Run

variable {α β : Type}

@[simp] theorem Acc.go_pure (a : α) (s : State) : Acc.go (pure a) s = (.ok a, s) := rfl
@[simp] theorem Acc.go_throw (f : AccFail) (s : State) : Acc.go (throw f : Acc α) s = (.error f, s) := rfl
@[simp] theorem Acc.go_get (s : State) : Acc.go get s = (.ok s, s) := rfl
@[simp] theorem Acc.go_set (t s : State) : Acc.go (set t) s = (.ok (), t) := rfl
@[simp] theorem Acc.go_modify (f : State → State) (s : State) : Acc.go (modify f) s = (.ok (), f s) := rfl

theorem Acc.go_bind (m : Acc α) (k : α → Acc β) (s : State) : Acc.go (m >>= k) s =
    match m.go s with
    | (.ok a, t) => (k a).go t
    | (.error f, t) => (.error f, t) := by
  rcases h : m.go s with ⟨_ | a, t⟩ <;> exact (congrArg (fun p => (ExceptT.bindCont k p.1).run p.2) h).trans rfl

theorem Acc.go_bind_ok {m : Acc α} {k : α → Acc β} {s t : State} {a : α} (h : m.go s = (.ok a, t)) :
    Acc.go (m >>= k) s = (k a).go t := by
  rw [Acc.go_bind, h]

theorem Acc.go_bind_error {m : Acc α} {k : α → Acc β} {s t : State} {f : AccFail} (h : m.go s = (.error f, t)) :
    Acc.go (m >>= k) s = (.error f, t) := by
  rw [Acc.go_bind, h]

/-- Where a sequence ends, its first part has ended, and the rest from there. -/
theorem Acc.of_go_bind_ok {m : Acc α} {k : α → Acc β} {s t : State} {b : β} (h : Acc.go (m >>= k) s = (.ok b, t)) :
    ∃ a u, m.go s = (.ok a, u) ∧ (k a).go u = (.ok b, t) := by
  rcases hm : m.go s with ⟨f | a, u⟩
  · rw [Acc.go_bind_error hm] at h
    cases h
  · exact ⟨a, u, rfl, (Acc.go_bind_ok hm).symm.trans h⟩

theorem Acc.go_tryCatch (m : Acc α) (k : AccFail → Acc α) (s : State) : Acc.go (tryCatch m k) s =
    match m.go s with
    | (.ok a, t) => (.ok a, t)
    | (.error f, t) => (k f).go t := by
  rw [Acc.go, ExceptT.run_tryCatch, StateT.run_bind, Acc.go]
  rcases StateT.run (ExceptT.run m) s with ⟨_ | a, t⟩ <;> rfl

/-- A loop over a list whose rounds have no value. -/
theorem Acc.go_forIn_cons (f : β → Acc PUnit) (x : β) (l : List β) (s : State) :
    Acc.go (forIn (x :: l) PUnit.unit fun a _ => do f a; pure (.yield PUnit.unit)) s =
      Acc.go (f x >>= fun _ => forIn l PUnit.unit fun a _ => do f a; pure (.yield PUnit.unit)) s := by
  simp

end Run

/-! ### Granules at the coherence point -/

/-- A granule's bytes as the coherence point shows them (R218). -/
def State.gran (s : State) (g : Nat) : List Byte := (s.tiers.sector g).getD (memRead s.hbm.mem (64 * g) 64)

theorem State.gran_of_sector {s : State} {g : Nat} {d : List Byte} (h : s.tiers.sector g = some d) : s.gran g = d := by
  rw [State.gran, h, Option.getD_some]

theorem State.gran_of_none {s : State} {g : Nat} (h : s.tiers.sector g = none) : s.gran g = memRead s.hbm.mem (64 * g) 64 := by
  rw [State.gran, h, Option.getD_none]

theorem State.gran_length {s : State} (h : s.poolOk) (g : Nat) : (s.gran g).length = 64 := by
  cases hs : s.tiers.sector g with
  | none => rw [State.gran_of_none hs, memRead_length]
  | some d => rw [State.gran_of_sector hs, Tiers.sector_length h hs]

theorem State.byteAt_eq (s : State) (a : Nat) : s.byteAt a = (s.gran (a / 64)).getD (a % 64) 0 := by
  unfold State.byteAt
  split
  · rename_i d hs
    rw [State.gran_of_sector hs]
  · rename_i hs
    have hmod : a % 64 < 64 := Nat.mod_lt _ (by decide)
    rw [State.gran_of_none hs, List.getD_eq_getElem _ _ (by simpa using hmod)]
    simp [memRead, Nat.div_add_mod]

/-- A granule reads alike where its sector and memory are alike. -/
theorem State.gran_congr {s t : State} {g : Nat} (hs : t.tiers.sector g = s.tiers.sector g)
    (hm : memRead t.hbm.mem (64 * g) 64 = memRead s.hbm.mem (64 * g) 64) : t.gran g = s.gran g := by
  rw [State.gran, State.gran, hs, hm]

theorem State.gran_same {s t : State} (hp : t.tiers.pool = s.tiers.pool) (hm : t.hbm.mem = s.hbm.mem) (g : Nat) : t.gran g = s.gran g :=
  State.gran_congr (Tiers.sector_congr (by rw [hp])) (by rw [hm])

theorem State.byteAt_same {s t : State} (h : ∀ g, t.gran g = s.gran g) (a : Nat) : t.byteAt a = s.byteAt a := by
  rw [State.byteAt_eq, State.byteAt_eq, h]

/-- A present sector is filled or written. -/
theorem State.gran_onLine {s t : State} {g : Nat} {sec : List Byte} {dirty : Bool} (h : s.poolOk)
    (hp : s.tiers.pool.any (·.isLine (g / 4)) = true) (hs : sec.length = 64)
    (ht : t.tiers.pool = (s.tiers.onLine (g / 4) (PoolEntry.setSector (g % 4) sec dirty)).pool) (hm : t.hbm.mem = s.hbm.mem) (k : Nat) :
    t.gran k = if k = g then sec else s.gran k := by
  have hsec : t.tiers.sector k = if k = g then some sec else s.tiers.sector k :=
    (Tiers.sector_congr (by rw [ht])).trans (Tiers.sector_setSector h hp hs dirty k)
  by_cases hk : k = g
  · rw [if_pos hk] at hsec ⊢
    exact State.gran_of_sector hsec
  · rw [if_neg hk] at hsec ⊢
    exact State.gran_congr hsec (by rw [hm])

/-- A granule that is no present sector is written whole to its stack. -/
theorem State.gran_memWrite {s t : State} {g : Nat} {data : List Byte} (h : s.memOk) (hs : s.tiers.sector g = none)
    (hd : data.length = 64) (hp : t.tiers.pool = s.tiers.pool) (hm : t.hbm.mem = memWrite s.hbm.mem (64 * g) data) (k : Nat) :
    t.gran k = if k = g then data else s.gran k := by
  have hsec (k : Nat) : t.tiers.sector k = s.tiers.sector k := Tiers.sector_congr (by rw [hp])
  by_cases hk : k = g
  · have hread : memRead (memWrite s.hbm.mem (64 * g) data) (64 * g) 64 = data := hd ▸ memRead_memWrite _ _ h
    rw [if_pos hk, hk, State.gran_of_none ((hsec g).trans hs), hm, hread]
  · rw [if_neg hk]
    refine State.gran_congr (hsec k) ?_
    rw [hm, memRead_memWrite_out h (by omega)]

/-! ### What an access of an agent leaves -/

/-- Contexts, registers and the fabric's state stay; queues and slots too, but where the fault queue takes up an error (R382). -/
structure State.LeftBy (ag : Agent) (s t : State) : Prop where
  ctxs : t.ctxs = s.ctxs
  regs : t.regs = s.regs
  fab : t.fab = s.fab
  jobs : ag.kind ≠ 6 ∨ s.fqEnabled = false ∨ s.fqFull = false → t.queues = s.queues ∧ t.slots = s.slots

variable {ag : Agent} {s t u : State} {g : Nat}

theorem State.LeftBy.refl : s.LeftBy ag s := ⟨rfl, rfl, rfl, fun _ => ⟨rfl, rfl⟩⟩

theorem State.LeftBy.trans (h1 : s.LeftBy ag t) (h2 : t.LeftBy ag u) : s.LeftBy ag u := by
  refine ⟨h2.ctxs.trans h1.ctxs, h2.regs.trans h1.regs, h2.fab.trans h1.fab, fun h => ?_⟩
  obtain ⟨hq, hx⟩ := h1.jobs h
  obtain ⟨hq2, hx2⟩ := h2.jobs (by simpa only [State.fqEnabled, State.fqFull, h1.regs] using h)
  exact ⟨hq2.trans hq, hx2.trans hx⟩

/-- A read of device memory: what memory and the staging cache hold stays too. -/
structure State.ReadBy (ag : Agent) (s t : State) : Prop extends s.LeftBy ag t where
  mem : t.hbm.mem = s.hbm.mem
  pool : t.tiers.pool = s.tiers.pool

theorem State.ReadBy.refl : s.ReadBy ag s := ⟨.refl, rfl, rfl⟩

theorem State.ReadBy.trans (h1 : s.ReadBy ag t) (h2 : t.ReadBy ag u) : s.ReadBy ag u :=
  ⟨h1.toLeftBy.trans h2.toLeftBy, h2.mem.trans h1.mem, h2.pool.trans h1.pool⟩

theorem State.ReadBy.sector (h : s.ReadBy ag t) (g : Nat) : t.tiers.sector g = s.tiers.sector g := Tiers.sector_congr (by rw [h.pool])

theorem State.reach_readBy (s : State) (ag : Agent) (g : Nat) : s.ReadBy ag (s.reach g) := by
  obtain ⟨r, w, x, y, h⟩ := s.reach_only g
  rw [h]
  exact ⟨⟨rfl, rfl, rfl, fun _ => ⟨rfl, rfl⟩⟩, rfl, rfl⟩

theorem State.admitGran_readBy (s : State) (ag : Agent) (unit : Bool) (g : Nat) : s.ReadBy ag (s.admitGran unit g) := by
  obtain ⟨k, x, y, h⟩ := s.admitGran_only unit g
  rw [h]
  exact ⟨⟨rfl, rfl, rfl, fun _ => ⟨rfl, rfl⟩⟩, rfl, rfl⟩

theorem State.setStack_readBy (s : State) (ag : Agent) (r : Nat) (f : Stack → Stack) : s.ReadBy ag (s.setStack r f) :=
  ⟨⟨rfl, rfl, rfl, fun _ => ⟨rfl, rfl⟩⟩, rfl, rfl⟩

/-- What is noted of memory besides its bytes. -/
theorem State.withHbm_readBy (s : State) (ag : Agent) {h : Hbm} (hm : h.mem = s.hbm.mem) : s.ReadBy ag { s with hbm := h } :=
  ⟨⟨rfl, rfl, rfl, fun _ => ⟨rfl, rfl⟩⟩, hm, rfl⟩

theorem State.spend_readBy (s : State) (ag : Agent) (g : Nat) : s.ReadBy ag { s with hbm := s.hbm.spend g } :=
  s.withHbm_readBy ag rfl

theorem State.corrected_readBy (s : State) (ag : Agent) (dpa n : Nat) : s.ReadBy ag (s.corrected ag dpa n) := by
  obtain ⟨k, w, q, x, r, e, h⟩ := s.corrected_only ag dpa n
  refine ⟨⟨?_, ?_, ?_, s.corrected_jobs ag dpa n⟩, ?_, ?_⟩ <;> rw [h]

/-! ### The read of a granule -/

theorem fetchGran_sector {d : List Byte} (h : s.tiers.sector g = some d) : (fetchGran ag g).go s = (.ok d, s) := by
  rw [fetchGran, Acc.go_bind_ok (Acc.go_get s)]
  simp only [h, Acc.go_pure]

/-- A touch of poison is counted (R243, R244). -/
theorem fetchGran_poison (h : s.tiers.sector g = none) (hp : g ∈ s.hbm.poison) : (fetchGran ag g).go s =
    (.error (.poison (64 * g) false ag.unit), (s.admitGran ag.isUnit g).setStack (Config.regionOf (64 * g)) fun k =>
      { k with poisonTouches := k.poisonTouches + 1 }) := by
  rw [fetchGran, Acc.go_bind_ok (Acc.go_get s)]
  simp only [h, State.admitGran_poison, List.contains_iff_mem.mpr hp, if_true]
  rfl

/-- The state after a granule that is not poisoned has been decoded: its errors are spent, and the corrected ones counted. -/
def State.decoded (s : State) (ag : Agent) (g : Nat) : State :=
  let s := s.admitGran ag.isUnit g
  let n := (s.hbm.decode g).1
  let s := { s with hbm := s.hbm.spend g }
  if n = 0 then s else s.corrected ag (64 * g) n

/-- An uncorrectable error poisons its granule and is counted (R243). -/
theorem fetchGran_bad (h : s.tiers.sector g = none) (hp : g ∉ s.hbm.poison) (hb : (s.hbm.decode g).2 = true) : (fetchGran ag g).go s =
    (.error (.poison (64 * g) true ag.unit),
      let u := (s.decoded ag g).setStack (Config.regionOf (64 * g)) fun k => { k with uncorrectable := k.uncorrectable + 1 }
      { u with hbm := u.hbm.poisonGran g }) := by
  have hnot : (s.admitGran ag.isUnit g).hbm.poison.contains g = false := by
    simpa [Bool.eq_false_iff] using hp
  have hbad : ((s.admitGran ag.isUnit g).hbm.decode g).2 = true := by rwa [State.admitGran_decode]
  rw [fetchGran, Acc.go_bind_ok (Acc.go_get s)]
  simp only [h, hnot, hbad, if_true, Bool.false_eq_true, if_false]
  rfl

/-- Without one the granule's bytes are read, unless a corrected error's record holds the access (R241, R382). -/
theorem fetchGran_good (h : s.tiers.sector g = none) (hp : g ∉ s.hbm.poison) (hb : (s.hbm.decode g).2 = false) : (fetchGran ag g).go s =
    (if (s.hbm.decode g).1 ≠ 0 && (s.decoded ag g).stopped ag then .error .hold
     else .ok (memRead (s.decoded ag g).hbm.mem (64 * g) 64), s.decoded ag g) := by
  have hnot : (s.admitGran ag.isUnit g).hbm.poison.contains g = false := by
    simpa [Bool.eq_false_iff] using hp
  have hgood : ((s.admitGran ag.isUnit g).hbm.decode g).2 = false := by rwa [State.admitGran_decode]
  rw [fetchGran, Acc.go_bind_ok (Acc.go_get s)]
  simp only [h, hnot, hgood, Bool.false_eq_true, if_false]
  rw [Acc.go_bind_ok (Acc.go_set _ _)]
  rw [← State.admitGran_decode s ag.isUnit g g]
  unfold State.decoded
  dsimp only
  generalize (if ((s.admitGran ag.isUnit g).hbm.decode g).1 = 0 then _ else _ : State) = u
  split <;> rfl

theorem State.decoded_readBy (s : State) (ag : Agent) (g : Nat) : s.ReadBy ag (s.decoded ag g) := by
  refine (s.admitGran_readBy ag ag.isUnit g).trans ?_
  unfold State.decoded
  dsimp only
  split
  · exact State.spend_readBy _ ag g
  · exact (State.spend_readBy _ ag g).trans (State.corrected_readBy _ ag _ _)

/-- Whatever a read answers, memory and staging cache stay; what it reads are the bytes at the coherence point. -/
theorem fetchGran_reads {r : Except AccFail (List Byte)} (h : (fetchGran ag g).go s = (r, t)) :
    s.ReadBy ag t ∧ ∀ d, r = .ok d → d = s.gran g := by
  cases hs : s.tiers.sector g with
  | some d =>
    rw [fetchGran_sector hs] at h
    cases h
    exact ⟨.refl, fun d' hd => by cases hd; exact (State.gran_of_sector hs).symm⟩
  | none =>
    by_cases hp : g ∈ s.hbm.poison
    · rw [fetchGran_poison hs hp] at h
      cases h
      exact ⟨(s.admitGran_readBy ag _ g).trans (State.setStack_readBy _ _ _ _), fun d hd => by cases hd⟩
    · cases hb : (s.hbm.decode g).2 with
      | true =>
        rw [fetchGran_bad hs hp hb] at h
        cases h
        exact ⟨((s.decoded_readBy ag g).trans (State.setStack_readBy _ ag _ _)).trans (State.withHbm_readBy _ ag rfl),
          fun d hd => by cases hd⟩
      | false =>
        rw [fetchGran_good hs hp hb] at h
        cases h
        refine ⟨s.decoded_readBy ag g, fun d hd => ?_⟩
        split at hd
        · cases hd
        · cases hd
          rw [State.gran_of_none hs, (s.decoded_readBy ag g).mem]

theorem readGran_eq (ag : Agent) (g : Nat) (s : State) : (readGran ag g).go s = (fetchGran ag g).go (s.reach g) := rfl

theorem readGran_reads {r : Except AccFail (List Byte)} (h : (readGran ag g).go s = (r, t)) :
    s.ReadBy ag t ∧ ∀ d, r = .ok d → d = s.gran g := by
  obtain ⟨hread, hd⟩ := fetchGran_reads (readGran_eq ag g s ▸ h)
  refine ⟨(s.reach_readBy ag g).trans hread, fun d h => (hd d h).trans ?_⟩
  exact State.gran_same (s.reach_pool g) (by rw [State.reach_hbm]) g

end Sys2Proof.Machine
end

section
/-! A store (R218, R220, R245): the granules that it writes, wherever they are held. -/

namespace Sys2Proof.Machine

/-- Device memory and the staging cache are in their canonical form. -/
structure State.InForm (s : State) : Prop where
  mem : s.memOk
  pool : s.poolOk

variable {ag : Agent} {s t u : State} {g off : Nat} {bs : List Byte}

theorem State.InForm.same (h : s.InForm) (hm : t.hbm.mem = s.hbm.mem) (hp : t.tiers.pool = s.tiers.pool) : t.InForm :=
  ⟨by rw [State.memOk, hm]; exact h.mem, by rw [State.poolOk, hp]; exact h.pool⟩

theorem State.ReadBy.inForm (h : s.ReadBy ag t) (hs : s.InForm) : t.InForm := hs.same h.mem h.pool

theorem State.ReadBy.gran (h : s.ReadBy ag t) (k : Nat) : t.gran k = s.gran k := State.gran_same h.pool h.mem k

/-- A unit meets a line that the host holds, or goes on (R318, R319). -/
theorem meetHost_go (ag : Agent) (line : Nat) (write : Bool) (s : State) :
    (meetHost ag line write).go s = (.ok (), s) ∨ ∃ inv, (meetHost ag line write).go s = (.error (.snoop line inv), s) := by
  rw [meetHost, Acc.go_bind_ok (Acc.go_get s)]
  dsimp only
  split
  · split
    · exact .inr ⟨true, rfl⟩
    · split
      · exact .inl rfl
      · split
        · exact .inr ⟨true, rfl⟩
        · split
          · exact .inr ⟨false, rfl⟩
          · exact .inl rfl
  · exact .inl rfl

/-- The host's own accesses and those for a borrower meet no line. -/
theorem meetHost_unsnooped (h : ag.snoops = false) (line : Nat) (write : Bool) (s : State) :
    (meetHost ag line write).go s = (.ok (), s) := by
  rw [meetHost, Acc.go_bind_ok (Acc.go_get s), h]
  rfl

theorem putBytes_length {old data : List Byte} {o : Nat} (h : o + data.length ≤ old.length) : (putBytes old o data).length = old.length := by
  simp only [putBytes, List.length_append, List.length_take, List.length_drop]
  omega

/-- Bytes written whole. -/
theorem putBytes_whole {old data : List Byte} (h : data.length = old.length) : putBytes old 0 data = data := by
  simp [putBytes, h]

theorem getD_putBytes {old data : List Byte} {o : Nat} (h : o + data.length ≤ old.length) (i : Nat) :
    (putBytes old o data).getD i 0 = if o ≤ i ∧ i < o + data.length then data.getD (i - o) 0 else old.getD i 0 := by
  have htake : (old.take o).length = o := by
    rw [List.length_take]
    omega
  simp only [putBytes, List.getD_eq_getElem?_getD, List.getElem?_append, List.length_append, htake, List.getElem?_drop]
  by_cases h1 : i < o
  · rw [if_pos (by omega), if_pos h1, if_neg (by omega), List.getElem?_take_of_lt h1]
  · by_cases h2 : i < o + data.length
    · rw [if_pos h2, if_neg h1, if_pos (by omega)]
    · rw [if_neg h2, if_neg (by omega)]
      congr 2
      omega

/-! ### One granule -/

/-- A granule's write that has ended: it shows the bytes merged into what it showed, and every other granule what it showed. -/
structure State.WroteGran (ag : Agent) (g off : Nat) (bs : List Byte) (s t : State) : Prop extends s.LeftBy ag t where
  form : t.InForm
  gran : ∀ k, t.gran k = if k = g then putBytes (s.gran g) off bs else s.gran k

theorem State.ReadBy.wrote (h : s.ReadBy ag u) (hw : u.WroteGran ag g off bs t) : s.WroteGran ag g off bs t :=
  ⟨h.toLeftBy.trans hw.toLeftBy, hw.form, fun k => by rw [hw.gran, h.gran, h.gran]⟩

/-- A write into a present line of the staging cache. -/
theorem State.wroteGran_onLine (hs : s.InForm) (hp : s.tiers.pool.any (·.isLine (g / 4)) = true) {sec : List Byte}
    (hsec : sec = putBytes (s.gran g) off bs) (hlen : off + bs.length ≤ 64) (dirty : Bool) :
    s.WroteGran ag g off bs { s with tiers := s.tiers.onLine (g / 4) (PoolEntry.setSector (g % 4) sec dirty) } := by
  have hsl : sec.length = 64 := by
    rw [hsec, putBytes_length (by rwa [State.gran_length hs.pool]), State.gran_length hs.pool]
  refine ⟨⟨rfl, rfl, rfl, fun _ => ⟨rfl, rfl⟩⟩, ⟨hs.mem, ?_⟩, fun k => ?_⟩
  · exact poolWf_onLine hs.pool _ (fun e => e.block?_setSector ..) fun e he => PoolEntry.fine_setSector dirty he hsl (Nat.mod_lt _ (by decide))
  · subst hsec
    refine State.gran_onLine (dirty := dirty) hs.pool hp hsl ?_ ?_ k <;> rfl

theorem State.putStack_leftBy (s : State) (ag : Agent) (unit : Bool) (g : Nat) (data : List Byte) :
    s.LeftBy ag (s.putStack unit g data) := by
  obtain ⟨k, x, y, h⟩ := s.admitGran_only unit g
  rw [State.putStack, h]
  exact ⟨rfl, rfl, rfl, fun _ => ⟨rfl, rfl⟩⟩

theorem State.putStack_inForm (hs : s.InForm) (unit : Bool) (g : Nat) (data : List Byte) : (s.putStack unit g data).InForm := by
  refine ⟨?_, ?_⟩
  · rw [State.memOk, State.putStack_mem]
    exact memWrite_wf _ _ hs.mem
  · rw [State.poolOk, State.putStack_pool]
    exact hs.pool

/-- A write to the stack of a granule that is no present sector. -/
theorem State.wroteGran_putStack (hs : s.InForm) (hnone : s.tiers.sector g = none) {data : List Byte}
    (hdata : data = putBytes (s.gran g) off bs) (hlen : off + bs.length ≤ 64) (unit : Bool) :
    s.WroteGran ag g off bs (s.putStack unit g data) := by
  have hd : data.length = 64 := by
    rw [hdata, putBytes_length (by rwa [State.gran_length hs.pool]), State.gran_length hs.pool]
  refine ⟨s.putStack_leftBy ag unit g data, State.putStack_inForm hs unit g data, fun k => ?_⟩
  rw [State.gran_memWrite hs.mem hnone hd (s.putStack_pool unit g data) (s.putStack_mem unit g data) k, hdata]

/-- What a write merges into the old bytes. -/
theorem merge_eq {old : List Byte} (hs : s.poolOk) (hlen : off + bs.length ≤ 64) (ho : old = if bs.length = 64 then [] else s.gran g) :
    old.take off ++ bs ++ old.drop (off + bs.length) = putBytes (s.gran g) off bs := by
  subst ho
  split
  · rename_i hb
    have hoff : off = 0 := by omega
    rw [hoff, putBytes_whole (by rw [State.gran_length hs, hb])]
    simp
  · rfl

theorem any_isLine_of_sector {t : Tiers} {d : List Byte} (h : t.sector g = some d) : t.pool.any (·.isLine (g / 4)) = true := by
  cases hf : t.pool.find? (·.isLine (g / 4)) with
  | none => rw [Tiers.sector_of_none hf] at h; cases h
  | some e => exact List.any_eq_true.mpr ⟨e, List.mem_of_find?_eq_some hf, List.find?_some hf⟩

/-- A write of one granule that ends, without a hint (R220, R240, R245). -/
theorem writeGran_wrote (hs : s.InForm) (hlen : off + bs.length ≤ 64) (h : (writeGran ag g off bs none).go s = (.ok (), t)) :
    s.WroteGran ag g off bs t := by
  rw [writeGran] at h
  obtain ⟨_, u, hm, hrest⟩ := Acc.of_go_bind_ok h
  obtain rfl : s = u := by
    rcases meetHost_go ag (64 * g) true s with hgo | ⟨inv, hgo⟩ <;> rw [hgo] at hm <;> cases hm
    rfl
  rw [Acc.go_bind_ok (Acc.go_modify _ _), Acc.go_bind_ok (Acc.go_get _)] at hrest
  have hreach := s.reach_readBy ag g
  have hform := hreach.inForm hs
  refine hreach.wrote ?_
  generalize s.reach g = v at hrest hform
  dsimp only at hrest
  split at hrest
  · rename_i d hd
    cases hrest
    exact State.wroteGran_onLine hform (any_isLine_of_sector hd) (by rw [State.gran_of_sector hd]; rfl) hlen true
  · rename_i hnone
    split at hrest
    · rename_i hc
      obtain ⟨hp, hb⟩ := Bool.and_eq_true_iff.mp hc
      have hb : bs.length = 64 := of_decide_eq_true hb
      obtain rfl : off = 0 := by omega
      cases hrest
      refine State.wroteGran_onLine hform hp ?_ hlen true
      rw [putBytes_whole (by rw [State.gran_length hform.pool, hb])]
    · split at hrest
      · rename_i hb
        cases hrest
        exact State.wroteGran_putStack hform hnone (merge_eq hform.pool hlen (if_pos hb).symm) hlen _
      · rename_i hb
        obtain ⟨old, w, hold, hput⟩ := Acc.of_go_bind_ok hrest
        obtain ⟨hread, ho⟩ := fetchGran_reads hold
        cases hput
        refine hread.wrote (State.wroteGran_putStack (hread.inForm hform) ((hread.sector g).trans hnone) ?_ hlen _)
        rw [hread.gran]
        exact merge_eq hform.pool hlen ((ho old rfl).trans (if_neg hb).symm)

/-! ### Loops -/

/-- What holds after each round of a loop over a list, from what holds before. -/
theorem Acc.forIn_ok {α : Type} {f : α → Acc PUnit} {l : List α} {s t : State}
    (h : Acc.go (forIn l PUnit.unit fun a _ => do f a; pure (.yield PUnit.unit)) s = (.ok PUnit.unit, t))
    {inv : List α → State → Prop} (h0 : inv [] s)
    (hstep : ∀ done a u v, a ∈ l → inv done u → (f a).go u = (.ok PUnit.unit, v) → inv (done ++ [a]) v) : inv l t := by
  suffices hgen : ∀ rest done u, (∀ a ∈ rest, a ∈ l) → inv done u →
      Acc.go (forIn rest PUnit.unit fun a _ => do f a; pure (.yield PUnit.unit)) u = (.ok PUnit.unit, t) → inv (done ++ rest) t from
    hgen l [] s (fun a ha => ha) h0 h
  intro rest
  induction rest with
  | nil =>
    intro done u _ hinv h
    cases h
    simpa using hinv
  | cons a rest ih =>
    intro done u hsub hinv h
    rw [Acc.go_forIn_cons] at h
    obtain ⟨_, v, hv, h⟩ := Acc.of_go_bind_ok h
    obtain ⟨ha, hsub⟩ := List.forall_mem_cons.mp hsub
    simpa using ih (done ++ [a]) v hsub (hstep done a u v ha hinv hv) h

/-! ### A range of bytes -/

theorem mem_granules {dpa len a : Nat} (h1 : dpa ≤ a) (h2 : a < dpa + len) : a / 64 ∈ granules dpa len := by
  rw [granules, if_neg (by omega), List.mem_map]
  exact ⟨a / 64 - dpa / 64, List.mem_range.mpr (by omega), by omega⟩

/-- The first and last byte, and the part, of a range that lies in a granule. -/
def partLo (dpa g : Nat) : Nat := if 64 * g < dpa then dpa else 64 * g
def partHi (dpa len g : Nat) : Nat := if dpa + len < 64 * g + 64 then dpa + len else 64 * g + 64

theorem part_bounds {dpa len g : Nat} (h : g ∈ granules dpa len) :
    dpa ≤ partLo dpa g ∧ partLo dpa g ≤ partHi dpa len g ∧ partHi dpa len g ≤ dpa + len ∧
      64 * g ≤ partLo dpa g ∧ partHi dpa len g ≤ 64 * g + 64 := by
  unfold granules at h
  split at h
  · cases h
  · obtain ⟨i, hi, rfl⟩ := List.mem_map.mp h
    have := List.mem_range.mp hi
    unfold partLo partHi
    split <;> split <;> omega

theorem part_length {dpa : Nat} (h : g ∈ granules dpa bs.length) :
    ((bs.drop (partLo dpa g - dpa)).take (partHi dpa bs.length g - partLo dpa g)).length = partHi dpa bs.length g - partLo dpa g := by
  obtain ⟨h1, h2, h3, -, -⟩ := part_bounds h
  rw [List.length_take, List.length_drop]
  omega

/-- A range's part in a granule, byte by byte. -/
theorem State.WroteGran.byteAt {dpa : Nat} (hs : s.InForm) (hg : g ∈ granules dpa bs.length)
    (h : s.WroteGran ag g (partLo dpa g - 64 * g) ((bs.drop (partLo dpa g - dpa)).take (partHi dpa bs.length g - partLo dpa g)) t) (a : Nat) :
    t.byteAt a = if a / 64 = g ∧ dpa ≤ a ∧ a < dpa + bs.length then bs.getD (a - dpa) 0 else s.byteAt a := by
  have hlen := part_length hg
  obtain ⟨h1, h2, h3, h4, h5⟩ := part_bounds hg
  rw [State.byteAt_eq, h.gran]
  by_cases hk : a / 64 = g
  · rw [if_pos hk, getD_putBytes (by rw [State.gran_length hs.pool]; omega), hlen]
    have hlo : partLo dpa g - 64 * g ≤ a % 64 ∧ a % 64 < partLo dpa g - 64 * g + (partHi dpa bs.length g - partLo dpa g) ↔
        a / 64 = g ∧ dpa ≤ a ∧ a < dpa + bs.length := by
      unfold partLo partHi at *
      split <;> split <;> omega
    split
    · rename_i hin
      rw [if_pos (hlo.mp hin)]
      simp only [List.getD_eq_getElem?_getD, List.getElem?_take, List.getElem?_drop]
      rw [if_pos (by omega)]
      congr 2
      omega
    · rename_i hout
      rw [if_neg (mt hlo.mpr hout), State.byteAt_eq, hk]
  · rw [if_neg hk, if_neg fun hc => hk hc.1, State.byteAt_eq]

/-! ### The use of a line -/

/-- A write's use of a line moves it at most (R223). -/
theorem useLine_write (s : State) (b : Nat) : ∃ l, useLine s b false = { s with tiers := { s.tiers with pool := l } } ∧
    l.Perm s.tiers.pool := by
  unfold useLine
  split
  · rename_i hr
    exact ⟨_, rfl, (List.perm_append_singleton _ _).trans (removeFirst_perm hr)⟩
  · exact ⟨_, rfl, .rfl⟩
  · exact ⟨_, rfl, .rfl⟩

theorem State.useLine_left (hs : s.InForm) (ag : Agent) (b : Nat) :
    s.LeftBy ag (useLine s b false) ∧ (useLine s b false).InForm ∧ ∀ k, (useLine s b false).gran k = s.gran k := by
  obtain ⟨l, h, hl⟩ := useLine_write s b
  rw [h]
  refine ⟨⟨rfl, rfl, rfl, fun _ => ⟨rfl, rfl⟩⟩, ⟨hs.mem, poolWf_perm hs.pool hl⟩, fun k => State.gran_congr (Tiers.sector_congr ?_) rfl⟩
  exact find?_isLine_perm hs.pool hl (k / 4)

/-! ### The store -/

/-- Bytes of a range of memory are as they were, or those of `bs` at `dpa` in the granules `gs`. -/
structure State.Wrote (ag : Agent) (dpa : Nat) (bs : List Byte) (gs : List Nat) (s t : State) : Prop extends s.LeftBy ag t where
  form : t.InForm
  byte : ∀ a, t.byteAt a = if a / 64 ∈ gs ∧ dpa ≤ a ∧ a < dpa + bs.length then bs.getD (a - dpa) 0 else s.byteAt a

theorem State.Wrote.nil (hs : s.InForm) (dpa : Nat) : s.Wrote ag dpa bs [] s :=
  ⟨.refl, hs, fun a => by rw [if_neg fun h => by cases h.1]⟩

/-- One granule more. -/
theorem State.Wrote.snoc {dpa : Nat} {gs : List Nat} (h : s.Wrote ag dpa bs gs t) (hg : g ∈ granules dpa bs.length)
    (hw : t.WroteGran ag g (partLo dpa g - 64 * g) ((bs.drop (partLo dpa g - dpa)).take (partHi dpa bs.length g - partLo dpa g)) u) :
    s.Wrote ag dpa bs (gs ++ [g]) u := by
  refine ⟨h.toLeftBy.trans hw.toLeftBy, hw.form, fun a => ?_⟩
  rw [hw.byteAt h.form hg, h.byte]
  by_cases hr : dpa ≤ a ∧ a < dpa + bs.length
  · by_cases hk : a / 64 = g
    · rw [if_pos ⟨hk, hr⟩, if_pos ⟨by simp [hk], hr⟩]
    · rw [if_neg fun hc => hk hc.1]
      simp [hk]
  · rw [if_neg fun hc => hr hc.2, if_neg fun hc => hr hc.2, if_neg fun hc => hr hc.2]

/-- A write without a hint that ends: the bytes that the agent stores stand at the address, and no other byte has changed. -/
theorem writeDpa_wrote {dpa : Nat} (hs : s.InForm) (h : (writeDpa ag dpa bs none).go s = (.ok (), t)) :
    s.Wrote ag dpa (s.written ag dpa bs) (granules dpa (s.written ag dpa bs).length) t := by
  rw [writeDpa, Acc.go_bind_ok (Acc.go_get s)] at h
  dsimp only at h
  generalize s.written ag dpa bs = bs at h ⊢
  obtain ⟨_, u, hloop, huse⟩ := Acc.of_go_bind_ok h
  have hw : s.Wrote ag dpa bs (granules dpa bs.length) u := by
    refine Acc.forIn_ok (inv := fun gs u => s.Wrote ag dpa bs gs u) hloop (.nil hs dpa) fun done g v w hg hv hgo => ?_
    refine hv.snoc hg (writeGran_wrote hv.form ?_ hgo)
    have hlen := part_length hg
    obtain ⟨-, h2, -, h4, h5⟩ := part_bounds hg
    omega
  obtain ⟨_, v, hlines, hend⟩ := Acc.of_go_bind_ok huse
  cases hend
  refine Acc.forIn_ok (inv := fun _ u => s.Wrote ag dpa bs (granules dpa bs.length) u) hlines hw fun done b v w _ hv hgo => ?_
  cases hgo
  obtain ⟨hleft, hform, hgran⟩ := State.useLine_left hv.form ag b
  exact ⟨hv.toLeftBy.trans hleft, hform, fun a => by rw [State.byteAt_same hgran, hv.byte]⟩

@[simp] theorem State.written_length (s : State) (ag : Agent) (a : Nat) (bs : List Byte) : (s.written ag a bs).length = bs.length := by
  unfold State.written
  split <;> simp

/-- Settles O6: every granule of the range is written once (`writeGran_wrote`), and the use of its line moves no byte. -/
theorem storeLands : Obligations.StoreLands := by
  intro ag dpa bs s t hm hp h
  have hw := writeDpa_wrote ⟨hm, hp⟩ h
  have hlen := s.written_length ag dpa bs
  refine ⟨fun a ha => ?_, fun i hi => ?_, fun hu => ?_, hw.ctxs, hw.regs, hw.fab, hw.jobs⟩
  · rw [hw.byte, if_neg (by omega)]
  · have hin : dpa ≤ dpa + i ∧ dpa + i < dpa + (s.written ag dpa bs).length := by omega
    rw [hw.byte, if_pos ⟨mem_granules hin.1 hin.2, hin⟩, Nat.add_sub_cancel_left, List.getD_eq_getElem?_getD,
      List.getElem?_eq_getElem (by omega), Option.getD_some]
  · rw [State.written, hu, if_neg Bool.false_ne_true]

end Sys2Proof.Machine
end

section
/-! The host's reads and writes of device memory, and its answers to back-invalidations (R241 to R245, R316 to R319). -/

namespace Sys2Proof.Machine

variable {s t : State} {ag : Agent} {g hpa dpa line : Nat} {data : List Byte}

/-! ### ECC (R241, R243) -/

theorem Hbm.mem_latent_spend {h : Hbm} {x : Nat × Ecc} : x ∈ (h.spend g).latent ↔ x ∈ h.latent ∧ x.1 / 64 ≠ g := by
  simp [Hbm.spend]

/-- What a granule decodes to when no error waits in it. -/
theorem Hbm.decode_clean {h : Hbm} (hl : ∀ e ∈ h.latent, e.1 / 64 ≠ g) : h.decode g = (0, false) := by
  have hhalf : ∀ k < 2, (h.latent.filter fun e => e.1 / 32 == 2 * g + k) = [] := fun k hk => by
    refine List.filter_eq_nil_iff.mpr fun e he heq => hl e he ?_
    have := beq_iff_eq.mp heq
    omega
  simp only [Hbm.decode, hhalf 0 (by decide), hhalf 1 (by decide)]
  rfl

theorem mem_insNat {a x : Nat} {l : List Nat} : x ∈ insNat a l ↔ x = a ∨ x ∈ l := by
  induction l with
  | nil => simp [insNat]
  | cons b l ih =>
    rw [insNat]
    split
    · rename_i h
      simp [h]
    · split
      · simp
      · simp only [List.mem_cons, ih]
        tauto

/-- A granule whose errors are spent. -/
def State.spent (s : State) (g : Nat) : State := { s with hbm := s.hbm.spend g }

theorem State.decoded_eq (s : State) (ag : Agent) (g : Nat) :
    ((s.hbm.decode g).1 = 0 ∧ s.decoded ag g = (s.admitGran ag.isUnit g).spent g) ∨
    ((s.hbm.decode g).1 ≠ 0 ∧ s.decoded ag g = ((s.admitGran ag.isUnit g).spent g).corrected ag (64 * g) (s.hbm.decode g).1) := by
  have hn := congrArg Prod.fst (s.admitGran_decode ag.isUnit g g)
  by_cases h : (s.hbm.decode g).1 = 0
  · exact .inl ⟨h, if_pos (hn.trans h)⟩
  · exact .inr ⟨h, (if_neg (hn ▸ h)).trans (congrArg (State.corrected _ ag _) hn)⟩

theorem State.decoded_errors (s : State) (ag : Agent) (g : Nat) :
    (s.decoded ag g).hbm.latent = (s.hbm.spend g).latent ∧ (s.decoded ag g).hbm.poison = s.hbm.poison := by
  have hspent : ((s.admitGran ag.isUnit g).spent g).hbm.latent = (s.hbm.spend g).latent ∧
      ((s.admitGran ag.isUnit g).spent g).hbm.poison = s.hbm.poison := by
    simp [State.spent, Hbm.spend]
  rcases s.decoded_eq ag g with ⟨-, h⟩ | ⟨-, h⟩ <;> rw [h]
  · exact hspent
  · obtain ⟨k, w, q, x, r, e, hc⟩ := ((s.admitGran ag.isUnit g).spent g).corrected_only ag (64 * g) (s.hbm.decode g).1
    rw [hc]
    exact hspent

/-- A decoded read counts its corrected halves, and no uncorrectable error. -/
theorem State.decoded_stk (s : State) (ag : Agent) (g : Nat) :
    ((s.decoded ag g).hbm.stk[ix 8 (Config.regionOf (64 * g))]).corrected =
      (s.hbm.stk[ix 8 (Config.regionOf (64 * g))]).corrected + (s.hbm.decode g).1 ∧
    ((s.decoded ag g).hbm.stk[ix 8 (Config.regionOf (64 * g))]).uncorrectable =
      (s.hbm.stk[ix 8 (Config.regionOf (64 * g))]).uncorrectable := by
  obtain ⟨l, hl⟩ := s.admitGran_stack ag.isUnit g (ix 8 (Config.regionOf (64 * g)))
  have hcor := congrArg Stack.corrected hl
  have hunc := congrArg Stack.uncorrectable hl
  rcases s.decoded_eq ag g with ⟨h0, h⟩ | ⟨-, h⟩ <;> rw [h]
  · rw [h0]
    exact ⟨hcor, hunc⟩
  · obtain ⟨p, hp⟩ := ((s.admitGran ag.isUnit g).spent g).corrected_stk ag (64 * g) (s.hbm.decode g).1
    rw [hp]
    exact ⟨congrArg (· + (s.hbm.decode g).1) hcor, hunc⟩

/-- A read of a granule that is neither a present sector nor poisoned. -/
theorem readGran_decodes {r : Except AccFail (List Byte)} (hs : s.tiers.sector g = none) (hp : g ∉ s.hbm.poison)
    (h : (readGran ag g).go s = (r, t)) :
    t.hbm.mem = s.hbm.mem ∧ t.tiers.pool = s.tiers.pool ∧ (∀ x ∈ t.hbm.latent, x.1 / 64 ≠ g) ∧
    (t.hbm.stk[ix 8 (Config.regionOf (64 * g))]).corrected =
      (s.hbm.stk[ix 8 (Config.regionOf (64 * g))]).corrected + (s.hbm.decode g).1 ∧
    ((s.hbm.decode g).2 = true → r = .error (.poison (64 * g) true ag.unit) ∧ (∀ x, x ∈ t.hbm.poison ↔ x = g ∨ x ∈ s.hbm.poison) ∧
      (t.hbm.stk[ix 8 (Config.regionOf (64 * g))]).uncorrectable = (s.hbm.stk[ix 8 (Config.regionOf (64 * g))]).uncorrectable + 1) ∧
    ((s.hbm.decode g).2 = false → t.hbm.poison = s.hbm.poison ∧
      (r = .ok (memRead s.hbm.mem (64 * g) 64) ∨ (r = .error .hold ∧ (s.hbm.decode g).1 ≠ 0 ∧ t.stopped ag = true))) := by
  obtain ⟨hread, -⟩ := readGran_reads h
  refine ⟨hread.mem, hread.pool, ?_⟩
  have hu := s.reach_hbm g
  have hsu : (s.reach g).tiers.sector g = none := ((s.reach_readBy ag g).sector g).trans hs
  rw [readGran_eq] at h
  rw [← hu] at hp ⊢
  generalize s.reach g = u at h hp hsu
  have hlat : ∀ x ∈ (u.decoded ag g).hbm.latent, x.1 / 64 ≠ g := fun x hx =>
    (Hbm.mem_latent_spend.mp ((u.decoded_errors ag g).1 ▸ hx)).2
  obtain ⟨hcor, hunc⟩ := u.decoded_stk ag g
  cases hb : (u.hbm.decode g).2 with
  | true =>
    rw [fetchGran_bad hsu hp hb] at h
    cases h
    have hstk := (u.decoded ag g).stk_setStack_same (Config.regionOf (64 * g)) fun k => { k with uncorrectable := k.uncorrectable + 1 }
    refine ⟨hlat, (congrArg Stack.corrected hstk).trans hcor, fun _ => ⟨rfl, fun x => ?_, ?_⟩, fun h => absurd h.symm Bool.false_ne_true⟩
    · rw [← (u.decoded_errors ag g).2]
      exact mem_insNat
    · rw [← hunc]
      exact congrArg Stack.uncorrectable hstk
  | false =>
    rw [fetchGran_good hsu hp hb] at h
    cases h
    refine ⟨hlat, hcor, fun h => absurd h Bool.false_ne_true, fun _ => ⟨(u.decoded_errors ag g).2, ?_⟩⟩
    split
    · rename_i hc
      obtain ⟨hn, hst⟩ := Bool.and_eq_true_iff.mp hc
      exact .inr ⟨rfl, of_decide_eq_true hn, hst⟩
    · rw [(u.decoded_readBy ag g).mem]
      exact .inl rfl

/-- A touch of poison is counted and raises its error (R243, R244). -/
theorem readGran_poison (hs : s.tiers.sector g = none) (hp : g ∈ s.hbm.poison) : (readGran ag g).go s =
    (.error (.poison (64 * g) false ag.unit), ((s.reach g).admitGran ag.isUnit g).setStack (Config.regionOf (64 * g)) fun k =>
      { k with poisonTouches := k.poisonTouches + 1 }) := by
  rw [readGran_eq]
  exact fetchGran_poison (((s.reach_readBy ag g).sector g).trans hs) (by rwa [State.reach_hbm])

/-! ### The host's accesses -/

theorem State.dpaOf_eq_some : s.dpaOf hpa = some dpa ↔ hpa % 64 = 0 ∧ hpa = s.cxl.hdmBase + dpa ∧ dpa < Config.memBytes := by
  unfold State.dpaOf
  split
  · rw [Option.some_inj]
    omega
  · refine ⟨nofun, fun ⟨h1, h2, h3⟩ => ?_⟩
    omega

theorem hostMemRead_plain {ecc : EccList} {d : List Byte} (hd : s.dpaOf hpa = some dpa) (ho : s.memOpen = true)
    (hgo : (readGran hostAgent (dpa / 64)).go (s.strike ecc) = (.ok d, t)) :
    exec (.hostMemRead hpa .none ecc) s = .next (t.emit (.memData hpa d false false)) := by
  show execHostMemRead hpa .none ecc s = _
  simp only [execHostMemRead, hd, ho, Bool.not_true, Bool.false_eq_true, if_false, hgo]

theorem hostMemRead_fails {ecc : EccList} {f : AccFail} (hd : s.dpaOf hpa = some dpa) (ho : s.memOpen = true)
    (hgo : (readGran hostAgent (dpa / 64)).go (s.strike ecc) = (.error f, t)) :
    exec (.hostMemRead hpa .none ecc) s = .next ((t.accError hostAgent f).poisonedRead hpa (memRead t.hbm.mem dpa 64)) := by
  show execHostMemRead hpa .none ecc s = _
  simp only [execHostMemRead, hd, ho, Bool.not_true, Bool.false_eq_true, if_false, hgo]

theorem hostMemRead_kept {ecc : EccList} {excl : Bool} {d : List Byte} (hd : s.dpaOf hpa = some dpa) (ho : s.memOpen = true)
    (hgo : (readGran hostAgent (dpa / 64)).go ((s.strike ecc).filterAdd dpa excl) = (.ok d, t)) :
    exec (.hostMemRead hpa (if excl = true then .exclusive else .shared) ecc) s = .next (t.emit (.memData hpa d false false)) := by
  show execHostMemRead hpa _ ecc s = _
  cases excl <;>
    simp only [execHostMemRead, hd, ho, Bool.not_true, Bool.false_eq_true, if_false, if_true, hgo]

theorem hostMemWrite_puts (hd : s.dpaOf hpa = some dpa) (hl : data.length = 64) (ho : s.memOpen = true) (poison : Bool) :
    exec (.hostMemWrite hpa data poison) s = .next (s.hostPut (dpa / 64) data poison) := by
  show execHostMemWrite hpa data poison s = _
  simp only [execHostMemWrite, hd, hl, ho, ne_eq, not_true_eq_false, decide_false, Bool.not_true, Bool.or_self, Bool.false_eq_true,
    if_false]

/-! ### The host's write (R220, R245, R317) -/

/-- The staging cache's copy follows the host's write where there is one. -/
theorem Tiers.hostWrote_pool {t : Tiers} (h : poolWf t.pool = true) : (t.hostWrote g (some data)).pool =
    if (t.sector g).isSome = true then (t.onLine (g / 4) (PoolEntry.setSector (g % 4) data false)).pool else t.pool := by
  have hline : ∀ e ∈ t.pool, e.isLine (g / 4) = true → ∃ b v d bs hint, e = .line b v d bs hint ∧
      (t.sector g).isSome = v.getLsbD (g % 4) := fun e he hb => by
    have hfind := (find?_isLine_iff h).mpr ⟨he, PoolEntry.isLine_iff.mp hb⟩
    obtain ⟨v, d, bs, hint, rfl⟩ := find?_isLine_shape hfind
    refine ⟨_, v, d, bs, hint, rfl, ?_⟩
    rw [Tiers.sector_of_line hfind]
    split <;> simp_all
  split
  · rename_i hs
    refine List.map_congr_left fun e he => ?_
    split
    · rename_i hb
      obtain ⟨b, v, d, bs, hint, rfl, hv⟩ := hline e he hb
      exact if_pos (hv.symm.trans hs)
    · rfl
  · rename_i hs
    refine (List.map_congr_left fun e he => ?_).trans (List.map_id _)
    split
    · rename_i hb
      obtain ⟨b, v, d, bs, hint, rfl, hv⟩ := hline e he hb
      exact if_neg (hv ▸ hs)
    · rfl

theorem State.hostPut_pool (s : State) (g : Nat) (data : List Byte) :
    (s.hostPut g data false).tiers.pool = (s.tiers.hostWrote g (some data)).pool := by
  simp [State.hostPut, Tiers.hostWrote, Tiers.onLine]

theorem State.hostPut_mem (s : State) (g : Nat) (data : List Byte) (poison : Bool) :
    (s.hostPut g data poison).hbm.mem = memWrite s.hbm.mem (64 * g) data := by
  cases poison <;> simp [State.hostPut]

/-- The host's write of a line changes its granule and no other, wherever it is held. -/
theorem State.hostPut_gran (hs : s.InForm) (hl : data.length = 64) (k : Nat) :
    (s.hostPut g data false).gran k = if k = g then data else s.gran k := by
  have hm := s.hostPut_mem g data false
  have hp := (s.hostPut_pool g data).trans (Tiers.hostWrote_pool hs.pool)
  cases hsec : s.tiers.sector g with
  | none =>
    rw [hsec] at hp
    exact State.gran_memWrite hs.mem hsec hl hp hm k
  | some d =>
    rw [hsec, Option.isSome_some, if_pos rfl] at hp
    have hk : (s.hostPut g data false).tiers.sector k = if k = g then some data else s.tiers.sector k :=
      (Tiers.sector_congr (by rw [hp])).trans (Tiers.sector_setSector hs.pool (any_isLine_of_sector hsec) hl false k)
    split at hk
    · rename_i heq
      rw [if_pos heq, State.gran_of_sector hk]
    · rename_i hne
      rw [if_neg hne]
      refine State.gran_congr hk ?_
      rw [hm, memRead_memWrite_out hs.mem (by omega)]

theorem State.hostPut_byteAt (hs : s.InForm) (hd : dpa % 64 = 0) (hl : data.length = 64) (a : Nat) :
    (s.hostPut (dpa / 64) data false).byteAt a = if dpa ≤ a ∧ a < dpa + 64 then data.getD (a - dpa) 0 else s.byteAt a := by
  rw [State.byteAt_eq, State.hostPut_gran hs hl, State.byteAt_eq]
  by_cases hk : a / 64 = dpa / 64
  · rw [if_pos hk, if_pos (by omega), show a % 64 = a - dpa by omega]
  · rw [if_neg hk, if_neg (by omega)]

theorem State.hostPut_leaves (s : State) (g : Nat) (data : List Byte) : (s.hostPut g data false).queues = s.queues ∧
    (s.hostPut g data false).regs = s.regs ∧ (s.hostPut g data false).ctxs = s.ctxs ∧ (s.hostPut g data false).cxl = s.cxl := by
  obtain ⟨r, w, x, y, h1⟩ := s.reach_only g
  obtain ⟨k, x', y', h2⟩ := (s.reach g).admitGran_only false g
  rw [State.hostPut, if_neg Bool.false_ne_true, h2, h1]
  exact ⟨rfl, rfl, rfl, rfl⟩

/-! ### The host's answers (R318, R319) -/

/-- A line comes back with its data where the host had changed them. -/
def State.lineBack (s : State) (line : Nat) : Option LineBack → State
  | some d => s.hostPut (line / 64) (padTo 64 d.data) d.poison
  | none => s

/-- An answer is that to the oldest back-invalidation of its line. -/
theorem State.bisnpAnswer_oldest {inv : Bool} {a b : List (Nat × Bool)} (ha : s.alive = true) (hs : s.cxl.snoops = a ++ (line, inv) :: b)
    (hn : ∀ x ∈ a, x.1 ≠ line) (m : Option LineBack) : s.bisnpAnswer line m = { s.lineBack line m with cxl := { (s.lineBack line m).cxl with
      filter := if inv = true then (s.lineBack line m).cxl.filter.filter (·.line ≠ line)
        else (s.lineBack line m).cxl.filter.map fun (e : FilterEntry) => if e.line = line then { e with excl := false } else e
      snoops := a ++ b } } := by
  have hr : removeFirst (fun x : Nat × Bool => x.1 == line) s.cxl.snoops = some ((line, inv), a ++ b) := by
    rw [hs]
    exact removeFirst_split (beq_self_eq_true line) fun x hx => beq_eq_false_iff_ne.mpr (hn x hx)
  simp only [State.bisnpAnswer, hr, ha, Bool.not_true, Bool.false_eq_true, if_false]
  cases m <;> rfl

/-- Settles O38, from one lemma for each command, for the read of a granule and for what the host's write leaves. -/
theorem hostMemory : Obligations.HostMemory := by
  refine ⟨fun s hpa dpa => State.dpaOf_eq_some, fun s t hpa dpa ecc hd ho => ⟨fun d => hostMemRead_plain hd ho, fun f => hostMemRead_fails hd ho⟩,
    fun s t hpa dpa excl ecc d => hostMemRead_kept, ?_, fun s hpa dpa data poison hd hl ho => hostMemWrite_puts hd hl ho poison, ?_,
    fun s line m => rfl, fun s ag g => readGran_poison, ?_, fun h g => Hbm.decode_clean⟩
  · intro s t hpa dpa data hm hp hd hmod hl ho h
    rw [hostMemWrite_puts hd hl ho] at h
    obtain rfl := Host.Outcome.next.inj h
    have hbyte := State.hostPut_byteAt ⟨hm, hp⟩ hmod hl
    refine ⟨fun i hi => ?_, fun a ha => ?_, s.hostPut_leaves _ _⟩
    · rw [hbyte, if_pos (by omega), Nat.add_sub_cancel_left, List.getD_eq_getElem _ _ hi]
    · rw [hbyte, if_neg (by omega)]
  · intro s line inv a b ha hs hn
    refine ⟨?_, fun d p => ?_⟩
    · exact congrArg (fun u => Host.Outcome.next (State.settle u)) (State.bisnpAnswer_oldest ha hs hn none)
    · rw [State.bisnpAnswer_oldest ha hs hn]
      exact ⟨rfl, rfl⟩
  · intro s t ag g n bad r hs hp hdec hgo
    obtain ⟨hmem, hpool, hlat, hcor, hbad, hgood⟩ := readGran_decodes hs hp hgo
    simp only [hdec] at hcor hbad hgood
    exact ⟨hmem, hpool, hlat, hcor, hbad, hgood⟩

end Sys2Proof.Machine
end

section
/-! The messages of lent memory (R218, R228 to R232, R235). -/

namespace Sys2Proof.Machine

variable {s t : State} {f : Frame} {lease page tag : Nat} {l : Lent}

/-! ### The lender -/

/-- The claimant's access to a page of its lease (R232). -/
theorem State.lentCheck_ok (hl : s.lentBy lease = some l) (hc : l.claimant = some (f.srcDev, f.srcInc)) (hp : page * 4096 < l.size) :
    s.lentCheck f lease page = (0, some l) := by
  simp only [State.lentCheck, hl, hc, ne_eq, not_true_eq_false, Nat.not_le.mpr hp, if_false]

theorem lentRead_answers (hr : s.receiveAny f 7 (lentReadBody lease page tag) = (t, true)) (hl : t.lentBy lease = some l)
    (hc : l.claimant = some (f.srcDev, f.srcInc)) (hp : page * 4096 < l.size) :
    exec (.lentRead f lease page tag) s = .next ((t.lentPage l page tag).1.respond f lease 0 tag (some (t.lentPage l page tag).2)) := by
  show execLentRead f lease page tag s = _
  simp only [execLentRead, hr, State.lentCheck_ok hl hc hp]

theorem lentWrite_writes {sectors : BitVec 64} {data : List Byte}
    (hr : s.receiveAny f 8 (lentWriteBody lease page tag sectors data) = (t, true)) (hl : t.lentBy lease = some l)
    (hc : l.claimant = some (f.srcDev, f.srcInc)) (hp : page * 4096 < l.size) :
    exec (.lentWrite f lease page tag sectors data) s =
      .next ((t.putSectors (l.base + page * 4096) sectors data).respond f lease 0 tag none) := by
  show execLentWrite f lease page tag sectors data s = _
  simp only [execLentWrite, hr, State.lentCheck_ok hl hc hp]

theorem lentClaim_grants (hr : s.receiveAny f 0xA (lentControlBody lease 0 tag) = (t, true)) (hl : t.lentBy lease = some l)
    (hc : l.claimant = none) (hb : l.borrower = f.srcDev) :
    exec (.lentClaim f lease tag) s = .next (({ t with tiers := { t.tiers with
      lent := t.tiers.lent.map fun (x : Lent) => if x.id = lease then { x with claimant := some (f.srcDev, f.srcInc) } else x } }).respond
        f lease 0 tag none) := by
  show execLentClaim f lease tag s = _
  simp only [execLentClaim, hr, hl, hc, hb, Option.isSome_none, Bool.false_eq_true, ne_eq, not_true_eq_false, if_false]

theorem lentReturn_ends (hr : s.receiveAny f 0xA (lentControlBody lease 1 tag) = (t, true)) (hl : t.lentBy lease = some l)
    (hc : l.claimant = some (f.srcDev, f.srcInc)) (hp : 0 < l.size) :
    exec (.lentReturn f lease tag) s = .next ((t.endLease l).respond f lease 0 tag none) := by
  show execLentReturn f lease tag s = _
  simp only [execLentReturn, hr, State.lentCheck_ok (page := 0) hl hc (by simpa using hp)]

/-! ### The page that a lender sends (R218, R232, R244) -/

/-- What a transfer for a borrower, with no error waiting in memory, leaves of it. -/
structure State.Lending (s t : State) : Prop where
  mem : t.hbm.mem = s.hbm.mem
  pool : t.tiers.pool = s.tiers.pool
  poison : t.hbm.poison = s.hbm.poison
  latent : s.hbm.latent = [] → t.hbm.latent = []

namespace State.Lending

variable {s t u : State}

theorem refl : s.Lending s := ⟨rfl, rfl, rfl, id⟩

theorem trans (h1 : s.Lending t) (h2 : t.Lending u) : s.Lending u :=
  ⟨h2.mem.trans h1.mem, h2.pool.trans h1.pool, h2.poison.trans h1.poison, fun h => h2.latent (h1.latent h)⟩

theorem gran (h : s.Lending t) (g : Nat) : t.gran g = s.gran g := State.gran_same h.pool h.mem g

theorem sector (h : s.Lending t) (g : Nat) : t.tiers.sector g = s.tiers.sector g := Tiers.sector_congr (by rw [h.pool])

theorem reach (s : State) (g : Nat) : s.Lending (s.reach g) :=
  ⟨by rw [State.reach_hbm], s.reach_pool g, by rw [State.reach_hbm], fun h => by rwa [State.reach_hbm]⟩

theorem admitGran (s : State) (unit : Bool) (g : Nat) : s.Lending (s.admitGran unit g) :=
  ⟨s.admitGran_mem unit g, s.admitGran_pool unit g, s.admitGran_poison unit g, fun h => by rwa [State.admitGran_latent]⟩

theorem spent (s : State) (g : Nat) : s.Lending (s.spent g) :=
  ⟨rfl, rfl, rfl, fun h => by simp [State.spent, Hbm.spend, h]⟩

end State.Lending

theorem readGran_sector {ag : Agent} {g : Nat} {d : List Byte} (h : s.tiers.sector g = some d) :
    (readGran ag g).go s = (.ok d, s.reach g) := by
  rw [readGran_eq]
  exact fetchGran_sector (((State.Lending.reach s g).sector g).trans h)

/-- A granule of HBM in which no error waits is read as it is. -/
theorem readGran_clean {ag : Agent} {g : Nat} (hs : s.tiers.sector g = none) (hp : g ∉ s.hbm.poison) (hl : s.hbm.latent = []) :
    (readGran ag g).go s = (.ok (s.gran g), ((s.reach g).admitGran ag.isUnit g).spent g) := by
  have hreach := State.Lending.reach s g
  have hdec : (s.reach g).hbm.decode g = (0, false) := Hbm.decode_clean (by simp [hl])
  have hout : (s.reach g).decoded ag g = ((s.reach g).admitGran ag.isUnit g).spent g := by
    rcases (s.reach g).decoded_eq ag g with ⟨-, h⟩ | ⟨h, -⟩
    · exact h
    · exact absurd (congrArg Prod.fst hdec) h
  rw [readGran_eq, fetchGran_good ((hreach.sector g).trans hs) (by rwa [State.reach_hbm]) (by rw [hdec]), hdec, hout,
    State.gran_of_none hs]
  simp [State.spent, Hbm.spend]

/-- A granule of a page gives its bytes, or free values where it is poisoned; and memory stays. -/
theorem lentGran_reads {base i : Nat} (hs : s.poolOk) (hl : s.hbm.latent = []) (bs : List Byte) :
    s.Lending (lentGran base tag i (s, bs)).1 ∧ ∃ d, (lentGran base tag i (s, bs)).2 = bs ++ d ∧ d.length = 64 ∧
      (s.tiers.sector (base / 64 + i) ≠ none ∨ base / 64 + i ∉ s.hbm.poison → d = s.gran (base / 64 + i)) := by
  have hreach := State.Lending.reach s (base / 64 + i)
  have hadmit := hreach.trans (.admitGran _ lenderAgent.isUnit (base / 64 + i))
  have hgran := State.gran_length hs (base / 64 + i)
  cases hsec : s.tiers.sector (base / 64 + i) with
  | some d =>
    rw [lentGran, readGran_sector hsec]
    exact ⟨hreach, s.gran (base / 64 + i), by rw [State.gran_of_sector hsec], hgran, fun _ => rfl⟩
  | none =>
    by_cases hp : base / 64 + i ∈ s.hbm.poison
    · have herr (u : State) (a n : Nat) : u.accError lenderAgent (.poison a false n) = u := by simp [State.accError, lenderAgent]
      rw [lentGran, readGran_poison hsec hp]
      dsimp only
      rw [herr]
      exact ⟨hadmit.trans ⟨rfl, rfl, rfl, id⟩, _, rfl, by simp, fun h => absurd hp (h.resolve_left fun h => h rfl)⟩
    · rw [lentGran, readGran_clean hsec hp hl]
      exact ⟨hadmit.trans (.spent _ _), _, rfl, hgran, fun _ => rfl⟩

/-- The granules sent so far, each as the coherence point shows it, or free where it is poisoned. -/
theorem lentPage_reads (hs : s.poolOk) (hl : s.hbm.latent = []) (base n : Nat) :
    let a := (List.range n).foldl (fun a i => lentGran base tag i a) (s, [])
    s.Lending a.1 ∧ a.2.length = 64 * n ∧ ∀ i < n, s.tiers.sector (base / 64 + i) ≠ none ∨ base / 64 + i ∉ s.hbm.poison →
      (a.2.drop (64 * i)).take 64 = s.gran (base / 64 + i) := by
  induction n with
  | zero => exact ⟨.refl, rfl, fun i hi => absurd hi (Nat.not_lt_zero i)⟩
  | succ n ih =>
    obtain ⟨hlend, hlen, hread⟩ := ih
    rw [List.range_succ, List.foldl_append, List.foldl_cons, List.foldl_nil]
    generalize (List.range n).foldl (fun a i => lentGran base tag i a) (s, []) = a at hlend hlen hread
    obtain ⟨u, bs⟩ := a
    obtain ⟨hnext, d, hd, hdl, hgran⟩ := lentGran_reads (tag := tag) (base := base) (i := n)
      (show u.poolOk by rw [State.poolOk, hlend.pool]; exact hs) (hlend.latent hl) bs
    refine ⟨hlend.trans hnext, by rw [hd, List.length_append, hlen, hdl]; rfl, fun i hi hok => ?_⟩
    have hlen : bs.length = 64 * n := hlen
    rw [hd]
    rcases Nat.lt_succ_iff_lt_or_eq.mp hi with hin | rfl
    · rw [List.drop_append_of_le_length (by omega), List.take_append_of_le_length (by rw [List.length_drop]; omega)]
      exact hread i hin hok
    · rw [← hlen, List.drop_left, List.take_of_length_le (Nat.le_of_eq hdl)]
      rw [hlend.sector, hlend.poison, hlend.gran] at hgran
      exact hgran hok

/-- A page that a lender sends shows its bytes as its staging cache and memory show them. -/
theorem State.lentPage_byte {i : Nat} (hs : s.poolOk) (hb : l.base % 4096 = 0) (hi : i < 4096) (hl : s.hbm.latent = [])
    (hok : s.tiers.sector ((l.base + page * 4096 + i) / 64) ≠ none ∨ (l.base + page * 4096 + i) / 64 ∉ s.hbm.poison) :
    ((s.lentPage l page tag).2)[i]? = some (s.byteAt (l.base + page * 4096 + i)) := by
  obtain ⟨-, hlen, hread⟩ := lentPage_reads (tag := tag) hs hl (l.base + page * 4096) 64
  have hg : (l.base + page * 4096 + i) / 64 = (l.base + page * 4096) / 64 + i / 64 := by omega
  have hmod : (l.base + page * 4096 + i) % 64 = i % 64 := by omega
  rw [hg] at hok
  have hbytes := hread (i / 64) (by omega) hok
  rw [State.byteAt_eq, hg, hmod, ← hbytes, List.getD_eq_getElem?_getD, List.getElem?_take_of_lt (Nat.mod_lt _ (by decide)),
    List.getElem?_drop, Nat.div_add_mod]
  have hin : i < (s.lentPage l page tag).2.length := hlen ▸ hi
  rw [State.lentPage] at hin ⊢
  rw [List.getElem?_eq_getElem hin, Option.getD_some]

/-! ### The sectors that a borrower writes (R232) -/

/-- One marked sector is written whole. -/
theorem writeGran_whole {g : Nat} {d : List Byte} (hs : s.InForm) (hd : d.length = 64) :
    s.WroteGran lenderAgent g 0 d ((writeGran lenderAgent g 0 d none).go s).2 := by
  refine writeGran_wrote hs (by omega) ?_
  rw [writeGran, Acc.go_bind_ok (meetHost_unsnooped rfl _ _ s), Acc.go_bind_ok (Acc.go_modify _ _), Acc.go_bind_ok (Acc.go_get _)]
  dsimp only
  rw [hd]
  split
  · rfl
  · split <;> rfl

@[simp] theorem padTo_length (n : Nat) (bs : List Byte) : (padTo n bs).length = n := by
  rw [padTo, List.length_append, List.length_take, List.length_replicate]
  omega

theorem padTo_of_length {n : Nat} {bs : List Byte} (h : bs.length = n) : padTo n bs = bs := by
  rw [padTo, List.take_of_length_le (Nat.le_of_eq h), h, Nat.sub_self, List.replicate_zero, List.append_nil]

/-- One sector of a page and the data for those behind it. -/
def putSector1 (base : Nat) (a : State × List Byte) (i : Nat) : State × List Byte :=
  (((writeGran lenderAgent (base / 64 + i) 0 (padTo 64 (a.2.take 64)) none).go a.1).2, a.2.drop 64)

/-- Each of the sectors takes its 64 bytes of the data, in order, and no other granule changes. -/
theorem putSectors_grans (base : Nat) {ks : List Nat} (hk : ks.Nodup) {s : State} (hs : s.InForm) (data : List Byte) :
    (ks.foldl (putSector1 base) (s, data)).1.InForm ∧
    (∀ g, (∀ k ∈ ks, g ≠ base / 64 + k) → (ks.foldl (putSector1 base) (s, data)).1.gran g = s.gran g) ∧
    ∀ n k, ks[n]? = some k →
      (ks.foldl (putSector1 base) (s, data)).1.gran (base / 64 + k) = padTo 64 ((data.drop (64 * n)).take 64) := by
  induction ks generalizing s data with
  | nil => exact ⟨hs, fun g _ => rfl, fun n k h => by simp at h⟩
  | cons k ks ih =>
    obtain ⟨hnot, hnd⟩ := List.nodup_cons.mp hk
    have hw := writeGran_whole (g := base / 64 + k) hs (padTo_length 64 (data.take 64))
    obtain ⟨hform, hout, hin⟩ := ih hnd hw.form (data.drop 64)
    have hgran := hw.gran
    rw [putBytes_whole (by rw [padTo_length, State.gran_length hs.pool])] at hgran
    rw [List.foldl_cons]
    refine ⟨hform, fun g hg => ?_, fun n j hj => ?_⟩
    · obtain ⟨hgk, hgs⟩ := List.forall_mem_cons.mp hg
      exact (hout g hgs).trans ((hgran g).trans (if_neg hgk))
    · cases n with
      | zero =>
        obtain rfl : k = j := Option.some_inj.mp hj
        refine (hout _ fun i hi heq => hnot ?_).trans ((hgran _).trans (if_pos rfl))
        rwa [Nat.add_left_cancel heq]
      | succ n =>
        rw [show 64 * (n + 1) = 64 + 64 * n by omega, ← List.drop_drop]
        exact hin n j hj

/-- The marked sectors of a page hold the data in order; every other byte stays. -/
theorem State.putSectors_bytes {base : Nat} {m : BitVec 64} {data : List Byte} (hs : s.InForm) (hb : base % 4096 = 0)
    (hlen : data.length = 64 * ((List.range 64).filter fun i => m.getLsbD i).length) :
    (∀ a, a < base ∨ base + 4096 ≤ a → (s.putSectors base m data).byteAt a = s.byteAt a) ∧
    (∀ i < 4096, m.getLsbD (i / 64) = false → (s.putSectors base m data).byteAt (base + i) = s.byteAt (base + i)) ∧
    ∀ n k, ((List.range 64).filter fun i => m.getLsbD i)[n]? = some k → ∀ i < 64,
      some ((s.putSectors base m data).byteAt (base + 64 * k + i)) = data[64 * n + i]? := by
  obtain ⟨-, hout, hin⟩ := putSectors_grans base (List.nodup_range.filter fun i => m.getLsbD i) hs data
  have hmark : ∀ k, k ∈ (List.range 64).filter (fun i => m.getLsbD i) ↔ k < 64 ∧ m.getLsbD k = true := fun k => by simp
  have hsame : ∀ a, (∀ k < 64, m.getLsbD k = true → a / 64 ≠ base / 64 + k) → (s.putSectors base m data).byteAt a = s.byteAt a :=
    fun a ha => by
      rw [State.byteAt_eq, State.byteAt_eq]
      exact congrArg (·.getD (a % 64) 0) (hout (a / 64) fun k hk => ha k ((hmark k).mp hk).1 ((hmark k).mp hk).2)
  refine ⟨fun a ha => hsame a fun k hk _ => by omega, fun i hi hm => hsame _ fun k hk hmk heq => ?_, fun n k hk i hi => ?_⟩
  · rw [show i / 64 = k by omega, hmk] at hm
    cases hm
  · have hn := (List.getElem?_eq_some_iff.mp hk).1
    have hpad : ((data.drop (64 * n)).take 64).length = 64 := by
      rw [List.length_take, List.length_drop, hlen]
      omega
    have hgran := hin n k hk
    rw [padTo_of_length hpad] at hgran
    have hdiv : (base + 64 * k + i) / 64 = base / 64 + k := by omega
    have hmod : (base + 64 * k + i) % 64 = i := by omega
    rw [State.byteAt_eq, hdiv, hmod]
    refine (congrArg (fun d => some (d.getD i 0)) hgran).trans ?_
    rw [List.getD_eq_getElem?_getD, List.getElem?_take_of_lt hi, List.getElem?_drop, List.getElem?_eq_getElem (by omega),
      Option.getD_some]

/-! ### The borrower's frames (R222, R229, R235) -/

/-- The writes of a frame's bytes into the HBM that holds it are not the model's copy of them, which the frame keeps. -/
theorem State.overwrite_left (s : State) (g : Nat) (whole : Bool) : (s.overwrite g whole).hbm.mem = s.hbm.mem ∧
    (s.overwrite g whole).tiers.pool = s.tiers.pool ∧ (s.overwrite g whole).queues = s.queues := by
  obtain ⟨r, w, x, y, h1⟩ := s.reach_only g
  obtain ⟨k, x', y', h2⟩ := (s.reach g).admitGran_only true g
  rw [State.overwrite, h2, h1]
  dsimp only
  split
  · exact ⟨Hbm.clearGran_mem _ _, rfl, rfl⟩
  · exact ⟨rfl, rfl, rfl⟩

theorem State.putFrame_left (s : State) (b : Borrowed) (page lo n : Nat) : (s.putFrame b page lo n).hbm.mem = s.hbm.mem ∧
    (s.putFrame b page lo n).tiers.pool = s.tiers.pool ∧ (s.putFrame b page lo n).queues = s.queues := by
  refine List.foldlRecOn (motive := fun t : State => t.hbm.mem = s.hbm.mem ∧ t.tiers.pool = s.tiers.pool ∧ t.queues = s.queues) _ _
    ⟨rfl, rfl, rfl⟩ fun t ⟨hm, hp, hq⟩ k _ => ?_
  dsimp only
  split
  · exact ⟨hm, hp, hq⟩
  · obtain ⟨hm', hp', hq'⟩ := t.overwrite_left (t.place (b.gran page k)) (decide (lo ≤ 64 * k) && decide (64 * k + 64 ≤ lo + n))
    exact ⟨hm'.trans hm, hp'.trans hp, hq'.trans hq⟩

/-- A page that comes with no write left for it fills its frame, clean and out of transfer. -/
theorem State.settleFrame_fills {lender p : Nat} {bs : List Byte} (hl : s.tiers.late lender lease p = []) :
    (s.settleFrame lender lease p bs).tiers.pool =
        (s.tiers.onFrame lender lease p fun e => match e with | .frame l i n _ _ h _ => .frame l i n 0 bs h none | e => e).pool ∧
      (s.settleFrame lender lease p bs).hbm.mem = s.hbm.mem ∧ (s.settleFrame lender lease p bs).queues = s.queues := by
  rw [State.settleFrame, hl]
  dsimp only [List.foldl_nil]
  split
  · rename_i b _
    generalize hu : ({ s with tiers := _ } : State) = u
    obtain ⟨hm, hp, hq⟩ := u.putFrame_left b p 0 4096
    subst hu
    exact ⟨hp, hm, hq⟩
  · exact ⟨rfl, rfl, rfl⟩

/-- Settles O27, from one lemma for each message, the page that a lender sends, the sectors that it takes, and the frame that an answer
fills. -/
theorem leaseMessages : Obligations.LeaseMessages := by
  refine ⟨fun s t f lease page tag l => lentRead_answers, fun s t f lease page tag l sectors data => lentWrite_writes,
    fun s l page tag i => State.lentPage_byte, fun s base m data hm hp => State.putSectors_bytes ⟨hm, hp⟩,
    fun s t f lease tag l => lentClaim_grants, fun s t f lease tag l => lentReturn_ends, fun s t f lease result tag data hr => ?_, ?_, ?_⟩
  · show execLentResponse f lease result tag data s = _
    rw [execLentResponse, hr]
  · intro s f lease tag p bs old hb ht hl
    obtain ⟨hpool, hmem, hq⟩ := State.settleFrame_fills (bs := bs) hl
    have hdata : s.lentAnswer f lease 0 tag (some bs) = s.settleFrame f.srcDev lease p bs := by
      unfold State.lentAnswer
      rw [hb, ht]
      rfl
    have hnone : s.lentAnswer f lease 0 tag none = { s with tiers := s.tiers.dropFrame f.srcDev lease p } := by
      unfold State.lentAnswer
      rw [hb, ht]
      exact if_pos (congrArg List.isEmpty hl)
    rw [hdata, hnone]
    exact ⟨hpool, rfl, hmem, hq⟩
  · intro s f lease result tag data hb ht
    refine ⟨?_, fun hr => ?_, ?_⟩
    · unfold State.lentAnswer
      rw [hb, ht]
      rfl
    · unfold State.lentAnswer
      rw [hb]
      exact if_pos hr
    · unfold State.lentAnswer
      rw [hb]
      rfl

end Sys2Proof.Machine
end

section
/-! Memory lent and borrowed (R227, R228, R230, R231): what a lend zeroes, and the jobs of LEND_MEMORY, BORROW_MEMORY and
RETURN_MEMORY. -/

namespace Sys2Proof.Machine

/-! ### Zeroing a range (R227) -/

theorem memWf_filter {m : List Host.Cell} (p : Host.Cell → Bool) (h : memWf m = true) : memWf (m.filter p) = true := by
  induction m with
  | nil => rfl
  | cons c r ih =>
    rw [List.filter_cons]
    split
    · exact memWf_cons (memWf_head h) (fun d hd => memWf_lt h d (List.mem_of_mem_filter hd)) (ih (memWf_tail h))
    · exact ih (memWf_tail h)

/-- Cells that go by their addresses: the rest read as before, those read as an unlisted address does. -/
theorem memGet_filter {m : List Host.Cell} (p : Nat → Bool) (h : memWf m = true) (a : Nat) :
    memGet (m.filter fun c => p c.1) a = if p a then memGet m a else memDefault := by
  induction m with
  | nil => exact (ite_self _).symm
  | cons c r ih =>
    have hlt := memWf_lt h
    have hr := ih (memWf_tail h)
    by_cases hc : c.1 = a
    · have hout : memGet (r.filter fun c => p c.1) a = memDefault := memGet_of_lt fun d hd => hc ▸ hlt d (List.mem_of_mem_filter hd)
      cases hp : p a <;> simp [memGet, hc, hp, hout]
    · by_cases hac : a < c.1
      · have hout : memGet ((c :: r).filter fun c => p c.1) a = memDefault := memGet_of_lt fun d hd =>
          (List.mem_cons.mp (List.mem_of_mem_filter hd)).elim (fun he => he ▸ hac) fun hd => hac.trans (hlt d hd)
        simp [hout, memGet, hc, hac]
      · cases hp : p c.1 <;> simp [memGet, hc, hac, hp, hr]

theorem Hbm.memGet_zero {h : Hbm} (base size : Nat) (hm : memWf h.mem = true) (a : Nat) :
    memGet (h.zero base size).mem a = if base ≤ a ∧ a < base + size then 0 else memGet h.mem a := by
  refine (memGet_filter (fun k => decide (k < base) || decide (base + size ≤ k)) hm a).trans ?_
  by_cases hin : base ≤ a ∧ a < base + size
  · rw [if_pos hin, if_neg (by simp; omega)]
    rfl
  · rw [if_neg hin, if_pos (by simp; omega)]

theorem PoolEntry.shape_of_isLine {b : Nat} {e : PoolEntry} (h : e.isLine b = true) : ∃ v d data hint, e = .line b v d data hint := by
  cases e with
  | line c v d data hint => exact ⟨v, d, data, hint, by rw [beq_iff_eq.mp h]⟩
  | row | frame => cases h

/-- Lines that go by their blocks: the rest stay, those are no longer held. -/
theorem find?_isLine_filter (pool : List PoolEntry) {p : PoolEntry → Bool} {b : Nat} {keep : Bool}
    (hp : ∀ e : PoolEntry, e.isLine b = true → p e = keep) :
    (pool.filter p).find? (·.isLine b) = if keep then pool.find? (·.isLine b) else none := by
  rw [List.find?_filter]
  cases keep with
  | true =>
    refine congrArg (List.find? · pool) (funext fun e => ?_)
    by_cases he : e.isLine b = true
    · simp [he, hp e he]
    · simp [he]
  | false =>
    refine List.find?_eq_none.mpr fun e _ => ?_
    by_cases he : e.isLine b = true
    · simp [hp e he]
    · simp [he]

/-- Zeroing a range of whole blocks, where the staging cache's lines of it go. -/
theorem State.zeroRange_byteAt {s : State} {base size : Nat} (hm : s.memOk) (hb : base % 256 = 0) (hn : size % 256 = 0) (a : Nat) :
    (s.zeroRange base size).byteAt a = if base ≤ a ∧ a < base + size then 0 else s.byteAt a := by
  have hline : (s.zeroRange base size).tiers.pool.find? (·.isLine (a / 64 / 4)) =
      if (!decide (base ≤ a ∧ a < base + size)) then s.tiers.pool.find? (·.isLine (a / 64 / 4)) else none := by
    refine find?_isLine_filter _ fun e he => ?_
    obtain ⟨v, d, data, hint, rfl⟩ := PoolEntry.shape_of_isLine he
    dsimp only
    rw [← Bool.decide_or, ← decide_not]
    exact decide_eq_decide.mpr (by omega)
  have hmem : (s.zeroRange base size).hbm.mem = (s.hbm.zero base size).mem := rfl
  by_cases hin : base ≤ a ∧ a < base + size
  · rw [if_neg (by rw [decide_eq_true hin]; decide)] at hline
    rw [State.byteAt, Tiers.sector, hline, if_pos hin]
    exact (Hbm.memGet_zero base size hm a).trans (if_pos hin)
  · rw [if_pos (by rw [decide_eq_false hin, Bool.not_false])] at hline
    rw [State.byteAt, Tiers.sector, hline, hmem, Hbm.memGet_zero base size hm a, if_neg hin, if_neg hin]
    rfl

/-! ### The jobs (R228, R230, R231) -/

section Jobs

variable {s s0 : State} {q : QueueId} {j : Job}

/-- A range that the host holds nothing of is zeroed and lent. -/
theorem State.lendRun_lends {r : JobRef} {id : Nat} {z : State} (hbad : s.badLend (j.p 0).toNat ((j.p 1).field 0 10 * gib) = false)
    (hid : (List.range 64).find? (fun i => (s.lentBy i).isNone) = some id)
    (hheld : s.cxl.heldIn (j.p 0).toNat ((j.p 1).field 0 10 * gib) = [])
    (hz : z = s.zeroRange (j.p 0).toNat ((j.p 1).field 0 10 * gib)) :
    s.lendRun r j = (({ z with tiers := { z.tiers with
      lent := z.tiers.lent ++ [(⟨id, (j.p 0).toNat, (j.p 1).field 0 10 * gib, (j.p 1).field 16 14, none, false⟩ : Lent)] } }).relist).finishJob
        r 0 id 0 := by
  rw [State.lendRun, hid]
  dsimp only
  rw [hheld, hbad, hz]
  exact if_neg Bool.false_ne_true

/-- What the host holds of the range is asked back first (R319). -/
theorem State.lendRun_asks {r : JobRef} {id : Nat} (hid : (List.range 64).find? (fun i => (s.lentBy i).isNone) = some id)
    (hheld : s.cxl.heldIn (j.p 0).toNat ((j.p 1).field 0 10 * gib) ≠ []) :
    s.lendRun r j = (s.cxl.heldIn (j.p 0).toNat ((j.p 1).field 0 10 * gib)).foldl (fun s l => s.sendSnoop l true) s := by
  rw [State.lendRun, hid]
  dsimp only
  split
  · rename_i hnone
    exact absurd hnone hheld
  · rfl

theorem lendMemory_runs (hs : s.takes q (isOp 0x58) j s0) (hok : lendOk j = true) :
    exec (.lendMemory q) s = .next (s0.lendRun (j.refOn q) j) := congrArg _ (State.runJob_takes hs (if_pos hok))

theorem borrowMemory_claims (hs : s.starts q (isOp 0x59) j) (hf : fits (j.p 0) [(0, 14), (16, 6), (32, 6)] = true)
    (hf' : fits (j.p 1) [(0, 48)] = true) (hbase : (j.p 1).toNat % 2 ^ 21 = 0) (hc : (j.p 0).field 32 6 ≠ 0)
    (hm : (s.begun q j).model.res ≠ none) (ho : ((s.begun q j).ctx ((j.p 0).field 32 6)).st = .opened)
    (hn : (s.begun q j).tiers.borrowed.length + (s.begun q j).claims < 64) :
    execBorrowMemory q s = .next (((s.begun q j).newTag.1.setJob (j.refOn q) fun x => { x with
      aux := [(j.p 0).field 0 14, (j.p 0).field 16 6, (j.p 0).field 32 6, (j.p 1).toNat, (s.begun q j).newTag.2] }).sendMsg
        ((j.p 0).field 0 14) false 0xA (lentControlBody ((j.p 0).field 16 6) 0 (s.begun q j).newTag.2)) := by
  rw [execBorrowMemory, State.runOnce_starts hs]
  dsimp only
  rw [if_neg (by rw [hf, hf', hbase]; simp [hc]), if_neg (by simpa using hm), if_neg (not_not.mpr ho),
    if_neg (by omega)]

theorem returnMemoryRevoke_ends {l : Lent} (hs : s.starts q revokeMine j) (hf : fits (j.p 0) [(16, 6), (24, 1)] = true)
    (hl : (s.begun q j).lentBy ((j.p 0).field 16 6) = some l) :
    execReturnMemoryRevoke q s = .next (((s.begun q j).endLease l).finishJob (j.refOn q) 0 0 0) := by
  rw [execReturnMemoryRevoke, State.runOnce_starts hs]
  rw [if_neg (by simp [hf]), hl]
  rfl

theorem returnMemory_begins {b : Borrowed} (hs : s.starts q returnMine j) (hf : fits (j.p 0) [(0, 14), (16, 6), (24, 1)] = true)
    (hb : b ∈ (s.begun q j).tiers.borrowed) (hl : b.lender = (j.p 0).field 0 14) (he : b.lease = (j.p 0).field 16 6)
    (hr : b.returning = none) :
    execReturnMemory q s = .next
      (((s.begun q j).beginReturn ((j.p 0).field 0 14) ((j.p 0).field 16 6)).returnRun (j.refOn q) ((j.p 0).field 0 14)
        ((j.p 0).field 16 6)) := by
  have hany : ((s.begun q j).tiers.borrowed.any fun b =>
      b.lender == (j.p 0).field 0 14 && b.lease == (j.p 0).field 16 6 && b.returning.isNone) = true :=
    List.any_eq_true.mpr ⟨b, hb, by simp [hl, he, hr]⟩
  rw [execReturnMemory, State.runJob_starts hs]
  dsimp only
  rw [if_neg (by simp [hf]), if_neg (by rw [hany]; decide)]

theorem borrowTimeout_ends {now : Nat} {x : Job} (hw : (s.advanceTo now).waitingJob q.val (isOp 0x59) = some x)
    (ha : (s.advanceTo now).alive = true) (ht : 1000000 ≤ (s.advanceTo now).now - x.since) :
    execBorrowTimeout now q s = .next ((s.advanceTo now).finishJob (x.refOn q) 0x22 4 0) := by
  rw [execBorrowTimeout, hw]
  exact if_pos (by simp [ha, ht])

end Jobs

/-- Settles O24, from the zeroed range and one lemma for each job. -/
theorem leaseJobs : Obligations.LeaseJobs := by
  refine ⟨fun s s0 z q j id base size hs hok hbase hsize hbad hid => ?_, fun s base size => State.zeroRange_byteAt,
    fun h base size => Hbm.memGet_zero base size, fun s s0 q j hs h0 hf hf' hb hc hm ho hn => ?_, fun s s0 q j hs h0 hf l hl => ?_,
    fun s s0 q j b hs h0 hf hb hl he hr => ?_, fun s s0 q now x h0 hw ha ht => ?_⟩
  · subst hbase hsize
    have hsame : s0.badLend (j.p 0).toNat ((j.p 1).field 0 10 * gib) = false := by
      obtain ⟨-, ⟨-, rfl⟩ | ⟨-, -, rfl⟩⟩ := hs <;> exact hbad
    refine ⟨fun hheld hz => (lendMemory_runs hs hok).trans (congrArg _ (State.lendRun_lends hsame hid hheld hz)),
      fun hheld => (lendMemory_runs hs hok).trans (congrArg _ (State.lendRun_asks hid hheld))⟩
  · subst h0
    exact borrowMemory_claims hs hf hf' hb hc hm ho hn
  · subst h0
    exact returnMemoryRevoke_ends hs hf hl
  · subst h0
    exact returnMemory_begins hs hf hb hl he hr
  · subst h0
    exact borrowTimeout_ends hw ha ht

end Sys2Proof.Machine
end

section
/-! The form that every step keeps (assumption 22): what each part of the model does to memory's cells and to the staging cache's
entries. A function that leaves both has an equation for them; one that changes either keeps the form. -/

namespace Sys2Proof.Machine

/-- Memory's cells and the staging cache's entries. -/
abbrev Form := List Host.Cell × List PoolEntry

/-- Memory's addresses rise strictly and list nothing an unlisted address reads as; the pool's lines are well formed. -/
def Form.Ok (f : Form) : Prop := memWf f.1 = true ∧ poolWf f.2 = true

/-- What the form is said of, in a state. -/
def State.form (s : State) : Form := (s.hbm.mem, s.tiers.pool)

theorem State.hbm_mem (s : State) : s.hbm.mem = s.form.1 := by rfl
theorem State.tiers_pool (s : State) : s.tiers.pool = s.form.2 := by rfl

@[simp] theorem State.form_fold (s : State) : (s.hbm.mem, s.tiers.pool) = s.form := by rfl

@[simp] theorem State.mk_form (pkg boot recorder mram fuses sec regs cxl xlat queues ctxs seqs model tabs lookups strag upd slots cls
    tiers hbm fab dim err regions oes power sched tap i3c out pending) :
    State.form ⟨pkg, boot, recorder, mram, fuses, sec, regs, cxl, xlat, queues, ctxs, seqs, model, tabs, lookups, strag, upd, slots, cls,
      tiers, hbm, fab, dim, err, regions, oes, power, sched, tap, i3c, out, pending⟩ = (hbm.mem, tiers.pool) := by rfl

@[simp] theorem ite_form (c : Prop) [Decidable c] (s t : State) : (if c then s else t).form = if c then s.form else t.form :=
  apply_ite State.form c s t

@[simp] theorem Form.ite_ok (c : Prop) [Decidable c] (f g : Form) : (if c then f else g).Ok ↔ if c then f.Ok else g.Ok := by
  split <;> rfl

@[simp] theorem foldl_form {α : Type} {f : State → α → State} (h : ∀ t a, (f t a).form = t.form) (l : List α) (s : State) :
    (l.foldl f s).form = s.form := by
  induction l generalizing s with
  | nil => rfl
  | cons a l ih => exact (ih _).trans (h s a)

/-- A loop whose rounds each keep the form. -/
@[simp] theorem foldl_ok {α : Type} {f : State → α → State} (h : ∀ t a, t.form.Ok → (f t a).form.Ok) (l : List α) {s : State} (hs : s.form.Ok) :
    (l.foldl f s).form.Ok :=
  List.foldlRecOn (motive := fun t => t.form.Ok) l f hs fun t ht a _ => h t a ht

/-- A loop that carries a value beside the state. -/
theorem foldl_fst_form {α β : Type} {f : State × β → α → State × β} (h : ∀ b a, (f b a).1.form = b.1.form) (l : List α) (b : State × β) :
    (l.foldl f b).1.form = b.1.form :=
  List.foldlRecOn (motive := fun c : State × β => c.1.form = b.1.form) l f rfl fun c hc a _ => (h c a).trans hc

theorem foldl_fst_ok {α β : Type} {f : State × β → α → State × β} (h : ∀ b a, b.1.form.Ok → (f b a).1.form.Ok) (l : List α) {b : State × β}
    (hb : b.1.form.Ok) : (l.foldl f b).1.form.Ok :=
  List.foldlRecOn (motive := fun c : State × β => c.1.form.Ok) l f hb fun c hc a _ => h c a hc

/-- The state of a pair that a match has taken apart. -/
theorem fst_form {β : Type} {p : State × β} {t : State} {b : β} (h : p = (t, b)) : t.form = p.1.form := by
  rw [h]

/-! ### What the staging cache's own operations keep -/

section Pool

variable {f : Form}

@[simp] theorem Form.Ok.write (h : f.Ok) (a : Nat) (bs : List Byte) : Form.Ok (memWrite f.1 a bs, f.2) := ⟨memWrite_wf a bs h.1, h.2⟩

@[simp] theorem Form.Ok.filter (h : f.Ok) (p : PoolEntry → Bool) : Form.Ok (f.1, f.2.filter p) := ⟨h.1, poolWf_filter h.2 p⟩

@[simp] theorem Form.Ok.front (h : f.Ok) (p : PoolEntry → Bool) : Form.Ok (f.1, f.2.filter p ++ f.2.filter (!p ·)) :=
  ⟨h.1, poolWf_front h.2 p⟩

@[simp] theorem Form.Ok.mapFrames (h : f.Ok) {k : PoolEntry → PoolEntry} (hk : ∀ e, k e = e ∨ (e.block? = none ∧ (k e).block? = none)) :
    Form.Ok (f.1, f.2.map k) := ⟨h.1, poolWf_map_frames h.2 hk⟩

/-- An entry that is no line of the memory's. -/
theorem Form.Ok.insert (h : f.Ok) {e : PoolEntry} (he : e.block? = none) (hint : Hint) : Form.Ok (f.1, poolInsert f.2 e hint) :=
  ⟨h.1, poolWf_insert h.2 (PoolEntry.fine_of_block?_none he) (fun b hb => by rw [he] at hb; cases hb) hint⟩

theorem Form.Ok.append (h : f.Ok) {e : PoolEntry} (he : e.block? = none) : Form.Ok (f.1, f.2 ++ [e]) :=
  ⟨h.1, poolWf_append h.2 (PoolEntry.fine_of_block?_none he) fun b hb => by rw [he] at hb; cases hb⟩

end Pool

/-! ### Accesses, and work made of them -/

/-- A program over the state that keeps the form, however it ends. -/
structure Keeps {ε α : Type} (m : ExceptT ε (StateM State) α) : Prop where
  run : ∀ s : State, s.form.Ok → ((ExceptT.run m).run s).2.form.Ok

section Keeps

variable {ε α β : Type} {m : ExceptT ε (StateM State) α} {k : α → ExceptT ε (StateM State) β}

theorem Keeps.of_run (hm : Keeps m) {s t : State} {r : Except ε α} (hs : s.form.Ok) (h : (ExceptT.run m).run s = (r, t)) : t.form.Ok := by
  have ht := hm.run s hs
  rwa [h] at ht

theorem Keeps.of_go {m : Acc α} (hm : Keeps m) {s t : State} {r : Except AccFail α} (hs : s.form.Ok) (h : m.go s = (r, t)) : t.form.Ok :=
  hm.of_run hs h

@[simp] theorem keeps_pure (a : α) : Keeps (pure a : ExceptT ε (StateM State) α) := ⟨fun _ hs => hs⟩
@[simp] theorem keeps_throw (e : ε) : Keeps (throw e : ExceptT ε (StateM State) α) := ⟨fun _ hs => hs⟩
@[simp] theorem keeps_get : Keeps (get : ExceptT ε (StateM State) State) := ⟨fun _ hs => hs⟩
@[simp] theorem Keeps.set {s : State} (h : s.form.Ok) : Keeps (set s : ExceptT ε (StateM State) PUnit) := ⟨fun _ _ => h⟩
@[simp] theorem keeps_modify {f : State → State} :
    Keeps (modify f : ExceptT ε (StateM State) PUnit) ↔ ∀ s, s.form.Ok → (f s).form.Ok := ⟨fun h => h.run, fun h => ⟨h⟩⟩
theorem Keeps.modify {f : State → State} (h : ∀ s, s.form.Ok → (f s).form.Ok) : Keeps (modify f : ExceptT ε (StateM State) PUnit) :=
  keeps_modify.mpr h

/-- A state function that leaves the form. -/
theorem keeps_modifyForm {f : State → State} (h : ∀ s, (f s).form = s.form) : Keeps (modify f : ExceptT ε (StateM State) PUnit) :=
  .modify fun s hs => (h s).symm ▸ hs

/-- A sequence whose first part answers only what satisfies `P`. -/
theorem Keeps.bindOf {P : α → Prop} (hm : Keeps m) (hp : ∀ s t a, s.form.Ok → (ExceptT.run m).run s = (.ok a, t) → P a)
    (hk : ∀ a, P a → Keeps (k a)) : Keeps (m >>= k) := by
  refine ⟨fun s hs => ?_⟩
  rw [ExceptT.run_bind, StateT.run_bind]
  rcases h : (ExceptT.run m).run s with ⟨e | a, t⟩
  · exact hm.of_run hs h
  · exact (hk a (hp s t a hs h)).run t (hm.of_run hs h)

@[simp] theorem Keeps.bind (hm : Keeps m) (hk : ∀ a, Keeps (k a)) : Keeps (m >>= k) := hm.bindOf (P := fun _ => True) (fun _ _ _ _ _ => trivial) fun a _ => hk a

/-- A state that has been read is in the form. -/
@[simp high] theorem Keeps.getBind {k : State → ExceptT ε (StateM State) β} (hk : ∀ s, s.form.Ok → Keeps (k s)) : Keeps (get >>= k) :=
  keeps_get.bindOf (fun s t a hs h => by cases h; exact hs) hk

@[simp] theorem keeps_map {f : α → β} : Keeps (f <$> m) ↔ Keeps m := by
  have hrun : ∀ s, ((ExceptT.run (f <$> m)).run s).2 = ((ExceptT.run m).run s).2 := fun s => by
    rw [map_eq_pure_bind, ExceptT.run_bind, StateT.run_bind]
    rcases (ExceptT.run m).run s with ⟨e | a, t⟩ <;> rfl
  exact ⟨fun h => ⟨fun s hs => hrun s ▸ h.run s hs⟩, fun h => ⟨fun s hs => (hrun s).symm ▸ h.run s hs⟩⟩

@[simp] theorem Keeps.tryCatch {h : ε → ExceptT ε (StateM State) α} (hm : Keeps m) (hh : ∀ e, Keeps (h e)) : Keeps (tryCatch m h) := by
  refine ⟨fun s hs => ?_⟩
  rw [ExceptT.run_tryCatch, StateT.run_bind]
  rcases hr : (ExceptT.run m).run s with ⟨e | a, t⟩
  · exact (hh e).run t (hm.of_run hs hr)
  · exact hm.of_run hs hr

theorem Keeps.forInMem {γ : Type} {f : γ → β → ExceptT ε (StateM State) (ForInStep β)} (l : List γ) (b : β)
    (hf : ∀ x ∈ l, ∀ b, Keeps (f x b)) : Keeps (forIn l b f) := by
  induction l generalizing b with
  | nil => exact keeps_pure b
  | cons x l ih =>
    rw [List.forIn_cons]
    refine (hf x (List.mem_cons_self ..) b).bind fun r => ?_
    cases r with
    | done c => exact keeps_pure c
    | yield c => exact ih c fun y hy => hf y (List.mem_cons_of_mem x hy)

@[simp] theorem Keeps.forIn {γ : Type} {f : γ → β → ExceptT ε (StateM State) (ForInStep β)} (hf : ∀ x b, Keeps (f x b)) (l : List γ) (b : β) :
    Keeps (forIn l b f) := .forInMem l b fun x _ => hf x

@[simp] theorem Keeps.mapM {γ : Type} {f : γ → ExceptT ε (StateM State) β} (hf : ∀ x, Keeps (f x)) (l : List γ) : Keeps (l.mapM f) := by
  induction l with
  | nil => exact keeps_pure []
  | cons x l ih =>
    rw [List.mapM_cons]
    exact (hf x).bind fun _ => ih.bind fun _ => keeps_pure _

@[simp] theorem Keeps.filterM {γ : Type} {f : γ → ExceptT ε (StateM State) Bool} (hf : ∀ x, Keeps (f x)) (l : List γ) : Keeps (l.filterM f) := by
  have hgo : ∀ acc, Keeps (l.filterAuxM f acc) := by
    induction l with
    | nil => exact fun acc => keeps_pure acc
    | cons x l ih => exact fun acc => (hf x).bind fun b => ih _
  exact (hgo []).bind fun _ => keeps_pure _

@[simp] theorem Keeps.forM {γ : Type} {f : γ → ExceptT ε (StateM State) PUnit} (hf : ∀ x, Keeps (f x)) (l : List γ) : Keeps (l.forM f) := by
  induction l with
  | nil => exact keeps_pure _
  | cons x l ih => exact (hf x).bind fun _ => ih

@[simp] theorem keeps_ite (c : Prop) [Decidable c] (m m' : ExceptT ε (StateM State) α) : Keeps (if c then m else m') ↔ if c then Keeps m else Keeps m' := by
  split <;> rfl

end Keeps

/-! ### What an instruction answers -/

/-- A next state, if there is one, is in the form. -/
structure Formed (o : Host.Outcome State Fault Refusal) : Prop where
  next : ∀ t, o = .next t → t.form.Ok

@[simp] theorem formed_next (t : State) : Formed (.next t) ↔ t.form.Ok := ⟨fun h => h.next t rfl, fun h => ⟨fun u hu => by cases hu; exact h⟩⟩
@[simp] theorem formed_fault (r : Fault) : Formed (.fault r) := ⟨fun _ h => by cases h⟩
@[simp] theorem formed_refused (r : Refusal) : Formed (.refused r) := ⟨fun _ h => by cases h⟩
@[simp] theorem formed_ite (c : Prop) [Decidable c] (o o' : Host.Outcome State Fault Refusal) :
    Formed (if c then o else o') ↔ if c then Formed o else Formed o' := by
  split <;> rfl

end Sys2Proof.Machine
end

section
/-! The form, through the event recorder and the fatal state: neither is in memory or the pool. -/

namespace Sys2Proof.Machine

@[simp] theorem State.raiseFatal_form (s : State) (cause frec) : (s.raiseFatal cause frec).form = s.form := by
  unfold State.raiseFatal
  (repeat' split) <;> simp

@[simp] theorem State.recorderWrite_form (s : State) (f) : (s.recorderWrite f).form = s.form := by simp [State.recorderWrite]

@[simp] theorem State.writeSlotAt_form (s : State) (i e) : (s.writeSlotAt i e).form = s.form := by simp [State.writeSlotAt]

@[simp] theorem State.checkTorn_form (s : State) : s.checkTorn.form = s.form := by
  unfold State.checkTorn
  dsimp only
  (repeat' split) <;> simp

@[simp] theorem State.recordEvent_form (s : State) (e) : (s.recordEvent e).form = s.form := by simp [State.recordEvent]

@[simp] theorem State.recordPort_form (s : State) (port old new lanes) : (s.recordPort port old new lanes).form = s.form := by
  unfold State.recordPort
  (repeat' split) <;> simp

end Sys2Proof.Machine
end

section
/-! The form, through the accesses. These are what the claim turns on: a granule written back, a line allocated, filled, written,
used and released, a frame filled and written, and the bytes at a DPA or a DVA read and written, each keeps the form. -/

namespace Sys2Proof.Machine

@[simp] theorem State.setQueue_form (s : State) (q f) : (s.setQueue q f).form = s.form := by rfl

@[simp] theorem State.setCtx_form (s : State) (c f) : (s.setCtx c f).form = s.form := by rfl

@[simp] theorem State.setSlot_form (s : State) (i f) : (s.setSlot i f).form = s.form := by rfl

@[simp] theorem State.upset_form (s : State) (c) : (s.upset c).form = s.form := by rfl

@[simp] theorem State.setCl_form (s : State) (c f) : (s.setCl c f).form = s.form := by rfl

@[simp] theorem State.progressOf_form (s : State) (i) : (s.progressOf i).form = s.form := by simp [State.progressOf]

@[simp] theorem State.setStack_form (s : State) (r f) : (s.setStack r f).form = s.form := by rfl

@[simp] theorem State.setPort_form (s : State) (p f) : (s.setPort p f).form = s.form := by rfl

@[simp] theorem State.emit_form (s : State) (o) : (s.emit o).form = s.form := by rfl

@[simp] theorem State.cpActs_form (s : State) : s.cpActs.form = s.form := by rfl

@[simp] theorem State.setRegion_form (s : State) (r f) : (s.setRegion r f).form = s.form := by rfl

@[simp] theorem State.atWork_form (s : State) (r) : (s.atWork r).form = s.form := by rfl

@[simp] theorem State.setJob_form (s : State) (j f) : (s.setJob j f).form = s.form := by rfl

@[simp] theorem State.finishJob_form (s : State) (j status detail counts) : (s.finishJob j status detail counts).form = s.form := by rfl

@[simp] theorem State.abortJob_form (s : State) (j detail) : (s.abortJob j detail).form = s.form := by rfl

@[simp] theorem State.halt_form (s : State) (d) : (s.halt d).form = s.form := by
  unfold State.halt
  (repeat' split) <;> simp

@[simp] theorem State.pendError_form (s : State) (d) : (s.pendError d).form = s.form := by rfl

@[simp] theorem State.detect_form (s : State) (d) : (s.detect d).form = s.form := by simp [State.detect]

@[simp] theorem State.sendSnoop_form (s : State) (line inv) : (s.sendSnoop line inv).form = s.form := by simp [State.sendSnoop]

@[simp] theorem State.accError_form (s : State) (ag f) : (s.accError ag f).form = s.form := by
  unfold State.accError
  (repeat' split) <;> simp

@[simp] theorem forgive_keeps {α : Type} (ag : Agent) (a : α) {m : Acc α} (hm : Keeps m) : Keeps (forgive ag a m) := by
  refine hm.tryCatch fun f => ?_
  split
  · exact (Keeps.modify fun s hs => by simp [hs]).bind fun _ => keeps_pure a
  · exact keeps_throw _

@[simp] theorem State.reach_form (s : State) (g) : (s.reach g).form = s.form :=
  Prod.ext (congrArg Hbm.mem (s.reach_hbm g)) (s.reach_pool g)

@[simp] theorem State.admitGran_form (s : State) (unit g) : (s.admitGran unit g).form = s.form :=
  Prod.ext (s.admitGran_mem unit g) (s.admitGran_pool unit g)

@[simp] theorem State.putStack_form (s : State) (unit g data) : (s.putStack unit g data).form = (memWrite s.form.1 (64 * g) data, s.form.2) :=
  Prod.ext (s.putStack_mem unit g data) (s.putStack_pool unit g data)

@[simp] theorem evictLine_formOk {s : State} (h : s.form.Ok) (e) : (evictLine s e).form.Ok := by
  unfold evictLine
  split
  · exact foldl_ok (fun t i ht => by split <;> simp [ht]) _ h
  · exact h

@[simp] theorem evictLine_pool (s : State) (e : PoolEntry) : (evictLine s e).form.2 = s.form.2 := by
  unfold evictLine
  split
  · refine List.foldlRecOn (motive := fun t : State => t.form.2 = s.form.2) _ _ rfl fun t ht i _ => ?_
    split
    · rw [State.putStack_form, ht]
    · exact ht
  · rfl

/-- Room is made by entries that leave. -/
theorem makeRoom_formOk {s t : State} (h : s.form.Ok) {r n fuel : Nat} (ht : makeRoom s r n fuel = some t) :
    t.form.Ok ∧ ∀ e ∈ t.form.2, e ∈ s.form.2 := by
  induction fuel generalizing s with
  | zero =>
    obtain ⟨-, hst⟩ := Option.ite_none_right_eq_some.mp ht
    obtain rfl := Option.some.inj hst
    exact ⟨h, fun e he => he⟩
  | succ fuel ih =>
    rw [makeRoom] at ht
    split at ht
    · obtain rfl := Option.some.inj ht
      exact ⟨h, fun e he => he⟩
    · split at ht
      · cases ht
      · rename_i e rest hrest
        have hleft := fun hs => ih hs ht
        obtain ⟨hok, hin⟩ := hleft ⟨(evictLine_formOk h e).1, poolWf_rest h.2 hrest⟩
        exact ⟨hok, fun x hx => (removeFirst_perm hrest).subset (List.mem_cons_of_mem _ (hin x hx))⟩

theorem allocLine_formOk {s : State} (h : s.form.Ok) {b : Nat} (hb : s.tiers.pool.any (·.isLine b) = false) (hint : Hint) :
    (allocLine s b hint).form.Ok := by
  unfold allocLine
  split
  · exact h
  · rename_i t hroom
    obtain ⟨hok, hin⟩ := makeRoom_formOk h hroom
    refine ⟨hok.1, poolWf_insert hok.2 (PoolEntry.fine_line .. |>.mpr ⟨List.length_replicate, by decide⟩) (fun c hc => ?_) hint⟩
    obtain rfl : b = c := Option.some.inj hc
    exact List.any_eq_false.mpr fun e he => List.any_eq_false.mp hb e (hin e he)

@[simp] theorem useLine_formOk {s : State} (h : s.form.Ok) (b read) : (useLine s b read).form.Ok := by
  unfold useLine
  split
  · rename_i hrest
    exact ⟨h.1, poolWf_newest h.2 hrest⟩
  · rename_i b' v d data n rest hrest
    obtain rfl : b' = b := beq_iff_eq.mp (removeFirst_some hrest).1
    have hfine := poolWf_fine h.2 ((removeFirst_perm hrest).subset (List.mem_cons_self ..))
    split
    · exact h
    · split
      · exact ⟨h.1, poolWf_rest h.2 hrest⟩
      · refine ⟨h.1, poolWf_map h.2 (fun e _ => ?_) fun e _ he => ?_⟩ <;> split
        · rename_i hline
          exact (PoolEntry.isLine_iff.mp hline).symm
        · rfl
        · exact hfine
        · exact he
  · exact h

@[simp] theorem releaseLines_formOk {s : State} (h : s.form.Ok) (blocks) : (releaseLines s blocks).form.Ok := by
  simp [releaseLines, State.hbm_mem, State.tiers_pool, h]

@[simp] theorem State.corrected_form (s : State) (ag dpa n) : (s.corrected ag dpa n).form = s.form := by
  simp [State.corrected, State.hbm_mem, State.tiers_pool]

@[simp] theorem State.strike_form (s : State) (ecc) : (s.strike ecc).form = s.form := by rfl

@[simp] theorem fetchGran_keeps (ag g) : Keeps (fetchGran ag g) := by
  refine ⟨fun s h => ?_⟩
  obtain ⟨hread, -⟩ := fetchGran_reads (r := ((fetchGran ag g).go s).1) (t := ((fetchGran ag g).go s).2) rfl
  exact (Prod.ext hread.mem hread.pool : State.form ((fetchGran ag g).go s).2 = s.form) ▸ h

@[simp] theorem readGran_keeps (ag g) : Keeps (readGran ag g) := by simp [readGran]

@[simp] theorem meetHost_keeps (ag line write) : Keeps (meetHost ag line write) := by
  refine ⟨fun s h => ?_⟩
  rcases meetHost_go ag line write s with hr | ⟨inv, hr⟩ <;> exact (congrArg (fun p => p.2.form.Ok) hr).mpr h

@[simp] theorem PoolEntry.block?_patch (o : Nat) (data : List Byte) (e : PoolEntry) : (e.patch o data).block? = e.block? := by
  cases e <;> rfl

/-- Sixty-four bytes in a present line. -/
theorem setSector_formOk {s : State} (h : s.form.Ok) {sec : List Byte} (hs : sec.length = 64) (b g : Nat) (dirty : Bool) :
    ({ s with tiers := s.tiers.onLine b (PoolEntry.setSector (g % 4) sec dirty) } : State).form.Ok :=
  ⟨h.1, poolWf_onLine h.2 b (fun e => e.block?_setSector ..) fun _ he => PoolEntry.fine_setSector dirty he hs (Nat.mod_lt _ (by decide))⟩

theorem fetchGran_length {ag : Agent} {g : Nat} {s t : State} {d : List Byte} (h : s.form.Ok) (hd : (fetchGran ag g).go s = (.ok d, t)) :
    d.length = 64 := by
  rw [(fetchGran_reads hd).2 d rfl]
  exact State.gran_length h.2 g

theorem readGran_length {ag : Agent} {g : Nat} {s t : State} {d : List Byte} (h : s.form.Ok) (hd : (readGran ag g).go s = (.ok d, t)) :
    d.length = 64 := by
  rw [(readGran_reads hd).2 d rfl]
  exact State.gran_length h.2 g

@[simp] theorem readDpa_keeps (ag dpa len hint) : Keeps (readDpa ag dpa len hint) := by
  refine Keeps.bind (Keeps.mapM (fun g => (meetHost_keeps ..).bind fun _ => ?_) _) fun parts => ?_
  · split
    · exact readGran_keeps ag g
    · rename_i hint
      refine Keeps.getBind fun s hs => ?_
      dsimp only
      split
      on_goal 1 =>
        rename_i hnone
        refine (Keeps.set (allocLine_formOk hs (by simpa using hnone) hint)).bind fun _ => ?_
      all_goals
        refine (readGran_keeps ag g).bindOf (fun _ _ _ => readGran_length) fun d hd => ?_
        refine (Keeps.modify fun t ht => ?_).bind fun _ => keeps_pure d
        split
        · exact setSector_formOk ht hd _ _ _
        · exact ht
  · exact (Keeps.forIn (fun b _ => (Keeps.modify fun s hs => useLine_formOk hs b true).bind fun _ => keeps_pure _) _ _).bind fun _ => keeps_pure _

/-- A write of a part of a granule: what it puts there is a granule's bytes. -/
theorem keeps_merge {off : Nat} {bs : List Byte} (hlen : off + bs.length ≤ 64) (ag : Agent) (g : Nat) {k : List Byte → Acc Unit}
    (hk : ∀ old, (old.take off ++ bs ++ old.drop (off + bs.length)).length = 64 → Keeps (k old)) :
    Keeps (if bs.length = 64 then pure [] >>= k else fetchGran ag g >>= k) := by
  split
  · rw [pure_bind]
    exact hk [] (by simpa)
  · refine (fetchGran_keeps ag g).bindOf (fun _ _ _ => fetchGran_length) fun old ho => hk old ?_
    simp only [List.length_append, List.length_take, List.length_drop]
    omega

@[simp] theorem writeGran_keeps {off : Nat} {bs : List Byte} (hlen : off + bs.length ≤ 64) (ag g hint) : Keeps (writeGran ag g off bs hint) := by
  refine (meetHost_keeps ..).bind fun _ => (Keeps.modify fun s hs => by simpa using hs).bind fun _ => Keeps.getBind fun s hs => ?_
  dsimp only
  split
  · rename_i d hd
    refine Keeps.set (setSector_formOk hs ?_ _ _ _)
    have := Tiers.sector_length hs.2 hd
    simp only [List.length_append, List.length_take, List.length_drop]
    omega
  · split
    · rename_i h
      refine keeps_merge hlen ag g fun old ho => (Keeps.modify fun t ht => ?_).bind fun _ => Keeps.modify fun t ht => ?_ <;> split
      · exact ht
      · rename_i hnone
        exact allocLine_formOk ht (by simpa using hnone) h
      · exact setSector_formOk ht ho _ _ _
      · rw [State.putStack_form]
        exact ht.write _ _
    · split
      · rename_i hc
        exact Keeps.set (setSector_formOk hs (of_decide_eq_true (Bool.and_eq_true_iff.mp hc).2) _ _ _)
      · refine keeps_merge hlen ag g fun old ho => Keeps.modify fun t ht => ?_
        rw [State.putStack_form]
        exact ht.write _ _

@[simp] theorem writeDpa_keeps (ag dpa bs hint) : Keeps (writeDpa ag dpa bs hint) := by
  refine Keeps.getBind fun s _ => (Keeps.forInMem _ _ fun g hg _ => ?_).bind fun _ => ?_
  · refine (writeGran_keeps ?_ ..).bind fun _ => keeps_pure _
    obtain ⟨-, h1, -, h2, h3⟩ := part_bounds hg
    refine (congrArg (_ + ·) (part_length hg)).trans_le ?_
    change partLo dpa g - 64 * g + (partHi dpa (s.written ag dpa bs).length g - partLo dpa g) ≤ 64
    omega
  · exact (Keeps.forIn (fun b _ => (Keeps.modify fun s hs => useLine_formOk hs b false).bind fun _ => keeps_pure _) _ _).bind fun _ => keeps_pure _

@[simp] theorem State.wrecked_formOk {s : State} (h : s.form.Ok) (scope) : (s.wrecked scope).form.Ok := by
  unfold State.wrecked
  dsimp only
  split
  · exact h
  · rename_i t ht
    obtain ⟨-, hsound⟩ := Option.filter_eq_some_iff.mp ht
    exact Bool.and_eq_true_iff.mp hsound

@[simp] theorem State.stray_formOk {s : State} (h : s.form.Ok) : s.stray.form.Ok := by
  unfold State.stray
  (repeat' split) <;> simp [h]

@[simp] theorem walk_keeps (ag dva level table) : Keeps (walk ag dva level table) := by
  induction level generalizing table with
  | zero =>
    unfold walk
    dsimp only
    split
    · exact keeps_throw _
    · exact (readDpa_keeps ..).bind fun _ => (keeps_modifyForm fun s => by rfl).bind fun _ => by simp
  | succ level ih =>
    unfold walk
    dsimp only
    split
    · exact keeps_throw _
    · exact (readDpa_keeps ..).bind fun _ => (keeps_modifyForm fun s => by rfl).bind fun _ => by simp [ih]

@[simp] theorem State.tlbFill_form (s : State) (t e) : (s.tlbFill t e).form = s.form := by
  unfold State.tlbFill
  (repeat' split) <;> simp

@[simp] theorem resolve_keeps (ag dva write) : Keeps (resolve ag dva write) := by
  unfold resolve
  dsimp only
  split
  · exact keeps_throw _
  · refine Keeps.getBind fun s _ => ?_
    split
    · split <;> simp
    · split
      · split <;> simp
      · refine (keeps_modifyForm fun s => by rfl).bind fun _ => (walk_keeps ..).bind fun le => ?_
        split
        · exact keeps_throw _
        · split
          · exact keeps_throw _
          · exact (keeps_modifyForm fun s => s.tlbFill_form ..).bind fun _ => keeps_pure _

theorem dropFrame_formOk {s : State} (h : s.form.Ok) (lender lease page : Nat) :
    ({ s with tiers := s.tiers.dropFrame lender lease page } : State).form.Ok := h.filter _

@[simp] theorem State.poisonPage_formOk {s : State} (h : s.form.Ok) (lender lease page) : (s.poisonPage lender lease page).form.Ok := by
  unfold State.poisonPage
  rw [State.recordEvent_form]
  exact dropFrame_formOk h lender lease page

@[simp] theorem touchFrame_keeps (ag b page dva ks) : Keeps (touchFrame ag b page dva ks) := by
  refine Keeps.getBind fun s _ => Keeps.forIn (fun g _ => Keeps.bind (.tryCatch (.bind (readGran_keeps ag g) fun _ => keeps_pure _) fun f => ?_)
    fun _ => keeps_pure _) _ _ |>.bind fun _ => keeps_pure _
  split
  · refine (Keeps.modify fun t ht => by simpa using ht).bind fun _ => Keeps.getBind fun t _ => ?_
    split
    · split
      · exact (Keeps.modify fun u hu => dropFrame_formOk hu ..).bind fun _ => keeps_throw _
      · exact (Keeps.modify fun u hu => State.poisonPage_formOk hu ..).bind fun _ => keeps_throw _
    · exact keeps_throw _
  · exact keeps_throw _

@[simp] theorem readFrame_keeps (ag b off n dva) : Keeps (readFrame ag b off n dva) := by
  unfold readFrame
  dsimp only
  split
  · exact keeps_throw _
  · refine Keeps.getBind fun s _ => ?_
    split <;> simp

@[simp] theorem State.overwrite_form (s : State) (g whole) : (s.overwrite g whole).form = s.form := by simp [State.overwrite]

@[simp] theorem State.putFrame_form (s : State) (b page lo n) : (s.putFrame b page lo n).form = s.form := by simp [State.putFrame]

/-- A frame's entry made another of the same frame. -/
theorem mapFrame_formOk {f : Form} (h : f.Ok) {l i p : Nat} {k : PoolEntry → PoolEntry}
    (hk : ∀ e, e.isFrame l i p = true → (k e).block? = none) :
    Form.Ok (f.1, f.2.map fun e => if e.isFrame l i p then k e else e) := h.mapFrames fun e => by
  split
  · rename_i hf
    exact .inr ⟨PoolEntry.block?_of_isFrame hf, hk e hf⟩
  · exact .inl rfl

@[simp] theorem useFrame_formOk {s : State} (h : s.form.Ok) (b page read) : (useFrame s b page read).form.Ok := by
  unfold useFrame
  split
  · rename_i hrest
    exact ⟨h.1, poolWf_newest h.2 hrest⟩
  · rename_i hrest
    split
    · exact h
    · split
      · exact ⟨h.1, poolWf_rest h.2 hrest⟩
      · exact mapFrame_formOk h fun _ _ => rfl
  · exact h

@[simp] theorem State.notePart_form (s : State) (p) : (s.notePart p).form = s.form := by rfl

@[simp] theorem notingPart_keeps {α : Type} (p : Partial) {m : Acc α} (hm : Keeps m) : Keeps (notingPart p m) := by
  refine hm.tryCatch fun f => ?_
  dsimp only
  split
  · exact (keeps_modifyForm fun s => s.notePart_form p).bind fun _ => keeps_throw _
  · exact (keeps_modifyForm fun s => s.notePart_form p).bind fun _ => keeps_throw _
  · exact keeps_throw _

@[simp] theorem onEngine_keeps (ag a) : Keeps (onEngine ag a) := by simp [onEngine]

@[simp] theorem readPiece_keeps (ag a n hint) : Keeps (readPiece ag a n hint) := by
  refine (onEngine_keeps ag a).bind fun ag => (resolve_keeps ag a false).bind fun l => ?_
  split <;> simp +contextual

@[simp] theorem readPieces_keeps (ag dva len hint) (ps : List (Nat × Nat)) (got) : Keeps (readPieces ag dva len hint ps got) := by
  induction ps generalizing got with
  | nil => exact keeps_pure got
  | cons p ps ih => exact (notingPart_keeps _ (readPiece_keeps ..)).bind fun bs => ih _

@[simp] theorem readDva_keeps (ag dva len hint) : Keeps (readDva ag dva len hint) := by simp [readDva]

@[simp] theorem writeFrame_keeps (ag b off dva data hint) : Keeps (writeFrame ag b off dva data hint) := by
  refine Keeps.getBind fun s hs => ?_
  dsimp only
  split
  · exact keeps_throw _
  · split
    · exact keeps_throw _
    · refine (touchFrame_keeps ..).bind fun _ => (Keeps.modify fun t ht => ?_).bind fun _ => Keeps.modify fun t ht => useFrame_formOk ht ..
      rw [State.putFrame_form]
      exact mapFrame_formOk ht fun e he => (PoolEntry.block?_patch ..).trans (PoolEntry.block?_of_isFrame he)
    · split
      · refine Keeps.set ?_
        rw [State.putFrame_form]
        exact hs.insert rfl _
      · exact keeps_throw _

@[simp] theorem State.noteLines_form (s : State) (ag ls) : (s.noteLines ag ls).form = s.form := by
  unfold State.noteLines
  (repeat' split) <;> simp

@[simp] theorem writePiece_keeps (ag a data hint) : Keeps (writePiece ag a data hint) := by
  refine (onEngine_keeps ag a).bind fun ag => (resolve_keeps ag a true).bind fun l => ?_
  split <;> simp +contextual

@[simp] theorem writePieces_keeps (ag dva bs hint) (ps : List (Nat × Nat)) (ls) : Keeps (writePieces ag dva bs hint ps ls) := by
  induction ps generalizing ls with
  | nil => exact keeps_pure ls
  | cons p ps ih => exact (notingPart_keeps _ (writePiece_keeps ..)).bind fun l => ih _

@[simp] theorem writeDva_keeps (ag dva bs hint) : Keeps (writeDva ag dva bs hint) := by simp [writeDva]

@[simp] theorem State.access_formOk {α : Type} {s : State} (h : s.form.Ok) (ag : Agent) {m : Acc α} (hm : Keeps m) {k : State → α → State}
    (hk : ∀ t a, t.form.Ok → (k t a).form.Ok) : (s.access ag m k).form.Ok := by
  unfold State.access
  split
  · rename_i hr
    exact hk _ _ (hm.of_go h hr)
  · simpa using h
  · rename_i hr
    simpa using hm.of_go h hr

end Sys2Proof.Machine
end

section
/-! The form, through messages and frames of the fabric, which leave both. -/

namespace Sys2Proof.Machine

@[simp] theorem State.setPeer_form (s : State) (dev f) : (s.setPeer dev f).form = s.form := by rfl

@[simp] theorem State.sendAck_form (s : State) (dev a) : (s.sendAck dev a).form = s.form := by rfl

@[simp] theorem State.startFrame_form (s : State) (port f) : (s.startFrame port f).form = s.form := by
  unfold State.startFrame
  dsimp only
  (repeat' split) <;> simp

@[simp] theorem State.runPort_form (s : State) (port budget fuel) : (s.runPort port budget fuel).form = s.form := by
  induction fuel generalizing s budget with
  | zero => rfl
  | succ fuel ih =>
    unfold State.runPort
    dsimp only
    (repeat' split) <;> simp [ih]

@[simp] theorem State.queueFrame_form (s : State) (port f) : (s.queueFrame port f).form = s.form := by simp [State.queueFrame]

@[simp] theorem State.sprayMsg_form (s : State) (dev update seq) : (s.sprayMsg dev update seq).form = s.form := by
  unfold State.sprayMsg
  dsimp only
  (repeat' split) <;> simp

@[simp] theorem State.retransmit_form (s : State) (dev update seq) : (s.retransmit dev update seq).form = s.form := by
  unfold State.retransmit
  (repeat' split) <;> simp

@[simp] theorem State.spray_form (s : State) (dev update) : (s.spray dev update).form = s.form := by
  unfold State.spray
  (repeat' split) <;> simp

@[simp] theorem State.sprayAll_form (s : State) : s.sprayAll.form = s.form := by simp [State.sprayAll]

@[simp] theorem State.sendMsg_form (s : State) (dev update kind body round mark) : (s.sendMsg dev update kind body round mark).form = s.form := by
  unfold State.sendMsg
  (repeat' split) <;> simp

@[simp] theorem State.sendPlain_form (s : State) (dev kind body) : (s.sendPlain dev kind body).form = s.form := by
  unfold State.sendPlain
  (repeat' split) <;> simp

@[simp] theorem State.resendPlain_form (s : State) (f) : (s.resendPlain f).form = s.form := by
  unfold State.resendPlain
  (repeat' split) <;> simp

@[simp] theorem State.returnFrames_form (s : State) (port) : (s.returnFrames port).form = s.form := by simp [State.returnFrames]

@[simp] theorem State.abandonMsgs_form (s : State) (dev) : (s.abandonMsgs dev).form = s.form := by
  unfold State.abandonMsgs
  split
  · rfl
  · refine (foldl_form (fun t m => ?_) _ _).trans rfl
    split <;> simp

@[simp] theorem State.ackIn_form (s : State) (f) : (s.ackIn f).form = s.form := by
  unfold State.ackIn
  (repeat' split) <;> simp

theorem State.takeOwn_form {s t : State} {f : Frame} {kind : Nat} {body : List Byte} (h : s.takeOwn f kind body = some t) :
    t.form = s.form := by
  unfold State.takeOwn at h
  split at h
  · obtain ⟨x, -, rfl⟩ := Option.map_eq_some_iff.mp h
    rfl
  · cases h

@[simp] theorem State.fabCtr_form (s : State) (f) : (s.fabCtr f).form = s.form := by rfl

@[simp] theorem State.countFec_form (s : State) (port x) : (s.countFec port x).form = s.form := by simp [State.countFec]

@[simp] theorem State.receive_form (s : State) (f room) : (s.receive f room).1.form = s.form := by
  unfold State.receive
  dsimp only
  (repeat' split) <;> simp

@[simp] theorem State.receiveAny_form (s : State) (f kind body) : (s.receiveAny f kind body).1.form = s.form := by
  unfold State.receiveAny
  split
  · rename_i hown
    exact State.takeOwn_form hown
  · exact s.receive_form f true

@[simp] theorem State.runTest_form (s : State) (port budget fuel) : (s.runTest port budget fuel).form = s.form := by
  induction fuel generalizing s budget with
  | zero => rfl
  | succ fuel ih =>
    unfold State.runTest
    dsimp only
    (repeat' split) <;> simp [ih]

@[simp] theorem State.runTests_form (s : State) (dt) : (s.runTests dt).form = s.form := by
  unfold State.runTests
  (repeat' split) <;> simp

@[simp] theorem State.receivePlain_form (s : State) (f glint) : (s.receivePlain f glint).1.form = s.form := by
  unfold State.receivePlain
  dsimp only
  (repeat' split) <;> simp

end Sys2Proof.Machine
end

section
/-! The form, through time, which leaves both. -/

namespace Sys2Proof.Machine

@[simp] theorem State.drawEnergy_form (s : State) (dt) : (s.drawEnergy dt).form = s.form := by rfl

@[simp] theorem State.advance_form (s : State) (dt) : (s.advance dt).form = s.form := by simp [State.advance]

@[simp] theorem State.advanceTo_form (s : State) (now) : (s.advanceTo now).form = s.form := by simp [State.advanceTo]

end Sys2Proof.Machine
end

section
/-! The form, through commands fetched and faults recorded: the records are written to memory. -/

namespace Sys2Proof.Machine

@[simp] theorem State.addJob_form (s : State) (q j) : (s.addJob q j).form = s.form := by rfl

@[simp] theorem State.expandNow_form (s : State) (q) : (s.expandNow q).form = s.form := by
  unfold State.expandNow
  dsimp only
  (repeat' split) <;> simp

@[simp] theorem State.takeCommand_form (s : State) (q ws) : (s.takeCommand q ws).form = s.form := by
  unfold State.takeCommand
  dsimp only
  (repeat' split) <;> simp

@[simp] theorem State.acceptSlot_form (s : State) (q ws) : (s.acceptSlot q ws).form = s.form := by simp [State.acceptSlot]

@[simp] theorem readSlot_keeps (x) : Keeps (readSlot x) := by simp [readSlot]

@[simp] theorem execEntryFetch_formed {s : State} (h : s.form.Ok) (q ecc) : Formed (execEntryFetch q ecc s) := by simp [execEntryFetch, h]

@[simp] theorem State.staleStop_form (s : State) (q) : (s.staleStop q).form = s.form := by simp [State.staleStop]

@[simp] theorem execStaleReread_formed {s : State} (h : s.form.Ok) (q now) : Formed (execStaleReread q now s) := by
  unfold execStaleReread
  dsimp only
  (repeat' split) <;> simp [h]

@[simp] theorem execIdleCommit_formed {s : State} (h : s.form.Ok) (q) : Formed (execIdleCommit q s) := by simp [execIdleCommit, h]

@[simp] theorem execQdbTail_formed {s : State} (h : s.form.Ok) (q value) : Formed (execQdbTail q value s) := by simp [execQdbTail, h]

@[simp] theorem State.writeFault_formOk {s : State} (h : s.form.Ok) (r) : (s.writeFault r).1.form.Ok := by
  unfold State.writeFault
  split
  · split
    · simpa using h
    · rename_i hr
      simpa using (writeDpa_keeps ..).of_go h hr
  · dsimp only
    split <;> simpa using h

@[simp] theorem execFqBaseWrite_formed {s : State} (h : s.form.Ok) (value) : Formed (execFqBaseWrite value s) := by simp [execFqBaseWrite, h]

@[simp] theorem execFqHeadWrite_formed {s : State} (h : s.form.Ok) (value) : Formed (execFqHeadWrite value s) := by simp [execFqHeadWrite, h]

@[simp] theorem State.dropTlb_form (s : State) (c) : (s.dropTlb c).form = s.form := by rfl

@[simp] theorem execAdminRootWrite_formed {s : State} (h : s.form.Ok) (value) : Formed (execAdminRootWrite value s) := by simp [execAdminRootWrite, h]

@[simp] theorem State.writeRing_form (s : State) (q f) : (s.writeRing q f).form = s.form := by rfl

@[simp] theorem State.writeControl_formed {s : State} (h : s.form.Ok) (o size v) : Formed (s.writeControl o size v) := by
  unfold State.writeControl
  dsimp only
  (repeat' split) <;> simp [h]

end Sys2Proof.Machine
end

section
/-! The form, through a job begun and gone on with keeps what its rounds keep. -/

namespace Sys2Proof.Machine

@[simp] theorem State.markStart_form (s : State) (j) : (s.markStart j).form = s.form := by rfl

@[simp] theorem State.runJob_formOk {s : State} (h : s.form.Ok) (q mine) {start again : State → JobRef → Job → State}
    (hs : ∀ t j x, t.form.Ok → (start t j x).form.Ok) (ha : ∀ t j x, t.form.Ok → (again t j x).form.Ok) :
    (s.runJob q mine start again).form.Ok := by
  unfold State.runJob
  split
  · exact h
  · split
    · exact hs _ _ _ (by simpa using h)
    · split
      · exact ha _ _ _ h
      · exact h

@[simp] theorem State.runOnce_formOk {s : State} (h : s.form.Ok) (q mine) {start : State → JobRef → Job → State}
    (hs : ∀ t j x, t.form.Ok → (start t j x).form.Ok) : (s.runOnce q mine start).form.Ok :=
  State.runJob_formOk h q mine hs fun _ _ _ ht => ht

@[simp] theorem execNop_formed {s : State} (h : s.form.Ok) (q) : Formed (execNop q s) := by simp [execNop, h]

end Sys2Proof.Machine
end

section
/-! The form, through the host's side: its reads, its writes of a line, back-invalidations, translations and bulk transfers. -/

namespace Sys2Proof.Machine

@[simp] theorem State.addWait_form (s : State) (tier o addr pasid) : (s.addWait tier o addr pasid).form = s.form := by simp [State.addWait]

@[simp] theorem State.closeWait_form (s : State) (w) : (s.closeWait w).form = s.form := by
  unfold State.closeWait
  dsimp only
  split
  · split <;> rfl
  · rfl

@[simp] theorem State.closeWaits_form (s : State) (p) : (s.closeWaits p).form = s.form := by simp [State.closeWaits]

@[simp] theorem execStallThreshold_formed {s : State} (h : s.form.Ok) (now wait) : Formed (execStallThreshold now wait s) := by
  unfold execStallThreshold
  dsimp only
  split
  · split
    · simpa using h
    · exact (formed_next _).mpr ((s.advanceTo_form now).symm ▸ h)
  · simpa using h

@[simp] theorem State.ownerError_form (s : State) (o cause status detail pasid addr) :
    (s.ownerError o cause status detail pasid addr).form = s.form := by
  simp [State.ownerError]

@[simp] theorem execTierStallLimit_formed {s : State} (h : s.form.Ok) (now wait) : Formed (execTierStallLimit now wait s) := by
  unfold execTierStallLimit
  dsimp only
  (repeat' split) <;> simp [h]

@[simp] theorem State.filterAdd_form (s : State) (line excl) : (s.filterAdd line excl).form = s.form := by
  unfold State.filterAdd
  dsimp only
  (repeat' split) <;> simp

@[simp] theorem State.poisonedRead_form (s : State) (hpa data) : (s.poisonedRead hpa data).form = s.form := by simp [State.poisonedRead]

@[simp] theorem execHostMemRead_formed {s : State} (h : s.form.Ok) (hpa want ecc) : Formed (execHostMemRead hpa want ecc s) := by
  unfold execHostMemRead
  split
  · simpa using h
  · split
    · simpa using h
    · cases want
      all_goals
        dsimp only
        split
        all_goals
          rename_i hr
          have ht := (readGran_keeps ..).of_go (by simpa using h) hr
          simpa using ht

/-- A line whose sectors are cleared keeps its form. -/
theorem PoolEntry.fine_clear {b : Nat} {v d : BitVec 4} {bs : List Byte} {hint : Hint} (h : (PoolEntry.line b v d bs hint).fine)
    (m : BitVec 4) : (PoolEntry.line b (v &&& ~~~m) (d &&& ~~~m) bs hint).fine := by
  obtain ⟨hlen, hdirty⟩ := h
  refine ⟨hlen, BitVec.eq_of_getLsbD_eq fun k hk => ?_⟩
  have hbit := congrArg (·.getLsbD k) hdirty
  simp [hk] at hbit ⊢
  grind

@[simp] theorem State.hostPut_formOk {s : State} (h : s.form.Ok) (g) {data : List Byte} (hd : data.length = 64) (poison) :
    (s.hostPut g data poison).form.Ok := by
  have hin : ((s.reach g).admitGran false g).form = s.form := by simp
  have hw := hin ▸ h.write (64 * g) data
  unfold State.hostPut
  dsimp only
  split
  · refine ⟨hw.1, poolWf_onLine (hin ▸ h).2 _ (fun e => ?_) fun e he => ?_⟩
    · cases e <;> rfl
    · cases e with
      | line b v d bs hint =>
        exact PoolEntry.fine_clear he _
      | row | frame => trivial
  · refine ⟨?_, poolWf_onLine (hin ▸ h).2 _ (fun e => ?_) fun e he => ?_⟩
    · rw [State.form, Hbm.putGran_mem]
      exact hw.1
    · cases e with
      | line b v d bs hint => dsimp only; split <;> rfl
      | row | frame => rfl
    · cases e with
      | line b v d bs hint =>
        dsimp only
        split
        · exact PoolEntry.fine_setSector false he hd (Nat.mod_lt _ (by decide))
        · exact he
      | row | frame => trivial

@[simp] theorem execHostMemWrite_formed {s : State} (h : s.form.Ok) (hpa data poison) : Formed (execHostMemWrite hpa data poison s) := by
  unfold execHostMemWrite
  split
  · simpa using h
  · rw [formed_next]
    split
    · exact h
    · rename_i hc
      exact State.hostPut_formOk h _ (by simp_all) poison

@[simp] theorem State.bisnpAnswer_formOk {s : State} (h : s.form.Ok) (line modified) : (s.bisnpAnswer line modified).form.Ok := by
  unfold State.bisnpAnswer
  (repeat' split) <;> simp [h]

@[simp] theorem execHostSnoop_formed {s : State} (h : s.form.Ok) (hpa) : Formed (execHostSnoop hpa s) := by simp [execHostSnoop, h]

@[simp] theorem State.unsupported_form (s : State) : s.unsupported.form = s.form := by rfl

@[simp] theorem execP2pRequest_formed {s : State} (h : s.form.Ok) (isWrite) : Formed (execP2pRequest isWrite s) := by simp [execP2pRequest, h]

@[simp] theorem State.cfgWrite_form (s : State) (reg v) : (s.cfgWrite reg v).form = s.form := by
  unfold State.cfgWrite
  (repeat' split) <;> simp

@[simp] theorem execLinkLost_formed {s : State} (h : s.form.Ok) (now) : Formed (execLinkLost now s) := by simp [execLinkLost, h]

@[simp] theorem execLinkRecovery_formed {s : State} (h : s.form.Ok) (now width rate) : Formed (execLinkRecovery now width rate s) := by
  simp [execLinkRecovery, h]

@[simp] theorem State.pauseWaits_form (s : State) (o) : (s.pauseWaits o).form = s.form := by rfl

@[simp] theorem State.resumeWaits_form (s : State) (o) : (s.resumeWaits o).form = s.form := by rfl

@[simp] theorem State.newReq_form (s : State) (kind o pasid iova len hpa isWrite) : (s.newReq kind o pasid iova len hpa isWrite).1.form = s.form := by
  rfl

@[simp] theorem State.dropReq_form (s : State) (id) : (s.dropReq id).form = s.form := by rfl

@[simp] theorem State.xctr_form (s : State) (f) : (s.xctr f).form = s.form := by rfl

@[simp] theorem State.sendAts_form (s : State) (o pasid iova isWrite) : (s.sendAts o pasid iova isWrite).1.form = s.form := by rfl

@[simp] theorem State.pageFault_form (s : State) (o pasid iova reason) : (s.pageFault o pasid iova reason).form = s.form := by simp [State.pageFault]

@[simp] theorem State.sendPage_form (s : State) (o pasid iova isWrite) : (s.sendPage o pasid iova isWrite).1.form = s.form := by
  unfold State.sendPage
  dsimp only
  (repeat' split) <;> simp

@[simp] theorem State.failPage_form (s : State) (r) : (s.failPage r).form = s.form := by simp [State.failPage]

@[simp] theorem State.wakePages_form (s : State) (fuel) : (s.wakePages fuel).form = s.form := by
  induction fuel generalizing s with
  | zero => rfl
  | succ fuel ih =>
    unfold State.wakePages
    dsimp only
    (repeat' split) <;> simp [ih]

@[simp] theorem State.wakePage_form (s : State) : s.wakePage.form = s.form := by simp [State.wakePage]

@[simp] theorem execConfigRequest_formed {s : State} (h : s.form.Ok) (reg write) : Formed (execConfigRequest reg write s) := by
  unfold execConfigRequest
  (repeat' split) <;> simp [h]

@[simp] theorem State.setBulk_form (s : State) (j f) : (s.setBulk j f).form = s.form := by rfl

@[simp] theorem State.releaseHeld_form (s : State) (j) : (s.releaseHeld j).form = s.form := by rfl

@[simp] theorem State.releaseLeaving_form (s : State) : s.releaseLeaving.form = s.form := by rfl

@[simp] theorem State.atcMiss_form (s : State) (o pasid iova isWrite) : (s.atcMiss o pasid iova isWrite).1.form = s.form := by simp [State.atcMiss]

@[simp] theorem State.readHost_form (s : State) (j t iova len inter) : (s.readHost j t iova len inter).1.form = s.form := by simp [State.readHost]

@[simp] theorem State.writeHost_form (s : State) (j pasid iova hpa bs) : (s.writeHost j pasid iova hpa bs).form = s.form := by rfl

@[simp] theorem State.interRun_form (s : State) (j b) : (s.interRun j b).form = s.form := by
  unfold State.interRun
  dsimp only
  (repeat' split) <;> simp

@[simp] theorem State.dropSpent_form (s : State) (j b) : (s.dropSpent j b).form = s.form := by simp [State.dropSpent]

@[simp] theorem State.bulkRedo_form (s : State) (j b) : (s.bulkRedo j b).form = s.form := by simp [State.bulkRedo]

@[simp] theorem State.bulkWindow_form (s : State) (j b) : (s.bulkWindow j b).1.form = s.form := by
  unfold State.bulkWindow
  dsimp only
  (repeat' split) <;> simp

@[simp] theorem State.bulkRun_form (s : State) (j fuel) : (s.bulkRun j fuel).form = s.form := by
  induction fuel generalizing s with
  | zero => rfl
  | succ fuel ih =>
    unfold State.bulkRun
    dsimp only
    (repeat' split) <;> simp [ih]

@[simp] theorem State.bulkStart_form (s : State) (j write iova len data inter) : (s.bulkStart j write iova len data inter).form = s.form := by
  simp [State.bulkStart]

@[simp] theorem State.bulkPoke_form (s : State) : s.bulkPoke.form = s.form := by simp [State.bulkPoke]

@[simp] theorem State.leaveHeld_form (s : State) (j) : (s.leaveHeld j).form = s.form := by simp [State.leaveHeld]

@[simp] theorem State.pushLine_form (s : State) (c pasid job iova bs) : (s.pushLine c pasid job iova bs).1.form = s.form := by
  unfold State.pushLine
  dsimp only
  (repeat' split) <;> simp

@[simp] theorem State.atsDenied_form (s : State) (r granted) : (s.atsDenied r granted).1.form = s.form := by
  unfold State.atsDenied
  dsimp only
  (repeat' split) <;> simp

@[simp] theorem State.atsAnswer_form (s : State) (id a) : (s.atsAnswer id a).form = s.form := by
  unfold State.atsAnswer
  (repeat' split) <;> simp

@[simp] theorem execPageResponse_formed {s : State} (h : s.form.Ok) (id a) : Formed (execPageResponse id a s) := by
  unfold execPageResponse
  (repeat' split) <;> simp [h]

@[simp] theorem execPriTimeout_formed {s : State} (h : s.form.Ok) (now id) : Formed (execPriTimeout now id s) := by
  unfold execPriTimeout
  dsimp only
  (repeat' split) <;> simp [h]

@[simp] theorem State.invComplete_form (s : State) (v) : (s.invComplete v).form = s.form := by rfl

@[simp] theorem State.invDrain_form (s : State) (n) : (s.invDrain n).form = s.form := by
  induction n generalizing s with
  | zero => rfl
  | succ n ih =>
    unfold State.invDrain
    (repeat' split) <;> simp [ih]

@[simp] theorem execInvalidateRequest_formed {s : State} (h : s.form.Ok) (now pasid iova len) :
    Formed (execInvalidateRequest now pasid iova len s) := by
  simp [execInvalidateRequest, h]

@[simp] theorem execInvalidateDrained_formed {s : State} (h : s.form.Ok) (now) : Formed (execInvalidateDrained now s) := by
  simp [execInvalidateDrained, h]

@[simp] theorem State.abandonCopy_formOk {s : State} (h : s.form.Ok) (o) : (s.abandonCopy o).form.Ok := by
  unfold State.abandonCopy
  split
  · exact h
  · exact h
  · split
    · exact h
    · dsimp only
      split
      · exact h
      · refine foldl_ok (fun t i ht => ?_) _ h
        split
        · split
          · rename_i hr
            exact (writeDva_keeps ..).of_go ht hr
          · exact ht
        · exact ht

@[simp] theorem execInvalidateTimeout_formed {s : State} (h : s.form.Ok) (now) : Formed (execInvalidateTimeout now s) := by
  unfold execInvalidateTimeout
  dsimp only
  split
  · simpa using h
  · split
    · simpa using h
    · rw [formed_next, State.invComplete_form]
      exact foldl_ok (fun t r ht => by simp [ht]) _ (by simpa using h)

@[simp] theorem execGlobalObservation_formed {s : State} (h : s.form.Ok) (id) : Formed (execGlobalObservation id s) := by
  unfold execGlobalObservation
  (repeat' split) <;> simp [h]

end Sys2Proof.Machine
end

section
/-! The form, through leases: frames requested, filled, written back, evicted and dropped, and the lender that reads, writes and
zeroes its range. -/

namespace Sys2Proof.Machine

@[simp] theorem State.relist_form (s : State) : s.relist.form = s.form := by simp [State.relist]

@[simp] theorem State.newTag_form (s : State) : (s.newTag).1.form = s.form := by simp [State.newTag]

@[simp] theorem readDirty_keeps (gs) : Keeps (readDirty gs) :=
  (Keeps.forIn (fun g _ => (readGran_keeps lenderAgent g).bind fun _ => keeps_pure _) gs _).bind fun _ => keeps_pure _

@[simp] theorem PoolEntry.block?_busy (tag : Option Nat) (e : PoolEntry) : (e.busy tag).block? = e.block? := by
  cases e <;> rfl

@[simp] theorem State.writeBackFrame_formOk {s : State} (h : s.form.Ok) (lender lease page) : (s.writeBackFrame lender lease page).form.Ok := by
  unfold State.writeBackFrame
  split
  · dsimp only
    split
    · rename_i hr
      have ht := (readDirty_keeps _).of_go h hr
      simp [ht]
    · rename_i hr
      have ht := (readDirty_keeps _).of_go h hr
      rw [State.sendMsg_form]
      exact mapFrame_formOk ht fun e he => (e.block?_busy _).trans (PoolEntry.block?_of_isFrame he)
  · exact h

@[simp] theorem State.evictFrame_formOk {s : State} (h : s.form.Ok) : s.evictFrame.form.Ok := by
  unfold State.evictFrame
  split
  · dsimp only
    split
    · exact h.filter _
    · have ht := State.writeBackFrame_formOk (s := { s with tiers := { s.tiers with evictions := s.tiers.evictions + 1 } }) h
      split
      · exact ht ..
      · exact ht ..
  · exact h

@[simp] theorem State.awaitPage_form (s : State) (o lender lease page dva data) : (s.awaitPage o lender lease page dva data).form = s.form := by
  simp [State.awaitPage]

@[simp] theorem State.requestPage_formOk {s : State} (h : s.form.Ok) (o lender lease page dva fetch data hint) :
    (s.requestPage o lender lease page dva fetch data hint).form.Ok := by
  unfold State.requestPage
  have ht : (s.awaitPage o lender lease page dva data).form.Ok := by simpa using h
  generalize s.awaitPage o lender lease page dva data = t at ht
  dsimp only
  split
  · exact ht
  · split
    · split
      · rw [State.sendMsg_form]
        exact ht.insert rfl _
      · exact ht
    · have hu := State.evictFrame_formOk ht
      split
      · rw [State.sendMsg_form]
        exact hu.insert rfl _
      · exact hu

@[simp] theorem State.endPartials_form (s : State) (o) : (s.endPartials o).form = s.form := by simp [State.endPartials]

@[simp] theorem State.awaitLine_form (s : State) (c line) : (s.awaitLine c line).form = s.form := by simp [State.awaitLine]

@[simp] theorem State.stopEngine_form (s : State) (ag) : (s.stopEngine ag).form = s.form := by simp [State.stopEngine]

@[simp] theorem State.accessOr_formOk {α : Type} {s : State} (h : s.form.Ok) (ag : Agent) {m : Acc α} (hm : Keeps m) (hint : Option Hint)
    {k : State → α → State} (hk : ∀ t a, t.form.Ok → (k t a).form.Ok) {fail : State → AccFail → State}
    (hf : ∀ t f, t.form.Ok → (fail t f).form.Ok) : (s.accessOr ag m hint k fail).form.Ok := by
  unfold State.accessOr
  split
  · rename_i hr
    exact hk _ _ (by simpa using hm.of_go h hr)
  · split <;> simpa using h
  · rename_i hr
    exact hm.of_go h hr
  · rename_i hr
    exact State.requestPage_formOk (hm.of_go h hr) ..
  · rename_i hr
    exact hf _ _ (by simpa using hm.of_go h hr)

@[simp] theorem State.accessDma_formOk {α : Type} {s : State} (h : s.form.Ok) (ag : Agent) {m : Acc α} (hm : Keeps m) (hint : Option Hint)
    {k : State → α → State} (hk : ∀ t a, t.form.Ok → (k t a).form.Ok) : (s.accessDma ag m hint k).form.Ok :=
  State.accessOr_formOk h ag hm hint hk fun t f ht => by simpa using ht

@[simp] theorem State.poisonLease_formOk {s : State} (h : s.form.Ok) (lender lease) : (s.poisonLease lender lease).form.Ok := by
  unfold State.poisonLease
  split
  · exact h
  · dsimp only
    rw [foldl_form fun t w => by simp, State.recordEvent_form]
    exact h.filter _

@[simp] theorem State.zeroRange_formOk {s : State} (h : s.form.Ok) (base size) : (s.zeroRange base size).form.Ok :=
  ⟨memWf_filter _ h.1, poolWf_filter h.2 _⟩

@[simp] theorem State.endLease_formOk {s : State} (h : s.form.Ok) (l) : (s.endLease l).form.Ok := by simp [State.endLease, h]

@[simp] theorem State.respond_form (s : State) (f lease result tag data) : (s.respond f lease result tag data).form = s.form := by
  simp [State.respond]

@[simp] theorem State.leaseRefuse_form (s : State) : s.leaseRefuse.form = s.form := by simp [State.leaseRefuse]

theorem lentGran_formOk (base tag i) {a : State × List Byte} (h : a.1.form.Ok) : (lentGran base tag i a).1.form.Ok := by
  unfold lentGran
  split
  · rename_i hr
    exact (readGran_keeps ..).of_go h hr
  · rename_i hr
    simpa using (readGran_keeps ..).of_go h hr

@[simp] theorem State.lentPage_formOk {s : State} (h : s.form.Ok) (l page tag) : (s.lentPage l page tag).1.form.Ok :=
  foldl_fst_ok (fun _ i ha => lentGran_formOk _ tag i ha) _ h

@[simp] theorem execLentRead_formed {s : State} (h : s.form.Ok) (f lease page tag) : Formed (execLentRead f lease page tag s) := by
  unfold execLentRead
  split
  · rename_i hr
    simp [fst_form hr, h]
  · rename_i t hr
    have ht : t.form.Ok := by simp [fst_form hr, h]
    split <;> simp [ht]

@[simp] theorem State.putSectors_formOk {s : State} (h : s.form.Ok) (base m data) : (s.putSectors base m data).form.Ok :=
  foldl_fst_ok (fun a i ha => (writeGran_keeps (by rw [padTo_length]) lenderAgent _ none).of_go ha rfl) _ h

@[simp] theorem execLentWrite_formed {s : State} (h : s.form.Ok) (f lease page tag sectors data) :
    Formed (execLentWrite f lease page tag sectors data s) := by
  unfold execLentWrite
  split
  · rename_i hr
    simp [fst_form hr, h]
  · rename_i t hr
    have ht : t.form.Ok := by simp [fst_form hr, h]
    (repeat' split) <;> simp [ht]

@[simp] theorem execLentClaim_formed {s : State} (h : s.form.Ok) (f lease tag) : Formed (execLentClaim f lease tag s) := by
  unfold execLentClaim
  split
  · rename_i hr
    simp [fst_form hr, h]
  · rename_i t hr
    have ht : t.form.Ok := by simp [fst_form hr, h]
    (repeat' split) <;> simp [ht]

@[simp] theorem execLentReturn_formed {s : State} (h : s.form.Ok) (f lease tag) : Formed (execLentReturn f lease tag s) := by
  unfold execLentReturn
  split
  · rename_i hr
    simp [fst_form hr, h]
  · rename_i t hr
    have ht : t.form.Ok := by simp [fst_form hr, h]
    (repeat' split) <;> simp [ht]

@[simp] theorem State.lendRun_formOk {s : State} (h : s.form.Ok) (j x) : (s.lendRun j x).form.Ok := by
  unfold State.lendRun
  dsimp only
  (repeat' split) <;> simp [h]

@[simp] theorem execLendMemory_formed {s : State} (h : s.form.Ok) (q) : Formed (execLendMemory q s) := by simp +contextual [execLendMemory, h]

@[simp] theorem execReturnMemoryRevoke_formed {s : State} (h : s.form.Ok) (q) : Formed (execReturnMemoryRevoke q s) := by
  rw [execReturnMemoryRevoke, formed_next]
  refine State.runOnce_formOk h _ _ fun t j x ht => ?_
  (repeat' split) <;> simp [ht]

@[simp] theorem execBorrowMemory_formed {s : State} (h : s.form.Ok) (q) : Formed (execBorrowMemory q s) := by simp [execBorrowMemory, h]

@[simp] theorem execBorrowTimeout_formed {s : State} (h : s.form.Ok) (now q) : Formed (execBorrowTimeout now q s) := by
  unfold execBorrowTimeout
  dsimp only
  (repeat' split) <;> simp [h]

@[simp] theorem State.returnStage_formOk {s : State} (h : s.form.Ok) (lender lease) : (s.returnStage lender lease).form.Ok := by
  unfold State.returnStage
  split
  · exact h
  · split
    · exact h
    · dsimp only
      split
      · simpa using h
      · split
        · exact h
        · split
          on_goal 2 =>
            rw [State.relist_form]
            simp only [State.mk_form, State.hbm_mem, State.tiers_pool, State.sendMsg_form, State.newTag_form]
          all_goals
            refine foldl_ok (fun t x ht => ?_) _ h
            split
            · exact ht
            · split
              · exact dropFrame_formOk ht ..
              · simp [ht]

@[simp] theorem State.dropReturn_form (s : State) (x) : (s.dropReturn x).form = s.form := by simp [State.dropReturn]

@[simp] theorem State.beginReturn_form (s : State) (lender lease) : (s.beginReturn lender lease).form = s.form := by simp [State.beginReturn]

@[simp] theorem State.returnRun_formOk {s : State} (h : s.form.Ok) (j lender lease) : (s.returnRun j lender lease).form.Ok := by
  simp [State.returnRun, h]

@[simp] theorem execReturnMemory_formed {s : State} (h : s.form.Ok) (q) : Formed (execReturnMemory q s) := by simp +contextual [execReturnMemory, h]

theorem PoolEntry.block?_foldl_patch (ws : List (Nat × List Byte)) (e : PoolEntry) :
    (ws.foldl (fun e w => e.patch w.1 w.2) e).block? = e.block? :=
  List.foldlRecOn (motive := fun x : PoolEntry => x.block? = e.block?) ws _ rfl fun x hx _ _ => (x.block?_patch ..).trans hx

@[simp] theorem State.settleFrame_formOk {s : State} (h : s.form.Ok) (lender lease page data) : (s.settleFrame lender lease page data).form.Ok := by
  unfold State.settleFrame
  dsimp only
  split
  on_goal 1 => rw [State.putFrame_form]
  all_goals
    refine mapFrame_formOk h fun e he => (PoolEntry.block?_foldl_patch ..).trans ?_
    have hb := PoolEntry.block?_of_isFrame he
    split
    · rfl
    · exact hb

@[simp] theorem State.lentAnswer_formOk {s : State} (h : s.form.Ok) (f lease result tag data) : (s.lentAnswer f lease result tag data).form.Ok := by
  unfold State.lentAnswer
  split
  · dsimp only
    split <;> simpa using h
  · split
    · simp [h]
    · split
      · exact h
      · split
        · simp [h]
        · split
          · exact dropFrame_formOk h ..
          · simp [h]
        · exact h

end Sys2Proof.Machine
end

section
/-! The form, through ports and their trainings, which leave both. -/

namespace Sys2Proof.Machine

@[simp] theorem State.sendGlint_form (s : State) (dev) : (s.sendGlint dev).form = s.form := by
  unfold State.sendGlint
  dsimp only
  (repeat' split) <;> simp

@[simp] theorem State.sendGlints_form (s : State) : s.sendGlints.form = s.form := by simp [State.sendGlints]

@[simp] theorem State.bringupReady_form (s : State) : s.bringupReady.form = s.form := by simp [State.bringupReady]

@[simp] theorem State.movePort_form (s : State) (p new) : (s.movePort p new).form = s.form := by simp [State.movePort]

@[simp] theorem State.endTraining_form (s : State) : s.endTraining.form = s.form := by simp [State.endTraining]

@[simp] theorem State.portTime_form (s : State) (now) : (s.portTime now).form = s.form := by simp [State.portTime]

@[simp] theorem State.tick_formOk {s : State} (h : s.form.Ok) : s.tick.form.Ok := by simp [State.tick, h]

@[simp] theorem execLaserPowerReading_formed {s : State} (h : s.form.Ok) (now p centiDbm) : Formed (execLaserPowerReading now p centiDbm s) := by
  simp [execLaserPowerReading, h]

@[simp] theorem execPortTrainingDone_formed {s : State} (h : s.form.Ok) (now p ok) : Formed (execPortTrainingDone now p ok s) := by
  simp [execPortTrainingDone, h]

@[simp] theorem execLaneFault_formed {s : State} (h : s.form.Ok) (now p lanes) : Formed (execLaneFault now p lanes s) := by simp [execLaneFault, h]

@[simp] theorem execUncorrectableCodeword_formed {s : State} (h : s.form.Ok) (now p) : Formed (execUncorrectableCodeword now p s) := by
  simp [execUncorrectableCodeword, h]

@[simp] theorem execDegradedTimer_formed {s : State} (h : s.form.Ok) (now p) : Formed (execDegradedTimer now p s) := by simp [execDegradedTimer, h]

@[simp] theorem execRetrainTimer_formed {s : State} (h : s.form.Ok) (now p) : Formed (execRetrainTimer now p s) := by simp [execRetrainTimer, h]

@[simp] theorem State.darken_form (s : State) (e dark) : (s.darken e dark).form = s.form := by simp [State.darken]

@[simp] theorem State.setOe_form (s : State) (e f) : (s.setOe e f).form = s.form := by simp [State.setOe]

@[simp] theorem State.recordHot_form (s : State) (e temp) : (s.recordHot e temp).form = s.form := by simp [State.recordHot]

@[simp] theorem execOeTempReading_formed {s : State} (h : s.form.Ok) (now e reading) : Formed (execOeTempReading now e reading s) := by
  unfold execOeTempReading
  (repeat' split) <;> simp [h]

end Sys2Proof.Machine
end

section
/-! The form, through settings that wait for a seam, which leave both. -/

namespace Sys2Proof.Machine

@[simp] theorem State.staged_form (s : State) {f : State → State} (h : ∀ t, (f t).form = t.form) : (s.staged f).form = s.form := h s

@[simp] theorem State.stagedBy_form (s : State) (j i n) : (s.stagedBy j i n).form = s.form := by simp [State.stagedBy]

@[simp] theorem State.stageFor_form (s : State) (j i) {f : State → State} (h : ∀ t, (f t).form = t.form) :
    (s.stageFor j i f).form = s.form := by
  unfold State.stageFor
  split
  · rfl
  · rw [State.stagedBy_form, State.staged_form s h]

@[simp] theorem State.finishStaged_form (s : State) (j) : (s.finishStaged j).form = s.form := by simp [State.finishStaged]

end Sys2Proof.Machine
end

section
/-! The form, through jobs ended and contexts closed: a row of the pool that loses its last use leaves it. -/

namespace Sys2Proof.Machine

@[simp] theorem State.dropOwner_form (s : State) (p) : (s.dropOwner p).form = s.form := by simp [State.dropOwner]

@[simp] theorem State.dropWork_form (s : State) (j keep) : (s.dropWork j keep).form = s.form := by simp [State.dropWork]

@[simp] theorem State.endStall_form (s : State) (i) : (s.endStall i).form = s.form := by
  unfold State.endStall
  (repeat' split) <;> simp

/-- A use that ends is of a row; the lines stay. -/
theorem poolWf_dropUse {pool : List PoolEntry} (h : poolWf pool = true) (u : LineTag) : poolWf (dropUse pool u) = true := by
  obtain ⟨hfine, hnd⟩ := poolWf_iff.mp h
  refine poolWf_iff.mpr ⟨fun e he => ?_, ?_⟩
  · obtain ⟨x, hx, hxe⟩ := List.mem_filterMap.mp he
    split at hxe
    · split at hxe
      · split at hxe
        · cases hxe
        · obtain rfl := Option.some.inj hxe
          trivial
      · obtain rfl := Option.some.inj hxe
        exact hfine _ hx
    · obtain rfl := Option.some.inj hxe
      exact hfine _ hx
  · rw [dropUse, List.filterMap_filterMap]
    refine (congrArg List.Nodup (congrArg (List.filterMap · pool) (funext fun e => ?_))).mpr hnd
    cases e with
    | line | frame => rfl
    | row r t bs n =>
      dsimp only
      split
      · split <;> rfl
      · rfl

@[simp] theorem State.releaseUses_formOk {s : State} (h : s.form.Ok) (i) : (s.releaseUses i).form.Ok := by
  unfold State.releaseUses
  rw [State.setSlot_form]
  exact ⟨h.1, List.foldlRecOn (motive := fun l => poolWf l = true) _ _ h.2 fun l hl u _ => poolWf_dropUse hl u⟩

@[simp] theorem State.keepLate_form (s : State) (i) : (s.keepLate i).form = s.form := by simp [State.keepLate]

@[simp] theorem State.discardStep_formOk {s : State} (h : s.form.Ok) (i) : (s.discardStep i).form.Ok := by simp [State.discardStep, h]

@[simp] theorem State.unpick_form (s : State) (j) : (s.unpick j).form = s.form := by simp [State.unpick]

@[simp] theorem State.dropSwap_form (s : State) (j) : (s.dropSwap j).form = s.form := by simp [State.dropSwap]

@[simp] theorem State.setDrain_form (s : State) (b) : (s.setDrain b).form = s.form := by simp [State.setDrain]

@[simp] theorem State.endModelJob_form (s : State) (j) : (s.endModelJob j).form = s.form := by
  unfold State.endModelJob
  (repeat' split) <;> simp

@[simp] theorem State.endTest_form (s : State) (j) : (s.endTest j).form = s.form := by
  unfold State.endTest
  (repeat' split) <;> simp

@[simp] theorem State.releaseJob_form (s : State) (j keep) : (s.releaseJob j keep).form = s.form := by simp [State.releaseJob]

@[simp] theorem State.endJob_formOk {s : State} (h : s.form.Ok) (j status detail) : (s.endJob j status detail).form.Ok := by
  unfold State.endJob
  dsimp only
  (repeat' split) <;> simp [h]

@[simp] theorem State.failJob_formOk {s : State} (h : s.form.Ok) (j cls status detail) : (s.failJob j cls status detail).form.Ok := by
  unfold State.failJob
  dsimp only
  (repeat' split) <;> simp [h]

@[simp] theorem State.abortQueue_formOk {s : State} (h : s.form.Ok) (q self) : (s.abortQueue q self).1.form.Ok := by
  simp +contextual [State.abortQueue, h]

@[simp] theorem State.abortRun_form (s : State) (j x) : (s.abortRun j x).form = s.form := by simp [State.abortRun]

@[simp] theorem State.abortStart_formOk {s : State} (h : s.form.Ok) (j x) : (s.abortStart j x).form.Ok := by
  unfold State.abortStart
  dsimp only
  (repeat' split) <;> simp [h]

@[simp] theorem execAbortQueue_formed {s : State} (h : s.form.Ok) (q) : Formed (execAbortQueue q s) := by simp +contextual [execAbortQueue, h]

@[simp] theorem execOpenContext_formed {s : State} (h : s.form.Ok) (q) : Formed (execOpenContext q s) := by simp [execOpenContext, h]

@[simp] theorem State.closeLeases_formOk {s : State} (h : s.form.Ok) (j c) : (s.closeLeases j c).form.Ok := by simp +contextual [State.closeLeases, h]

@[simp] theorem State.closeEnd_form (s : State) (j c) : (s.closeEnd j c).form = s.form := by
  unfold State.closeEnd
  dsimp only
  (repeat' split) <;> simp

@[simp] theorem State.closeRun_formOk {s : State} (h : s.form.Ok) (j x) : (s.closeRun j x).form.Ok := by simp [State.closeRun, h]

@[simp] theorem State.closeStart_formOk {s : State} (h : s.form.Ok) (j x) : (s.closeStart j x).form.Ok := by
  unfold State.closeStart
  dsimp only
  split
  · simpa using h
  · split
    · simpa using h
    · refine State.closeRun_formOk ?_ j x
      rw [State.setJob_form]
      exact foldl_fst_ok (fun a q ha => by simp [ha]) _ h

@[simp] theorem execCloseContext_formed {s : State} (h : s.form.Ok) (q) : Formed (execCloseContext q s) := by simp +contextual [execCloseContext, h]

@[simp] theorem State.waitRun_form (s : State) (j x) : (s.waitRun j x).form = s.form := by simp [State.waitRun]

@[simp] theorem State.endWaits_form (s : State) (f) : (s.endWaits f).form = s.form := by simp [State.endWaits]

@[simp] theorem State.raiseFence_form (s : State) (f v) : (s.raiseFence f v).form = s.form := by simp [State.raiseFence]

@[simp] theorem State.signalRun_form (s : State) (j x) : (s.signalRun j x).form = s.form := by simp [State.signalRun]

@[simp] theorem execFenceSignal_formed {s : State} (h : s.form.Ok) (q) : Formed (execFenceSignal q s) := by simp [execFenceSignal, h]

@[simp] theorem execFenceWait_formed {s : State} (h : s.form.Ok) (q) : Formed (execFenceWait q s) := by simp [execFenceWait, h]

@[simp] theorem State.expireStop_formOk {s : State} (h : s.form.Ok) (q seq) : (s.expireStop q seq).form.Ok := by
  simp +contextual [State.expireStop, h]

@[simp] theorem execFenceWaitExpiry_formed {s : State} (h : s.form.Ok) (now q) : Formed (execFenceWaitExpiry now q s) := by
  unfold execFenceWaitExpiry
  dsimp only
  (repeat' split) <;> simp [h]

end Sys2Proof.Machine
end

section
/-! The form, through commands that read a source and write what they read: the model and its dense sets. -/

namespace Sys2Proof.Machine

@[simp] theorem State.remember_form (s : State) (j key bs) : (s.remember j key bs).form = s.form := by simp [State.remember]

@[simp] theorem State.withSource_formOk {s : State} (h : s.form.Ok) (j w len hint) {k : State → List Byte → State}
    (hk : ∀ t bs, t.form.Ok → (k t bs).form.Ok) (inter) : (s.withSource j w len hint k inter).form.Ok := by
  unfold State.withSource
  dsimp only
  split
  · exact hk _ _ h
  · split
    · split
      · have ht : (s.bulkStart j false (w.field 0 63) len [] inter).form.Ok := by simpa using h
        split
        · split
          · exact hk _ _ ht
          · exact ht
        · exact ht
      · split
        · exact hk _ _ h
        · exact h
    · split
      · exact hk _ _ h
      · exact State.accessDma_formOk h _ (readDva_keeps ..) hint fun t bs ht => hk _ _ (by simpa using ht)

@[simp] theorem State.putDva_formOk {s : State} (h : s.form.Ok) (j dva bs hint) {k : State → State}
    (hk : ∀ t, t.form.Ok → (k t).form.Ok) : (s.putDva j dva bs hint k).form.Ok :=
  State.accessDma_formOk h _ (writeDva_keeps ..) hint fun t _ ht => hk t ht

@[simp] theorem State.withStruct_formOk {s : State} (h : s.form.Ok) (j dva len) {k : State → List Byte → State}
    (hk : ∀ t bs, t.form.Ok → (k t bs).form.Ok) : (s.withStruct j dva len k).form.Ok := by
  unfold State.withStruct
  dsimp only
  split
  · exact hk _ _ h
  · exact State.access_formOk h _ (readDva_keeps ..) fun t bs ht => hk _ _ (by simpa using ht)

@[simp] theorem State.unload_formOk {s : State} (h : s.form.Ok) : s.unload.form.Ok := by
  simp [State.unload, State.hbm_mem, State.tiers_pool, h]

@[simp] theorem State.unloadRun_formOk {s : State} (h : s.form.Ok) (j x) : (s.unloadRun j x).form.Ok := by simp [State.unloadRun, h]

@[simp] theorem execUnloadModel_formed {s : State} (h : s.form.Ok) (q) : Formed (execUnloadModel q s) := by simp +contextual [execUnloadModel, h]

@[simp] theorem State.loadSets_formOk {s : State} (h : s.form.Ok) (j r sum) (sets : List (Nat × List Byte)) :
    (s.loadSets j r sum sets).form.Ok := by
  induction sets generalizing s with
  | nil => simpa [State.loadSets] using h
  | cons x sets ih => exact State.putDva_formOk h _ _ _ _ fun t ht => ih ht

@[simp] theorem State.loadData_formOk {s : State} (h : s.form.Ok) (j x bs) : (s.loadData j x bs).form.Ok := by
  refine State.putDva_formOk h _ _ _ _ fun t ht => ?_
  split
  · simpa using ht
  · exact State.loadSets_formOk ht ..

@[simp] theorem State.loadRun_formOk {s : State} (h : s.form.Ok) (j x) : (s.loadRun j x).form.Ok := by simp +contextual [State.loadRun, h]

@[simp] theorem execLoadModel_formed {s : State} (h : s.form.Ok) (q) : Formed (execLoadModel q s) := by simp +contextual [execLoadModel, h]

@[simp] theorem State.stageSet_form (s : State) (j k) : (s.stageSet j k).form = s.form := by simp [State.stageSet]

@[simp] theorem State.swapSetRun_formOk {s : State} (h : s.form.Ok) (j x) : (s.swapSetRun j x).form.Ok := by
  unfold State.swapSetRun
  split
  · simpa using h
  · refine State.withSource_formOk h _ _ _ _ (fun t bs ht => ?_) _
    split
    · simpa using ht
    · exact State.putDva_formOk ht _ _ _ _ fun u hu => by simpa using hu

@[simp] theorem execSwapDenseSet_formed {s : State} (h : s.form.Ok) (q) : Formed (execSwapDenseSet q s) := by
  rw [execSwapDenseSet, formed_next]
  refine State.runJob_formOk h _ _ (fun t j x ht => ?_) fun t j x ht => State.swapSetRun_formOk ht j x
  (repeat' split) <;> simp [ht]

end Sys2Proof.Machine
end

section
/-! The form, through a table's rows read where they are stored. -/

namespace Sys2Proof.Machine

@[simp] theorem State.setTable_form (s : State) (id f) : (s.setTable id f).form = s.form := by simp [State.setTable]

@[simp] theorem homeRegion_keeps (ag dva) : Keeps (homeRegion ag dva) := (resolve_keeps ag dva false).bind fun l => by
  split <;> exact keeps_pure _

@[simp] theorem shardEntry_keeps (ag dir shard) : Keeps (shardEntry ag dir shard) := by simp [shardEntry]

@[simp] theorem rowPlace_keeps (ag d dir row) : Keeps (rowPlace ag d dir row) := by simp [rowPlace]

@[simp] theorem State.countOverrun_form (s : State) (table n) : (s.countOverrun table n).form = s.form := by simp [State.countOverrun]

@[simp] theorem State.decode_form (s : State) (d g body times) : (s.decode d g body times).1.form = s.form := by simp [State.decode]

@[simp] theorem readStored_keeps (ag d dir row all) : Keeps (readStored ag d dir row all) := (rowPlace_keeps ..).bind fun p => by
  split
  · exact keeps_pure _
  · exact (readDva_keeps ..).bind fun _ => (readDva_keeps ..).bind fun _ => keeps_pure _

@[simp] theorem readBuffer_keeps (ag first n) : Keeps (readBuffer ag first n) :=
  .getBind fun _ _ => (Keeps.forIn (fun g _ => (readGran_keeps ag g).bind fun _ => keeps_pure _) _ _).bind fun _ => keeps_pure _

@[simp] theorem State.writeBuffer_form (s : State) (first n) : (s.writeBuffer first n).form = s.form := by simp [State.writeBuffer]

@[simp] theorem rowAt_keeps (ag d v row bound all) : Keeps (rowAt ag d v row bound all) := .getBind fun s _ => by
  split
  · exact (readBuffer_keeps ..).bind fun _ => keeps_pure _
  · exact readStored_keeps ..

end Sys2Proof.Machine
end

section
/-! The form, through update records, kept in a buffer, and epochs. -/

namespace Sys2Proof.Machine

@[simp] theorem State.updCtr_form (s : State) (f) : (s.updCtr f).form = s.form := by simp [State.updCtr]

@[simp] theorem State.setEpoch_form (s : State) (n f) : (s.setEpoch n f).form = s.form := by simp [State.setEpoch]

@[simp] theorem State.tryClose_form (s : State) (n) : (s.tryClose n).form = s.form := by simp [State.tryClose]

@[simp] theorem holds_keeps (d v row) : Keeps (holds d v row) := by simp [holds]

@[simp] theorem keptIn_keeps (t row) : Keeps (keptIn t row) := (holds_keeps ..).bind fun l => by
  split
  · exact (holds_keeps ..).bind fun _ => keeps_pure _
  · exact Keeps.bind (keeps_pure _) fun _ => keeps_pure _

@[simp] theorem State.keepRec_formOk {s : State} (h : s.form.Ok) (r) : (s.keepRec r).form.Ok := by
  unfold State.keepRec
  split
  · simpa using h
  · split
    · rename_i hr
      have ht := (keptIn_keeps ..).of_go h hr
      split <;> simpa using ht
    · simpa using h
    · rename_i hr
      have ht := (keptIn_keeps ..).of_go h hr
      simpa using ht

@[simp] theorem State.unpark_formOk {s : State} (h : s.form.Ok) : s.unpark.form.Ok := by simp +contextual [State.unpark, h]

@[simp] theorem State.takeDeclared_formOk {s : State} (h : s.form.Ok) (e r) : (s.takeDeclared e r).form.Ok := by simp [State.takeDeclared, h]

@[simp] theorem State.takeRecord_formOk {s : State} (h : s.form.Ok) (r) : (s.takeRecord r).form.Ok := by
  unfold State.takeRecord
  dsimp only
  (repeat' split) <;> simp [h]

@[simp] theorem State.markDeclared_form (s : State) (e m) : (s.markDeclared e m).form = s.form := by simp [State.markDeclared]

@[simp] theorem State.takeMarker_form (s : State) (m) : (s.takeMarker m).form = s.form := by
  unfold State.takeMarker
  (repeat' split) <;> simp

@[simp] theorem State.sendRecs_form (s : State) (out) : (s.sendRecs out).form = s.form := by simp [State.sendRecs]

@[simp] theorem State.countSent_form (s : State) (epoch dst) : (s.countSent epoch dst).form = s.form := by simp [State.countSent]

@[simp] theorem State.routeTo_formOk {s : State} (h : s.form.Ok) (r dsts) : (s.routeTo r dsts).1.form.Ok := by simp [State.routeTo, h]

@[simp] theorem State.intakeOne_formOk {s : State} (h : s.form.Ok) (me start t r i size) : (s.intakeOne me start t r i size).1.form.Ok := by
  unfold State.intakeOne
  dsimp only
  (repeat' split) <;> simp [h]

@[simp] theorem State.intake_formOk {s : State} (h : s.form.Ok) (me start bs i fuel) : (s.intake me start bs i fuel).1.form.Ok := by
  induction fuel generalizing s i with
  | zero => exact h
  | succ fuel ih =>
    unfold State.intake
    dsimp only
    (repeat' split) <;> simp [h, ih]

@[simp] theorem State.intakeRun_formOk {s : State} (h : s.form.Ok) (j bs) : (s.intakeRun j bs).form.Ok := by
  unfold State.intakeRun
  (repeat' split) <;> simp [h]

@[simp] theorem State.updateRun_formOk {s : State} (h : s.form.Ok) (j x) : (s.updateRun j x).form.Ok := by simp +contextual [State.updateRun, h]

@[simp] theorem execUpdateRows_formed {s : State} (h : s.form.Ok) (q) : Formed (execUpdateRows q s) := by simp +contextual [execUpdateRows, h]

@[simp] theorem closeStart_formOk {s : State} (h : s.form.Ok) {k : State → JobRef → Job → State}
    (hk : ∀ t j x, t.form.Ok → (k t j x).form.Ok) (j x) : (closeStart k s j x).form.Ok := by
  unfold closeStart
  split
  · simpa using h
  · split
    · simpa using h
    · exact hk _ _ _ h

@[simp] theorem State.unready_form (s : State) : s.unready.form = s.form := by simp [State.unready]

@[simp] theorem State.openEpoch_formOk {s : State} (h : s.form.Ok) (e) : (s.openEpoch e).form.Ok := by
  unfold State.openEpoch
  dsimp only
  rw [State.relist_form, State.sendRecs_form]
  refine foldl_fst_ok (fun a r ha => ?_) _ ?_
  · exact State.routeTo_formOk ha r e.parts
  · rw [foldl_form fun t m => by split <;> simp]
    refine foldl_ok (fun t r ht => by split <;> simp [ht]) _ ?_
    split <;> simpa using h

@[simp] theorem State.declare_formOk {s : State} (h : s.form.Ok) (j x bs) : (s.declare j x bs).form.Ok := by simp [State.declare, h]

@[simp] theorem State.declareRun_formOk {s : State} (h : s.form.Ok) (j x) : (s.declareRun j x).form.Ok :=
  State.withStruct_formOk h _ _ _ fun _ _ ht => State.withStruct_formOk ht _ _ _ fun _ _ hu => State.declare_formOk hu ..

@[simp] theorem execCloseEpochDeclare_formed {s : State} (h : s.form.Ok) (q) : Formed (execCloseEpochDeclare q s) :=
  (formed_next _).mpr (State.runJob_formOk h _ _ (fun _ _ _ ht => closeStart_formOk ht (fun _ _ _ hu => State.declareRun_formOk hu ..) _ _)
    fun _ _ _ ht => State.declareRun_formOk ht ..)

@[simp] theorem State.sendMarks_form (s : State) (j e me) : (s.sendMarks j e me).form = s.form := by simp [State.sendMarks]

@[simp] theorem State.markEnd_form (s : State) (j) : (s.markEnd j).form = s.form := by
  unfold State.markEnd
  (repeat' split) <;> simp

@[simp] theorem State.markRun_form (s : State) (j x) : (s.markRun j x).form = s.form := by
  unfold State.markRun
  (repeat' split) <;> simp

@[simp] theorem execCloseEpochMark_formed {s : State} (h : s.form.Ok) (q) : Formed (execCloseEpochMark q s) :=
  (formed_next _).mpr (State.runJob_formOk h _ _ (fun _ _ _ ht => closeStart_formOk ht (fun _ _ _ hu => by split <;> simpa using hu) _ _)
    fun _ _ _ ht => by simpa using ht)

@[simp] theorem execCloseEpochForce_formed {s : State} (h : s.form.Ok) (q) : Formed (execCloseEpochForce q s) :=
  (formed_next _).mpr (State.runOnce_formOk h _ _ fun _ _ _ ht => closeStart_formOk ht (fun _ _ _ hu => by
    split
    · simpa using hu
    · (repeat' split) <;> simpa using hu) _ _)

@[simp] theorem State.awaitRun_form (s : State) (j x) : (s.awaitRun j x).form = s.form := by simp [State.awaitRun]

@[simp] theorem execCloseEpochAwait_formed {s : State} (h : s.form.Ok) (q) : Formed (execCloseEpochAwait q s) :=
  (formed_next _).mpr (State.runJob_formOk h _ _ (fun _ _ _ ht => closeStart_formOk ht (fun _ _ _ hu => by simpa using hu) _ _)
    fun _ _ _ ht => by simpa using ht)

@[simp] theorem execUpdateRecord_formed {s : State} (h : s.form.Ok) (f rs) : Formed (execUpdateRecord f rs s) := by
  unfold execUpdateRecord
  dsimp only
  split
  · simp [h]
  · split <;> rename_i hr
    · exact (formed_next _).mpr (foldl_ok (fun t r ht => State.takeRecord_formOk ht r) _ (by simp [fst_form hr, h]))
    · simp [fst_form hr, h]

@[simp] theorem execEpochClose_formed {s : State} (h : s.form.Ok) (f r) : Formed (execEpochClose f r s) := by
  unfold execEpochClose
  split <;> rename_i hr <;> simp [fst_form hr, h]

end Sys2Proof.Machine
end

section
/-! The form, through overlays built from the records and written back to the rows. -/

namespace Sys2Proof.Machine

@[simp] theorem peeked_keeps {α : Type} (a : α) {m : Acc α} (hm : Keeps m) : Keeps (peeked a m) :=
  .getBind fun _ hs => (hm.tryCatch fun _ => keeps_pure a).bind fun _ => (Keeps.set hs).bind fun _ => keeps_pure _

@[simp] theorem rowRegion_keeps (d dir row) : Keeps (rowRegion d dir row) :=
  (peeked_keeps 0 (homeRegion_keeps ..)).bind fun home => peeked_keeps home ((rowPlace_keeps ..).bind fun p => by split <;> simp)

@[simp] theorem headerOnly_keeps (ag x bound) : Keeps (headerOnly ag x bound) := forgive_keeps ag [] (.getBind fun s _ => by
  split
  · exact (readBuffer_keeps ..).bind fun _ => keeps_pure _
  · refine (rowPlace_keeps ..).bind fun p => ?_
    split <;> simp)

@[simp] theorem readRec_keeps (ag r) : Keeps (readRec ag r) := .getBind fun s _ => by
  dsimp only
  split
  · exact keeps_pure _
  · refine (forgive_keeps ag false ((readBuffer_keeps ..).bind fun _ => keeps_pure _)).bind fun ok => ?_
    split
    · exact (keeps_modifyForm fun s => by rfl).bind fun _ => keeps_pure _
    · exact keeps_pure _

@[simp] theorem rowBase_keeps (ag x bound) : Keeps (rowBase ag x bound) := forgive_keeps ag none ((rowAt_keeps ..).bind fun b => by
  split <;> exact keeps_pure _)

@[simp] theorem newBodyOf_keeps (ag x bound) : Keeps (newBodyOf ag x bound) := by
  have hcode : ∀ (head : List Byte) (base : List F32), Keeps (do
      let s ← get
      let (body, limited) := recode x.desc (s.ctx 0).grid head ((rowVersion head + 1) % 2 ^ 32) (combine base x.recs)
      if limited then set (s.updCtr fun c => { c with escLimited := c.escLimited + 1 })
      return body : Acc (List Byte)) := fun head base => .getBind fun s hs => by
    dsimp only
    split <;> simp [hs]
  refine (rowBase_keeps ..).bind fun b => ?_
  dsimp only
  split
  · refine Keeps.getBind fun s hs => (Keeps.set (by simpa using hs)).bind fun _ => (hcode _ _).bind fun _ => keeps_pure _
  · split
    · exact (keeps_modifyForm fun s => by rfl).bind fun _ => keeps_pure _
    · exact (headerOnly_keeps ..).bind fun _ => (hcode _ _).bind fun _ => keeps_pure _

@[simp] theorem newBody_keeps (x bound) : Keeps (newBody x bound) :=
  (rowRegion_keeps ..).bind fun r => (Keeps.filterM (readRec_keeps _) _).bind fun recs => by split <;> simp

@[simp] theorem buildOverlays_keeps (e bound) (xs : List RowUpd) : Keeps (buildOverlays e bound xs) := by
  induction xs with
  | nil => exact keeps_pure []
  | cons x xs ih => exact (newBody_keeps ..).bind fun b => ih.bind fun os => by split <;> exact keeps_pure _

@[simp] theorem execEpochReady_formed {s : State} (h : s.form.Ok) (epoch) : Formed (execEpochReady epoch s) := by
  unfold execEpochReady
  split
  · simpa using h
  · split
    · simpa using h
    · refine (formed_next _).mpr (State.access_formOk h _ (buildOverlays_keeps ..) fun t os ht => ?_)
      simpa using ht

@[simp] theorem putRow_keeps (ag a bs) : Keeps (putRow ag a bs) := by simp [putRow]

@[simp] theorem storeRow_keeps (d dir row body) : Keeps (storeRow d dir row body) :=
  (rowRegion_keeps ..).bind fun r => (forgive_keeps _ none (rowPlace_keeps ..)).bind fun p => by
    split
    · exact keeps_pure _
    · exact (putRow_keeps ..).bind fun _ => (putRow_keeps ..).bind fun _ => keeps_pure _

@[simp] theorem writeOverlay_keeps (o) : Keeps (writeOverlay o) := .getBind fun s _ => by
  split
  · exact Keeps.bind (keeps_pure _) fun _ => keeps_modifyForm fun s => by rfl
  · split
    · exact Keeps.bind (keeps_pure _) fun _ => keeps_modifyForm fun s => by rfl
    · exact (storeRow_keeps ..).bind fun _ => keeps_modifyForm fun s => by rfl

@[simp] theorem State.freeRecs_form (s : State) (epoch) : (s.freeRecs epoch).form = s.form := by simp [State.freeRecs]

@[simp] theorem execEpochWriteBack_formed {s : State} (h : s.form.Ok) (epoch) : Formed (execEpochWriteBack epoch s) := by
  unfold execEpochWriteBack
  split
  · simpa using h
  · split
    · simpa using h
    · exact (formed_next _).mpr (State.access_formOk h _ (Keeps.forM writeOverlay_keeps _) fun t _ ht => by simpa using ht)

@[simp] theorem rowShade_keeps (x) : Keeps (rowShade x) :=
  (rowRegion_keeps ..).bind fun r => (forgive_keeps _ none (rowPlace_keeps ..)).bind fun p => by
    split
    · exact keeps_pure _
    · exact (homeRegion_keeps ..).bind fun _ => .getBind fun _ _ => keeps_pure _

@[simp] theorem catchUp_keeps (us) : Keeps (catchUp us) := (Keeps.mapM rowShade_keeps us).bind fun shades => by
  split
  · exact keeps_pure _
  · refine (Keeps.forM (fun x => (newBody_keeps x 0).bind fun b => ?_) us).bind fun _ => keeps_pure _
    split
    · exact (storeRow_keeps ..).bind fun _ => keeps_pure _
    · exact keeps_pure _

@[simp] theorem State.beginTracking_form (s : State) (id j) : (s.beginTracking id j).form = s.form := by simp [State.beginTracking]

@[simp] theorem execCatchUpDone_formed {s : State} (h : s.form.Ok) (table) : Formed (execCatchUpDone table s) := by
  unfold execCatchUpDone
  split
  · simpa using h
  · split
    · dsimp only
      split
      · simpa using h
      · refine (formed_next _).mpr (State.access_formOk h _ (catchUp_keeps _) fun t done ht => ?_)
        split <;> simpa using ht
    · simpa using h

end Sys2Proof.Machine
end

section
/-! The form, through the tables' commands. -/

namespace Sys2Proof.Machine

@[simp] theorem tableStart_formOk {s : State} (h : s.form.Ok) (ok) {k : State → JobRef → Job → State}
    (hk : ∀ t j x, t.form.Ok → (k t j x).form.Ok) (j x) : (tableStart ok k s j x).form.Ok := by
  unfold tableStart
  split
  · simpa using h
  · split
    · simpa using h
    · exact hk _ _ _ h

/-- A job row whose start is a table's: what it runs keeps the form. -/
@[simp] theorem State.runTable_formOk {s : State} (h : s.form.Ok) (q mine ok) {k again : State → JobRef → Job → State}
    (hk : ∀ t j x, t.form.Ok → (k t j x).form.Ok) (ha : ∀ t j x, t.form.Ok → (again t j x).form.Ok) :
    (s.runJob q mine (tableStart ok k) again).form.Ok :=
  State.runJob_formOk h q mine (fun _ j x ht => tableStart_formOk ht ok hk j x) ha

@[simp] theorem State.define_form (s : State) (d row) : (s.define d row).form = s.form := by simp [State.define]

@[simp] theorem State.defineRun_formOk {s : State} (h : s.form.Ok) (j x) : (s.defineRun j x).form.Ok := by
  refine State.withStruct_formOk h _ _ _ fun t bs ht => ?_
  split
  · simpa using ht
  · split
    · simpa using ht
    · split
      · exact State.wrecked_formOk ht _
      · split
        · simpa using ht
        · exact State.withStruct_formOk ht _ _ _ fun u row hu => by simpa using hu

@[simp] theorem execDefineTable_formed {s : State} (h : s.form.Ok) (q) : Formed (execDefineTable q s) := by simp +contextual [execDefineTable, h]

@[simp] theorem readSections_keeps (ag dva n off) : Keeps (readSections ag dva n off) := by
  induction n generalizing off with
  | zero => exact keeps_pure _
  | succ n ih =>
    refine (readDva_keeps ..).bind fun h => .getBind fun s _ => ?_
    split
    · exact keeps_pure _
    · split
      · exact keeps_pure _
      · refine (readDva_keeps ..).bind fun bs => ?_
        split
        · exact keeps_pure _
        · exact (ih _).bind fun _ => keeps_pure _

@[simp] theorem State.stageMap_form (s : State) (secs tag) : (s.stageMap secs tag).form = s.form := by simp [State.stageMap]

@[simp] theorem State.stageMapFor_form (s : State) (j secs tag) : (s.stageMapFor j secs tag).form = s.form := by simp [State.stageMapFor]

@[simp] theorem State.mapRun_formOk {s : State} (h : s.form.Ok) (j x) : (s.mapRun j x).form.Ok := by
  refine State.withStruct_formOk h _ _ _ fun t bs ht => ?_
  dsimp only
  split
  · simpa using ht
  · refine State.access_formOk ht _ (readSections_keeps ..) fun u secs hu => ?_
    split
    · simpa using hu
    · split <;> simpa using hu

@[simp] theorem execMapShards_formed {s : State} (h : s.form.Ok) (q) : Formed (execMapShards q s) := by simp +contextual [execMapShards, h]

@[simp] theorem fillBlock_keeps (ag v shard block) : Keeps (fillBlock ag v shard block) := by simp [fillBlock]

@[simp] theorem State.fillRun_formOk {s : State} (h : s.form.Ok) (j x) : (s.fillRun j x).form.Ok := by
  unfold State.fillRun
  split
  · simpa using h
  · dsimp only
    split
    · simpa using h
    · split
      · simpa using h
      · refine State.accessDma_formOk h _ (fillBlock_keeps ..) _ fun t b ht => ?_
        split
        · simpa using ht
        · split
          · exact ht
          · refine State.withSource_formOk ht _ _ _ _ (fun u bs hu => ?_) _
            exact State.putDva_formOk hu _ _ _ _ fun v hv => State.putDva_formOk hv _ _ _ _ fun w hw => by simpa using hw

@[simp] theorem execFillTable_formed {s : State} (h : s.form.Ok) (q) : Formed (execFillTable q s) :=
  (formed_next _).mpr (State.runTable_formOk h _ _ _ (fun t j x ht => by split <;> simp [ht]) fun t j x ht => State.fillRun_formOk ht j x)

@[simp] theorem joinShadow_keeps (t v base ks) : Keeps (joinShadow t v base ks) := by simp [joinShadow]

@[simp] theorem State.shadowRun_formOk {s : State} (h : s.form.Ok) (j x) : (s.shadowRun j x).form.Ok := by
  unfold State.shadowRun
  (repeat' split) <;> simp [h]

@[simp] theorem execBeginShadow_formed {s : State} (h : s.form.Ok) (q) : Formed (execBeginShadow q s) := by simp +contextual [execBeginShadow, h]

@[simp] theorem State.swapStart_form (s : State) (j x) : (s.swapStart j x).form = s.form := by
  unfold State.swapStart
  (repeat' split) <;> simp

@[simp] theorem execSwapVersion_formed {s : State} (h : s.form.Ok) (q) : Formed (execSwapVersion q s) := by simp +contextual [execSwapVersion, h]

@[simp] theorem execReleaseVersion_formed {s : State} (h : s.form.Ok) (q) : Formed (execReleaseVersion q s) :=
  (formed_next _).mpr (State.runTable_formOk h _ _ _ (fun t j x ht => by (repeat' split) <;> simp [ht]) fun _ _ _ ht => ht)

@[simp] theorem readSet_keeps (ag dva) : Keeps (readSet ag dva) :=
  (readDva_keeps ..).bind fun _ => (readDva_keeps ..).bind fun _ => (readDva_keeps ..).bind fun _ => (readDva_keeps ..).bind fun _ =>
    (Keeps.mapM (fun _ => (readDva_keeps ..).bind fun _ => (readDva_keeps ..).bind fun _ => keeps_pure _) _).bind fun _ => keeps_pure _

@[simp] theorem State.reflRun_formOk {s : State} (h : s.form.Ok) (j x) : (s.reflRun j x).form.Ok := by simp [State.reflRun, h]

@[simp] theorem execSetReflections_formed {s : State} (h : s.form.Ok) (q) : Formed (execSetReflections q s) := by
  simp +contextual [execSetReflections, h]

end Sys2Proof.Machine
end

section
/-! The form, through the settings' commands and the sequences. -/

namespace Sys2Proof.Machine

@[simp] theorem execSetBrim_formed {s : State} (h : s.form.Ok) (q) : Formed (execSetBrim q s) := by simp [execSetBrim, h]

@[simp] theorem State.stageLimits_form (s : State) (x) : (s.stageLimits x).form = s.form := by simp [State.stageLimits]

@[simp] theorem execSetRegionLimits_formed {s : State} (h : s.form.Ok) (q) : Formed (execSetRegionLimits q s) := by simp [execSetRegionLimits, h]

@[simp] theorem State.stagePorts_form (s : State) (c) : (s.stagePorts c).form = s.form := by simp [State.stagePorts]

@[simp] theorem State.portsRun_formOk {s : State} (h : s.form.Ok) (j x) : (s.portsRun j x).form.Ok := by simp [State.portsRun, h]

@[simp] theorem execSetPortConfig_formed {s : State} (h : s.form.Ok) (q) : Formed (execSetPortConfig q s) := by
  simp +contextual [execSetPortConfig, h]

@[simp] theorem execSetDim_formed {s : State} (h : s.form.Ok) (q) : Formed (execSetDim q s) := by simp [execSetDim, h]

@[simp] theorem State.gridRun_formOk {s : State} (h : s.form.Ok) (j x) : (s.gridRun j x).form.Ok := by simp [State.gridRun, h]

@[simp] theorem execSetGrid_formed {s : State} (h : s.form.Ok) (q) : Formed (execSetGrid q s) := by simp +contextual [execSetGrid, h]

@[simp] theorem State.recordSeq_form (s : State) (j x body list) : (s.recordSeq j x body list).form = s.form := by
  unfold State.recordSeq
  dsimp only
  (repeat' split) <;> simp

@[simp] theorem State.recordRun_formOk {s : State} (h : s.form.Ok) (j x) : (s.recordRun j x).form.Ok := by simp +contextual [State.recordRun, h]

@[simp] theorem execRecordSequence_formed {s : State} (h : s.form.Ok) (q) : Formed (execRecordSequence q s) := by
  simp +contextual [execRecordSequence, h]

@[simp] theorem patched_keeps (ag ws slots) : Keeps (patched ag ws slots) := by simp [patched]

@[simp] theorem State.takeEntries_formOk {s : State} (h : s.form.Ok) (q fuel) : (s.takeEntries q fuel).form.Ok := by
  induction fuel generalizing s with
  | zero => exact h
  | succ fuel ih =>
    unfold State.takeEntries
    split
    · exact h
    · split
      · exact h
      · exact State.access_formOk h _ (patched_keeps ..) fun t ws ht => ih (by simpa using ht)

@[simp] theorem execRunSequence_formed {s : State} (h : s.form.Ok) (q) : Formed (execRunSequence q s) := by
  unfold execRunSequence
  dsimp only
  (repeat' split) <;> simp [h]

end Sys2Proof.Machine
end

section
/-! The form, through READ_MONITORS. -/

namespace Sys2Proof.Machine

@[simp] theorem State.writeResult_formOk {s : State} (h : s.form.Ok) (j dva bs detail counts) : (s.writeResult j dva bs detail counts).form.Ok := by
  simp [State.writeResult, h]

@[simp] theorem State.monitorsRun_formOk {s : State} (h : s.form.Ok) (words j x) : (State.monitorsRun words s j x).form.Ok := by
  simp [State.monitorsRun, h]

@[simp] theorem execReadMonitors_formed {s : State} (h : s.form.Ok) (r) : Formed (execReadMonitors r s) := by simp +contextual [execReadMonitors, h]

end Sys2Proof.Machine
end

section
/-! The form, through the security engine's commands. -/

namespace Sys2Proof.Machine

@[simp] theorem State.readLeaf_form (s : State) : s.readLeaf.form = s.form := by
  unfold State.readLeaf
  dsimp only
  (repeat' split) <;> simp

@[simp] theorem State.writeLeaf_form (s : State) (n w) : (s.writeLeaf n w).1.form = s.form := by
  unfold State.writeLeaf
  (repeat' split) <;> simp

@[simp] theorem State.attestEnd_form (s : State) (j status detail) : (s.attestEnd j status detail).form = s.form := by simp [State.attestEnd]

@[simp] theorem State.attestWrite_formOk {s : State} (h : s.form.Ok) (j) : (s.attestWrite j).form.Ok := by
  unfold State.attestWrite
  (repeat' split) <;> simp [h]

@[simp] theorem State.attestSign_formOk {s : State} (h : s.form.Ok) (j w nonce) : (s.attestSign j w nonce).form.Ok := by
  unfold State.attestSign
  dsimp only
  split
  · simpa using h
  · split
    · simpa using h
    · split
      · rename_i hw
        simp [fst_form hw, h]
      · rename_i t hw
        have ht : t.form.Ok := by simp [fst_form hw, h]
        exact State.attestWrite_formOk (by simpa using ht) _

@[simp] theorem State.attestRun_formOk {s : State} (h : s.form.Ok) (w j x) : (State.attestRun w s j x).form.Ok := by
  simp +contextual [State.attestRun, h]

@[simp] theorem execAttest_formed {s : State} (h : s.form.Ok) (q w) : Formed (execAttest q w s) := by simp +contextual [execAttest, h]

@[simp] theorem State.certRun_formOk {s : State} (h : s.form.Ok) (j x) : (s.certRun j x).form.Ok := by simp [State.certRun, h]

@[simp] theorem execGetCertificate_formed {s : State} (h : s.form.Ok) (q) : Formed (execGetCertificate q s) := by
  simp +contextual [execGetCertificate, h]

@[simp] theorem execMrOwnerMapComputed_formed {s : State} (h : s.form.Ok) : Formed (execMrOwnerMapComputed s) := by
  unfold execMrOwnerMapComputed
  (repeat' split) <;> simp [h]

@[simp] theorem State.recorderRun_formOk {s : State} (h : s.form.Ok) (j x) : (s.recorderRun j x).form.Ok := by simp [State.recorderRun, h]

@[simp] theorem execReadRecorder_formed {s : State} (h : s.form.Ok) (q) : Formed (execReadRecorder q s) := by simp +contextual [execReadRecorder, h]

@[simp] theorem State.clearLog_form (s : State) (a copyBOk) : (s.clearLog a copyBOk).form = s.form := by simp [State.clearLog]

@[simp] theorem State.clearRun_formOk {s : State} (h : s.form.Ok) (w j x) : (State.clearRun w s j x).form.Ok := by simp [State.clearRun, h]

@[simp] theorem execClearRecorder_formed {s : State} (h : s.form.Ok) (q w) : Formed (execClearRecorder q w s) := by
  simp +contextual [execClearRecorder, h]

end Sys2Proof.Machine
end

section
/-! The form, through a command's ranges: the release of what they hold in the pool. -/

namespace Sys2Proof.Machine

@[simp] theorem touched_keeps (ag dva len) : Keeps (touched ag dva len) := by
  refine (Keeps.mapM (fun p : Nat × Nat => (resolve_keeps ag p.1 false).bind fun l => ?_) _).bind fun _ => keeps_pure _
  split <;> exact keeps_pure _

@[simp] theorem State.releaseRange_formOk {s : State} (h : s.form.Ok) (ag dva len) : (s.releaseRange ag dva len).form.Ok := by
  unfold State.releaseRange
  split
  · exact h
  · exact (releaseLines_formOk h _).front _

end Sys2Proof.Machine
end

section
/-! The form, through DMA_COPY, the retirement of pages, which takes their bytes from memory and the pool, and the tests. -/

namespace Sys2Proof.Machine

@[simp] theorem State.copyEnd_formOk {s : State} (h : s.form.Ok) (j x release) : (s.copyEnd j x release).form.Ok := by simp [State.copyEnd, h]

@[simp] theorem copyPiece_keeps (ag a n dst hint) : Keeps (copyPiece ag a n dst hint) := by
  refine Keeps.bind (Keeps.tryCatch (readDva_keeps ..) fun f => ?_) fun bs =>
    (notingPart_keeps _ (writeDva_keeps ..)).bind fun _ => keeps_pure _
  split
  · exact keeps_throw _
  · exact keeps_throw _
  · exact keeps_throw _
  · exact .getBind fun s _ => (writeDva_keeps ..).bind fun _ => keeps_throw _

@[simp] theorem copyPieces_keeps (ag src dst len hint) (ps : List (Nat × Nat)) : Keeps (copyPieces ag src dst len hint ps) := by
  induction ps with
  | nil => exact keeps_pure _
  | cons p ps ih => exact (notingPart_keeps _ (copyPiece_keeps ..)).bind fun _ => ih

@[simp] theorem copyWithin_keeps (ag src dst len hint) : Keeps (copyWithin ag src dst len hint) := by simp [copyWithin]

@[simp] theorem State.copyRun_formOk {s : State} (h : s.form.Ok) (j x) : (s.copyRun j x).form.Ok := by
  unfold State.copyRun
  split
  · exact h
  · dsimp only
    split
    · split <;> simp [h]
    · split
      · refine State.withSource_formOk h _ _ _ _ (fun t bs ht => ?_) _
        split <;> simp [ht]
      · split
        · exact State.withSource_formOk h _ _ _ _ (fun t bs ht => State.putDva_formOk ht _ _ _ _ fun u hu => by simp [hu]) _
        · exact State.accessOr_formOk h _ (copyWithin_keeps ..) _ (fun t _ ht => by simp [ht]) fun t f ht => by simp [ht]

@[simp] theorem execDmaCopy_formed {s : State} (h : s.form.Ok) (q) : Formed (execDmaCopy q s) := by simp +contextual [execDmaCopy, h]

@[simp] theorem State.withdrawBuffer_form (s : State) (page) : (s.withdrawBuffer page).form = s.form := by simp [State.withdrawBuffer]

@[simp] theorem State.withdrawFrame_formOk {s : State} (h : s.form.Ok) (page) : (s.withdrawFrame page).form.Ok := by
  unfold State.withdrawFrame
  dsimp only
  split
  · exact h
  · split
    · exact dropFrame_formOk h ..
    · simp [h]

@[simp] theorem State.withdrawPage_formOk {s : State} (h : s.form.Ok) (page) : (s.withdrawPage page).form.Ok := by
  unfold State.withdrawPage
  (repeat' split) <;> simp [h]

@[simp] theorem State.retire_formOk {s : State} (h : s.form.Ok) (page) : (s.retire page).form.Ok := by
  have hpoison : ∀ (g : Hbm) (l : List Nat), (l.foldl (fun h i => h.poisonGran (64 * page + i)) g).mem = g.mem := fun g l =>
    List.foldlRecOn (motive := fun h : Hbm => h.mem = g.mem) l _ rfl fun h hh i _ => hh
  unfold State.retire
  dsimp only
  rw [State.recordEvent_form, State.mk_form, hpoison]
  exact (State.withdrawPage_formOk h page).filter _

@[simp] theorem State.retireEntry_formOk {s : State} (h : s.form.Ok) (dpa) : (s.retireEntry dpa).1.form.Ok := by
  unfold State.retireEntry
  (repeat' split) <;> simp [h]

@[simp] theorem State.retireRun_formOk {s : State} (h : s.form.Ok) (j x) : (s.retireRun j x).form.Ok := by
  refine State.withSource_formOk h _ _ _ _ (fun t bs ht => ?_) _
  dsimp only
  rw [State.finishJob_form]
  refine foldl_fst_ok (fun a d ha => ?_) _ ht
  exact State.retireEntry_formOk ha d

@[simp] theorem execRetirePages_formed {s : State} (h : s.form.Ok) (q) : Formed (execRetirePages q s) := by simp +contextual [execRetirePages, h]

@[simp] theorem State.testEffect_formOk {s : State} (h : s.form.Ok) (d r) : (s.testEffect d r).form.Ok := by
  unfold State.testEffect
  dsimp only
  refine State.zeroRange_formOk ?_ _ _
  rw [foldl_form fun t u => by simp [Hbm.poisonGran, State.hbm_mem, State.tiers_pool], foldl_form fun t c => by simp]
  exact h

@[simp] theorem State.trafficGo_formOk {s : State} (r) (h : s.form.Ok) (j d result) : (State.trafficGo r s j d result).form.Ok := by
  unfold State.trafficGo
  dsimp only
  split
  · exact h
  · split
    · simp [h]
    · exact State.putDva_formOk (by simp [h]) _ _ _ _ fun t ht => by simp [ht]

@[simp] theorem State.trafficRun_formOk {s : State} (r) (h : s.form.Ok) (j x) : (State.trafficRun r s j x).form.Ok := by
  unfold State.trafficRun
  dsimp only
  split
  · exact State.putDva_formOk h _ _ _ _ fun t ht => by simp [ht]
  · split
    · split <;> simp [h]
    · refine State.withStruct_formOk h _ _ _ fun t bs ht => ?_
      split <;> simp [ht]

@[simp] theorem execRunTrafficTest_formed {s : State} (h : s.form.Ok) (q r) : Formed (execRunTrafficTest q r s) := by
  simp +contextual [execRunTrafficTest, h]

@[simp] theorem State.linkRun_form (s : State) (j x) : (s.linkRun j x).form = s.form := by simp [State.linkRun]

@[simp] theorem execLinkTest_formed {s : State} (h : s.form.Ok) (q) : Formed (execLinkTest q s) := by simp [execLinkTest, h]

@[simp] theorem State.testSaw_form (s : State) (p good) : (s.testSaw p good).form = s.form := by simp [State.testSaw]

@[simp] theorem execLinkTestFrame_formed {s : State} (h : s.form.Ok) (f payloadOk) : Formed (execLinkTestFrame f payloadOk s) := by
  unfold execLinkTestFrame
  dsimp only
  (repeat' split) <;> simp [h]

@[simp] theorem execLinkTestEnd_formed {s : State} (h : s.form.Ok) (now results) : Formed (execLinkTestEnd now results s) := by
  unfold execLinkTestEnd
  dsimp only
  (repeat' split) <;> simp [h]

end Sys2Proof.Machine
end

section
/-! The form, through the reset state has the form, and boot, power and training begin from it. -/

namespace Sys2Proof.Machine

@[simp] theorem execBootChunk_formed {s : State} (h : s.form.Ok) : Formed (execBootChunk s) := by simp [execBootChunk, h]

@[simp] theorem execBootFinish_formed {s : State} (h : s.form.Ok) : Formed (execBootFinish s) := by simp [execBootFinish, h]

@[simp] theorem execBootDiscard_formed {s : State} (h : s.form.Ok) : Formed (execBootDiscard s) := by simp [execBootDiscard, h]

@[simp] theorem State.writeBoot_formed {s : State} (h : s.form.Ok) (o size v) : Formed (s.writeBoot o size v) := by
  unfold State.writeBoot
  (repeat' split) <;> simp [h]

@[simp] theorem execRegisterWrite_formed {s : State} (h : s.form.Ok) (bar offset size value) :
    Formed (execRegisterWrite bar offset size value s) := by
  unfold execRegisterWrite
  (repeat' split) <;> simp [h]

@[simp] theorem State.startFirmware_form (s : State) (linked) : (s.startFirmware linked).form = s.form := by simp [State.startFirmware]

@[simp] theorem execFirmwareVerified_formed {s : State} (h : s.form.Ok) (now linked) : Formed (execFirmwareVerified now linked s) := by
  unfold execFirmwareVerified
  dsimp only
  (repeat' split) <;> simp [h]

theorem State.reset_form : State.reset.form.Ok := ⟨by rfl, by rfl⟩

@[simp] theorem State.afresh_formOk (s : State) (powered) : (s.afresh powered).form.Ok := State.reset_form

@[simp] theorem execPowerUp_formed {s : State} (h : s.form.Ok) : Formed (execPowerUp s) := by simp [execPowerUp, h]

@[simp] theorem State.cutWrites_form (s : State) : s.cutWrites.form = s.form := by simp [State.cutWrites]

@[simp] theorem execPowerLoss_formed (s : State) : Formed (execPowerLoss s) := by simp [execPowerLoss]

@[simp] theorem execPerstAssert_formed {s : State} (h : s.form.Ok) : Formed (execPerstAssert s) := by simp [execPerstAssert, h]

@[simp] theorem execPerstRelease_formed {s : State} (h : s.form.Ok) (w straps) : Formed (execPerstRelease w straps s) := by
  unfold execPerstRelease
  (repeat' split) <;> simp [h]

@[simp] theorem execLinkTrained_formed {s : State} (h : s.form.Ok) (now width rate) : Formed (execLinkTrained now width rate s) := by
  simp [execLinkTrained, h]

@[simp] theorem execStackTrainingDone_formed {s : State} (h : s.form.Ok) (now failed) : Formed (execStackTrainingDone now failed s) := by
  simp [execStackTrainingDone, h]

@[simp] theorem execSelfCheckDone_formed {s : State} (h : s.form.Ok) (now badPages pcOverLimit) :
    Formed (execSelfCheckDone now badPages pcOverLimit s) := by
  have hempty : Form.Ok ([], s.form.2) := ⟨rfl, h.2⟩
  unfold execSelfCheckDone
  dsimp only
  split
  · simpa using h
  · split
    · simpa using h
    · rw [formed_next, State.bringupReady_form]
      split <;> simpa [State.tiers_pool] using hempty

end Sys2Proof.Machine
end

section
/-! The form, through fatal reports, temperatures and power, which leave both. -/

namespace Sys2Proof.Machine

@[simp] theorem execFatalSequence_formed {s : State} (h : s.form.Ok) (now) : Formed (execFatalSequence now s) := by
  unfold execFatalSequence
  dsimp only
  (repeat' split) <;> simp [h]

@[simp] theorem State.fatalReport_form (s : State) (cause) : (s.fatalReport cause).form = s.form := by simp [State.fatalReport]

@[simp] theorem State.noteEvent_form (s : State) (e) : (s.noteEvent e).form = s.form := by simp [State.noteEvent]

@[simp] theorem execCpLivenessTimeout_formed {s : State} (h : s.form.Ok) (now) : Formed (execCpLivenessTimeout now s) := by
  simp [execCpLivenessTimeout, h]

@[simp] theorem execSecurityEngineFailure_formed {s : State} (h : s.form.Ok) : Formed (execSecurityEngineFailure s) := by
  simp [execSecurityEngineFailure, h]

@[simp] theorem execBridgeUncorrectable_formed {s : State} (h : s.form.Ok) : Formed (execBridgeUncorrectable s) := by
  simp [execBridgeUncorrectable, h]

@[simp] theorem execHbmTempReading_formed {s : State} (h : s.form.Ok) (now r reading) : Formed (execHbmTempReading now r reading s) := by
  unfold execHbmTempReading
  (repeat' split) <;> simp [h]

@[simp] theorem State.thermal_form (s : State) (r) : (s.thermal r).form = s.form := by simp [State.thermal]

@[simp] theorem State.reheat_form (s : State) (r) : (s.reheat r).form = s.form := by
  unfold State.reheat
  (repeat' split) <;> simp

@[simp] theorem State.trip_form (s : State) : s.trip.form = s.form := by simp [State.trip]

@[simp] theorem execTempSensorReading_formed {s : State} (h : s.form.Ok) (now r sensor reading) :
    Formed (execTempSensorReading now r sensor reading s) := by
  unfold execTempSensorReading
  (repeat' split) <;> simp [h]

@[simp] theorem State.meter_form (s : State) (r current limit) : (s.meter r current limit).form = s.form := by simp [State.meter]

@[simp] theorem execControlLoop_formed {s : State} (h : s.form.Ok) (now r paceMre paceGe current limit) :
    Formed (execControlLoop now r paceMre paceGe current limit s) := by
  simp [execControlLoop, h]

@[simp] theorem execRegionWake_formed {s : State} (h : s.form.Ok) (now r) : Formed (execRegionWake now r s) := by simp [execRegionWake, h]

@[simp] theorem execVBaseFound_formed {s : State} (h : s.form.Ok) (r vBase proc0 proc1) : Formed (execVBaseFound r vBase proc0 proc1 s) := by
  simp [execVBaseFound, h]

@[simp] theorem execRegionSupply_formed {s : State} (h : s.form.Ok) (now r vmon0 vmon1) : Formed (execRegionSupply now r vmon0 vmon1 s) := by
  simp [execRegionSupply, h]

@[simp] theorem State.countPace_form (s : State) (r low) : (s.countPace r low).form = s.form := by simp [State.countPace]

@[simp] theorem execPaceSample_formed {s : State} (h : s.form.Ok) (now r) : Formed (execPaceSample now r s) := by simp [execPaceSample, h]

@[simp] theorem execHoursTick_formed {s : State} (h : s.form.Ok) (now) : Formed (execHoursTick now s) := by simp [execHoursTick, h]

end Sys2Proof.Machine
end

section
/-! The form, through the units' faults, which leave both. -/

namespace Sys2Proof.Machine

@[simp] theorem State.unitFault_form (s : State) (kind unit i st cause instr operand e0 e1) :
    (s.unitFault kind unit i st cause instr operand e0 e1).form = s.form := by
  simp [State.unitFault]

@[simp] theorem execClusterBarrier_formed {s : State} (h : s.form.Ok) (c) : Formed (execClusterBarrier c s) := by simp [execClusterBarrier, h]

end Sys2Proof.Machine
end

section
/-! The form, through the matrix engine, which writes its cluster's scratch alone. -/

namespace Sys2Proof.Machine

@[simp] theorem State.mreFault_form (s : State) (c i st cause m j) : (s.mreFault c i st cause m j).form = s.form := by simp [State.mreFault]

@[simp] theorem State.mreDone_form (s : State) (c t0 chain) : (s.mreDone c t0 chain).form = s.form := by simp [State.mreDone]

@[simp] theorem execMatmul_formed {s : State} (h : s.form.Ok) (c) : Formed (execMatmul c s) := by
  unfold execMatmul
  dsimp only
  (repeat' split) <;> simp [h]

@[simp] theorem execReadAcc_formed {s : State} (h : s.form.Ok) (c) : Formed (execReadAcc c s) := by
  unfold execReadAcc
  dsimp only
  (repeat' split) <;> simp [h]

end Sys2Proof.Machine
end

section
/-! The form, through the vector engines and the reduction unit, which write their cluster's scratch alone. -/

namespace Sys2Proof.Machine

@[simp] theorem State.setVe_form (s : State) (u f) : (s.setVe u f).form = s.form := by simp [State.setVe]

@[simp] theorem State.veFault_form (s : State) (u i st cause operand e) : (s.veFault u i st cause operand e).form = s.form := by simp [State.veFault]

@[simp] theorem State.putEng_form (s : State) (u m) : (s.putEng u m).form = s.form := by simp [State.putEng]

@[simp] theorem State.veNext_form (s : State) (u) : (s.veNext u).form = s.form := by simp [State.veNext]

@[simp] theorem State.veFront_formed {s : State} (h : s.form.Ok) (op u ok scalar pOk)
    {k : Nat → Step → VeCtx → Host.Outcome State Fault Refusal}
    (hk : ∀ i st v, Formed (k i st v)) : Formed (s.veFront op u ok scalar pOk k) := by
  unfold State.veFront
  split
  · simpa using h
  · split
    · simpa using h
    · split
      · simpa using h
      · split
        · simpa using h
        · dsimp only
          exact iteInduction (motive := Formed) (fun _ => by simpa using h) fun _ => hk ..

@[simp] theorem State.veEnd_formed {s : State} (h : s.form.Ok) (u i st r) : Formed (s.veEnd u i st r) := by
  unfold State.veEnd
  (repeat' split) <;> simp [h]

@[simp] theorem State.veClash_form (s : State) (u i v n bad r) : (s.veClash u i v n bad r).1.form = s.form := by
  unfold State.veClash
  (repeat' split) <;> simp

@[simp] theorem State.veRun_formed {s : State} (h : s.form.Ok) (op u ok scalar pOk form value) : Formed (s.veRun op u ok scalar pOk form value) := by
  simp [State.veRun, h]

@[simp] theorem State.veUnary_formed {s : State} (h : s.form.Ok) (op u f) : Formed (s.veUnary op u f) := by simp [State.veUnary, h]

@[simp] theorem State.veBinary_formed {s : State} (h : s.form.Ok) (op u f) : Formed (s.veBinary op u f) := by simp [State.veBinary, h]

@[simp] theorem State.veCast_formed {s : State} (h : s.form.Ok) (op u f) : Formed (s.veCast op u f) := by simp [State.veCast, h]

@[simp] theorem execAdd_formed {s : State} (h : s.form.Ok) (u) : Formed (execAdd u s) := by simp [execAdd, h]

@[simp] theorem execSub_formed {s : State} (h : s.form.Ok) (u) : Formed (execSub u s) := by simp [execSub, h]

@[simp] theorem execMul_formed {s : State} (h : s.form.Ok) (u) : Formed (execMul u s) := by simp [execMul, h]

@[simp] theorem execFma_formed {s : State} (h : s.form.Ok) (u) : Formed (execFma u s) := by simp [execFma, h]

@[simp] theorem execMax_formed {s : State} (h : s.form.Ok) (u) : Formed (execMax u s) := by simp [execMax, h]

@[simp] theorem execMin_formed {s : State} (h : s.form.Ok) (u) : Formed (execMin u s) := by simp [execMin, h]

@[simp] theorem execRelu_formed {s : State} (h : s.form.Ok) (u) : Formed (execRelu u s) := by simp [execRelu, h]

@[simp] theorem execExp_formed {s : State} (h : s.form.Ok) (u) : Formed (execExp u s) := by simp [execExp, h]

@[simp] theorem execSigmoid_formed {s : State} (h : s.form.Ok) (u) : Formed (execSigmoid u s) := by simp [execSigmoid, h]

@[simp] theorem execTanh_formed {s : State} (h : s.form.Ok) (u) : Formed (execTanh u s) := by simp [execTanh, h]

@[simp] theorem execRecip_formed {s : State} (h : s.form.Ok) (u) : Formed (execRecip u s) := by simp [execRecip, h]

@[simp] theorem execRsqrt_formed {s : State} (h : s.form.Ok) (u) : Formed (execRsqrt u s) := by simp [execRsqrt, h]

@[simp] theorem execBcastAdd_formed {s : State} (h : s.form.Ok) (u) : Formed (execBcastAdd u s) := by simp [execBcastAdd, h]

@[simp] theorem execBcastMul_formed {s : State} (h : s.form.Ok) (u) : Formed (execBcastMul u s) := by simp [execBcastMul, h]

@[simp] theorem execScale_formed {s : State} (h : s.form.Ok) (u) : Formed (execScale u s) := by simp [execScale, h]

@[simp] theorem execConvert_formed {s : State} (h : s.form.Ok) (u) : Formed (execConvert u s) := by simp [execConvert, h]

@[simp] theorem execQuantise_formed {s : State} (h : s.form.Ok) (u) : Formed (execQuantise u s) := by simp [execQuantise, h]

@[simp] theorem execDequant_formed {s : State} (h : s.form.Ok) (u) : Formed (execDequant u s) := by simp [execDequant, h]

@[simp] theorem execRotate_formed {s : State} (h : s.form.Ok) (u) : Formed (execRotate u s) := by simp [execRotate, h]

@[simp] theorem State.maskEnd_formed {s : State} (h : s.form.Ok) (u i st k r) : Formed (s.maskEnd u i st k r) := by
  unfold State.maskEnd
  (repeat' split) <;> simp [h]

@[simp] theorem execCmp_formed {s : State} (h : s.form.Ok) (u) : Formed (execCmp u s) := by simp [execCmp, h]

@[simp] theorem execSelect_formed {s : State} (h : s.form.Ok) (u) : Formed (execSelect u s) := by simp [execSelect, h]

@[simp] theorem execMload_formed {s : State} (h : s.form.Ok) (u) : Formed (execMload u s) := by simp [execMload, h]

@[simp] theorem execMstore_formed {s : State} (h : s.form.Ok) (u) : Formed (execMstore u s) := by simp [execMstore, h]

@[simp] theorem execMove_formed {s : State} (h : s.form.Ok) (u) : Formed (execMove u s) := by simp [execMove, h]

@[simp] theorem execTake_formed {s : State} (h : s.form.Ok) (u) : Formed (execTake u s) := by simp [execTake, h]

@[simp] theorem execTileReduce_formed {s : State} (h : s.form.Ok) (u) : Formed (execTileReduce u s) := by simp [execTileReduce, h]

@[simp] theorem State.ruNext_form (s : State) (c) : (s.ruNext c).form = s.form := by simp [State.ruNext]

@[simp] theorem State.ruStop_form (s : State) (c) : (s.ruStop c).form = s.form := by simp [State.ruStop]

@[simp] theorem State.veStop_form (s : State) (u) : (s.veStop u).form = s.form := by simp [State.veStop]

@[simp] theorem State.ruFault_form (s : State) (c i st cause) : (s.ruFault c i st cause).form = s.form := by simp [State.ruFault]

@[simp] theorem State.pairRun_form (s : State) (u i st v x) : (s.pairRun u i st v x).form = s.form := by
  unfold State.pairRun
  dsimp only
  (repeat' split) <;> simp

@[simp] theorem execReduce_formed {s : State} (h : s.form.Ok) (u) : Formed (execReduce u s) := by
  unfold execReduce
  (repeat' split) <;> simp [h]

@[simp] theorem execRuReduce_formed {s : State} (h : s.form.Ok) (c) : Formed (execRuReduce c s) := by
  unfold execRuReduce
  dsimp only
  (repeat' split) <;> simp [h]

end Sys2Proof.Machine
end

section
/-! The form, through the DMA engine's words. -/

namespace Sys2Proof.Machine

@[simp] theorem State.dmaBad_form (s : State) (c i st) : (s.dmaBad c i st).form = s.form := by simp [State.dmaBad]

@[simp] theorem State.dmaNext_form (s : State) (c t0) : (s.dmaNext c t0).form = s.form := by simp [State.dmaNext]

@[simp] theorem State.releaseAll_formOk {s : State} (h : s.form.Ok) (release ag rs) : (s.releaseAll release ag rs).form.Ok := by
  simp +contextual [State.releaseAll, h]

@[simp] theorem State.dmaFail_form (s : State) (c ag t0 done f) : (s.dmaFail c ag t0 done f).form = s.form := by simp [State.dmaFail]

@[simp] theorem State.dmaIn_formOk {s : State} (h : s.form.Ok) (c ag dva len t0 hint) {k : State → State}
    (hk : ∀ t, t.form.Ok → (k t).form.Ok) : (s.dmaIn c ag dva len t0 hint k).form.Ok :=
  State.accessOr_formOk h _ (readDva_keeps ..) _ (fun t bs ht => by simpa using hk t ht) fun t f ht => by simpa using ht

@[simp] theorem execDmaSet_formed {s : State} (h : s.form.Ok) (c) : Formed (execDmaSet c s) := by
  unfold execDmaSet
  (repeat' split) <;> simp [h]

@[simp] theorem execDmaRead_formed {s : State} (h : s.form.Ok) (c ecc) : Formed (execDmaRead c ecc s) := by
  unfold execDmaRead
  split
  · simpa using h
  · split
    · simpa using h
    · split
      · simpa using h
      · exact (formed_next _).mpr (State.dmaIn_formOk (by simpa using h) _ _ _ _ _ _ fun t ht => State.releaseAll_formOk ht ..)

@[simp] theorem execDmaWrite_formed {s : State} (h : s.form.Ok) (c) : Formed (execDmaWrite c s) := by
  unfold execDmaWrite
  split
  · simpa using h
  · split
    · simpa using h
    · split
      · simpa using h
      · exact (formed_next _).mpr (State.accessOr_formOk h _ (writeDva_keeps ..) _ (fun t _ ht => by simpa using State.releaseAll_formOk ht ..)
          fun t f ht => by simpa using ht)

@[simp] theorem gatherOne_keeps (ag table elem h sample) : Keeps (gatherOne ag table elem h sample) := by simp [gatherOne]

@[simp] theorem gatherLoop_keeps (ag table elem n h) (ks : List Nat) (done got) : Keeps (gatherLoop ag table elem n h ks done got) := by
  induction ks generalizing done got with
  | nil => exact keeps_pure got
  | cons k ks ih => exact (notingPart_keeps _ (gatherOne_keeps ..)).bind fun p => ih _ _

@[simp] theorem gatherRead_keeps (ag table elem h samples) : Keeps (gatherRead ag table elem h samples) := by simp [gatherRead]

@[simp] theorem execDmaGather_formed {s : State} (h : s.form.Ok) (c) : Formed (execDmaGather c s) := by
  unfold execDmaGather
  split
  · simpa using h
  · split
    · simpa using h
    · dsimp only
      split
      · simpa using h
      · exact (formed_next _).mpr (State.accessOr_formOk h _ (gatherRead_keeps ..) _
          (fun t _ ht => by simpa using State.releaseAll_formOk ht ..) fun t f ht => by simpa using ht)

end Sys2Proof.Machine
end

section
/-! The form, through a step begun, its work and its rounds. -/

namespace Sys2Proof.Machine

@[simp] theorem State.choose_form (s : State) : s.choose.form = s.form := by simp [State.choose]

@[simp] theorem execRunStep_formed {s : State} (h : s.form.Ok) (q) : Formed (execRunStep q s) := by simp [execRunStep, h]

@[simp] theorem accOf_keeps {α : Type} (ag) {m : Acc α} (hm : Keeps m) : Keeps (accOf ag m) := ⟨fun s hs => hm.run s hs⟩

@[simp] theorem State.work_formOk {α : Type} {s : State} (h : s.form.Ok) (i) {m : Work α} (hm : Keeps m) {k : State → α → State}
    (hk : ∀ t a, t.form.Ok → (k t a).form.Ok) : (s.work i m k).form.Ok := by
  unfold State.work
  split
  · rename_i hr
    exact hk _ _ (hm.of_run h hr)
  · rw [foldl_form fun t c => by simp]
    simpa using h
  · rename_i hr
    exact State.requestPage_formOk (hm.of_run h hr) ..
  · rename_i hr
    exact hm.of_run h hr
  · rename_i hr
    simpa using hm.of_run h hr

@[simp] theorem State.gather_keeps (s : State) (i st d) : Keeps (s.gather i st d) := by
  unfold State.gather
  split <;> simp

@[simp] theorem State.newReqId_form (s : State) : (s.newReqId).1.form = s.form := by simp [State.newReqId]

@[simp] theorem State.setStep_form (s : State) (i f) : (s.setStep i f).form = s.form := by simp [State.setStep]

@[simp] theorem State.countExhausted_form (s : State) (n) : (s.countExhausted n).form = s.form := by simp [State.countExhausted]

@[simp] theorem State.sendBatch_form (s : State) (i st reissue b) : (s.sendBatch i st reissue b).form = s.form := by simp [State.sendBatch]

@[simp] theorem State.strictCheck_form (s : State) (i) : (s.strictCheck i).form = s.form := by
  unfold State.strictCheck
  dsimp only
  (repeat' split) <;> simp

@[simp] theorem State.releaseRound_form (s : State) (i) : (s.releaseRound i).form = s.form := by
  unfold State.releaseRound
  (repeat' split) <;> simp

@[simp] theorem execRoundRelease_formed {s : State} (h : s.form.Ok) (slot) : Formed (execRoundRelease slot s) := by simp [execRoundRelease, h]

@[simp] theorem State.countHedges_form (s : State) (i c n) : (s.countHedges i c n).form = s.form := by simp [State.countHedges]

@[simp] theorem State.reissue_form (s : State) (i c ks) : (s.reissue i c ks).form = s.form := by
  unfold State.reissue
  (repeat' split) <;> simp

@[simp] theorem State.setReflection_form (s : State) (table row f) : (s.setReflection table row f).form = s.form := by simp [State.setReflection]

@[simp] theorem State.askFill_form (s : State) (table row again members) : (s.askFill table row again members).form = s.form := by
  unfold State.askFill
  dsimp only
  (repeat' split) <;> simp

@[simp] theorem State.beginFill_form (s : State) (table row) : (s.beginFill table row).form = s.form := by
  unfold State.beginFill
  (repeat' split) <;> simp

@[simp] theorem State.nextFill_form (s : State) (table row members) : (s.nextFill table row members).form = s.form := by simp [State.nextFill]

end Sys2Proof.Machine
end

section
/-! The form, through the lookups of a step: rows fetched and prefetched take their place in the pool. -/

namespace Sys2Proof.Machine

@[simp] theorem originOf_keeps (ag st t v row) : Keeps (originOf ag st t v row) := by
  unfold originOf
  split
  · exact keeps_pure _
  · refine (shardEntry_keeps ..).bind fun e => ?_
    split
    · exact keeps_pure _
    · split
      · split <;> exact keeps_pure _
      · exact keeps_pure _

@[simp] theorem partSource_keeps (ag st region t v row sample weight pool z) : Keeps (partSource ag st region t v row sample weight pool z) :=
  (originOf_keeps ..).bind fun o => by
    dsimp only
    split
    · exact keeps_pure _
    · split
      · exact keeps_pure _
      · split <;> exact keeps_pure _

@[simp] theorem sortIndex_keeps (ag st region di l t idx sample weight z) : Keeps (sortIndex ag st region di l t idx sample weight z) := by
  unfold sortIndex
  dsimp only
  split
  · exact keeps_pure _
  · split
    · refine .getBind fun s _ => ?_
      split
      · exact (partSource_keeps ..).bind fun _ => (partSource_keeps ..).bind fun _ => keeps_pure _
      · exact keeps_pure _
    · exact (partSource_keeps ..).bind fun _ => keeps_pure _

@[simp] theorem readBags_keeps (ag st l) : Keeps (readBags ag st l) := by simp [readBags]

@[simp] theorem readIndices_keeps (ag st l t ends) : Keeps (readIndices ag st l t ends) := by simp [readIndices]

@[simp] theorem reflRow_keeps (ag d r all) : Keeps (reflRow ag d r all) := by simp [reflRow]

@[simp] theorem fetchRow_keeps (ag st seq t x) : Keeps (fetchRow ag st seq t x) := by
  unfold fetchRow
  split
  · refine (rowPlace_keeps ..).bind fun p => (rowAt_keeps ..).bind fun b => ?_
    split <;> exact keeps_pure _
  · split
    · exact (reflRow_keeps ..).bind fun _ => keeps_pure _
    · exact keeps_pure _
  · exact keeps_pure _

theorem addUse_frames (u : LineTag) (e : PoolEntry) : addUse u e = e ∨ (e.block? = none ∧ (addUse u e).block? = none) := by
  cases e with
  | line | frame => exact .inl rfl
  | row r t bs n =>
    refine .inr ⟨rfl, ?_⟩
    unfold addUse
    dsimp only
    split <;> rfl

@[simp] theorem prefetchRow_keeps (ag st seq x) : Keeps (prefetchRow ag st seq x) := .getBind fun s hs => by
  split
  · exact keeps_pure _
  · split
    · exact (Keeps.set (hs.mapFrames (addUse_frames _))).bind fun _ => keeps_pure _
    · refine forgive_keeps _ none ((fetchRow_keeps ..).bind fun r => ?_)
      split
      · refine (homeRegion_keeps ..).bind fun r => .getBind fun t ht => ?_
        split
        · exact keeps_pure _
        · rename_i hroom
          exact (Keeps.set ((makeRoom_formOk ht hroom).1.append rfl)).bind fun _ => keeps_pure _
      · exact keeps_pure _

@[simp] theorem State.sortStep_keeps (s : State) (i st) : Keeps (s.sortStep i st) := by
  refine (Keeps.forIn (fun p z => ?_) _ _).bind fun _ => keeps_pure _
  dsimp only
  split
  · simp
  · refine (State.gather_keeps ..).bind fun r => (accOf_keeps _ (readBags_keeps ..)).bind fun _ => ?_
    refine (accOf_keeps _ (readIndices_keeps ..)).bind fun _ => ?_
    exact (Keeps.forIn (fun y z => (accOf_keeps _ (sortIndex_keeps ..)).bind fun _ => keeps_pure _) _ _).bind fun _ => keeps_pure _

@[simp] theorem State.prefetch_keeps (s : State) (i st seq) : Keeps (s.prefetch i st seq) := by
  refine (State.sortStep_keeps ..).bind fun z => .bind (.forIn (fun x p => ?_) _ _) fun _ => keeps_pure _
  refine (accOf_keeps _ (prefetchRow_keeps ..)).bind fun r => ?_
  split <;> simp

@[simp] theorem State.stallCheck_form (s : State) (i) : (s.stallCheck i).form = s.form := by
  unfold State.stallCheck
  (repeat' split) <;> simp

@[simp] theorem State.expire_form (s : State) (i) : (s.expire i).form = s.form := by
  unfold State.expire
  (repeat' split) <;> simp

@[simp] theorem execLookupBudgetExpiry_formed {s : State} (h : s.form.Ok) (now slot) : Formed (execLookupBudgetExpiry now slot s) := by
  unfold execLookupBudgetExpiry
  dsimp only
  (repeat' split) <;> simp [h]

@[simp] theorem State.deadlineCheck_form (s : State) (i) : (s.deadlineCheck i).form = s.form := by
  unfold State.deadlineCheck
  (repeat' split) <;> simp

@[simp] theorem execDeadlinePass_formed {s : State} (h : s.form.Ok) (now slot) : Formed (execDeadlinePass now slot s) := by simp [execDeadlinePass, h]

@[simp] theorem State.enterLookup_form (s : State) (i p) : (s.enterLookup i p).form = s.form := by simp [State.enterLookup]

@[simp] theorem execPrefetchDone_formed {s : State} (h : s.form.Ok) (slot) : Formed (execPrefetchDone slot s) := by
  unfold execPrefetchDone
  dsimp only
  (repeat' split) <;> simp [h]

@[simp] theorem localRow_keeps (ag st seq x) : Keeps (localRow ag st seq x) := .getBind fun s _ => by
  dsimp only
  split
  · exact keeps_pure _
  · split
    · split
      · exact rowAt_keeps ..
      · exact keeps_pure _
    · split
      · exact (reflRow_keeps ..).bind fun _ => keeps_pure _
      · exact keeps_pure _
    · exact keeps_pure _

@[simp] theorem decodeFor_keeps (d g body) : Keeps (decodeFor d g body) := by simp +contextual [decodeFor]

@[simp] theorem sourceVals_keeps (ag st seq x) : Keeps (sourceVals ag st seq x) := .getBind fun s _ => by
  have hrow : ∀ (t : Table) (row : Nat), Keeps (do
      match ← localRow ag st seq x with
      | some body => decodeFor t.desc st.grid body
      | none => return freeRow t.desc row) := fun t row => (localRow_keeps ..).bind fun b => by split <;> simp
  split
  · split
    · exact keeps_pure _
    · exact hrow _ _
  · split
    · exact keeps_pure _
    · exact hrow _ _
  · exact keeps_pure _

@[simp] theorem readKept_keeps (ag dva len) : Keeps (readKept ag dva len) := by simp [readKept]

@[simp] theorem readDense_keeps (ag dva len) : Keeps (readDense ag dva len) := by simp [readDense]

@[simp] theorem State.finishReads_keeps (s : State) (i st) : Keeps (s.finishReads i st) := by
  refine (Keeps.forIn (fun x d => (readDense_keeps ..).bind fun _ => ?_) _ _).bind fun d => ?_
  · simp
  · exact (Keeps.forIn (fun x k => (accOf_keeps _ (sourceVals_keeps ..)).bind fun _ => keeps_pure _) _ _).bind fun _ => keeps_pure _

@[simp] theorem State.enterDense_formOk {s : State} (h : s.form.Ok) (i st known shares) : (s.enterDense i st known shares).form.Ok := by
  simp [State.enterDense, h]

@[simp] theorem execLookupDone_formed {s : State} (h : s.form.Ok) (slot) : Formed (execLookupDone slot s) := by
  unfold execLookupDone
  dsimp only
  split
  · simpa using h
  · split
    · simpa using h
    · rw [formed_next]
      split
      all_goals exact State.work_formOk (by simpa using h) _ (State.finishReads_keeps ..) fun t a ht => State.enterDense_formOk ht ..

end Sys2Proof.Machine
end

section
/-! The form, through what answers a step and a fill. -/

namespace Sys2Proof.Machine

@[simp] theorem execHedgeThreshold_formed {s : State} (h : s.form.Ok) (now slot entry) : Formed (execHedgeThreshold now slot entry s) := by
  unfold execHedgeThreshold
  dsimp only
  (repeat' split) <;> simp [h]

@[simp] theorem State.countLate_form (s : State) (n) : (s.countLate n).form = s.form := by simp [State.countLate]

@[simp] theorem State.countRedundant_form (s : State) (n) : (s.countRedundant n).form = s.form := by simp [State.countRedundant]

@[simp] theorem State.countSkew_form (s : State) (i skew) : (s.countSkew i skew).form = s.form := by simp [State.countSkew]

@[simp] theorem State.rowAnswer_form (s : State) (i m row body) : (s.rowAnswer i m row body).form = s.form := by
  unfold State.rowAnswer
  (repeat' split) <;> simp

@[simp] theorem State.countPartial_form (s : State) (dflt answered) : (s.countPartial dflt answered).form = s.form := by simp [State.countPartial]

@[simp] theorem State.partialAnswer_form (s : State) (i m sample version vals) : (s.partialAnswer i m sample version vals).form = s.form := by
  unfold State.partialAnswer
  (repeat' split) <;> simp

@[simp] theorem State.notHeldAnswer_form (s : State) (i m src row) : (s.notHeldAnswer i m src row).1.form = s.form := by
  unfold State.notHeldAnswer
  (repeat' split) <;> simp

@[simp] theorem State.stepReply_form (s : State) (i src m) : (s.stepReply i src m).form = s.form := by
  unfold State.stepReply
  dsimp only
  rw [State.stallCheck_form, State.progressOf_form]
  split
  · rw [State.reissue_form]
    exact foldl_fst_form (fun a e => by split <;> simp) _ _
  · exact foldl_fst_form (fun a e => by split <;> simp) _ _

@[simp] theorem State.lateAnswer_form (s : State) (m e) : (s.lateAnswer m e).form = s.form := by
  unfold State.lateAnswer
  (repeat' split) <;> simp

@[simp] theorem State.waitSlot_form (s : State) (fill table row g body) : (s.waitSlot fill table row g body).form = s.form := by simp [State.waitSlot]

@[simp] theorem State.writeSlot_formOk {s : State} (h : s.form.Ok) (fill table row g body) : (s.writeSlot fill table row g body).form.Ok := by
  unfold State.writeSlot
  split
  · dsimp only
    split
    · simpa using h
    · rename_i hr
      simpa using (writeDva_keeps ..).of_go h hr
    · rename_i hr
      simpa using (writeDva_keeps ..).of_go h hr
  · exact h

@[simp] theorem State.writeFill_formOk {s : State} (h : s.form.Ok) (table row g body) : (s.writeFill table row g body).form.Ok := by
  unfold State.writeFill
  (repeat' split) <;> simp [h]

@[simp] theorem State.fillReply_formOk {s : State} (h : s.form.Ok) (r members m) : (s.fillReply r members m).form.Ok := by
  refine foldl_ok (fun t e ht => ?_) _ h
  split
  · split
    · exact ht
    · exact State.writeFill_formOk (by simpa using ht) ..
  · split <;> simp [ht]
  · exact ht

@[simp] theorem State.takeReply_formOk {s : State} (h : s.form.Ok) (src m) : (s.takeReply src m).form.Ok := by
  unfold State.takeReply
  (repeat' split) <;> simp [h]

@[simp] theorem execLookupReply_formed {s : State} (h : s.form.Ok) (f m) : Formed (execLookupReply f m s) := by
  unfold execLookupReply
  split <;> rename_i hr <;> simp [fst_form hr, h]

@[simp] theorem execPooledReply_formed {s : State} (h : s.form.Ok) (f m) : Formed (execPooledReply f m s) := by
  unfold execPooledReply
  split <;> rename_i hr <;> simp [fst_form hr, h]

end Sys2Proof.Machine
end

section
/-! The form, through a table's rows served to other devices and pushed to them. -/

namespace Sys2Proof.Machine

@[simp] theorem serveRow_keeps (ag t v row) : Keeps (serveRow ag t v row) := by
  refine Keeps.tryCatch ?_ fun f => ?_
  · split
    · exact keeps_pure _
    · refine (shardEntry_keeps ..).bind fun e => ?_
      split
      · exact keeps_pure _
      · refine .getBind fun s _ => ?_
        split
        · exact keeps_pure _
        · refine (rowAt_keeps ..).bind fun b => ?_
          split <;> exact keeps_pure _
  · split
    · exact (Keeps.modify fun s hs => by simpa using hs).bind fun _ => keeps_pure _
    · exact keeps_throw _

@[simp] theorem serveRegion_keeps (ag v) : Keeps (serveRegion ag v) := by simp [serveRegion]

@[simp] theorem readRows_keeps (ag t v rows) : Keeps (readRows ag t v rows) := by simp [readRows]

@[simp] theorem decodeRows_keeps (d rows) : Keeps (decodeRows d rows) :=
  Keeps.mapM (fun r => .getBind fun s hs => (Keeps.set (by simpa using hs)).bind fun _ => keeps_pure _) rows

@[simp] theorem State.countServePoison_form (s : State) (m read) : (s.countServePoison m read).form = s.form :=
  foldl_form (fun t r => by split <;> simp) read s

@[simp] theorem serveTable_keeps (t m) : Keeps (serveTable t m) :=
  (serveRegion_keeps ..).bind fun r => (readRows_keeps ..).bind fun read => by
    dsimp only
    split
    · exact keeps_pure _
    · exact (keeps_modifyForm fun s => by simp).bind fun _ => (decodeRows_keeps ..).bind fun _ => keeps_pure _

@[simp] theorem serveMsg_keeps (m) : Keeps (serveMsg m) := .getBind fun s _ => by
  split
  · exact serveTable_keeps ..
  · exact keeps_pure _

@[simp] theorem State.sendReply_form (s : State) (src m a) : (s.sendReply src m a).form = s.form := by simp [State.sendReply]

@[simp] theorem State.serveAll_formOk {s : State} (h : s.form.Ok) (blocked) (l : List (Nat × ReqMsg)) : (s.serveAll blocked l).1.form.Ok := by
  induction l generalizing s blocked with
  | nil => exact h
  | cons x l ih =>
    unfold State.serveAll
    dsimp only
    split
    · exact ih h _
    · split
      · rename_i hr
        have ht := (serveMsg_keeps _).of_go h hr
        exact ih (by split <;> simpa using ht) _
      · exact ih (by simpa using h) _
      · rename_i hr
        have ht := (serveMsg_keeps _).of_go h hr
        exact ih (by simpa using ht) _

@[simp] theorem State.servePump_formOk {s : State} (h : s.form.Ok) : s.servePump.form.Ok := by simp [State.servePump, h]

@[simp] theorem execLookupRequest_formed {s : State} (h : s.form.Ok) (f m ecc) : Formed (execLookupRequest f m ecc s) := by
  unfold execLookupRequest
  split <;> rename_i hr <;> simp [fst_form hr, h]

@[simp] theorem State.takePush_formOk {s : State} (h : s.form.Ok) (table row g body) : (s.takePush table row g body).form.Ok := by
  unfold State.takePush
  (repeat' split) <;> simp [h]

@[simp] theorem State.slotPump_formOk {s : State} (h : s.form.Ok) : s.slotPump.form.Ok := by simp +contextual [State.slotPump, h]

@[simp] theorem execReflectionPush_formed {s : State} (h : s.form.Ok) (f p) : Formed (execReflectionPush f p s) := by
  unfold execReflectionPush
  split <;> rename_i hr <;> simp [fst_form hr, h]

@[simp] theorem State.releasePushes_formOk {s : State} (h : s.form.Ok) (table row) : (s.releasePushes table row).form.Ok := by
  simp +contextual [State.releasePushes, h]

@[simp] theorem execPushRelease_formed {s : State} (h : s.form.Ok) (table row) : Formed (execPushRelease table row s) := by
  unfold execPushRelease
  (repeat' split) <;> simp [h]

@[simp] theorem pushRow_keeps (t v row seam) : Keeps (pushRow t v row seam) := by simp [pushRow]

@[simp] theorem State.pushPump_formOk {s : State} (h : s.form.Ok) (fuel) : (s.pushPump fuel).form.Ok := by
  induction fuel generalizing s with
  | zero => exact h
  | succ fuel ih =>
    unfold State.pushPump
    split
    · exact h
    · rename_i table row num seam members rest _
      have hread : Keeps (match (s.table? table).bind fun t => (t.version? num).map fun v => (t, v) with
          | some (t, v) => pushRow t v row seam
          | none => pure none) := by
        split
        · exact pushRow_keeps ..
        · exact keeps_pure _
      dsimp only
      split
      · rename_i hr
        have ht := hread.of_go h hr
        exact ih (foldl_ok (fun t d ht => by split <;> simp [ht]) _ (by simpa using ht))
      · rename_i hr
        have ht := hread.of_go h hr
        exact ih (by simpa using ht)
      · simpa using h
      · rename_i hr
        have ht := hread.of_go h hr
        exact ih (by simpa using ht)

end Sys2Proof.Machine
end

section
/-! The form, through what can go on, and status records. -/

namespace Sys2Proof.Machine

@[simp] theorem State.goOn_formOk {s : State} (h : s.form.Ok) (j x) : (s.goOn j x).form.Ok := by simp [State.goOn, h]

@[simp] theorem State.goOnAll_formOk {s : State} (h : s.form.Ok) : s.goOnAll.form.Ok :=
  foldl_ok (fun t j ht => by split <;> simp [ht]) _ h

@[simp] theorem State.settle_formOk {s : State} (h : s.form.Ok) : s.settle.form.Ok := by
  unfold State.settle
  split
  · exact h
  · refine State.pushPump_formOk ?_ _
    refine State.servePump_formOk ?_
    refine State.slotPump_formOk ?_
    refine State.goOnAll_formOk (State.goOnAll_formOk ?_)
    simp [h]

@[simp] theorem execBisnpResponse_formed {s : State} (h : s.form.Ok) (line modified) : Formed (execBisnpResponse line modified s) := by
  simp [execBisnpResponse, h]

@[simp] theorem execAtsCompletion_formed {s : State} (h : s.form.Ok) (id a) : Formed (execAtsCompletion id a s) := by simp [execAtsCompletion, h]

@[simp] theorem State.readBack_form (s : State) (r data) : (s.readBack r data).form = s.form := by
  unfold State.readBack
  (repeat' split) <;> simp

@[simp] theorem State.hostPoison_form (s : State) (r) : (s.hostPoison r).form = s.form := by
  unfold State.hostPoison
  (repeat' split) <;> simp

@[simp] theorem execHostReadCompletion_formed {s : State} (h : s.form.Ok) (now id back) : Formed (execHostReadCompletion now id back s) := by
  unfold execHostReadCompletion
  dsimp only
  (repeat' split) <;> simp [h]

@[simp] theorem execLentResponse_formed {s : State} (h : s.form.Ok) (f lease result tag data) :
    Formed (execLentResponse f lease result tag data s) := by
  unfold execLentResponse
  split <;> rename_i hr
  · simp [fst_form hr, h]
  · exact (formed_next _).mpr (State.settle_formOk (State.lentAnswer_formOk (by simp [fst_form hr, h]) ..))

@[simp] theorem State.pruneVersions_form (s : State) : s.pruneVersions.form = s.form := by simp [State.pruneVersions]

@[simp] theorem State.freeSlot_form (s : State) (i heard) : (s.freeSlot i heard).form = s.form := by simp [State.freeSlot]

@[simp] theorem State.endSequence_form (s : State) (j x) : (s.endSequence j x).form = s.form := by simp [State.endSequence]

@[simp] theorem State.makeVisible_form (s : State) (j x) : (s.makeVisible j x).1.form = s.form := by
  unfold State.makeVisible
  (repeat' split) <;> simp

@[simp] theorem State.tally_form (s : State) (q x) : (s.tally q x).form = s.form := by
  unfold State.tally
  (repeat' split) <;> simp

@[simp] theorem State.recordDone_formOk {s : State} (h : s.form.Ok) (q x) : (s.recordDone q x).form.Ok := by
  unfold State.recordDone
  dsimp only
  (repeat' split) <;> simp [h]

@[simp] theorem State.writeRecord_formOk {s : State} (h : s.form.Ok) (q x) : (s.writeRecord q x).form.Ok := by
  unfold State.writeRecord
  dsimp only
  split
  · rename_i hv
    simp [fst_form hv, h]
  · rename_i t hv
    have ht : t.form.Ok := by simp [fst_form hv, h]
    have hs : (match t.stepSlot ⟨q, x.seq⟩ with | some i => t.deadlineCheck i | none => t).form.Ok := by
      split <;> simp [ht]
    split
    · rename_i hr
      simp [(writeDpa_keeps ..).of_go hs hr]
    · rw [State.sendSnoop_form]
      exact hs
    · rename_i hr
      simp [(writeDpa_keeps ..).of_go hs hr]

@[simp] theorem execStatusRecordWrite_formed {s : State} (h : s.form.Ok) (q) : Formed (execStatusRecordWrite q s) := by
  unfold execStatusRecordWrite
  dsimp only
  (repeat' split) <;> simp [h]

@[simp] theorem execQcmpSeqAdvance_formed {s : State} (h : s.form.Ok) (q) : Formed (execQcmpSeqAdvance q s) := by
  unfold execQcmpSeqAdvance
  dsimp only
  split
  · simpa using h
  · split
    · simpa using h
    · split <;> rename_i hr <;> simp [fst_form hr, h]

end Sys2Proof.Machine
end

section
/-! The form, through a step's results written. -/

namespace Sys2Proof.Machine

@[simp] theorem State.endShares_form (s : State) (i) : (s.endShares i).form = s.form := by
  unfold State.endShares
  (repeat' split) <;> simp

@[simp] theorem execDenseDone_formed {s : State} (h : s.form.Ok) (slot) : Formed (execDenseDone slot s) := by
  unfold execDenseDone
  dsimp only
  (repeat' split) <;> simp [h]

@[simp] theorem emitWrites_keeps (ag st c out) : Keeps (emitWrites ag st c out) := by simp [emitWrites]

@[simp] theorem State.releaseShare_form (s : State) (c i) : (s.releaseShare c i).form = s.form := by simp [State.releaseShare]

@[simp] theorem State.pushShare_form (s : State) (c i st out done) : (s.pushShare c i st out done).form = s.form := by
  unfold State.pushShare
  dsimp only
  (repeat' split) <;> simp

@[simp] theorem execClusterRelease_formed {s : State} (h : s.form.Ok) (c) : Formed (execClusterRelease c s) := by
  unfold execClusterRelease
  (repeat' split) <;> simp [h]

@[simp] theorem State.dropShare_form (s : State) (c hung) : (s.dropShare c hung).form = s.form := by simp [State.dropShare]

@[simp] theorem execDiscardDone_formed {s : State} (h : s.form.Ok) (slot) : Formed (execDiscardDone slot s) := by
  unfold execDiscardDone
  dsimp only
  (repeat' split) <;> simp [h]

end Sys2Proof.Machine
end

section
/-! The form, through a seam and the steps bound at it. -/

namespace Sys2Proof.Machine

@[simp] theorem State.enablePort_form (s : State) (p) : (s.enablePort p).form = s.form := by simp [State.enablePort]

@[simp] theorem State.seamPorts_form (s : State) : s.seamPorts.form = s.form := by
  unfold State.seamPorts
  (repeat' split) <;> simp

@[simp] theorem State.seamDim_form (s : State) : s.seamDim.form = s.form := by simp [State.seamDim]

@[simp] theorem State.seamMap_form (s : State) : s.seamMap.form = s.form := by simp [State.seamMap]

@[simp] theorem State.seamSwap_form (s : State) : s.seamSwap.form = s.form := by simp [State.seamSwap]

@[simp] theorem State.seamRelease_form (s : State) : s.seamRelease.form = s.form := by simp [State.seamRelease]

@[simp] theorem State.seamRefl_form (s : State) : s.seamRefl.form = s.form := by
  unfold State.seamRefl
  (repeat' split) <;> simp

@[simp] theorem State.dropEarly_form (s : State) : s.dropEarly.form = s.form := by simp [State.dropEarly]

@[simp] theorem State.applyEpoch_form (s : State) (n e) : (State.applyEpoch n s e).form = s.form := by simp [State.applyEpoch]

@[simp] theorem State.seamEpochs_form (s : State) : s.seamEpochs.form = s.form := by simp [State.seamEpochs]

@[simp] theorem State.seamValues_form (s : State) : s.seamValues.form = s.form := by simp [State.seamValues]

@[simp] theorem State.mend_form (s : State) : s.mend.form = s.form := by simp [State.mend]

@[simp] theorem State.passSeam_form (s : State) : s.passSeam.form = s.form := by simp [State.passSeam]

@[simp] theorem State.takeCluster_form (s : State) (i ctx c) : (s.takeCluster i ctx c).form = s.form := by
  unfold State.takeCluster
  dsimp only
  split <;> simp [Tiers.addStall, Tiers.countStall]

@[simp] theorem State.markBound_form (s : State) (ids) : (s.markBound ids).form = s.form := by simp [State.markBound]

@[simp] theorem State.admitStep_form (s : State) (rt j i) : (s.admitStep rt j i).form = s.form := by
  unfold State.admitStep
  (repeat' split) <;> simp

@[simp] theorem State.seamFor_formOk {s : State} (h : s.form.Ok) (j) : (s.seamFor j).form.Ok := by simp [State.seamFor, h]

@[simp] theorem State.setBinding_form (s : State) (b) : (s.setBinding b).form = s.form := by simp [State.setBinding]

@[simp] theorem State.fetchProgram_formOk {s : State} (h : s.form.Ok) (j) : (s.fetchProgram j).2.form.Ok := by
  unfold State.fetchProgram
  split
  · exact h
  · split
    · rename_i hr
      exact (readDva_keeps ..).of_go h hr
    · rename_i hr
      exact (readDva_keeps ..).of_go h hr

@[simp] theorem State.bindStep_formOk {s : State} (h : s.form.Ok) (b) : (s.bindStep b).form.Ok := by
  have hfetch : ∀ {r t}, s.fetchProgram b.job = (r, t) → t.form.Ok := fun hr => by
    have ht := State.fetchProgram_formOk h b.job
    rwa [hr] at ht
  unfold State.bindStep
  split
  · simpa using h
  · split
    · simpa using h
    · rename_i hr
      exact hfetch hr
    · rename_i hr
      simpa using hfetch hr
    · rename_i hr
      have ht := hfetch hr
      dsimp only
      rw [State.admitStep_form]
      split <;> simp [ht]

@[simp] theorem execSeam_formed {s : State} (h : s.form.Ok) (now) : Formed (execSeam now s) := by
  unfold execSeam
  dsimp only
  (repeat' split) <;> simp [h]

@[simp] theorem execIdleStep_formed {s : State} (h : s.form.Ok) (now) : Formed (execIdleStep now s) := by simp [execIdleStep, h]

end Sys2Proof.Machine
end

section
/-! The form, through peers met and lost. -/

namespace Sys2Proof.Machine

@[simp] theorem State.markLoss_form (s : State) (dev i) : (s.markLoss dev i).form = s.form := by simp [State.markLoss]

@[simp] theorem State.lossReissue_form (s : State) (dev i) : (s.lossReissue dev i).form = s.form := by simp [State.lossReissue]

@[simp] theorem State.lossFills_form (s : State) (dev) : (s.lossFills dev).form = s.form :=
  foldl_form (fun t r => by (repeat' split) <;> simp) _ s

@[simp] theorem State.lossLeases_formOk {s : State} (h : s.form.Ok) (dev) : (s.lossLeases dev).form.Ok := by simp +contextual [State.lossLeases, h]

@[simp] theorem State.losePeer_formOk {s : State} (h : s.form.Ok) (dev inc) : (s.losePeer dev inc).form.Ok := by simp [State.losePeer, h]

@[simp] theorem State.meetPeer_form (s : State) (dev inc g) : (s.meetPeer dev inc g).form = s.form := by simp [State.meetPeer]

@[simp] theorem State.replacePeer_formOk {s : State} (h : s.form.Ok) (p) : (s.replacePeer p).form.Ok := by simp [State.replacePeer, h]

@[simp] theorem State.takeGlint_formOk {s : State} (h : s.form.Ok) (dev inc g) : (s.takeGlint dev inc g).form.Ok := by
  unfold State.takeGlint
  (repeat' split) <;> simp [h]

@[simp] theorem execGlint_formed {s : State} (h : s.form.Ok) (f g) : Formed (execGlint f g s) := by
  unfold execGlint
  split <;> rename_i hr <;> simp [fst_form hr, h]

@[simp] theorem execGlintInterval_formed {s : State} (h : s.form.Ok) (now) : Formed (execGlintInterval now s) := by simp [execGlintInterval, h]

@[simp] theorem State.checkSilence_formOk {s : State} (h : s.form.Ok) : s.checkSilence.form.Ok :=
  foldl_ok (fun t x ht => by split <;> simp [ht]) _ h

@[simp] theorem execLivenessCheck_formed {s : State} (h : s.form.Ok) (now) : Formed (execLivenessCheck now s) := by simp [execLivenessCheck, h]

@[simp] theorem execAck_formed {s : State} (h : s.form.Ok) (f) : Formed (execAck f s) := by
  unfold execAck
  split <;> rename_i hr
  · simp [fst_form hr, h]
  · refine (formed_next _).mpr (State.settle_formOk ?_)
    split <;> simp [fst_form hr, h]

@[simp] theorem execAckTimer_formed {s : State} (h : s.form.Ok) (now dev update) : Formed (execAckTimer now dev update s) := by
  unfold execAckTimer
  dsimp only
  (repeat' split) <;> simp [h]

@[simp] theorem execRetransmitTimer_formed {s : State} (h : s.form.Ok) (now dev update seq) : Formed (execRetransmitTimer now dev update seq s) := by
  unfold execRetransmitTimer
  dsimp only
  (repeat' split) <;> simp [h]

@[simp] theorem execWindowProbe_formed {s : State} (h : s.form.Ok) (now dev update) : Formed (execWindowProbe now dev update s) := by
  unfold execWindowProbe
  dsimp only
  (repeat' split) <;> simp [h]

@[simp] theorem execForeignFrame_formed {s : State} (h : s.form.Ok) (p k seen) : Formed (execForeignFrame p k seen s) := by
  unfold execForeignFrame
  (repeat' split) <;> simp [h]

@[simp] theorem execRegionIdle_formed {s : State} (h : s.form.Ok) (now r) : Formed (execRegionIdle now r s) := by simp [execRegionIdle, h]

end Sys2Proof.Machine
end

section
/-! The form, through the handling of an error. -/

namespace Sys2Proof.Machine

@[simp] theorem execClusterHung_formed {s : State} (h : s.form.Ok) (now c) : Formed (execClusterHung now c s) := by
  unfold execClusterHung
  dsimp only
  (repeat' split) <;> simp [h]

@[simp] theorem execRecoveryCheckDone_formed {s : State} (h : s.form.Ok) (c result) : Formed (execRecoveryCheckDone c result s) := by
  simp [execRecoveryCheckDone, h]

@[simp] theorem State.errorEvent_form (s : State) (d) : (s.errorEvent d).form = s.form := by
  unfold State.errorEvent
  (repeat' split) <;> simp

@[simp] theorem State.tornEvent_form (s : State) (d) : (s.tornEvent d).form = s.form := by simp [State.tornEvent]

@[simp] theorem State.endShare_form (s : State) (c d) : (s.endShare c d).form = s.form := by
  unfold State.endShare
  (repeat' split) <;> simp

@[simp] theorem State.discardFor_formOk {s : State} (h : s.form.Ok) (d) : (s.discardFor d).form.Ok := by
  unfold State.discardFor
  (repeat' split) <;> simp [h]

@[simp] theorem State.endFor_formOk {s : State} (h : s.form.Ok) (d) : (s.endFor d).form.Ok := by
  unfold State.endFor
  (repeat' split) <;> simp [h]

@[simp] theorem State.loseQueue_formOk {s : State} (h : s.form.Ok) (q) : (s.loseQueue q).form.Ok := by simp +contextual [State.loseQueue, h]

@[simp] theorem State.loseContext_form (s : State) (c) : (s.loseContext c).form = s.form := by simp [State.loseContext]

@[simp] theorem State.discardSteps_formOk {s : State} (h : s.form.Ok) (c) : (s.discardSteps c).form.Ok := by simp +contextual [State.discardSteps, h]

@[simp] theorem State.resume_form (s : State) (d) : (s.resume d).form = s.form := by
  unfold State.resume
  (repeat' split) <;> simp

@[simp] theorem State.act_formOk {s : State} (h : s.form.Ok) (d a) : (s.act d a).1.form.Ok := by
  unfold State.act
  split
  case h_1 =>
    split
    · split <;> simp [h]
    · exact h
  case h_3 => split <;> simp [h]
  case h_7 => split <;> simp [h]
  case h_8 => exact foldl_ok (fun t q ht => State.loseQueue_formOk ht q) _ h
  all_goals simp [h]

@[simp] theorem State.overHandled_form (s : State) : s.overHandled.form = s.form := by simp [State.overHandled]

@[simp] theorem State.proceed_formOk {s : State} (h : s.form.Ok) (x) : (s.proceed x).form.Ok := by
  unfold State.proceed
  split
  · exact h
  · rename_i a rest _
    have hact : (State.act { s with err := s.err.holding x { x with left := rest } } x.err a).1.form.Ok :=
      State.act_formOk (by simpa using h) ..
    dsimp only
    split <;> rename_i hr <;> simpa [fst_form hr] using hact

@[simp] theorem State.beginHandling_formOk {s : State} (h : s.form.Ok) (d) : (s.beginHandling d).form.Ok := by simp [State.beginHandling, h]

@[simp] theorem State.handleNext_formOk {s : State} (h : s.form.Ok) : s.handleNext.form.Ok := by
  unfold State.handleNext
  (repeat' split) <;> simp [h]

@[simp] theorem execErrorHandling_formed {s : State} (h : s.form.Ok) : Formed (execErrorHandling s) := by simp [execErrorHandling, h]

end Sys2Proof.Machine
end

section
/-! The form, through I3C and the TAP, which leave both. -/

namespace Sys2Proof.Machine

@[simp] theorem execI3cPrivateWrite_formed {s : State} (h : s.form.Ok) (w) : Formed (execI3cPrivateWrite w s) := by simp [execI3cPrivateWrite, h]

@[simp] theorem execI3cPrivateRead_formed {s : State} (h : s.form.Ok) (r) : Formed (execI3cPrivateRead r s) := by simp [execI3cPrivateRead, h]

@[simp] theorem State.assignAddr_form (s : State) (addr) : (s.assignAddr addr).form = s.form := by simp [State.assignAddr]

@[simp] theorem execSetdasa_formed {s : State} (h : s.form.Ok) (a) : Formed (execSetdasa a s) := by simp [execSetdasa, h]

@[simp] theorem execEntdaa_formed {s : State} (h : s.form.Ok) (addr) : Formed (execEntdaa addr s) := by simp [execEntdaa, h]

@[simp] theorem execRstdaa_formed {s : State} (h : s.form.Ok) : Formed (execRstdaa s) := by simp [execRstdaa, h]

@[simp] theorem State.tapLoad_form (s : State) (code) : (s.tapLoad code).form = s.form := by simp [State.tapLoad]

@[simp] theorem State.shiftOut_form (s : State) (bits width) : (s.shiftOut bits width).form = s.form := by simp [State.shiftOut]

@[simp] theorem State.tapBypass_form (s : State) (code width din) : (s.tapBypass code width din).form = s.form := by simp [State.tapBypass]

@[simp] theorem State.tapBoundary_form (s : State) (code din lands) : (s.tapBoundary code din lands).form = s.form := by simp [State.tapBoundary]

@[simp] theorem State.tapDrive_form (s : State) : s.tapDrive.form = s.form := by
  unfold State.tapDrive
  (repeat' split) <;> simp

@[simp] theorem State.tapExtest_form (s : State) (code din lands) : (s.tapExtest code din lands).form = s.form := by simp [State.tapExtest]

@[simp] theorem execTapReset_formed {s : State} (h : s.form.Ok) : Formed (execTapReset s) := by simp [execTapReset, h]

@[simp] theorem execExtest_formed {s : State} (h : s.form.Ok) (din lands) : Formed (execExtest din lands s) := by simp [execExtest, h]

@[simp] theorem execSamplePreload_formed {s : State} (h : s.form.Ok) (din lands) : Formed (execSamplePreload din lands s) := by
  simp [execSamplePreload, h]

@[simp] theorem execIdcode_formed {s : State} (h : s.form.Ok) : Formed (execIdcode s) := by simp [execIdcode, h]

@[simp] theorem execExtestPulse_formed {s : State} (h : s.form.Ok) (din lands) : Formed (execExtestPulse din lands s) := by simp [execExtestPulse, h]

@[simp] theorem execExtestTrain_formed {s : State} (h : s.form.Ok) (din lands) : Formed (execExtestTrain din lands s) := by simp [execExtestTrain, h]

@[simp] theorem execHighz_formed {s : State} (h : s.form.Ok) (din) : Formed (execHighz din s) := by simp [execHighz, h]

@[simp] theorem execClamp_formed {s : State} (h : s.form.Ok) (din) : Formed (execClamp din s) := by simp [execClamp, h]

@[simp] theorem execBypass_formed {s : State} (h : s.form.Ok) (code din) : Formed (execBypass code din s) := by simp [execBypass, h]

end Sys2Proof.Machine
end

section
/-! The form, through every instruction, and a step. -/

namespace Sys2Proof.Machine

/-- Every instruction keeps the form, by the lemma of its own. -/
theorem exec_formed {s : State} (h : s.form.Ok) (i : Instr) : Formed (exec i s) := by
  cases i <;> simp only [exec] <;> simp [h]

theorem step_formed {s : State} (h : s.form.Ok) : Formed (step s) := by
  unfold step
  split
  · simp [h]
  · exact exec_formed (by simpa using h) _

/-- Settles O3: memory's cells and the staging cache change by writes, and by the cache's own entry operations, each of which keeps
the form; every function of the model is made of these. -/
theorem memoryFormKept : Obligations.MemoryFormKept := by
  unfold Obligations.MemoryFormKept
  exact fun s t hm hp hs => (step_formed (s := s) ⟨hm, hp⟩).next t hs

end Sys2Proof.Machine
end

section
/-! Page retirement and the tests of memory and links (R246, R247, R254 to R256, R290, R291): what each job does once what it needs
has come. -/

namespace Sys2Proof.Machine

variable {s s0 t u v : State} {q : QueueId} {j : Job} {r : TrafficResult} {d : TestDesc}

/-! ### RETIRE_PAGES (R246, R247) -/

/-- Data that have come ask for no transfer, so its class does not show. -/
theorem State.withSource_inter {jr : JobRef} {w : Word} {len : Nat} {hint : Option Hint} {bs : List Byte}
    {k : State → List Byte → State} {inter : Bool} (h : s.given jr w len hint t bs) : s.withSource jr w len hint k inter = k t bs := by
  rw [← State.withSource_ok (k := k) h]
  rcases h with ⟨hlen, -⟩ | ⟨-, hw, -⟩ | ⟨-, hw, -⟩ | ⟨-, -, -, b, hb, -⟩
  · simp only [State.withSource, hlen, if_true]
  · simp only [State.withSource, hw, Bool.false_eq_true, if_false]
  · simp only [State.withSource, hw, Bool.false_eq_true, if_false]
  · simp only [State.withSource, hb]

theorem retirePages_runs {bs : List Byte} {a : State × Bool} (hs : s.takes q (isOp 0x7A) j s0) (hok : retireOk j = true)
    (hg : s0.given (j.refOn q) (j.p 0) (8 * (j.p 1).toNat) none t bs)
    (ha : a = ((List.range (j.p 1).toNat).map (wordAt bs)).foldl
      (fun a d => ((a.1.retireEntry d).1, a.2 || (a.1.retireEntry d).2)) (t, false)) :
    exec (.retirePages q) s = .next (a.1.finishJob (j.refOn q) (if a.2 = true then 0x22 else 0) a.1.hbm.retired.length 0) := by
  subst ha
  exact congrArg _ ((State.runJob_takes hs (if_pos hok)).trans (State.withSource_inter hg))

theorem State.retireEntry_retires {dpa : Nat} (hpage : dpa % 4096 = 0) (hin : dpa < Config.memBytes) (hroot : dpa ≠ s.regs.adminRoot)
    (hnew : s.hbm.isRetired (dpa / 4096) = false) (hroom : s.hbm.retired.length < Config.maxRetired) :
    s.retireEntry dpa = (s.retire (dpa / 4096), false) := by
  simp [State.retireEntry, hpage, hroot, hnew, Nat.not_le.mpr hin, Nat.not_le.mpr hroom]

@[simp] theorem State.recordEvent_hbm (s : State) (e : Event) : (s.recordEvent e).hbm = s.hbm := by
  obtain ⟨r, x, h⟩ := s.recordEvent_only e
  rw [h]

/-- Granules poisoned one after another leave the list of retired pages. -/
theorem Hbm.foldl_poisonGran_retired {α : Type} (f : α → Nat) (l : List α) (h : Hbm) :
    (l.foldl (fun h i => h.poisonGran (f i)) h).retired = h.retired := by
  induction l generalizing h with
  | nil => rfl
  | cons i l ih => exact ih _

/-- The granules that a list of insertions adds. -/
theorem mem_foldl_insNat {α : Type} (f : α → Nat) {g : Nat} (is : List α) (l : List Nat) :
    g ∈ is.foldl (fun l i => insNat (f i) l) l ↔ (∃ i ∈ is, g = f i) ∨ g ∈ l := by
  induction is generalizing l with
  | nil => simp
  | cons i is ih =>
    rw [List.foldl_cons, ih, mem_insNat, List.exists_mem_cons_iff, or_left_comm, or_assoc]

theorem Hbm.foldl_poisonGran_poison {α : Type} (f : α → Nat) (l : List α) (h : Hbm) :
    (l.foldl (fun h i => h.poisonGran (f i)) h).poison = l.foldl (fun l i => insNat (f i) l) h.poison := by
  induction l generalizing h with
  | nil => rfl
  | cons i l ih => exact ih _

/-- The 64 granules of a page. -/
theorem exists_granule_iff {g page : Nat} : (∃ i ∈ List.range 64, g = 64 * page + i) ↔ g / 64 = page := by
  constructor
  · rintro ⟨i, hi, rfl⟩
    have := List.mem_range.mp hi
    omega
  · rintro rfl
    exact ⟨g % 64, List.mem_range.mpr (Nat.mod_lt _ (by decide)), (Nat.div_add_mod g 64).symm⟩

theorem State.retire_lists (s : State) (page : Nat) : (s.retire page).hbm.isRetired page = true := by
  simp [State.retire, Hbm.isRetired, Hbm.foldl_poisonGran_retired]

theorem State.retire_poisons (s : State) {page g : Nat} (hg : g / 64 = page) : g ∈ (s.retire page).hbm.poison := by
  simp only [State.retire, State.recordEvent_hbm, Hbm.foldl_poisonGran_poison]
  exact (mem_foldl_insNat _ _ _).mpr (.inl (exists_granule_iff.mpr hg))

/-! ### RUN_TRAFFIC_TEST (R254 to R256, R319, R387) -/

theorem runTrafficTest_runs (hs : s.takes q (isOp 0x7C) j s0) (hok : trafficOk j = true) :
    exec (.runTrafficTest q r) s = .next (s0.trafficRun r (j.refOn q) j) := congrArg _ (State.runJob_takes hs (if_pos hok))

theorem State.trafficRun_reads {jr : JobRef} {bs : List Byte} (h1 : j.aux ≠ [1]) (h2 : j.aux ≠ [2])
    (hr : s.reads jr (j.p 0).toNat 32 t bs) (hd : testAt bs = some d) :
    s.trafficRun r jr j = (t.setJob jr fun x => { x with aux := [2], data := bs }).trafficGo r jr d (j.p 1).toNat := by
  rw [State.trafficRun, if_neg h1, if_neg h2, State.withStruct_ok hr, hd]

theorem State.trafficRun_again {jr : JobRef} (ha : j.aux = [2]) (hd : testAt j.data = some d) :
    s.trafficRun r jr j = s.trafficGo r jr d (j.p 1).toNat := by
  rw [State.trafficRun, ha, if_neg (by decide), if_pos rfl, hd]

theorem State.trafficRun_stores {jr : JobRef} (ha : j.aux = [1]) (hv : s.stores jr (j.p 1).toNat j.data none v) :
    s.trafficRun r jr j = v.finishJob jr 0 0 0 := by
  rw [State.trafficRun, if_pos ha, State.putDva_ok hv]
  rfl

/-- A test that neither the shade nor the host holds back has its effect and stores its record. -/
theorem State.trafficGo_ends {m : TrafficResult} {jr : JobRef} {dva : Nat}
    (hgo : s.model.res = none ∨ s.regions[ix 8 d.region].shadeLive ≠ 0) (hheld : s.cxl.heldIn d.base d.length = [])
    (hm : m = s.testMeets d r) (hu : u = (s.testEffect d m).setJob jr (fun x => { x with aux := [1], data := s.testRecord d m }))
    (hv : u.stores jr dva (s.testRecord d m) none v) : s.trafficGo r jr d dva = v.finishJob jr 0 0 0 := by
  subst hm hu
  have hfree : ¬(s.model.res.isSome && decide (s.regions[ix 8 d.region].shadeLive = 0)) = true := by
    rw [Bool.and_eq_true, Option.isSome_iff_ne_none, decide_eq_true_eq]
    tauto
  rw [State.trafficGo, if_neg hfree, hheld]
  exact State.putDva_ok hv

theorem State.trafficGo_waits {jr : JobRef} {dva : Nat} (hm : s.model.res ≠ none) (hz : s.regions[ix 8 d.region].shadeLive = 0) :
    s.trafficGo r jr d dva = s := by
  rw [State.trafficGo, if_pos (by rw [Option.isSome_iff_ne_none.mpr hm, decide_eq_true hz]; rfl)]

/-! ### LINK_TEST (R290, R291) -/

theorem linkTest_runs (hs : s.takes q (isOp 0x7D) j s0) (hok : linkOk j = true) (hc : linkMode j = 3 → s0.fab.cfgLive ≠ none) :
    exec (.linkTest q) s = .next (s0.linkRun (j.refOn q) j) := by
  refine congrArg _ (State.runJob_takes hs ?_)
  have hcfg : ¬(decide (linkMode j = 3) && s0.fab.cfgLive.isNone) = true := by
    rw [Bool.and_eq_true, decide_eq_true_eq, Option.isNone_iff_eq_none]
    exact fun ⟨hm, hn⟩ => hc hm hn
  rw [if_neg (by simp [hok]), if_neg hcfg]

theorem State.linkRun_begins {jr : JobRef} {t : LinkTest} (hfree : s.fab.test = none)
    (ht : t = { job := jr, ports := (j.p 0).setWidth 16, mode := linkMode j, prbs13 := (j.p 0).getLsbD 18,
                peer := (j.p 0).field 32 14, start := s.now, duration := 100 * (j.p 1).toNat, results := (j.p 2).toNat })
    (hu : u = t.portList.foldl (fun s p => (s.setPort p fun y => { y with testing := true, busy := 0 }).movePort p .disabled)
      ({ s with fab := { s.fab with test := some t } } : State)) :
    s.linkRun jr j = if linkMode j = 3 then t.portList.foldl (fun s p => s.runTest p 0 1) u else u := by
  rw [Nat.mul_comm] at ht
  subst ht hu
  rw [State.linkRun, if_neg (by rw [hfree]; exact Bool.false_ne_true)]
  rfl

/-- A frame of a test in FRAME mode that passes checks 3 and 4 of R272. -/
theorem linkTestFrame_counts {f : Frame} {ok : Bool} {c : PortCfg} (ht : s.frameTest f.port.val = true)
    (h0 : s0 = s.countFec f.port.val f.fec) (hc : s0.fab.cfgLive = some c) (ha : s0.alive = true) (hdom : f.domain = c.domain)
    (hdev : f.dstDev = c.device)
    (hsrc : if f.srcDev = c.device then f.srcInc = s0.pkg.incarnation
      else ∃ p, s0.peer? f.srcDev = some p ∧ p.inc = f.srcInc ∧ p.lost = false)
    (hinc : f.dstInc = s0.pkg.incarnation) :
    exec (.linkTestFrame f ok) s =
      .next ((if f.ce = true then s0.fabCtr fun k => { k with ceReceived := k.ceReceived + 1 } else s0).testSaw f.port.val ok) := by
  have hknown : if f.srcDev = c.device then f.srcInc = s0.pkg.incarnation
      else ((s0.peer? f.srcDev).any fun p => p.inc = f.srcInc && !p.lost) = true := by
    by_cases hown : f.srcDev = c.device
    · rwa [if_pos hown] at hsrc ⊢
    · rw [if_neg hown] at hsrc ⊢
      obtain ⟨p, hp, hi, hl⟩ := hsrc
      simp [hp, hi, hl]
  show execLinkTestFrame f ok s = _
  simp [execLinkTestFrame, ht, ← h0, hc, ha, hdom, hdev, hinc, hknown]

theorem linkTestEnd_stores {now : Nat} {rs : List LinkResult} {lt : LinkTest} {x : Job} (h0 : s0 = s.advanceTo now)
    (ht : s0.fab.test = some lt) (ha : s0.alive = true) (hd : lt.duration ≤ s0.now - lt.start)
    (hn : rs.length = lt.portList.length) (hx : s0.job? lt.job = some x) (hh : x.halted = false)
    (hst : s0.stores lt.job lt.results ((lt.portList.zip rs).flatMap fun e => lt.record (nearest lt.duration 1000) e.1 e.2) none t) :
    exec (.linkTestEnd now rs) s = .next ((((lt.portList.zip rs).foldl
      (fun s e => s.setPort e.1 (Port.addTest lt.mode e.2)) t).endTest lt.job).finishJob lt.job 0 0 0) := by
  show execLinkTestEnd now rs s = _
  simp [execLinkTestEnd, ← h0, ht, ha, Nat.not_lt.mpr hd, hn, hx, hh, State.putDva_ok hst, stOk]

/-- Settles O26, from one lemma for each job and each of its cases. -/
theorem maintenance : Obligations.Maintenance := by
  refine ⟨fun s s0 t q j bs a => retirePages_runs, fun s dpa hpage hin hroot hnew hroom =>
    ⟨State.retireEntry_retires hpage hin hroot hnew hroom, s.retire_lists _, fun g => s.retire_poisons⟩, ?_,
    fun s u v r m jr d dva => ⟨State.trafficGo_ends, State.trafficGo_waits⟩, ?_, fun s s0 f ok c => linkTestFrame_counts,
    fun s s0 t now rs lt x => linkTestEnd_stores⟩
  · intro s s0 q r j hs hok
    rw [runTrafficTest_runs hs hok]
    exact ⟨fun t bs d h1 h2 hr hd => congrArg _ (State.trafficRun_reads h1 h2 hr hd),
      fun d ha hd => congrArg _ (State.trafficRun_again ha hd), fun v ha hv => congrArg _ (State.trafficRun_stores ha hv)⟩
  · intro s s0 u q j t hs hok hc hfree ht hu
    rw [linkTest_runs hs hok hc, State.linkRun_begins hfree ht hu]

end Sys2Proof.Machine
end

section
/-! Power, reset and bring-up (R257, R258, R275, R444, R448, R453, R472, R488, R490, R493, R496, R512): what a loss of power cuts off,
what reset leaves, and each stage of bring-up. -/

namespace Sys2Proof.Machine

variable {s s0 : State} {now : Nat}

/-! ### Power and PERST_N (R453, R461, R488, R490) -/

theorem powerUp_off (h : s.pkg.powered = false) :
    exec .powerUp s = .next { s with pkg := { s.pkg with powered := true, cxlTx := .idle } } :=
  if_neg (by rw [h]; exact Bool.false_ne_true)

theorem perstAssert_running (hp : s.pkg.powered = true) (hn : s.pkg.perstN = true) (ht : s.pkg.tripped = false) :
    exec .perstAssert s = .next (s.afresh true) :=
  if_neg (by simp [hp, hn, ht])

theorem State.cutWrites_mram_idle (h : s.leafInWrite = false) : s.cutWrites.mram = s.mram := by
  rw [State.cutWrites, h]
  cases s.mram.leaf <;> rfl

theorem State.cutWrites_mram_writing {n : Nat} (hn : s.mram.leaf = some n) (hw : s.leafInWrite = true) (hlt : n < Config.leaves) :
    s.cutWrites.mram = s.mram.cut n (Config.cutLeaf s.now) := by
  simp only [State.cutWrites, hn, hw, hlt, decide_true, Bool.and_self, if_true]

/-- A write of the leaf index touches its two copies alone, and copy B only once copy A is whole. -/
theorem Mram.cut_eq (m : Mram) (n : Nat) (k : Fin 4) : ∃ a b, m.cut n k = { m with leafA := a, leafB := b } ∧
    (b = m.leafB ∨ a = Copy.leaf (n + 1)) := by
  match k with
  | 0 => exact ⟨_, _, rfl, .inl rfl⟩
  | 1 => exact ⟨_, _, rfl, .inl rfl⟩
  | 2 => exact ⟨_, _, rfl, .inl rfl⟩
  | 3 => exact ⟨_, _, rfl, .inr rfl⟩

theorem State.cutWrites_mram (s : State) : ∃ a b, s.cutWrites.mram = { s.mram with leafA := a, leafB := b } := by
  unfold State.cutWrites
  dsimp only
  split
  · split
    · obtain ⟨a, b, h, -⟩ := s.mram.cut_eq _ (Config.cutLeaf s.now)
      exact ⟨a, b, h⟩
    · exact ⟨_, _, rfl⟩
  · exact ⟨_, _, rfl⟩

/-- A record that was not written in the instant at which power went is whole. -/
theorem Recorder.tear_whole {r : Recorder} (h : r.wroteAt ≠ some now) : r.tear now = r :=
  if_pos (by simp [h])

/-- Power that goes tears the newest record at most. -/
theorem Recorder.tear_records (r : Recorder) (now : Nat) :
    (r.tear now).records = r.records ∨ ∃ e, r.records ≠ [] ∧ (r.tear now).records = r.records.dropLast ++ [e] := by
  unfold Recorder.tear
  split
  · exact .inl rfl
  · rename_i h
    refine .inr ⟨_, fun hempty => h ?_, rfl⟩
    simp [hempty]

theorem Recorder.tear_held (r : Recorder) (now : Nat) : (r.tear now).held = r.held := by
  rcases r.tear_records now with h | ⟨e, hne, h⟩
  · rw [Recorder.held, h, Recorder.held]
  · have hpos := List.length_pos_iff.mpr hne
    rw [Recorder.held, h, Recorder.held, List.length_append, List.length_dropLast, List.length_singleton]
    omega

theorem Recorder.tear_older {r : Recorder} {i : Nat} (now : Nat) (hi : i + 1 < r.held) :
    (r.tear now).records[i]? = r.records[i]? := by
  rcases r.tear_records now with h | ⟨e, -, h⟩
  · rw [h]
  · have hlt : i < r.records.length - 1 := Nat.lt_sub_of_add_lt hi
    rw [h, List.getElem?_append_left (by rwa [List.length_dropLast]), List.getElem?_dropLast, if_pos hlt]

/-! ### The release of PERST_N (R275, R444, R448, R472, R512) -/

theorem perstRelease_draws {draws : List (BitVec 32)} {straps : BitVec 4} {bad : List Nat} {d : BitVec 32} {t : State}
    (hp : s.pkg.powered = true) (hn : s.pkg.perstN = false)
    (hd : draws.find? (fun d => d ≠ 0 && d.toNat ≠ s.mram.lastIncarnation) = some d)
    (ht : t = State.recorderWrite { s with
      pkg := { s.pkg with perstN := true, straps := straps, stage := .rom, readyPin := .low, cxlTx := .active, incarnation := d.toNat }
      recorder := { s.recorder with badWrites := bad }
      mram := { s.mram with lastIncarnation := d.toNat }
      fab := { s.fab with ports := s.fab.ports.map fun x => { x with st := .training } }
      regions := s.regions.map fun r => { r with setpoint := 750, output := 7500, searching := true } }
        (fun r => { r with powerCycles := r.powerCycles + 1 })) :
    exec (.perstRelease ⟨draws, bad⟩ straps) s = .next (if straps.getLsbD 3 = true then t.wrecked .device else t) := by
  have hdraw : s.mram.draw draws = some d.toNat := congrArg (Option.map BitVec.toNat) hd
  show execPerstRelease ⟨draws, bad⟩ straps s = _
  rw [ht, execPerstRelease, if_neg (by simp [hp, hn]), hdraw]

theorem State.recorderWrite_good {f : Recorder → Recorder} (h : s.recorder.badWrites.contains s.recorder.writes = false) :
    s.recorderWrite f = { s with recorder := { f { s.recorder with wroteAt := none } with writes := s.recorder.writes + 1 } } :=
  if_neg (by rw [h]; exact Bool.false_ne_true)

/-- A write of the recorder that fails its read-back is package-fatal. -/
theorem State.recorderWrite_bad (f : Recorder → Recorder) (h : s.recorder.badWrites.contains s.recorder.writes = true)
    (hfailed : s.err.failed = none) (hfatal : s.err.fatal = none) : (s.recorderWrite f).err.fatal = some (9, none) := by
  simp only [State.recorderWrite, h, if_true, State.raiseFatal, hfailed, hfatal]

/-! ### The stages of bring-up (R257, R258, R493, R496) -/

theorem linkTrained_rom {width rate : Nat} (h0 : s0 = s.advanceTo now) (ha : s0.alive = true) (hr : s0.pkg.stage = .rom)
    (hw : width = 4 ∨ width = 8 ∨ width = 16) (hs : rate = 1 ∨ rate = 2) :
    exec (.linkTrained now width rate) s = .next { s0 with
      pkg := { s0.pkg with stage := .linked }, cxl := { s0.cxl with linkUp := true, width := width, rate := rate } } := by
  show execLinkTrained now width rate s = _
  rw [execLinkTrained, ← h0]
  have hlink : ((decide (width = 4) || decide (width = 8) || decide (width = 16)) && (decide (rate = 1) || decide (rate = 2))) = true := by
    simpa only [Bool.and_eq_true, Bool.or_eq_true, decide_eq_true_eq, or_assoc] using And.intro hw hs
  rw [if_neg (by simp [ha, hr]), if_neg (by rw [hlink]; decide)]

theorem stackTrainingDone_trained (h0 : s0 = s.advanceTo now) (ha : s0.alive = true) (hst : s0.pkg.stage = .hbmTraining)
    (hv : ∀ r : RegionId, s0.regions[r].searching = false) (ht : s0.now - s0.boot.tLink ≤ 10000000) :
    exec (.stackTrainingDone now false) s = .next { s0 with
      pkg := { s0.pkg with stage := .selfCheck }, boot := { s0.boot with tStacks := s0.now }
      hbm := { s0.hbm with stk := s0.hbm.stk.map fun k => { k with trained := true } } } := by
  have hsearch : s0.regions.any (·.searching) = false := by
    rw [Vector.any_eq_false]
    exact fun i hi => Bool.eq_false_iff.mp (hv ⟨i, hi⟩)
  have htime : ¬100 * Config.ms < s0.now - s0.boot.tLink := Nat.not_lt.mpr ht
  show execStackTrainingDone now false s = _
  rw [execStackTrainingDone, ← h0]
  rw [if_neg (by simp [ha, hst, hsearch]), if_neg (by simp [htime])]

/-- The pages in memory of a self-check's report. -/
def checkedPages (bad : List Nat) : List Nat := (bad.filter fun p => p * 4096 < Config.memBytes).eraseDups

/-- The granules of the pages that a self-check reports. -/
def checkedPoison (pages : List Nat) : List Nat :=
  pages.foldl (fun l p => (List.range 64).foldl (fun l i => insNat (64 * p + i) l) l) []

/-- Memory as a self-check gives it: zeros, but for the pages that failed. -/
def State.checkedMemory (s : State) (pages : List Nat) : State := { s with
  hbm := { s.hbm with mem := [], poison := checkedPoison pages, report := pages }
  regs := { s.regs with adminRoot := lowestPage pages * 4096 }
  pkg := { s.pkg with stage := .ports, memActive := true }
  boot := { s.boot with tSelfCheck := s.now } }

/-- The record of a self-check that found failing pages (R500). -/
def checkedEvent (pages : List Nat) : Event :=
  { code := 0x71, payload := leBytes 4 pages.length ++ leBytes 4 0 ++ (pages.take 20).flatMap fun p => leBytes 8 (p * 4096) }

theorem selfCheckDone_checks {bad : List Nat} (h0 : s0 = s.advanceTo now) (ha : s0.alive = true) (hst : s0.pkg.stage = .selfCheck)
    (hn : (checkedPages bad).length ≤ Config.maxRetired) :
    exec (.selfCheckDone now bad false) s = .next (if checkedPages bad = [] then s0.checkedMemory (checkedPages bad)
      else (s0.checkedMemory (checkedPages bad)).recordEvent (checkedEvent (checkedPages bad))).bringupReady := by
  show execSelfCheckDone now bad false s = _
  rw [execSelfCheckDone, ← h0]
  rw [if_neg (by simp [ha, hst]), if_neg (by simpa [checkedPages] using hn)]
  simp only [← List.isEmpty_iff]
  rfl

theorem mem_checkedPoison {pages : List Nat} {g : Nat} : g ∈ checkedPoison pages ↔ g / 64 ∈ pages := by
  have hfold : ∀ l, g ∈ pages.foldl (fun l p => (List.range 64).foldl (fun l i => insNat (64 * p + i) l) l) l ↔
      g / 64 ∈ pages ∨ g ∈ l := by
    induction pages with
    | nil => simp
    | cons p pages ih =>
      intro l
      rw [List.foldl_cons, ih, mem_foldl_insNat, exists_granule_iff, List.mem_cons, or_left_comm, or_assoc]
  exact (hfold []).trans (or_iff_left List.not_mem_nil)

/-- A report lists fewer pages than there are numbers up to its length, so one of these is not listed. -/
theorem lowestPage_not_mem (report : List Nat) : lowestPage report ∉ report := by
  unfold lowestPage
  cases hf : (List.range (report.length + 1)).find? fun p => !report.contains p with
  | some p => simpa using List.find?_some hf
  | none =>
    have hall : List.range (report.length + 1) ⊆ report := fun p hp => by simpa using List.find?_eq_none.mp hf p hp
    have hlen := (List.nodup_range.subperm hall).length_le
    rw [List.length_range] at hlen
    omega

/-- The end of bring-up leaves memory, registers and MEM_ACTIVE. -/
theorem State.bringupReady_memory (s : State) :
    s.bringupReady.hbm = s.hbm ∧ s.bringupReady.regs = s.regs ∧ s.bringupReady.pkg.memActive = s.pkg.memActive := by
  unfold State.bringupReady
  split
  · exact ⟨rfl, rfl, rfl⟩
  · dsimp only
    generalize hu : State.recordEvent _ _ = u
    obtain ⟨r, x, h⟩ := State.recordEvent_only _ _
    rw [← hu, h]
    exact ⟨rfl, rfl, rfl⟩

theorem selfCheckDone_clean (h0 : s0 = s.advanceTo now) (ha : s0.alive = true) (hst : s0.pkg.stage = .selfCheck) :
    exec (.selfCheckDone now [] false) s = .next ({ s0 with
      hbm := { s0.hbm with mem := [], poison := [], report := [] }, regs := { s0.regs with adminRoot := 0 }
      pkg := { s0.pkg with stage := .ports, memActive := true }, boot := { s0.boot with tSelfCheck := s0.now } }).bringupReady :=
  selfCheckDone_checks (bad := []) h0 ha hst (Nat.zero_le _)

theorem selfCheckDone_fails {bad pages : List Nat} (h0 : s0 = s.advanceTo now) (ha : s0.alive = true)
    (hst : s0.pkg.stage = .selfCheck) (hp : pages = checkedPages bad) (hne : pages ≠ []) (hn : pages.length ≤ Config.maxRetired) :
    ∃ t, exec (.selfCheckDone now bad false) s = .next t ∧ t.hbm.report = pages ∧ t.hbm.mem = [] ∧ t.pkg.memActive = true ∧
      (∀ g, g ∈ t.hbm.poison ↔ g / 64 ∈ pages) ∧ t.regs.adminRoot / 4096 ∉ pages := by
  subst hp
  refine ⟨_, (selfCheckDone_checks h0 ha hst hn).trans (by rw [if_neg hne]), ?_⟩
  obtain ⟨hhbm, hregs, hactive⟩ :=
    ((s0.checkedMemory (checkedPages bad)).recordEvent (checkedEvent (checkedPages bad))).bringupReady_memory
  obtain ⟨r, x, hrec⟩ := (s0.checkedMemory (checkedPages bad)).recordEvent_only (checkedEvent (checkedPages bad))
  rw [hhbm, hregs, hactive, hrec]
  refine ⟨rfl, rfl, rfl, fun g => mem_checkedPoison, ?_⟩
  show lowestPage (checkedPages bad) * 4096 / 4096 ∉ _
  rw [Nat.mul_div_cancel _ (by decide)]
  exact lowestPage_not_mem _

/-! ### The V_BASE search (R472) -/

theorem vBaseFound_ends {r : RegionId} {v p0 p1 : Nat} (ha : s.alive = true) (hs : s.regions[r].searching = true) (hlo : 600 ≤ v)
    (hhi : v ≤ 750) (hstep : v % 5 = 0) (hout : s.regions[r].output ≤ 10 * v) :
    exec (.vBaseFound r v p0 p1) s = .next (s.setRegion r.val fun g =>
      { g with searching := false, vBase := v, setpoint := v, ramp := 0, proc0 := p0, proc1 := p1 }) := by
  refine if_neg ?_
  simp only [ha, hs, hstep, Nat.not_lt.mpr hlo, Nat.not_lt.mpr hhi, Nat.not_lt.mpr hout]
  decide

theorem Region.heading_searching {g : Region} (hs : g.searching = true) (hl : g.limiting = false) (hc : 600 ≤ g.ceilLive) :
    g.heading = 6000 := by
  simp only [Region.heading, hs, hl, Bool.or_true, Bool.false_eq_true, if_true, if_false, Nat.min_eq_right hc]

/-- Settles O34, from one lemma for each row and each of its cases. -/
theorem powerAndReset : Obligations.PowerAndReset := by
  refine ⟨fun s => powerUp_off, fun s => rfl, ?_, ?_,
    fun r now => ⟨r.tear_held now, fun i => Recorder.tear_older now, Recorder.tear_whole⟩, fun s => perstAssert_running,
    fun s p => ⟨rfl, rfl, rfl, rfl, rfl, rfl, rfl, rfl, rfl, rfl, rfl⟩,
    fun s draws straps bad d hp hn hd t => perstRelease_draws hp hn hd,
    fun s f => ⟨State.recorderWrite_good, State.recorderWrite_bad f⟩, fun s s0 now width rate => linkTrained_rom,
    fun s s0 now => stackTrainingDone_trained, fun s s0 now => selfCheckDone_clean, fun s s0 now bad pages => selfCheckDone_fails,
    fun s r v p0 p1 => vBaseFound_ends, fun g => Region.heading_searching⟩
  · intro s
    obtain ⟨a, b, h⟩ := s.cutWrites_mram
    exact ⟨rfl, State.cutWrites_mram_idle, by rw [h], by rw [h]; rfl,
      fun n => State.cutWrites_mram_writing⟩
  · intro m n k
    obtain ⟨a, b, h, hab⟩ := m.cut_eq n k
    rwa [h]

end Sys2Proof.Machine
end

section
/-! The ports' entries and the receive checks (R272, R276, R278, R287): what a port reads after another is set, what the decoder's
counts leave, and each end of a received frame. -/

namespace Sys2Proof.Machine

variable {s t : State} {f : Frame} {p : Peer}

/-! ### A port after a port is set -/

theorem State.port_setPort_of_eq {i k : Nat} {g : Port → Port} (h : ix 16 k = ix 16 i) : (s.setPort i g).port k = g (s.port k) :=
  (vmod_get ..).trans (if_pos h)

theorem State.port_setPort_of_ne {i k : Nat} {g : Port → Port} (h : ix 16 k ≠ ix 16 i) : (s.setPort i g).port k = s.port k :=
  vmod_get_ne _ _ h

@[simp] theorem State.port_setPort_same (i : Nat) (g : Port → Port) : (s.setPort i g).port i = g (s.port i) :=
  State.port_setPort_of_eq rfl

/-- What a change of a port keeps of every port, it keeps of all. -/
theorem State.port_setPort_keeps {α : Type} (v : Port → α) {g : Port → Port} (hg : ∀ x, v (g x) = v x) (i k : Nat) :
    v ((s.setPort i g).port k) = v (s.port k) := by
  by_cases h : ix 16 k = ix 16 i
  · rw [State.port_setPort_of_eq h, hg]
  · rw [State.port_setPort_of_ne h]

/-! ### What the decoder corrected (R287) -/

theorem State.countFec_dead (port : Nat) (x : FecSeen) (h : s.alive = false) : s.countFec port x = s := by
  simp [State.countFec, h]

theorem State.countFec_up {port : Nat} (x : FecSeen) (hu : (s.port port).st = .up) (ha : s.alive = true) :
    s.countFec port x = s.setPort port (Port.corrected x) := by
  simp [State.countFec, hu, ha]

/-- The decoder's counts change nothing but the ports. -/
theorem State.countFec_only (s : State) (port : Nat) (x : FecSeen) :
    ∃ ps, s.countFec port x = { s with fab := { s.fab with ports := ps } } := by
  unfold State.countFec
  dsimp only
  split
  · exact ⟨_, rfl⟩
  · exact ⟨s.fab.ports, rfl⟩

theorem State.countFec_st (port k : Nat) (x : FecSeen) : ((s.countFec port x).port k).st = (s.port k).st := by
  unfold State.countFec
  dsimp only
  split
  · exact State.port_setPort_keeps (g := Port.corrected x) Port.st (fun _ => rfl) port k
  · rfl

/-- A frame meets the same check whatever its decoder corrected. -/
theorem State.rxCheck_countFec (port : Nat) (x : FecSeen) (g : Bool) : (s.countFec port x).rxCheck f g = s.rxCheck f g := by
  have hst := s.countFec_st port f.port.val x
  obtain ⟨ps, h⟩ := s.countFec_only port x
  rw [h] at hst ⊢
  simp only [State.rxCheck, hst]
  rfl

/-! ### The checks (R272) -/

theorem State.rxCheck_dead (g : Bool) (h : s.alive = false) : s.rxCheck f g = .ignored := by
  unfold State.rxCheck
  cases s.fab.cfgLive with
  | none => rfl
  | some c => exact if_pos (by rw [h]; rfl)

section Receiving

variable {c : PortCfg} (ha : s.alive = true) (hc : s.fab.cfgLive = some c) (hu : (s.port f.port.val).st = .up)
include ha hc hu

theorem State.rxCheck_elsewhere (g : Bool) (h : f.domain ≠ c.domain ∨ f.dstDev ≠ c.device) : s.rxCheck f g = .check := by
  simp [State.rxCheck, ha, hc, hu, h]

theorem State.rxCheck_stale (hd : f.domain = c.domain) (hv : f.dstDev = c.device) (hp : s.peer? f.srcDev = some p)
    (h : f.dstInc ≠ s.pkg.incarnation ∨ f.srcInc ≠ p.inc ∨ p.lost = true) : s.rxCheck f false = .stale := by
  simp [State.rxCheck, ha, hc, hu, hd, hv, hp, or_assoc, h]

end Receiving

/-! ### Where a received frame ends (R272, R278) -/

theorem State.receive_dead (h : s.alive = false) : s.receive f = (s, false) := by
  simp [State.receive, State.countFec_dead, State.rxCheck_dead, h]

theorem State.receive_of_check (h : s.rxCheck f false = .check) :
    s.receive f = ((s.countFec f.port.val f.fec).fabCtr fun k => { k with framesDroppedCheck := k.framesDroppedCheck + 1 }, false) := by
  simp [State.receive, State.rxCheck_countFec, h]

theorem State.receive_of_stale (h : s.rxCheck f false = .stale) :
    s.receive f = ((s.countFec f.port.val f.fec).fabCtr fun k => { k with framesStaleInc := k.framesStaleInc + 1 }, false) := by
  simp [State.receive, State.rxCheck_countFec, h]

/-- What a frame that passes its checks leaves in the state before it is counted: its CE mark and its number in its space. -/
def State.noted (s : State) (f : Frame) : State :=
  let s := s.countFec f.port.val f.fec
  let s := if f.ce then s.fabCtr fun c => { c with ceReceived := c.ceReceived + 1 } else s
  s.setPeer f.srcDev fun p => p.setRx f.update fun r =>
    let r := r.take f.seq s.now
    if f.ce then { r with ece := some f.port.val } else r

theorem State.noted_only (s : State) (f : Frame) : ∃ ps xs n, s.noted f =
    { s with fab := { s.fab with ports := ps, peers := xs, ctr := { s.fab.ctr with ceReceived := n } } } := by
  obtain ⟨ps, h⟩ := s.countFec_only f.port.val f.fec
  unfold State.noted
  rw [h]
  cases f.ce
  · exact ⟨ps, _, s.fab.ctr.ceReceived, rfl⟩
  · exact ⟨ps, _, s.fab.ctr.ceReceived + 1, rfl⟩

/-- A frame that passes its checks and acknowledges nothing is a duplicate or is delivered, and is counted as what it is. -/
theorem State.receive_of_pass (h : s.rxCheck f false = .pass) (hk : f.ackValid = false) (hp : s.peer? f.srcDev = some p) :
    s.receive f = if (p.rx f.update).has f.seq then
        ((s.noted f).fabCtr fun c => { c with duplicates := c.duplicates + 1 }, false)
      else ((s.noted f).fabCtr fun c => { c with messagesDelivered := c.messagesDelivered + 1 }, true) := by
  have hpeer : (s.countFec f.port.val f.fec).peer? f.srcDev = some p := by
    obtain ⟨ps, hps⟩ := s.countFec_only f.port.val f.fec
    rw [hps]; exact hp
  have hack (t : State) : t.ackIn f = t := if_pos (by rw [hk]; rfl)
  simp [State.receive, State.rxCheck_countFec, h, hack, hpeer, State.noted]

/-- Settles O28, from the end that each check gives a frame and what `State.noted` leaves. -/
theorem receiveChecks : Obligations.ReceiveChecks := by
  refine ⟨fun s f c ha hc hu h => State.receive_of_check (State.rxCheck_elsewhere ha hc hu false h),
    fun s f c p ha hc hu hd hv hp h => State.receive_of_stale (State.rxCheck_stale ha hc hu hd hv hp h), ?_, ?_, ?_, ?_⟩
  · intro s port x
    obtain ⟨ps, h⟩ := s.countFec_only port x
    refine ⟨by rw [h], by rw [h], by rw [h], by rw [h], fun hu ha => ?_⟩
    rw [State.countFec_up x hu ha, State.port_setPort_same]
    rfl
  · intro s t f b h hd
    rw [State.receive_dead hd] at h
    cases h
    exact ⟨rfl, rfl⟩
  · intro s f p hpass hk hp hdup
    obtain ⟨ps, xs, n, h⟩ := s.noted_only f
    rw [State.receive_of_pass hpass hk hp, if_pos hdup, h]
    exact ⟨_, rfl, rfl, rfl⟩
  · intro s f p hpass hk hp hnew
    obtain ⟨ps, xs, n, h⟩ := s.noted_only f
    rw [State.receive_of_pass hpass hk hp, if_neg (ne_true_of_eq_false hnew), h]
    exact ⟨_, rfl, rfl, rfl, rfl, rfl⟩

end Sys2Proof.Machine
end

section
/-! The ports' moves (R261, R286, R287, R481, R496): what the frames' work leaves of every port, what a move of a port changes, and
each command of the ports. -/

namespace Sys2Proof.Machine

variable {s s0 : State} {now k : Nat} {p : PortId}

/-! ### What sending leaves of a port -/

/-- The part of a port that only its own moves change: its state, since when, and how often it has left UP. -/
structure Standing where
  st : PortState
  since : Nat
  downEvents : Nat

def Port.standing (x : Port) : Standing := ⟨x.st, x.since, x.downEvents⟩

def State.standing (s : State) (k : Nat) : Standing := (s.port k).standing

theorem State.setPort_standing {i : Nat} {g : Port → Port} (hg : ∀ x, (g x).standing = x.standing) :
    (s.setPort i g).standing k = s.standing k :=
  State.port_setPort_keeps Port.standing hg i k

theorem foldl_standing {α : Type} {f : State → α → State} (hf : ∀ s x, (f s x).standing k = s.standing k) (l : List α) (s : State) :
    (l.foldl f s).standing k = s.standing k := by
  induction l generalizing s with
  | nil => rfl
  | cons x l ih => rw [List.foldl_cons, ih, hf]

@[simp] theorem State.setPeer_standing (d : Nat) (f : Peer → Peer) : (s.setPeer d f).standing k = s.standing k := rfl

@[simp] theorem State.startFrame_standing (i : Nat) (f : TxFrame) : (s.startFrame i f).standing k = s.standing k := by
  unfold State.startFrame
  extract_lets a sent acked first noted
  have hacked : acked.standing k = s.standing k := by
    clear_value a
    cases a <;> rfl
  split
  · exact hacked
  · split <;> exact hacked

@[simp] theorem State.runPort_standing (i budget fuel : Nat) : (s.runPort i budget fuel).standing k = s.standing k := by
  induction fuel generalizing s budget with
  | zero => rfl
  | succ n ih =>
    simp only [State.runPort]
    split
    · rfl
    · split
      · exact State.setPort_standing fun _ => rfl
      · split
        · exact State.setPort_standing fun _ => rfl
        · rw [ih, State.startFrame_standing]
          exact State.setPort_standing fun _ => rfl

@[simp] theorem State.queueFrame_standing (i : Nat) (f : TxFrame) : (s.queueFrame i f).standing k = s.standing k :=
  (State.runPort_standing i 0 2).trans (State.setPort_standing fun _ => rfl)

@[simp] theorem State.sprayMsg_standing (dev : Nat) (update : Bool) (seq : Nat) :
    (s.sprayMsg dev update seq).standing k = s.standing k := by
  unfold State.sprayMsg
  dsimp only
  (repeat' split) <;> simp

@[simp] theorem State.retransmit_standing (dev : Nat) (update : Bool) (seq : Nat) :
    (s.retransmit dev update seq).standing k = s.standing k := by
  unfold State.retransmit
  (repeat' split) <;> simp

@[simp] theorem State.spray_standing (dev : Nat) (update : Bool) : (s.spray dev update).standing k = s.standing k := by
  unfold State.spray
  split
  · rfl
  · exact foldl_standing (fun s m => by split <;> simp) _ _

@[simp] theorem State.sprayAll_standing : s.sprayAll.standing k = s.standing k := foldl_standing (fun s x => by simp) _ _

@[simp] theorem State.resendPlain_standing (f : TxFrame) : (s.resendPlain f).standing k = s.standing k := by
  unfold State.resendPlain
  (repeat' split) <;> simp

@[simp] theorem State.returnFrames_standing (i : Nat) : (s.returnFrames i).standing k = s.standing k := by
  refine (foldl_standing (fun s e => ?_) _ _).trans (State.setPort_standing fun _ => rfl)
  (repeat' split) <;> simp

@[simp] theorem State.sendGlint_standing (dev : Nat) : (s.sendGlint dev).standing k = s.standing k := by
  unfold State.sendGlint
  dsimp only
  (repeat' split) <;> simp

@[simp] theorem State.sendGlints_standing : s.sendGlints.standing k = s.standing k := foldl_standing (fun s d => by simp) _ _

@[simp] theorem State.recordEvent_standing (e : Event) : (s.recordEvent e).standing k = s.standing k := by
  obtain ⟨r, x, h⟩ := s.recordEvent_only e
  rw [h]; rfl

@[simp] theorem State.recordPort_standing (i old new lanes : Nat) : (s.recordPort i old new lanes).standing k = s.standing k := by
  obtain ⟨r, x, h⟩ := s.recordPort_only i old new lanes
  rw [h]; rfl

@[simp] theorem State.bringupReady_standing : s.bringupReady.standing k = s.standing k := by
  unfold State.bringupReady
  split
  · rfl
  · exact State.recordEvent_standing _

/-! ### A move (R286, R288) -/

/-- The port that moves, at the instant of its move. -/
def Port.moved (old new : PortState) (now : Nat) (x : Port) : Port :=
  { x with st := new, since := now, downEvents := if old = .up then x.downEvents + 1 else x.downEvents,
           laneFault := if new = .up then 0 else x.laneFault, trained := x.trained || old = .training }

theorem Port.moved_standing (old new : PortState) (now : Nat) (x : Port) :
    (x.moved old new now).standing = ⟨new, now, x.downEvents + if old = .up then 1 else 0⟩ := by
  refine congrArg (Standing.mk new now) ?_
  show (if old = .up then x.downEvents + 1 else x.downEvents) = _
  split <;> rfl

/-- What follows a move (its record, the frames' return, the spraying and the glints) leaves every port's standing. -/
theorem State.movePort_standing {i : Nat} {new : PortState} (h : (s.port i).st ≠ new) :
    (s.movePort i new).standing k = (s.setPort i (Port.moved (s.port i).st new s.now)).standing k := by
  unfold State.movePort
  extract_lets old was moved recorded returned sprayed
  have hsprayed : sprayed.standing k = moved.standing k := by
    simp only [sprayed, returned, recorded]
    (repeat' split) <;> simp
  rw [if_neg h, State.bringupReady_standing]
  refine Eq.trans ?_ hsprayed
  split <;> simp

theorem State.movePort_standing_self {i : Nat} {new : PortState} (h : (s.port i).st ≠ new) :
    (s.movePort i new).standing i = ⟨new, s.now, (s.port i).downEvents + if (s.port i).st = .up then 1 else 0⟩ := by
  rw [State.movePort_standing h, State.standing, State.port_setPort_same, Port.moved_standing]

theorem State.movePort_standing_other {i : Nat} {new : PortState} (h : (s.port i).st ≠ new) (hk : ix 16 k ≠ ix 16 i) :
    (s.movePort i new).standing k = s.standing k := by
  rw [State.movePort_standing h, State.standing, State.port_setPort_of_ne hk, State.standing]

/-! ### The commands of the ports -/

section Commands

variable {ok : Bool} {lanes : BitVec 8} {dbm : Int} (h0 : s0 = s.portTime now) (hl : s0.portsLive = true)
include h0 hl

theorem portTrainingDone_ends (hst : (s0.port p.val).st = .training) :
    exec (.portTrainingDone now p ok) s = .next (s0.movePort p.val
      (if ok = true ∧ (s0.port p.val).laserLow = false ∧ (s0.port p.val).oeDark = false then .up else .down)) := by
  subst h0
  show execPortTrainingDone now p ok s = _
  simp [execPortTrainingDone, hl, hst, and_assoc]

theorem laneFault_carrying (hst : (s0.port p.val).st = .up ∨ (s0.port p.val).st = .degraded) :
    exec (.laneFault now p lanes) s =
      .next ((s0.setPort p.val fun x => { x with laneFault := x.laneFault ||| lanes }).movePort p.val .down) := by
  subst h0
  show execLaneFault now p lanes s = _
  obtain hst | hst := hst <;> simp [execLaneFault, hl, hst]

theorem uncorrectableCodeword_up (hst : (s0.port p.val).st = .up) :
    exec (.uncorrectableCodeword now p) s =
      .next ((s0.setPort p.val fun x => { x with fecUncorrectable := x.fecUncorrectable + 1 }).movePort p.val .degraded) := by
  subst h0
  show execUncorrectableCodeword now p s = _
  simp [execUncorrectableCodeword, hl, hst]

theorem uncorrectableCodeword_degraded (hst : (s0.port p.val).st = .degraded) :
    exec (.uncorrectableCodeword now p) s = .next ((s0.setPort p.val fun x =>
        { x with fecUncorrectable := x.fecUncorrectable + 1 }).setPort p.val fun x => { x with since := s0.now }) := by
  subst h0
  show execUncorrectableCodeword now p s = _
  simp only [execUncorrectableCodeword, hl, hst]
  rfl

theorem degradedTimer_run (hst : (s0.port p.val).st = .degraded) (hrun : 10000000 ≤ s0.now - (s0.port p.val).since) :
    exec (.degradedTimer now p) s = .next (s0.movePort p.val .up) := by
  subst h0
  exact if_pos (by simp [hl, hst, Config.ms, hrun])

theorem retrainTimer_run (hst : (s0.port p.val).st = .down) (hrun : 1000000 ≤ s0.now - (s0.port p.val).since) :
    exec (.retrainTimer now p) s = .next (s0.movePort p.val .training) := by
  subst h0
  exact if_pos (by simp [hl, hst, Config.ms, hrun])

section Light

variable (hdue : isDue Config.ms (s0.port p.val).laserAt s0.now = true)
include hdue

theorem laserPowerReading_high (hp : 1650 ≤ dbm) :
    exec (.laserPowerReading now p dbm) s = .next (s0.setPort p.val fun x => { x with laserAt := s0.now, laserLow := false }) := by
  have hlow : ¬ dbm < 1600 := by omega
  subst h0
  show execLaserPowerReading now p dbm s = _
  simp [execLaserPowerReading, hl, hdue, hlow, hp]

theorem laserPowerReading_between (hlow : 1600 ≤ dbm) (hhigh : dbm < 1650) :
    exec (.laserPowerReading now p dbm) s = .next (s0.setPort p.val fun x => { x with laserAt := s0.now }) := by
  subst h0
  show execLaserPowerReading now p dbm s = _
  simp [execLaserPowerReading, hl, hdue, Int.not_lt.mpr hlow, Int.not_le.mpr hhigh]

theorem laserPowerReading_low (hlow : dbm < 1600) :
    exec (.laserPowerReading now p dbm) s = .next
      (if (s0.port p.val).st ≠ .disabled ∧ (s0.port p.val).st ≠ .down then
         (s0.setPort p.val fun x => { x with laserAt := s0.now, laserLow := true }).movePort p.val .down
       else s0.setPort p.val fun x => { x with laserAt := s0.now, laserLow := true }) := by
  subst h0
  show execLaserPowerReading now p dbm s = _
  simp [execLaserPowerReading, hl, hdue, hlow, Port.lit]

end Light

end Commands

theorem degradedTimer_running (h0 : s0 = s.portTime now) (hrun : s0.now - (s0.port p.val).since < 10000000) :
    exec (.degradedTimer now p) s = .next s0 := by
  subst h0
  refine if_neg fun h => ?_
  obtain ⟨-, hle⟩ := Bool.and_eq_true_iff.mp h
  exact absurd (of_decide_eq_true hle) (Nat.not_le.mpr hrun)

theorem laserPowerReading_early {dbm : Int} (h0 : s0 = s.portTime now) (hdue : isDue Config.ms (s0.port p.val).laserAt s0.now = false) :
    exec (.laserPowerReading now p dbm) s = .next s0 := by
  subst h0
  exact if_pos (by simp [hdue])

/-! ### The end of the first training (R496) -/

theorem State.portTime_limit (ha : s.alive = true) (hst : s.pkg.stage = .ports) (hn : s.boot.tSelfCheck + 5000000 < now) :
    s.portTime now = (s.advanceTo (s.boot.tSelfCheck + 5000000)).endTraining.advanceTo now :=
  if_pos (by simp [ha, hst, Config.ms, hn])

theorem State.portTime_plain (h : s.alive = false ∨ s.pkg.stage ≠ .ports ∨ now ≤ s.boot.tSelfCheck + 5000000) :
    s.portTime now = s.advanceTo now := by
  refine if_neg fun hover => ?_
  simp only [Bool.and_eq_true, decide_eq_true_eq] at hover
  obtain ⟨⟨ha, hst⟩, hlt⟩ := hover
  obtain hdead | hstage | hle := h
  · exact Bool.false_ne_true (hdead.symm.trans ha)
  · exact hstage hst
  · exact Nat.not_lt.mpr hle hlt

/-- Settles O32, from one lemma for each command and each of its cases, and what a move leaves of every port. -/
theorem portsMove : Obligations.PortsMove := by
  refine ⟨fun s s0 now p ok => portTrainingDone_ends, fun s s0 now p lanes => laneFault_carrying,
    fun s s0 now p => uncorrectableCodeword_up, fun s s0 now p h0 hl hst => ⟨uncorrectableCodeword_degraded h0 hl hst,
      degradedTimer_run h0 hl hst, degradedTimer_running h0⟩,
    fun s s0 now p => retrainTimer_run, fun s s0 now p dbm h0 hl hdue => ⟨laserPowerReading_high h0 hl hdue,
      laserPowerReading_between h0 hl hdue, laserPowerReading_low h0 hl hdue⟩,
    fun s s0 now p dbm => laserPowerReading_early, ?_, ?_⟩
  · rintro s now limit rfl
    exact ⟨State.portTime_limit, State.portTime_plain⟩
  · intro s i new hne _
    have hself := State.movePort_standing_self hne
    exact ⟨congrArg Standing.st hself, congrArg Standing.since hself,
      fun k hk => congrArg Standing.st (State.movePort_standing_other hne hk), congrArg Standing.downEvents hself⟩

end Sys2Proof.Machine
end

section
/-! The record of an ended job and its release (R46, R303, R329, R371 to R373): what the record says, where it is written, and when
QCMP_SEQ passes its job. -/

namespace Sys2Proof.Machine

variable {s s1 s2 t : State} {q : Nat} {r : JobRef} {x y : Job}

/-- Only a RUN_SEQUENCE ends with the records of its entries (R376). -/
theorem State.endSequence_other (h : x.opcode ≠ 0x32) : s.endSequence r x = s :=
  if_pos (by simp only [ne_eq, h, not_false_eq_true, decide_true, Bool.true_or])

/-- A record says what its job says, but for the detail of a step that has run to its end (R303). -/
theorem State.lastDetail_cases (s : State) (r : JobRef) (x : Job) : s.lastDetail r x = x ∨ ∃ i st, s.stepSlot r = some i ∧
    (s.slot i).step = some st ∧ x.status ≤ 2 ∧ s.lastDetail r x = { x with detail := st.detail } := by
  unfold State.lastDetail
  split
  · next st hstep =>
    obtain ⟨i, hslot, hst⟩ := Option.bind_eq_some_iff.mp hstep
    by_cases hran : x.status ≤ 2
    · exact .inr ⟨i, st, hslot, hst, hran, if_pos hran⟩
    · exact .inl (if_neg hran)
  · exact .inl rfl

theorem State.lastDetail_keeps (s : State) (r : JobRef) (x : Job) : (s.lastDetail r x).seq = x.seq ∧
    (s.lastDetail r x).status = x.status ∧ (s.lastDetail r x).tag = x.tag ∧ ((s.lastDetail r x).detail = x.detail ∨
      ∃ i st, s.stepSlot r = some i ∧ (s.slot i).step = some st ∧ x.status ≤ 2 ∧ (s.lastDetail r x).detail = st.detail) := by
  rcases s.lastDetail_cases r x with h | ⟨i, st, hslot, hst, hran, h⟩
  · rw [h]
    exact ⟨rfl, rfl, rfl, .inl rfl⟩
  · rw [h]
    exact ⟨rfl, rfl, rfl, .inr ⟨i, st, hslot, hst, hran, rfl⟩⟩

/-- The record is written once what the job has written is visible, and its step's deadline has been looked at (R61). -/
theorem State.writeRecord_visible {ls : Unit} (hv : s.makeVisible ⟨q, x.seq⟩ x = (s1, true))
    (hd : (s1.stepSlot ⟨q, x.seq⟩ = none ∧ s2 = s1) ∨ ∃ i, s1.stepSlot ⟨q, x.seq⟩ = some i ∧ s2 = s1.deadlineCheck i)
    (hy : y = s2.lastDetail ⟨q, x.seq⟩ x)
    (hw : (writeDpa (Agent.cp 2 (s2.ctxOf q) ⟨q, x.seq⟩) ((s2.queue q).recordAt y.seq)
      (statusRecord y.seq y.status y.opcode y.detail y.tag y.countsWord)).go s2 = (.ok ls, t)) :
    s.writeRecord q x = t.recordDone q y := by
  subst hy
  rcases hd with ⟨hslot, rfl⟩ | ⟨i, hslot, rfl⟩
  · simp only [State.writeRecord, hv, hslot, hw]
  · simp only [State.writeRecord, hv, hslot, hw]

theorem statusRecordWrite_ended {q : QueueId} (hs : s.serving = true) (hn : (s.settle.queue q.val).nextRecord = some x)
    (hx : s.settle.job? ⟨q.val, x.seq⟩ = some x) (ho : x.opcode ≠ 0x32) (hp : x.phase = .done) :
    exec (.statusRecordWrite q) s = .next (s.settle.writeRecord q.val x) := by
  show execStatusRecordWrite q s = _
  simp only [execStatusRecordWrite, hs, hn, State.endSequence_other ho, hx, hp, Bool.not_true, Bool.false_eq_true, if_false, if_true]

theorem qcmpSeqAdvance_written {q : QueueId} (hs : s.serving = true) (hx : s.job? ⟨q.val, (s.queue q.val).cmpSeq + 1⟩ = some x)
    (hp : x.phase = .written) (hv : s.makeVisible ⟨q.val, (s.queue q.val).cmpSeq + 1⟩ x = (t, true)) :
    exec (.qcmpSeqAdvance q) s = .next (t.setQueue q.val fun y =>
      { y with cmpSeq := (s.queue q.val).cmpSeq + 1, jobs := y.jobs.filter (·.seq ≠ (s.queue q.val).cmpSeq + 1) }) := by
  show execQcmpSeqAdvance q s = _
  simp only [execQcmpSeqAdvance, hx, hs, hp, hv, ne_eq, not_true_eq_false, decide_false, Bool.not_true, Bool.or_self,
    Bool.false_eq_true, if_false]

/-- Settles O13, from the two commands and from what a record says of its job. -/
theorem recordsComplete : Obligations.RecordsComplete := by
  refine ⟨?_, State.lastDetail_keeps, fun s t q x => qcmpSeqAdvance_written⟩
  rintro s _ s1 s2 t q x y ls hs rfl hn hx ho hp hv hd hy hw
  rw [statusRecordWrite_ended hs hn hx ho hp, State.writeRecord_visible hv hd hy hw]

end Sys2Proof.Machine
end

section
/-! The host's link (R321, R326, R327, R444, R491, R495): snoops, peer requests, configuration requests, and what becomes of the link. -/

namespace Sys2Proof.Machine

variable {s s0 t : State} {now : Nat}

theorem State.alive_power (h : s.alive = true) : s.pkg.powered = true ∧ s.pkg.perstN = true := by
  simp only [State.alive, Bool.and_eq_true] at h
  exact h.1.1

theorem hostSnoop_answered (ha : s.alive = true) (hl : s.cxl.linkUp = true) (hpa : Nat) :
    exec (.hostSnoop hpa) s = .next (s.emit (.rspIHitI hpa)) :=
  if_pos (by rw [ha, hl, Bool.and_self])

theorem p2pRequest_refused (ha : s.alive = true) (hl : s.cxl.linkUp = true)
    (ht : t = { s with cxl := { s.cxl with ctr := { s.cxl.ctr with p2pRejected := s.cxl.ctr.p2pRejected + 1 } } }) (isWrite : Bool) :
    exec (.p2pRequest isWrite) s = .next (if isWrite = true then t else t.unsupported) := by
  subst ht
  exact if_neg (by simp only [ha, hl, Bool.and_self, Bool.not_true, Bool.false_eq_true, not_false_eq_true])

/-! ### Configuration requests (R491, R495) -/

/-- A configuration write changes the link's registers and, where page requests are enabled, what stopped them. -/
theorem State.cfgWrite_only (s : State) (reg : CfgReg) (v : Word) :
    ∃ c x, s.cfgWrite reg v = { s with cxl := c, xlat := x } := by
  cases reg
  case hdmBase | aerStatus =>
    unfold State.cfgWrite
    dsimp only
    split
    · exact ⟨_, _, rfl⟩
    · exact ⟨_, _, rfl⟩
  all_goals exact ⟨_, _, rfl⟩

@[simp] theorem State.cfgWrite_alive (s : State) (reg : CfgReg) (v : Word) : (s.cfgWrite reg v).alive = s.alive := by
  obtain ⟨c, x, h⟩ := s.cfgWrite_only reg v
  rw [h]
  rfl

theorem State.cfgWrite_hdmBase (s : State) (v : Word) : (s.cfgWrite .hdmBase v).cxl.hdmBase =
    if s.cxl.hdmCommitted = true then s.cxl.hdmBase else v.toNat / 2 ^ 28 * 2 ^ 28 :=
  apply_ite (fun u : State => u.cxl.hdmBase) ..

theorem configRequest_answered (hp : s.pkg.powered = true) (hn : s.pkg.perstN = true) (hl : s.cxl.linkUp = true) (reg : CfgReg) :
    exec (.configRequest reg none) s = .next (s.emit (.cfgData (s.cfgRead reg))) ∧
    ∀ v : Word, exec (.configRequest reg (some v)) s =
      .next (if s.alive = true then (s.cfgWrite reg v).wakePage else s.cfgWrite reg v) := by
  have hon : ¬(!(s.pkg.powered && s.pkg.perstN && s.cxl.linkUp)) = true := by simp [hp, hn, hl]
  refine ⟨if_neg hon, fun v => (if_neg hon).trans ?_⟩
  dsimp only
  rw [s.cfgWrite_alive]

/-! ### The link's recovery and loss (R327, R444) -/

theorem linkRecovery_counted {width rate : Nat} (h0 : s0 = s.advanceTo now) (ha : s0.alive = true) (hl : s0.cxl.linkUp = true)
    (hw : width = 4 ∨ width = 8 ∨ width = 16) (hr : rate = 1 ∨ rate = 2)
    (ht : t = { s0 with cxl := { s0.cxl with
      width := width, rate := rate, ctr := { s0.cxl.ctr with linkRecoveries := s0.cxl.ctr.linkRecoveries + 1 } } }) :
    exec (.linkRecovery now width rate) s = .next (if width = s0.cxl.width ∧ rate = s0.cxl.rate then t
      else t.recordEvent { code := 0x40, payload := leBytes 4 (width + rate * 32) }) := by
  have hlink : ((decide (width = 4) || decide (width = 8) || decide (width = 16)) && (decide (rate = 1) || decide (rate = 2))) = true := by
    simpa only [Bool.and_eq_true, Bool.or_eq_true, decide_eq_true_eq, or_assoc] using And.intro hw hr
  subst ht
  show execLinkRecovery now width rate s = _
  rw [execLinkRecovery, ← h0]
  rw [if_neg (by simp only [ha, hl, Bool.and_self, Bool.not_true, Bool.false_eq_true, not_false_eq_true]),
    if_neg (by rw [hlink]; decide)]
  by_cases hsame : width = s0.cxl.width ∧ rate = s0.cxl.rate
  · rw [if_pos hsame]
    exact congrArg Host.Outcome.next (if_neg (by simp [hsame]))
  · rw [if_neg hsame]
    exact congrArg Host.Outcome.next (if_pos (by simpa [imp_iff_not_or] using hsame))

theorem linkLost_fatal (h0 : s0 = s.advanceTo now) (ha : s0.alive = true) (hl : s0.cxl.linkUp = true) :
    exec (.linkLost now) s = .next { s0 with
      cxl := { s0.cxl with linkUp := false, width := 0, rate := 0 }
      err := { s0.err with fatal := some (5, none), fatalAt := (s0.pkg.elapsed, s0.pkg.seamCount), causesSeen := 2 ^ 5 } } := by
  obtain ⟨hp, hn⟩ := State.alive_power ha
  show execLinkLost now s = _
  rw [execLinkLost, ← h0]
  exact (if_neg (by simp [hp, hn, hl])).trans (congrArg Host.Outcome.next (State.raiseFatal_of_alive (by exact ha) 5 none))

/-- Settles O39, from one lemma for each command and for what a configuration write leaves. -/
theorem hostLink : Obligations.HostLink := by
  refine ⟨fun s hpa ha hl => hostSnoop_answered ha hl hpa,
    fun s t ha hl ht => ⟨p2pRequest_refused ha hl ht false, p2pRequest_refused ha hl ht true⟩,
    fun s reg hp hn hl => configRequest_answered hp hn hl reg,
    fun s v => ⟨rfl, rfl, s.cfgWrite_hdmBase v, rfl, rfl, fun r => ⟨rfl, rfl, ?_⟩⟩,
    fun s s0 t now width rate => linkRecovery_counted, fun s s0 now => linkLost_fatal⟩
  obtain ⟨c, x, h⟩ := s.cfgWrite_only r v
  rw [h]
  exact ⟨rfl, rfl⟩

end Sys2Proof.Machine
end

section
/-! The host's answers (R328, R329, R348 to R352): translations, page responses and their timeout, data of host reads, and the global
observation of writes. -/

namespace Sys2Proof.Machine

variable {s s0 d t : State} {now id rid c : Nat} {r : HostReq} {j : JobRef} {b : Bulk}

/-! ### Translations (R348, R349) -/

section Translations

variable {hpa size : Nat} (ha : s.alive = true) (hf : s.xlat.reqs.find? (fun r => r.id == id && r.kind = .ats) = some r)
  (hr : r.abandoned = false)
include ha hf hr

/-- A translation for a bulk job is held for it, and its window goes on. -/
theorem State.atsAnswer_held (ho : r.owner = .job j) (hb : ((s.dropReq id).job? j).bind (·.bulk) = some b) (hi : b.inter = false) :
    s.atsAnswer id (.ok hpa size) = ((({ s.dropReq id with xlat := { (s.dropReq id).xlat with
      held := (s.dropReq id).xlat.held ++
        [({ owner := some j, pasid := r.pasid, iova := r.iova / size * size, size := size, hpa := hpa } : Translation)] } }).setBulk j
        (Bulk.translated (r.iova / size * size) size)).bulkRun j bulkFuel) := by
  simp only [State.atsAnswer, hf, ha, hr, ho, hb, hi, Option.map_some, Option.getD_some, Bool.not_true, Bool.false_eq_true, if_false]

/-- A translation for an interactive transfer of a job enters the ATC. -/
theorem State.atsAnswer_inter (ho : r.owner = .job j) (hb : ((s.dropReq id).job? j).bind (·.bulk) = some b) (hi : b.inter = true) :
    s.atsAnswer id (.ok hpa size) = ((({ s.dropReq id with
      xlat := (s.dropReq id).xlat.atcAdd
        { owner := none, pasid := r.pasid, iova := r.iova / size * size, size := size, hpa := hpa } }).setBulk j
        fun b => { b with req := none, granted := false }).bulkRun j bulkFuel) := by
  simp only [State.atsAnswer, hf, ha, hr, ho, hb, hi, Option.map_some, Option.getD_some, Bool.not_true, Bool.false_eq_true, if_false,
    if_true]

/-- A translation for a cluster enters the ATC. -/
theorem State.atsAnswer_cluster (ho : r.owner = .dma c) : s.atsAnswer id (.ok hpa size) = { s.dropReq id with
    xlat := (s.dropReq id).xlat.atcAdd { owner := none, pasid := r.pasid, iova := r.iova / size * size, size := size, hpa := hpa } } := by
  simp only [State.atsAnswer, hf, ha, hr, ho, Bool.not_true, Bool.false_eq_true, if_false]

end Translations

/-- A part translated again leaves the window as it stands (R354). -/
theorem Bulk.translated_again (h : b.redo = true) (base size : Nat) :
    b.translated base size = { b with req := none, granted := false, redo := false } :=
  if_pos h

theorem Bulk.translated_next {base size n : Nat} (hn : n = min b.len (base + size - b.iova)) (h : b.redo = false) :
    b.translated base size = { b with
      req := none, granted := false, window := b.window + 1, iova := b.iova + n, len := b.len - n
      room := if n = b.len || 1024 ≤ b.window + 1 then 0 else b.room - 1 } := by
  subst hn
  exact if_neg (by rw [h]; exact Bool.false_ne_true)

/-! ### Page requests (R350, R351) -/

section PageResponses

variable (ha : s.alive = true) (hf : s.xlat.reqs.find? (fun r => r.id == id && r.kind = .page && r.len = 1) = some r)
include ha hf

theorem pageResponse_abandoned (hr : r.abandoned = true) (a : PriAnswer) : exec (.pageResponse id a) s = .next
    (({ s with xlat := { s.xlat with priFailed := s.xlat.priFailed || decide (a = PriAnswer.responseFailure) } }).dropReq id).wakePage := by
  show execPageResponse id a s = _
  simp only [execPageResponse, hf, ha, hr, Bool.not_true, Bool.false_eq_true, if_false, if_true]

variable (hr : r.abandoned = false) (hd : d = (s.dropReq id).resumeWaits r.owner)
include hr hd

theorem pageResponse_granted_job (ho : r.owner = .job j) (ht : d.sendAts r.owner r.pasid r.iova r.isWrite = (t, rid)) :
    exec (.pageResponse id .success) s = .next (t.setBulk j fun b => { b with req := some rid, granted := true }).wakePage := by
  subst hd
  rw [ho] at ht
  show execPageResponse id .success s = _
  simp only [execPageResponse, hf, ha, hr, ho, ht, Bool.not_true, Bool.false_eq_true, if_false]

theorem pageResponse_granted_cluster (ho : r.owner = .dma c) (ht : d.sendAts r.owner r.pasid r.iova r.isWrite = (t, rid)) :
    exec (.pageResponse id .success) s = .next ({ t with xlat := { t.xlat with
      reqs := t.xlat.reqs.map fun (x : HostReq) => if x.id = rid then { x with len := 1 } else x } }).wakePage := by
  subst hd
  rw [ho] at ht
  show execPageResponse id .success s = _
  simp only [execPageResponse, hf, ha, hr, ho, ht, Bool.not_true, Bool.false_eq_true, if_false]

theorem pageResponse_invalid :
    exec (.pageResponse id .invalidRequest) s = .next (d.pageFault r.owner r.pasid r.iova 3).wakePage := by
  subst hd
  show execPageResponse id .invalidRequest s = _
  simp only [execPageResponse, hf, ha, hr, Bool.not_true, Bool.false_eq_true, if_false]

theorem pageResponse_failure : exec (.pageResponse id .responseFailure) s = .next
    (({ d with xlat := { d.xlat with priFailed := true } }).pageFault r.owner r.pasid r.iova 4).wakePage := by
  subst hd
  show execPageResponse id .responseFailure s = _
  simp only [execPageResponse, hf, ha, hr, Bool.not_true, Bool.false_eq_true, if_false]

end PageResponses

/-- What 100 ms without a response leave of a page request: one that was sent is remembered, since its response may still come. -/
def State.givenUp (s : State) (id len : Nat) : State :=
  if len = 0 then s.dropReq id
  else { s with xlat := { s.xlat with reqs := s.xlat.reqs.map fun (x : HostReq) =>
    if x.id = id then { x with abandoned := true, forsaken := true } else x } }

theorem priTimeout_late (h0 : s0 = s.advanceTo now) (ha : s0.alive = true)
    (hf : s0.xlat.reqs.find? (fun r => r.id == id && r.kind = .page) = some r) (hr : r.abandoned = false)
    (hl : 10000000 ≤ s0.now - r.since) :
    exec (.priTimeout now id) s = .next ((s0.givenUp id r.len).pageFault r.owner r.pasid r.iova 5).wakePage := by
  have htime : ¬s0.now - r.since < 100 * Config.ms := Nat.not_lt.mpr hl
  show execPriTimeout now id s = _
  simp only [execPriTimeout, ← h0, hf, ha, hr, htime, Bool.not_true, decide_false, Bool.or_self, Bool.false_eq_true, if_false]
  rfl

/-! ### Data of host reads (R329, R348) -/

section Reads

variable {back : LineBack} (h0 : s0 = s.advanceTo now) (ha : s0.alive = true)
  (hf : s0.xlat.reqs.find? (fun r => r.id == id && (r.kind = .read || r.kind = .zero)) = some r)
include h0 ha hf

theorem hostReadCompletion_read (hk : r.kind = .read) : exec (.hostReadCompletion now id back) s = .next
    (if r.inter && back.poison then (s0.dropReq id).hostPoison r else (s0.dropReq id).readBack r back.data).bulkPoke.settle := by
  show execHostReadCompletion now id back s = _
  simp only [execHostReadCompletion, ← h0, hf, ha, hk, Bool.not_true, Bool.false_eq_true, if_false]

/-- The zero-length read behind bulk writes has come back. -/
theorem hostReadCompletion_zero (hk : r.kind = .zero) (ho : r.owner = .job j) : exec (.hostReadCompletion now id back) s = .next
    ((s0.dropReq id).setJob j fun x => { x with lastWrite := none, zeroRead := none }).bulkPoke.settle := by
  show execHostReadCompletion now id back s = _
  simp only [execHostReadCompletion, ← h0, hf, ha, hk, ho, Bool.not_true, Bool.false_eq_true, if_false]

end Reads

/-! ### Observed writes (R328, R329) -/

theorem globalObservation_clears (ha : s.alive = true)
    (hf : s.xlat.reqs.find? (fun r => r.id == id && r.kind = .write) = some r)
    (ht : t = { s with queues := s.queues.map fun q => { q with jobs := q.jobs.map fun x =>
      { x with observe := x.observe.filter (· ≠ id) } } }) :
    exec (.globalObservation id) s = .next ((t.dropReq id).closeWaits fun w => w.owner == r.owner && w.addr == r.iova) := by
  subst ht
  show execGlobalObservation id s = _
  simp only [execGlobalObservation, hf, ha, Bool.not_true, Bool.false_eq_true, if_false]

/-- Settles O40, from one lemma for each answer of the host and each owner of its request. -/
theorem hostAnswers : Obligations.HostAnswers := by
  refine ⟨fun s id a => rfl, ?_, fun b base size n hn => ⟨fun h => b.translated_again h base size, Bulk.translated_next hn⟩,
    fun s id hpa size c r => State.atsAnswer_cluster, fun s t id r j rid ha hf hr => pageResponse_granted_job ha hf hr rfl,
    fun s t id r c rid ha hf hr => pageResponse_granted_cluster ha hf hr rfl,
    fun s d id r ha hf hr hd => ⟨pageResponse_invalid ha hf hr hd, pageResponse_failure ha hf hr hd⟩,
    fun s id r a ha hf hr => pageResponse_abandoned ha hf hr a, ?_, ?_,
    fun s s0 now id b r j => hostReadCompletion_zero, fun s t id r => globalObservation_clears⟩
  · rintro s _ id hpa size _ r j b ha rfl hf hr ho hb rfl
    exact ⟨State.atsAnswer_held ha hf hr ho hb, State.atsAnswer_inter ha hf hr ho hb⟩
  · intro s s0 now id r h0 ha hf hr hl
    rw [priTimeout_late h0 ha hf hr hl]
    exact ⟨fun hlen => by rw [State.givenUp, if_pos hlen], fun hlen => by rw [State.givenUp, if_neg hlen]⟩
  · intro s s0 now id b r h0 ha hf hk
    rw [hostReadCompletion_read h0 ha hf hk]
    refine ⟨fun h => ?_, fun hi hp => by rw [hi, hp]; rfl⟩
    have hclean : (r.inter && b.poison) = false := Bool.and_eq_false_iff.mpr h
    rw [hclean, if_neg Bool.false_ne_true]

end Sys2Proof.Machine
end

section
/-! What no command touches: the fuses and the queue of waiting commands (R460, R463, R492). -/

namespace Sys2Proof.Machine

/-- The queue of waiting commands and the fuses. -/
abbrev Fixed := List Instr × Fuses

/-- The part of a state that no command touches. -/
def State.fixed (s : State) : Fixed := (s.pending, s.fuses)

@[simp] theorem State.fixed_fold (s : State) : (s.pending, s.fuses) = s.fixed := by rfl

@[simp] theorem State.mk_fixed (pkg boot recorder mram fuses sec regs cxl xlat queues ctxs seqs model tabs lookups strag upd slots cls
    tiers hbm fab dim err regions oes power sched tap i3c out pending) :
    State.fixed ⟨pkg, boot, recorder, mram, fuses, sec, regs, cxl, xlat, queues, ctxs, seqs, model, tabs, lookups, strag, upd, slots, cls,
      tiers, hbm, fab, dim, err, regions, oes, power, sched, tap, i3c, out, pending⟩ = (pending, fuses) := by rfl

@[simp] theorem ite_fixed (c : Prop) [Decidable c] (s t : State) : (if c then s else t).fixed = if c then s.fixed else t.fixed :=
  apply_ite State.fixed c s t

@[simp] theorem foldl_fixed {α : Type} {f : State → α → State} (h : ∀ t a, (f t a).fixed = t.fixed) (l : List α) (s : State) :
    (l.foldl f s).fixed = s.fixed := by
  induction l generalizing s with
  | nil => rfl
  | cons a l ih => exact (ih _).trans (h s a)

/-- A loop that carries a value beside the state. -/
@[simp] theorem foldl_fst_fixed {α β : Type} {f : State × β → α → State × β} (h : ∀ b a, (f b a).1.fixed = b.1.fixed) (l : List α)
    (b : State × β) : (l.foldl f b).1.fixed = b.1.fixed :=
  List.foldlRecOn (motive := fun c : State × β => c.1.fixed = b.1.fixed) l f rfl fun c hc a _ => (h c a).trans hc

/-- The state of a pair that a match has taken apart. -/
theorem fst_fixed {β : Type} {p : State × β} {t : State} {b : β} (h : p = (t, b)) : t.fixed = p.1.fixed := by
  rw [h]

/-- A program over the state that keeps `f` as queue and fuses, however it ends. -/
structure Still (f : Fixed) {ε α : Type} (m : ExceptT ε (StateM State) α) : Prop where
  run : ∀ s : State, s.fixed = f → ((ExceptT.run m).run s).2.fixed = f

section Still

variable {f : Fixed} {ε α β : Type} {m : ExceptT ε (StateM State) α} {k : α → ExceptT ε (StateM State) β}

theorem Still.of_run (hm : Still f m) {s t : State} {r : Except ε α} (hs : s.fixed = f) (h : (ExceptT.run m).run s = (r, t)) : t.fixed = f := by
  have ht := hm.run s hs
  rwa [h] at ht

theorem Still.of_go {m : Acc α} {s t : State} {r : Except AccFail α} (hm : Still s.fixed m) (h : m.go s = (r, t)) : t.fixed = s.fixed :=
  hm.of_run rfl h

@[simp] theorem still_pure (a : α) : Still f (pure a : ExceptT ε (StateM State) α) := ⟨fun _ hs => hs⟩
@[simp] theorem still_throw (e : ε) : Still f (throw e : ExceptT ε (StateM State) α) := ⟨fun _ hs => hs⟩
@[simp] theorem Still.set {s : State} (h : s.fixed = f) : Still f (set s : ExceptT ε (StateM State) PUnit) := ⟨fun _ _ => h⟩
@[simp] theorem Still.modify {g : State → State} (h : ∀ s, (g s).fixed = s.fixed) : Still f (modify g : ExceptT ε (StateM State) PUnit) :=
  ⟨fun s hs => (h s).trans hs⟩

@[simp] theorem Still.bind (hm : Still f m) (hk : ∀ a, Still f (k a)) : Still f (m >>= k) := by
  refine ⟨fun s hs => ?_⟩
  rw [ExceptT.run_bind, StateT.run_bind]
  rcases h : (ExceptT.run m).run s with ⟨e | a, t⟩
  · exact hm.of_run hs h
  · exact (hk a).run t (hm.of_run hs h)

/-- A state that has been read holds the same. -/
@[simp high] theorem Still.getBind {k : State → ExceptT ε (StateM State) β} (hk : ∀ s, s.fixed = f → Still f (k s)) : Still f (get >>= k) :=
  ⟨fun s hs => (hk s hs).run s hs⟩

@[simp] theorem still_map {g : α → β} : Still f (g <$> m) ↔ Still f m := by
  have hrun : ∀ s, ((ExceptT.run (g <$> m)).run s).2 = ((ExceptT.run m).run s).2 := fun s => by
    rw [map_eq_pure_bind, ExceptT.run_bind, StateT.run_bind]
    rcases (ExceptT.run m).run s with ⟨e | a, t⟩ <;> rfl
  exact ⟨fun h => ⟨fun s hs => hrun s ▸ h.run s hs⟩, fun h => ⟨fun s hs => (hrun s).symm ▸ h.run s hs⟩⟩

@[simp] theorem Still.tryCatch {h : ε → ExceptT ε (StateM State) α} (hm : Still f m) (hh : ∀ e, Still f (h e)) : Still f (tryCatch m h) := by
  refine ⟨fun s hs => ?_⟩
  rw [ExceptT.run_tryCatch, StateT.run_bind]
  rcases hr : (ExceptT.run m).run s with ⟨e | a, t⟩
  · exact (hh e).run t (hm.of_run hs hr)
  · exact hm.of_run hs hr

@[simp] theorem Still.forIn {γ : Type} {g : γ → β → ExceptT ε (StateM State) (ForInStep β)} (hg : ∀ x b, Still f (g x b)) (l : List γ)
    (b : β) : Still f (forIn l b g) := by
  induction l generalizing b with
  | nil => exact still_pure b
  | cons x l ih =>
    rw [List.forIn_cons]
    refine (hg x b).bind fun r => ?_
    cases r with
    | done c => exact still_pure c
    | yield c => exact ih c

@[simp] theorem Still.foldlM {γ : Type} {g : β → γ → ExceptT ε (StateM State) β} (hg : ∀ b x, Still f (g b x)) (l : List γ) (b : β) :
    Still f (l.foldlM g b) := by
  induction l generalizing b with
  | nil => exact still_pure b
  | cons x l ih => exact (hg b x).bind fun c => ih c

@[simp] theorem Still.mapM {γ : Type} {g : γ → ExceptT ε (StateM State) β} (hg : ∀ x, Still f (g x)) (l : List γ) : Still f (l.mapM g) := by
  induction l with
  | nil => exact still_pure []
  | cons x l ih =>
    rw [List.mapM_cons]
    exact (hg x).bind fun _ => ih.bind fun _ => still_pure _

@[simp] theorem Still.filterM {γ : Type} {g : γ → ExceptT ε (StateM State) Bool} (hg : ∀ x, Still f (g x)) (l : List γ) :
    Still f (l.filterM g) := by
  have hgo : ∀ acc, Still f (l.filterAuxM g acc) := by
    induction l with
    | nil => exact fun acc => still_pure acc
    | cons x l ih => exact fun acc => (hg x).bind fun b => ih _
  exact (hgo []).bind fun _ => still_pure _

@[simp] theorem Still.forM {γ : Type} {g : γ → ExceptT ε (StateM State) PUnit} (hg : ∀ x, Still f (g x)) (l : List γ) :
    Still f (l.forM g) := by
  induction l with
  | nil => exact still_pure _
  | cons x l ih => exact (hg x).bind fun _ => ih

@[simp] theorem still_ite (c : Prop) [Decidable c] (m m' : ExceptT ε (StateM State) α) :
    Still f (if c then m else m') ↔ if c then Still f m else Still f m' := by
  split <;> rfl

end Still

/-- A next state, if there is one, holds what `s` holds. -/
structure Stays (s : State) (o : Host.Outcome State Fault Refusal) : Prop where
  next : ∀ t, o = .next t → t.fixed = s.fixed

@[simp] theorem stays_next (s t : State) : Stays s (.next t) ↔ t.fixed = s.fixed :=
  ⟨fun h => h.next t rfl, fun h => ⟨fun u hu => by cases hu; exact h⟩⟩
@[simp] theorem stays_ite (s : State) (c : Prop) [Decidable c] (o o' : Host.Outcome State Fault Refusal) :
    Stays s (if c then o else o') ↔ if c then Stays s o else Stays s o' := by
  split <;> rfl

theorem Stays.trans {s t : State} {o : Host.Outcome State Fault Refusal} (h : Stays t o) (ht : t.fixed = s.fixed) : Stays s o :=
  ⟨fun u hu => (h.next u hu).trans ht⟩

/-! ### Through the event recorder and the fatal state -/

@[simp] theorem State.raiseFatal_fixed (s : State) (cause frec) : (s.raiseFatal cause frec).fixed = s.fixed := by
  unfold State.raiseFatal
  (repeat' split) <;> simp

@[simp] theorem State.recorderWrite_fixed (s : State) (f) : (s.recorderWrite f).fixed = s.fixed := by simp [State.recorderWrite]
@[simp] theorem State.writeSlotAt_fixed (s : State) (i e) : (s.writeSlotAt i e).fixed = s.fixed := by simp [State.writeSlotAt]

@[simp] theorem State.checkTorn_fixed (s : State) : s.checkTorn.fixed = s.fixed := by
  unfold State.checkTorn
  dsimp only
  (repeat' split) <;> simp

@[simp] theorem State.recordEvent_fixed (s : State) (e) : (s.recordEvent e).fixed = s.fixed := by simp [State.recordEvent]

@[simp] theorem State.recordPort_fixed (s : State) (port old new lanes) : (s.recordPort port old new lanes).fixed = s.fixed := by
  unfold State.recordPort
  (repeat' split) <;> simp

/-! ### Through accesses: granules, lines, page walks, frames, and the bytes at a DPA or a DVA -/

@[simp] theorem State.setQueue_fixed (s : State) (q f) : (s.setQueue q f).fixed = s.fixed := by simp [State.setQueue]
@[simp] theorem State.setCtx_fixed (s : State) (c f) : (s.setCtx c f).fixed = s.fixed := by simp [State.setCtx]
@[simp] theorem State.setSlot_fixed (s : State) (i f) : (s.setSlot i f).fixed = s.fixed := by simp [State.setSlot]
@[simp] theorem State.upset_fixed (s : State) (c) : (s.upset c).fixed = s.fixed := by simp [State.upset]
@[simp] theorem State.setCl_fixed (s : State) (c f) : (s.setCl c f).fixed = s.fixed := by simp [State.setCl]
@[simp] theorem State.progressOf_fixed (s : State) (i) : (s.progressOf i).fixed = s.fixed := by simp [State.progressOf]
@[simp] theorem State.setStack_fixed (s : State) (r f) : (s.setStack r f).fixed = s.fixed := by simp [State.setStack]
@[simp] theorem State.setPort_fixed (s : State) (p f) : (s.setPort p f).fixed = s.fixed := by simp [State.setPort]
@[simp] theorem State.emit_fixed (s : State) (o) : (s.emit o).fixed = s.fixed := by simp [State.emit]
@[simp] theorem State.cpActs_fixed (s : State) : s.cpActs.fixed = s.fixed := by simp [State.cpActs]
@[simp] theorem State.setRegion_fixed (s : State) (r f) : (s.setRegion r f).fixed = s.fixed := by simp [State.setRegion]
@[simp] theorem State.atWork_fixed (s : State) (r) : (s.atWork r).fixed = s.fixed := by simp [State.atWork]
@[simp] theorem State.setJob_fixed (s : State) (j f) : (s.setJob j f).fixed = s.fixed := by simp [State.setJob]

@[simp] theorem State.finishJob_fixed (s : State) (j status detail counts) :
    (s.finishJob j status detail counts).fixed = s.fixed := by simp [State.finishJob]

@[simp] theorem State.abortJob_fixed (s : State) (j detail) : (s.abortJob j detail).fixed = s.fixed := by simp [State.abortJob]

@[simp] theorem State.halt_fixed (s : State) (d) : (s.halt d).fixed = s.fixed := by
  unfold State.halt
  (repeat' split) <;> simp

@[simp] theorem State.pendError_fixed (s : State) (d) : (s.pendError d).fixed = s.fixed := by simp [State.pendError]
@[simp] theorem State.detect_fixed (s : State) (d) : (s.detect d).fixed = s.fixed := by simp [State.detect]
@[simp] theorem State.sendSnoop_fixed (s : State) (line inv) : (s.sendSnoop line inv).fixed = s.fixed := by simp [State.sendSnoop]

@[simp] theorem State.accError_fixed (s : State) (ag f) : (s.accError ag f).fixed = s.fixed := by
  unfold State.accError
  (repeat' split) <;> simp

@[simp] theorem forgive_still {f : Fixed} {α : Type} (ag : Agent) (a : α) {m : Acc α} (hm : Still f m) : Still f (forgive ag a m) := by
  refine hm.tryCatch fun e => ?_
  split <;> simp

@[simp] theorem State.reach_fixed (s : State) (g) : (s.reach g).fixed = s.fixed := by
  unfold State.reach
  dsimp only
  (repeat' split) <;> simp

@[simp] theorem State.admitGran_fixed (s : State) (unit g) : (s.admitGran unit g).fixed = s.fixed := by
  unfold State.admitGran
  dsimp only
  (repeat' split) <;> simp

@[simp] theorem State.putStack_fixed (s : State) (unit g data) : (s.putStack unit g data).fixed = s.fixed := by
  simp [State.putStack]

@[simp] theorem evictLine_fixed (s : State) (e) : (evictLine s e).fixed = s.fixed := by
  unfold evictLine
  (repeat' split) <;> simp

/-- Room is made by entries that leave. -/
theorem makeRoom_fixed {s t : State} {r n fuel : Nat} (ht : makeRoom s r n fuel = some t) : t.fixed = s.fixed := by
  induction fuel generalizing s with
  | zero =>
    obtain ⟨-, hst⟩ := Option.ite_none_right_eq_some.mp ht
    rw [Option.some.inj hst]
  | succ fuel ih =>
    rw [makeRoom] at ht
    split at ht
    · rw [Option.some.inj ht]
    · split at ht
      · cases ht
      · simpa using ih ht

@[simp] theorem allocLine_fixed (s : State) (b hint) : (allocLine s b hint).fixed = s.fixed := by
  unfold allocLine
  split
  · rfl
  · rename_i t hroom
    exact (makeRoom_fixed hroom : t.fixed = s.fixed)

@[simp] theorem useLine_fixed (s : State) (b read) : (useLine s b read).fixed = s.fixed := by
  unfold useLine
  (repeat' split) <;> simp

@[simp] theorem releaseLines_fixed (s : State) (blocks) : (releaseLines s blocks).fixed = s.fixed := by simp [releaseLines]
@[simp] theorem State.corrected_fixed (s : State) (ag dpa n) : (s.corrected ag dpa n).fixed = s.fixed := by simp [State.corrected]
@[simp] theorem State.strike_fixed (s : State) (ecc) : (s.strike ecc).fixed = s.fixed := by simp [State.strike]

@[simp] theorem fetchGran_still {f : Fixed} (ag g) : Still f (fetchGran ag g) := by
  refine .getBind fun s hs => ?_
  split
  · exact still_pure _
  · dsimp only
    (repeat' split) <;> simp [hs]

@[simp] theorem readGran_still {f : Fixed} (ag g) : Still f (readGran ag g) := by simp [readGran]

@[simp] theorem meetHost_still {f : Fixed} (ag line write) : Still f (meetHost ag line write) := by
  refine .getBind fun s _ => ?_
  (repeat' split) <;> simp

@[simp] theorem readDpa_still {f : Fixed} (ag dpa len hint) : Still f (readDpa ag dpa len hint) := by
  refine Still.bind (.mapM (fun g => (meetHost_still ..).bind fun _ => ?_) _) fun parts => by simp [useLine_fixed]
  split
  · exact readGran_still ag g
  · refine .getBind fun s hs => ?_
    dsimp only
    split
    · exact (Still.set (by simp [hs])).bind fun _ => by simp
    · simp

@[simp] theorem writeGran_still {f : Fixed} (ag g off bs hint) : Still f (writeGran ag g off bs hint) := by
  have hmerge (k : List Byte → Acc Unit) (hk : ∀ old, Still f (k old)) :
      Still f (if bs.length = 64 then pure [] >>= k else fetchGran ag g >>= k) := by
    split <;> simp [hk]
  refine (meetHost_still ..).bind fun _ => (Still.modify fun s => by simp).bind fun _ => .getBind fun s hs => ?_
  dsimp only
  split
  · simp [hs]
  · split
    · exact hmerge _ fun old => (Still.modify fun t => by split <;> simp).bind fun _ => .modify fun t => by split <;> simp
    · split
      · simp [hs]
      · exact hmerge _ fun old => by simp

@[simp] theorem writeDpa_still {f : Fixed} (ag dpa bs hint) : Still f (writeDpa ag dpa bs hint) :=
  .getBind fun s _ => (Still.forIn (fun g _ => (writeGran_still ..).bind fun _ => still_pure _) _ _).bind fun _ => by simp

@[simp] theorem State.wrecked_fixed (s : State) (scope) : (s.wrecked scope).fixed = s.fixed := by
  unfold State.wrecked
  dsimp only
  (repeat' split) <;> simp

@[simp] theorem walk_still {f : Fixed} (ag dva level table) : Still f (walk ag dva level table) := by
  induction level generalizing table with
  | zero =>
    unfold walk
    dsimp only
    split
    · exact still_throw _
    · exact (readDpa_still ..).bind fun _ => (Still.modify fun s => by rfl).bind fun _ => by simp
  | succ level ih =>
    unfold walk
    dsimp only
    split
    · exact still_throw _
    · exact (readDpa_still ..).bind fun _ => (Still.modify fun s => by rfl).bind fun _ => by simp [ih]

@[simp] theorem State.tlbFill_fixed (s : State) (t e) : (s.tlbFill t e).fixed = s.fixed := by
  unfold State.tlbFill
  (repeat' split) <;> simp

@[simp] theorem resolve_still {f : Fixed} (ag dva write) : Still f (resolve ag dva write) := by
  unfold resolve
  dsimp only
  split
  · exact still_throw _
  · refine Still.getBind fun s _ => ?_
    split
    · split <;> simp
    · split
      · split <;> simp
      · refine (Still.modify fun s => by rfl).bind fun _ => (walk_still ..).bind fun le => ?_
        split
        · exact still_throw _
        · split
          · exact still_throw _
          · exact (Still.modify fun s => s.tlbFill_fixed ..).bind fun _ => still_pure _

@[simp] theorem State.poisonPage_fixed (s : State) (lender lease page) :
    (s.poisonPage lender lease page).fixed = s.fixed := by simp [State.poisonPage]

@[simp] theorem touchFrame_still {f : Fixed} (ag b page dva ks) : Still f (touchFrame ag b page dva ks) := by
  refine .getBind fun s _ => .bind (.forIn (fun g _ => .bind (.tryCatch (by simp) fun e => ?_) (by simp)) _ _) (by simp)
  split
  · refine (Still.modify fun t => by simp).bind fun _ => .getBind fun t _ => ?_
    (repeat' split) <;> simp
  · exact still_throw _

@[simp] theorem readFrame_still {f : Fixed} (ag b off n dva) : Still f (readFrame ag b off n dva) := by
  unfold readFrame
  dsimp only
  split
  · exact still_throw _
  · refine Still.getBind fun s _ => ?_
    split <;> simp

@[simp] theorem State.overwrite_fixed (s : State) (g whole) : (s.overwrite g whole).fixed = s.fixed := by simp [State.overwrite]
@[simp] theorem State.putFrame_fixed (s : State) (b page lo n) : (s.putFrame b page lo n).fixed = s.fixed := by simp [State.putFrame]

@[simp] theorem useFrame_fixed (s : State) (b page read) : (useFrame s b page read).fixed = s.fixed := by
  unfold useFrame
  (repeat' split) <;> simp

@[simp] theorem State.notePart_fixed (s : State) (p) : (s.notePart p).fixed = s.fixed := by simp [State.notePart]

@[simp] theorem notingPart_still {f : Fixed} {α : Type} (p : Partial) {m : Acc α} (hm : Still f m) : Still f (notingPart p m) := by
  refine hm.tryCatch fun f => ?_
  dsimp only
  split
  · exact (Still.modify fun s => s.notePart_fixed p).bind fun _ => still_throw _
  · exact (Still.modify fun s => s.notePart_fixed p).bind fun _ => still_throw _
  · exact still_throw _

@[simp] theorem onEngine_still {f : Fixed} (ag a) : Still f (onEngine ag a) := by simp [onEngine]

@[simp] theorem readPiece_still {f : Fixed} (ag a n hint) : Still f (readPiece ag a n hint) := by
  refine (onEngine_still ag a).bind fun ag => (resolve_still ag a false).bind fun l => ?_
  split <;> simp +contextual

@[simp] theorem readPieces_still {f : Fixed} (ag dva len hint) (ps : List (Nat × Nat)) (got) : Still f (readPieces ag dva len hint ps got) := by
  induction ps generalizing got with
  | nil => exact still_pure got
  | cons p ps ih => exact (notingPart_still _ (readPiece_still ..)).bind fun bs => ih _

@[simp] theorem readDva_still {f : Fixed} (ag dva len hint) : Still f (readDva ag dva len hint) := by simp [readDva]

@[simp] theorem writeFrame_still {f : Fixed} (ag b off dva data hint) : Still f (writeFrame ag b off dva data hint) := by
  refine .getBind fun s hs => ?_
  dsimp only
  split
  · exact still_throw _
  · split
    · exact still_throw _
    · exact (touchFrame_still ..).bind fun _ => (Still.modify fun t => by simp).bind fun _ => by simp
    · split <;> simp [hs]

@[simp] theorem State.noteLines_fixed (s : State) (ag ls) : (s.noteLines ag ls).fixed = s.fixed := by
  unfold State.noteLines
  (repeat' split) <;> simp

@[simp] theorem writePiece_still {f : Fixed} (ag a data hint) : Still f (writePiece ag a data hint) := by
  refine (onEngine_still ag a).bind fun ag => (resolve_still ag a true).bind fun l => ?_
  split <;> simp +contextual

@[simp] theorem writePieces_still {f : Fixed} (ag dva bs hint) (ps : List (Nat × Nat)) (ls) : Still f (writePieces ag dva bs hint ps ls) := by
  induction ps generalizing ls with
  | nil => exact still_pure ls
  | cons p ps ih => exact (notingPart_still _ (writePiece_still ..)).bind fun l => ih _

@[simp] theorem writeDva_still {f : Fixed} (ag dva bs hint) : Still f (writeDva ag dva bs hint) := by simp [writeDva]

@[simp] theorem State.access_fixed {α : Type} (s : State) (ag : Agent) {m : Acc α} (hm : Still s.fixed m) {k : State → α → State}
    (hk : ∀ t a, (k t a).fixed = t.fixed) :
    (s.access ag m k).fixed = s.fixed := by
  unfold State.access
  split <;> rename_i hr
  · exact (hk _ _).trans (hm.of_go hr)
  · simp
  · simpa using hm.of_go hr

/-! ### Through messages and frames of the fabric -/

@[simp] theorem State.setPeer_fixed (s : State) (dev f) : (s.setPeer dev f).fixed = s.fixed := by simp [State.setPeer]
@[simp] theorem State.sendAck_fixed (s : State) (dev a) : (s.sendAck dev a).fixed = s.fixed := by simp [State.sendAck]

@[simp] theorem State.startFrame_fixed (s : State) (port f) : (s.startFrame port f).fixed = s.fixed := by
  unfold State.startFrame
  dsimp only
  (repeat' split) <;> simp

@[simp] theorem State.runPort_fixed (s : State) (port budget fuel) : (s.runPort port budget fuel).fixed = s.fixed := by
  induction fuel generalizing s budget with
  | zero => rfl
  | succ fuel ih =>
    unfold State.runPort
    dsimp only
    (repeat' split) <;> simp [ih]

@[simp] theorem State.queueFrame_fixed (s : State) (port f) : (s.queueFrame port f).fixed = s.fixed := by simp [State.queueFrame]

@[simp] theorem State.sprayMsg_fixed (s : State) (dev update seq) : (s.sprayMsg dev update seq).fixed = s.fixed := by
  unfold State.sprayMsg
  dsimp only
  (repeat' split) <;> simp

@[simp] theorem State.retransmit_fixed (s : State) (dev update seq) : (s.retransmit dev update seq).fixed = s.fixed := by
  unfold State.retransmit
  (repeat' split) <;> simp

@[simp] theorem State.spray_fixed (s : State) (dev update) : (s.spray dev update).fixed = s.fixed := by
  unfold State.spray
  (repeat' split) <;> simp

@[simp] theorem State.sprayAll_fixed (s : State) : s.sprayAll.fixed = s.fixed := by simp [State.sprayAll]

@[simp] theorem State.sendMsg_fixed (s : State) (dev update kind body round mark) : (s.sendMsg dev update kind body round mark).fixed = s.fixed := by
  unfold State.sendMsg
  (repeat' split) <;> simp

@[simp] theorem State.sendPlain_fixed (s : State) (dev kind body) : (s.sendPlain dev kind body).fixed = s.fixed := by
  unfold State.sendPlain
  (repeat' split) <;> simp

@[simp] theorem State.resendPlain_fixed (s : State) (f) : (s.resendPlain f).fixed = s.fixed := by
  unfold State.resendPlain
  (repeat' split) <;> simp

@[simp] theorem State.returnFrames_fixed (s : State) (port) : (s.returnFrames port).fixed = s.fixed := by simp [State.returnFrames]

@[simp] theorem State.abandonMsgs_fixed (s : State) (dev) : (s.abandonMsgs dev).fixed = s.fixed := by
  unfold State.abandonMsgs
  split
  · rfl
  · refine (foldl_fixed (fun t m => ?_) _ _).trans rfl
    split <;> simp

@[simp] theorem State.ackIn_fixed (s : State) (f) : (s.ackIn f).fixed = s.fixed := by
  unfold State.ackIn
  (repeat' split) <;> simp

@[simp] theorem State.takeOwn_fixed {s t : State} {f : Frame} {kind : Nat} {body : List Byte} (h : s.takeOwn f kind body = some t) :
    t.fixed = s.fixed := by
  unfold State.takeOwn at h
  split at h
  · obtain ⟨x, -, rfl⟩ := Option.map_eq_some_iff.mp h
    rfl
  · cases h

@[simp] theorem State.fabCtr_fixed (s : State) (f) : (s.fabCtr f).fixed = s.fixed := by simp [State.fabCtr]
@[simp] theorem State.countFec_fixed (s : State) (port x) : (s.countFec port x).fixed = s.fixed := by simp [State.countFec]

@[simp] theorem State.receive_fixed (s : State) (f room) : (s.receive f room).1.fixed = s.fixed := by
  unfold State.receive
  dsimp only
  (repeat' split) <;> simp

@[simp] theorem State.receiveAny_fixed (s : State) (f kind body) : (s.receiveAny f kind body).1.fixed = s.fixed := by
  unfold State.receiveAny
  split
  · rename_i hown
    exact State.takeOwn_fixed hown
  · exact s.receive_fixed f true

@[simp] theorem State.runTest_fixed (s : State) (port budget fuel) : (s.runTest port budget fuel).fixed = s.fixed := by
  induction fuel generalizing s budget with
  | zero => rfl
  | succ fuel ih =>
    unfold State.runTest
    dsimp only
    (repeat' split) <;> simp [ih]

@[simp] theorem State.runTests_fixed (s : State) (dt) : (s.runTests dt).fixed = s.fixed := by
  unfold State.runTests
  (repeat' split) <;> simp

@[simp] theorem State.receivePlain_fixed (s : State) (f glint) : (s.receivePlain f glint).1.fixed = s.fixed := by
  unfold State.receivePlain
  dsimp only
  (repeat' split) <;> simp

/-! ### Through time -/

@[simp] theorem State.drawEnergy_fixed (s : State) (dt) : (s.drawEnergy dt).fixed = s.fixed := by simp [State.drawEnergy]
@[simp] theorem State.advance_fixed (s : State) (dt) : (s.advance dt).fixed = s.fixed := by simp [State.advance]
@[simp] theorem State.advanceTo_fixed (s : State) (now) : (s.advanceTo now).fixed = s.fixed := by simp [State.advanceTo]

/-! ### Through commands fetched and faults recorded -/

@[simp] theorem State.addJob_fixed (s : State) (q j) : (s.addJob q j).fixed = s.fixed := by simp [State.addJob]

@[simp] theorem State.expandNow_fixed (s : State) (q) : (s.expandNow q).fixed = s.fixed := by
  unfold State.expandNow
  dsimp only
  (repeat' split) <;> simp

@[simp] theorem State.takeCommand_fixed (s : State) (q ws) : (s.takeCommand q ws).fixed = s.fixed := by
  unfold State.takeCommand
  dsimp only
  (repeat' split) <;> simp

@[simp] theorem State.acceptSlot_fixed (s : State) (q ws) : (s.acceptSlot q ws).fixed = s.fixed := by simp [State.acceptSlot]
@[simp] theorem readSlot_still {f : Fixed} (x) : Still f (readSlot x) := by simp [readSlot]
@[simp] theorem execEntryFetch_stays (s : State) (q ecc) : Stays s (execEntryFetch q ecc s) := by simp [execEntryFetch]
@[simp] theorem State.staleStop_fixed (s : State) (q) : (s.staleStop q).fixed = s.fixed := by simp [State.staleStop]

@[simp] theorem execStaleReread_stays (s : State) (q now) : Stays s (execStaleReread q now s) := by
  unfold execStaleReread
  dsimp only
  (repeat' split) <;> simp

@[simp] theorem execIdleCommit_stays (s : State) (q) : Stays s (execIdleCommit q s) := by simp [execIdleCommit]
@[simp] theorem execQdbTail_stays (s : State) (q value) : Stays s (execQdbTail q value s) := by simp [execQdbTail]

@[simp] theorem State.writeFault_fixed (s : State) (r) : (s.writeFault r).1.fixed = s.fixed := by
  unfold State.writeFault
  split
  · split
    · simp
    · rename_i hr
      simpa using (writeDpa_still ..).of_go hr
  · dsimp only
    split <;> simp

@[simp] theorem execFqBaseWrite_stays (s : State) (value) : Stays s (execFqBaseWrite value s) := by simp [execFqBaseWrite]
@[simp] theorem execFqHeadWrite_stays (s : State) (value) : Stays s (execFqHeadWrite value s) := by simp [execFqHeadWrite]
@[simp] theorem State.dropTlb_fixed (s : State) (c) : (s.dropTlb c).fixed = s.fixed := by simp [State.dropTlb]
@[simp] theorem execAdminRootWrite_stays (s : State) (value) : Stays s (execAdminRootWrite value s) := by simp [execAdminRootWrite]
@[simp] theorem State.writeRing_fixed (s : State) (q f) : (s.writeRing q f).fixed = s.fixed := by simp [State.writeRing]

@[simp] theorem State.writeControl_stays (s : State) (o size v) : Stays s (s.writeControl o size v) := by
  unfold State.writeControl
  dsimp only
  (repeat' split) <;> simp

/-! ### Through jobs begun and gone on with -/

@[simp] theorem State.markStart_fixed (s : State) (j) : (s.markStart j).fixed = s.fixed := by simp [State.markStart]

@[simp] theorem State.runJob_fixed (s : State) (q mine) {start again : State → JobRef → Job → State} (hs : ∀ t j x, (start t j x).fixed = t.fixed)
    (ha : ∀ t j x, (again t j x).fixed = t.fixed) :
    (s.runJob q mine start again).fixed = s.fixed := by
  unfold State.runJob
  (repeat' split) <;> simp [hs, ha]

@[simp] theorem State.runOnce_fixed (s : State) (q mine) {start : State → JobRef → Job → State} (hs : ∀ t j x, (start t j x).fixed = t.fixed) :
    (s.runOnce q mine start).fixed = s.fixed := by simp [State.runOnce, hs]

@[simp] theorem execNop_stays (s : State) (q) : Stays s (execNop q s) := by simp [execNop]

/-! ### Through the host: its reads, writes, translations and bulk transfers -/

@[simp] theorem State.addWait_fixed (s : State) (tier o addr pasid) : (s.addWait tier o addr pasid).fixed = s.fixed := by simp [State.addWait]
@[simp] theorem State.closeWait_fixed (s : State) (w) : (s.closeWait w).fixed = s.fixed := by simp [State.closeWait]
@[simp] theorem State.closeWaits_fixed (s : State) (p) : (s.closeWaits p).fixed = s.fixed := by simp [State.closeWaits]

@[simp] theorem execStallThreshold_stays (s : State) (now wait) : Stays s (execStallThreshold now wait s) := by
  unfold execStallThreshold
  dsimp only
  (repeat' split) <;> simp

@[simp] theorem State.ownerError_fixed (s : State) (o cause status detail pasid addr) :
    (s.ownerError o cause status detail pasid addr).fixed = s.fixed := by simp [State.ownerError]

@[simp] theorem execTierStallLimit_stays (s : State) (now wait) : Stays s (execTierStallLimit now wait s) := by
  unfold execTierStallLimit
  dsimp only
  (repeat' split) <;> simp

@[simp] theorem State.filterAdd_fixed (s : State) (line excl) : (s.filterAdd line excl).fixed = s.fixed := by
  unfold State.filterAdd
  dsimp only
  (repeat' split) <;> simp

@[simp] theorem State.poisonedRead_fixed (s : State) (hpa data) : (s.poisonedRead hpa data).fixed = s.fixed := by simp [State.poisonedRead]

@[simp] theorem execHostMemRead_stays (s : State) (hpa want ecc) : Stays s (execHostMemRead hpa want ecc s) := by
  unfold execHostMemRead
  split
  · simp
  · split
    · simp
    · cases want
      all_goals
        dsimp only
        split
        all_goals
          rename_i hr
          simpa using (readGran_still ..).of_go hr

@[simp] theorem State.hostPut_fixed (s : State) (g data poison) : (s.hostPut g data poison).fixed = s.fixed := by
  simp [State.hostPut]

@[simp] theorem execHostMemWrite_stays (s : State) (hpa data poison) : Stays s (execHostMemWrite hpa data poison s) := by
  unfold execHostMemWrite
  (repeat' split) <;> simp

@[simp] theorem State.bisnpAnswer_fixed (s : State) (line modified) : (s.bisnpAnswer line modified).fixed = s.fixed := by
  unfold State.bisnpAnswer
  (repeat' split) <;> simp

@[simp] theorem execHostSnoop_stays (s : State) (hpa) : Stays s (execHostSnoop hpa s) := by simp [execHostSnoop]
@[simp] theorem State.unsupported_fixed (s : State) : s.unsupported.fixed = s.fixed := by simp [State.unsupported]
@[simp] theorem execP2pRequest_stays (s : State) (isWrite) : Stays s (execP2pRequest isWrite s) := by simp [execP2pRequest]

@[simp] theorem State.cfgWrite_fixed (s : State) (reg v) : (s.cfgWrite reg v).fixed = s.fixed := by
  unfold State.cfgWrite
  (repeat' split) <;> simp

@[simp] theorem execLinkLost_stays (s : State) (now) : Stays s (execLinkLost now s) := by simp [execLinkLost]

@[simp] theorem execLinkRecovery_stays (s : State) (now width rate) : Stays s (execLinkRecovery now width rate s) := by
  simp only [execLinkRecovery]
  split
  · simp
  · split
    · exact (execLinkLost_stays ..).trans (s.advanceTo_fixed now)
    · rw [stays_next]
      split <;> simp

@[simp] theorem State.pauseWaits_fixed (s : State) (o) : (s.pauseWaits o).fixed = s.fixed := by simp [State.pauseWaits]
@[simp] theorem State.resumeWaits_fixed (s : State) (o) : (s.resumeWaits o).fixed = s.fixed := by simp [State.resumeWaits]

@[simp] theorem State.newReq_fixed (s : State) (kind o pasid iova len hpa isWrite) :
    (s.newReq kind o pasid iova len hpa isWrite).1.fixed = s.fixed := by simp [State.newReq]

@[simp] theorem State.dropReq_fixed (s : State) (id) : (s.dropReq id).fixed = s.fixed := by simp [State.dropReq]
@[simp] theorem State.xctr_fixed (s : State) (f) : (s.xctr f).fixed = s.fixed := by simp [State.xctr]

@[simp] theorem State.sendAts_fixed (s : State) (o pasid iova isWrite) :
    (s.sendAts o pasid iova isWrite).1.fixed = s.fixed := by simp [State.sendAts]

@[simp] theorem State.pageFault_fixed (s : State) (o pasid iova reason) :
    (s.pageFault o pasid iova reason).fixed = s.fixed := by simp [State.pageFault]

@[simp] theorem State.sendPage_fixed (s : State) (o pasid iova isWrite) : (s.sendPage o pasid iova isWrite).1.fixed = s.fixed := by
  unfold State.sendPage
  dsimp only
  (repeat' split) <;> simp

@[simp] theorem State.failPage_fixed (s : State) (r) : (s.failPage r).fixed = s.fixed := by simp [State.failPage]

@[simp] theorem State.wakePages_fixed (s : State) (fuel) : (s.wakePages fuel).fixed = s.fixed := by
  induction fuel generalizing s with
  | zero => rfl
  | succ fuel ih =>
    unfold State.wakePages
    dsimp only
    (repeat' split) <;> simp [ih]

@[simp] theorem State.wakePage_fixed (s : State) : s.wakePage.fixed = s.fixed := by simp [State.wakePage]

@[simp] theorem execConfigRequest_stays (s : State) (reg write) : Stays s (execConfigRequest reg write s) := by
  unfold execConfigRequest
  (repeat' split) <;> simp

@[simp] theorem State.setBulk_fixed (s : State) (j f) : (s.setBulk j f).fixed = s.fixed := by simp [State.setBulk]
@[simp] theorem State.releaseHeld_fixed (s : State) (j) : (s.releaseHeld j).fixed = s.fixed := by simp [State.releaseHeld]
@[simp] theorem State.releaseLeaving_fixed (s : State) : s.releaseLeaving.fixed = s.fixed := by simp [State.releaseLeaving]

@[simp] theorem State.atcMiss_fixed (s : State) (o pasid iova isWrite) :
    (s.atcMiss o pasid iova isWrite).1.fixed = s.fixed := by simp [State.atcMiss]

@[simp] theorem State.readHost_fixed (s : State) (j t iova len inter) : (s.readHost j t iova len inter).1.fixed = s.fixed := by simp [State.readHost]

@[simp] theorem State.writeHost_fixed (s : State) (j pasid iova hpa bs) :
    (s.writeHost j pasid iova hpa bs).fixed = s.fixed := by simp [State.writeHost]

@[simp] theorem State.interRun_fixed (s : State) (j b) : (s.interRun j b).fixed = s.fixed := by
  unfold State.interRun
  dsimp only
  (repeat' split) <;> simp

@[simp] theorem State.dropSpent_fixed (s : State) (j b) : (s.dropSpent j b).fixed = s.fixed := by simp [State.dropSpent]
@[simp] theorem State.bulkRedo_fixed (s : State) (j b) : (s.bulkRedo j b).fixed = s.fixed := by simp [State.bulkRedo]

@[simp] theorem State.bulkWindow_fixed (s : State) (j b) : (s.bulkWindow j b).1.fixed = s.fixed := by
  unfold State.bulkWindow
  dsimp only
  (repeat' split) <;> simp

@[simp] theorem State.bulkRun_fixed (s : State) (j fuel) : (s.bulkRun j fuel).fixed = s.fixed := by
  induction fuel generalizing s with
  | zero => rfl
  | succ fuel ih =>
    unfold State.bulkRun
    dsimp only
    (repeat' split) <;> simp [ih]

@[simp] theorem State.bulkStart_fixed (s : State) (j write iova len data inter) :
    (s.bulkStart j write iova len data inter).fixed = s.fixed := by simp [State.bulkStart]

@[simp] theorem State.bulkPoke_fixed (s : State) : s.bulkPoke.fixed = s.fixed := by simp [State.bulkPoke]
@[simp] theorem State.leaveHeld_fixed (s : State) (j) : (s.leaveHeld j).fixed = s.fixed := by simp [State.leaveHeld]

@[simp] theorem State.pushLine_fixed (s : State) (c pasid job iova bs) : (s.pushLine c pasid job iova bs).1.fixed = s.fixed := by
  unfold State.pushLine
  dsimp only
  (repeat' split) <;> simp

@[simp] theorem State.atsDenied_fixed (s : State) (r granted) : (s.atsDenied r granted).1.fixed = s.fixed := by
  unfold State.atsDenied
  dsimp only
  (repeat' split) <;> simp

@[simp] theorem State.atsAnswer_fixed (s : State) (id a) : (s.atsAnswer id a).fixed = s.fixed := by
  unfold State.atsAnswer
  (repeat' split) <;> simp

@[simp] theorem execPageResponse_stays (s : State) (id a) : Stays s (execPageResponse id a s) := by
  unfold execPageResponse
  (repeat' split) <;> simp

@[simp] theorem execPriTimeout_stays (s : State) (now id) : Stays s (execPriTimeout now id s) := by
  unfold execPriTimeout
  dsimp only
  (repeat' split) <;> simp

@[simp] theorem State.invComplete_fixed (s : State) (v) : (s.invComplete v).fixed = s.fixed := by simp [State.invComplete]

@[simp] theorem State.invDrain_fixed (s : State) (n) : (s.invDrain n).fixed = s.fixed := by
  induction n generalizing s with
  | zero => rfl
  | succ n ih =>
    unfold State.invDrain
    (repeat' split) <;> simp [ih]

@[simp] theorem execInvalidateRequest_stays (s : State) (now pasid iova len) :
    Stays s (execInvalidateRequest now pasid iova len s) := by simp [execInvalidateRequest]

@[simp] theorem execInvalidateDrained_stays (s : State) (now) : Stays s (execInvalidateDrained now s) := by simp [execInvalidateDrained]

@[simp] theorem State.abandonCopy_fixed (s : State) (o) : (s.abandonCopy o).fixed = s.fixed := by
  unfold State.abandonCopy
  (repeat' split) <;> try rfl
  refine foldl_fixed (fun t i => ?_) _ _
  split
  · split
    · rename_i hr
      exact (writeDva_still ..).of_go hr
    · rfl
  · rfl

@[simp] theorem execInvalidateTimeout_stays (s : State) (now) : Stays s (execInvalidateTimeout now s) := by
  unfold execInvalidateTimeout
  dsimp only
  (repeat' split) <;> simp

@[simp] theorem execGlobalObservation_stays (s : State) (id) : Stays s (execGlobalObservation id s) := by
  unfold execGlobalObservation
  (repeat' split) <;> simp

/-! ### Through leases: frames, and the lender's range -/

@[simp] theorem State.relist_fixed (s : State) : s.relist.fixed = s.fixed := by simp [State.relist]
@[simp] theorem State.newTag_fixed (s : State) : (s.newTag).1.fixed = s.fixed := by simp [State.newTag]
@[simp] theorem readDirty_still {f : Fixed} (gs) : Still f (readDirty gs) := by simp [readDirty]

@[simp] theorem State.writeBackFrame_fixed (s : State) (lender lease page) : (s.writeBackFrame lender lease page).fixed = s.fixed := by
  unfold State.writeBackFrame
  split
  · dsimp only
    split <;> rename_i hr <;> simpa using (readDirty_still _).of_go hr
  · rfl

@[simp] theorem State.evictFrame_fixed (s : State) : s.evictFrame.fixed = s.fixed := by
  unfold State.evictFrame
  (repeat' split) <;> simp

@[simp] theorem State.awaitPage_fixed (s : State) (o lender lease page dva data) :
    (s.awaitPage o lender lease page dva data).fixed = s.fixed := by simp [State.awaitPage]

@[simp] theorem State.requestPage_fixed (s : State) (o lender lease page dva fetch data hint) :
    (s.requestPage o lender lease page dva fetch data hint).fixed = s.fixed := by
  unfold State.requestPage
  dsimp only
  (repeat' split) <;> simp

@[simp] theorem State.endPartials_fixed (s : State) (o) : (s.endPartials o).fixed = s.fixed := by simp [State.endPartials]
@[simp] theorem State.awaitLine_fixed (s : State) (c line) : (s.awaitLine c line).fixed = s.fixed := by simp [State.awaitLine]
@[simp] theorem State.stopEngine_fixed (s : State) (ag) : (s.stopEngine ag).fixed = s.fixed := by simp [State.stopEngine]

@[simp] theorem State.accessOr_fixed {α : Type} (s : State) (ag : Agent) {m : Acc α} (hm : Still s.fixed m) (hint : Option Hint)
    {k : State → α → State} (hk : ∀ t a, (k t a).fixed = t.fixed) {fail : State → AccFail → State} (hf : ∀ t f, (fail t f).fixed = t.fixed) :
    (s.accessOr ag m hint k fail).fixed = s.fixed := by
  unfold State.accessOr
  split <;> rename_i hr
  · simpa [hk] using hm.of_go hr
  · split <;> simp
  · exact hm.of_go hr
  · simpa using hm.of_go hr
  · simpa [hf] using hm.of_go hr

@[simp] theorem State.accessDma_fixed {α : Type} (s : State) (ag : Agent) {m : Acc α} (hm : Still s.fixed m) (hint : Option Hint)
    {k : State → α → State} (hk : ∀ t a, (k t a).fixed = t.fixed) :
    (s.accessDma ag m hint k).fixed = s.fixed :=
  s.accessOr_fixed ag hm hint hk fun t f => by simp

@[simp] theorem State.poisonLease_fixed (s : State) (lender lease) : (s.poisonLease lender lease).fixed = s.fixed := by
  unfold State.poisonLease
  (repeat' split) <;> simp

@[simp] theorem State.zeroRange_fixed (s : State) (base size) : (s.zeroRange base size).fixed = s.fixed := by simp [State.zeroRange]
@[simp] theorem State.endLease_fixed (s : State) (l) : (s.endLease l).fixed = s.fixed := by simp [State.endLease]

@[simp] theorem State.respond_fixed (s : State) (f lease result tag data) :
    (s.respond f lease result tag data).fixed = s.fixed := by simp [State.respond]

@[simp] theorem State.leaseRefuse_fixed (s : State) : s.leaseRefuse.fixed = s.fixed := by simp [State.leaseRefuse]

@[simp] theorem lentGran_fixed (base tag i) (a : State × List Byte) : (lentGran base tag i a).1.fixed = a.1.fixed := by
  unfold lentGran
  split <;> rename_i hr
  · exact (readGran_still ..).of_go hr
  · simpa using (readGran_still ..).of_go hr

@[simp] theorem State.lentPage_fixed (s : State) (l page tag) : (s.lentPage l page tag).1.fixed = s.fixed := by simp [State.lentPage]

@[simp] theorem execLentRead_stays (s : State) (f lease page tag) : Stays s (execLentRead f lease page tag s) := by
  unfold execLentRead
  split
  · rename_i hr
    simp [fst_fixed hr]
  · rename_i t hr
    have ht : t.fixed = s.fixed := by simp [fst_fixed hr]
    split <;> simp [ht]

@[simp] theorem State.putSectors_fixed (s : State) (base m data) : (s.putSectors base m data).fixed = s.fixed :=
  foldl_fst_fixed (fun a _ => (writeGran_still lenderAgent _ 0 _ none).run a.1 rfl) _ _

@[simp] theorem execLentWrite_stays (s : State) (f lease page tag sectors data) : Stays s (execLentWrite f lease page tag sectors data s) := by
  unfold execLentWrite
  split
  · rename_i hr
    simp [fst_fixed hr]
  · rename_i t hr
    have ht : t.fixed = s.fixed := by simp [fst_fixed hr]
    (repeat' split) <;> simp [ht]

@[simp] theorem execLentClaim_stays (s : State) (f lease tag) : Stays s (execLentClaim f lease tag s) := by
  unfold execLentClaim
  split
  · rename_i hr
    simp [fst_fixed hr]
  · rename_i t hr
    have ht : t.fixed = s.fixed := by simp [fst_fixed hr]
    (repeat' split) <;> simp [ht]

@[simp] theorem execLentReturn_stays (s : State) (f lease tag) : Stays s (execLentReturn f lease tag s) := by
  unfold execLentReturn
  split
  · rename_i hr
    simp [fst_fixed hr]
  · rename_i t hr
    have ht : t.fixed = s.fixed := by simp [fst_fixed hr]
    (repeat' split) <;> simp [ht]

@[simp] theorem State.lendRun_fixed (s : State) (j x) : (s.lendRun j x).fixed = s.fixed := by
  unfold State.lendRun
  dsimp only
  (repeat' split) <;> simp

@[simp] theorem execLendMemory_stays (s : State) (q) : Stays s (execLendMemory q s) := by simp [execLendMemory]

@[simp] theorem execReturnMemoryRevoke_stays (s : State) (q) : Stays s (execReturnMemoryRevoke q s) := by
  rw [execReturnMemoryRevoke, stays_next]
  refine s.runOnce_fixed _ _ fun t j x => ?_
  (repeat' split) <;> simp

@[simp] theorem execBorrowMemory_stays (s : State) (q) : Stays s (execBorrowMemory q s) := by simp [execBorrowMemory]

@[simp] theorem execBorrowTimeout_stays (s : State) (now q) : Stays s (execBorrowTimeout now q s) := by
  unfold execBorrowTimeout
  dsimp only
  (repeat' split) <;> simp

@[simp] theorem State.returnStage_fixed (s : State) (lender lease) : (s.returnStage lender lease).fixed = s.fixed := by
  unfold State.returnStage
  (repeat' split) <;> simp

@[simp] theorem State.dropReturn_fixed (s : State) (x) : (s.dropReturn x).fixed = s.fixed := by simp [State.dropReturn]
@[simp] theorem State.beginReturn_fixed (s : State) (lender lease) : (s.beginReturn lender lease).fixed = s.fixed := by simp [State.beginReturn]
@[simp] theorem State.returnRun_fixed (s : State) (j lender lease) : (s.returnRun j lender lease).fixed = s.fixed := by simp [State.returnRun]
@[simp] theorem execReturnMemory_stays (s : State) (q) : Stays s (execReturnMemory q s) := by simp [execReturnMemory]

@[simp] theorem State.settleFrame_fixed (s : State) (lender lease page data) : (s.settleFrame lender lease page data).fixed = s.fixed := by
  unfold State.settleFrame
  dsimp only
  (repeat' split) <;> simp

@[simp] theorem State.lentAnswer_fixed (s : State) (f lease result tag data) : (s.lentAnswer f lease result tag data).fixed = s.fixed := by
  unfold State.lentAnswer
  (repeat' split) <;> simp

/-! ### Through ports and their training -/

@[simp] theorem State.sendGlint_fixed (s : State) (dev) : (s.sendGlint dev).fixed = s.fixed := by
  unfold State.sendGlint
  dsimp only
  (repeat' split) <;> simp

@[simp] theorem State.sendGlints_fixed (s : State) : s.sendGlints.fixed = s.fixed := by simp [State.sendGlints]
@[simp] theorem State.bringupReady_fixed (s : State) : s.bringupReady.fixed = s.fixed := by simp [State.bringupReady]
@[simp] theorem State.movePort_fixed (s : State) (p new) : (s.movePort p new).fixed = s.fixed := by simp [State.movePort]
@[simp] theorem State.endTraining_fixed (s : State) : s.endTraining.fixed = s.fixed := by simp [State.endTraining]
@[simp] theorem State.portTime_fixed (s : State) (now) : (s.portTime now).fixed = s.fixed := by simp [State.portTime]

@[simp] theorem execLaserPowerReading_stays (s : State) (now p centiDbm) :
    Stays s (execLaserPowerReading now p centiDbm s) := by simp [execLaserPowerReading]

@[simp] theorem execPortTrainingDone_stays (s : State) (now p ok) : Stays s (execPortTrainingDone now p ok s) := by simp [execPortTrainingDone]
@[simp] theorem execLaneFault_stays (s : State) (now p lanes) : Stays s (execLaneFault now p lanes s) := by simp [execLaneFault]

@[simp] theorem execUncorrectableCodeword_stays (s : State) (now p) :
    Stays s (execUncorrectableCodeword now p s) := by simp [execUncorrectableCodeword]

@[simp] theorem execDegradedTimer_stays (s : State) (now p) : Stays s (execDegradedTimer now p s) := by simp [execDegradedTimer]
@[simp] theorem execRetrainTimer_stays (s : State) (now p) : Stays s (execRetrainTimer now p s) := by simp [execRetrainTimer]
@[simp] theorem State.darken_fixed (s : State) (e dark) : (s.darken e dark).fixed = s.fixed := by simp [State.darken]
@[simp] theorem State.setOe_fixed (s : State) (e f) : (s.setOe e f).fixed = s.fixed := by simp [State.setOe]
@[simp] theorem State.recordHot_fixed (s : State) (e temp) : (s.recordHot e temp).fixed = s.fixed := by simp [State.recordHot]

@[simp] theorem execOeTempReading_stays (s : State) (now e reading) : Stays s (execOeTempReading now e reading s) := by
  unfold execOeTempReading
  (repeat' split) <;> simp

/-! ### Through settings that wait for a seam -/

@[simp] theorem State.staged_fixed (s : State) {f : State → State} (h : ∀ t, (f t).fixed = t.fixed) :
    (s.staged f).fixed = s.fixed := by simp [State.staged, h]

@[simp] theorem State.stagedBy_fixed (s : State) (j i n) : (s.stagedBy j i n).fixed = s.fixed := by simp [State.stagedBy]

@[simp] theorem State.stageFor_fixed (s : State) (j i) {f : State → State} (h : ∀ t, (f t).fixed = t.fixed) :
    (s.stageFor j i f).fixed = s.fixed := by simp [State.stageFor, h]

@[simp] theorem State.finishStaged_fixed (s : State) (j) : (s.finishStaged j).fixed = s.fixed := by simp [State.finishStaged]

/-! ### Through jobs ended and contexts closed -/

@[simp] theorem State.dropOwner_fixed (s : State) (p) : (s.dropOwner p).fixed = s.fixed := by simp [State.dropOwner]
@[simp] theorem State.dropWork_fixed (s : State) (j keep) : (s.dropWork j keep).fixed = s.fixed := by simp [State.dropWork]

@[simp] theorem State.endStall_fixed (s : State) (i) : (s.endStall i).fixed = s.fixed := by
  unfold State.endStall
  (repeat' split) <;> simp

@[simp] theorem State.releaseUses_fixed (s : State) (i) : (s.releaseUses i).fixed = s.fixed := by simp [State.releaseUses]
@[simp] theorem State.keepLate_fixed (s : State) (i) : (s.keepLate i).fixed = s.fixed := by simp [State.keepLate]
@[simp] theorem State.discardStep_fixed (s : State) (i) : (s.discardStep i).fixed = s.fixed := by simp [State.discardStep]
@[simp] theorem State.unpick_fixed (s : State) (j) : (s.unpick j).fixed = s.fixed := by simp [State.unpick]
@[simp] theorem State.dropSwap_fixed (s : State) (j) : (s.dropSwap j).fixed = s.fixed := by simp [State.dropSwap]
@[simp] theorem State.setDrain_fixed (s : State) (b) : (s.setDrain b).fixed = s.fixed := by simp [State.setDrain]

@[simp] theorem State.endModelJob_fixed (s : State) (j) : (s.endModelJob j).fixed = s.fixed := by
  unfold State.endModelJob
  (repeat' split) <;> simp

@[simp] theorem State.endTest_fixed (s : State) (j) : (s.endTest j).fixed = s.fixed := by
  unfold State.endTest
  (repeat' split) <;> simp

@[simp] theorem State.releaseJob_fixed (s : State) (j keep) : (s.releaseJob j keep).fixed = s.fixed := by simp [State.releaseJob]

@[simp] theorem State.endJob_fixed (s : State) (j status detail) : (s.endJob j status detail).fixed = s.fixed := by
  unfold State.endJob
  dsimp only
  split <;> simp

@[simp] theorem State.failJob_fixed (s : State) (j cls status detail) : (s.failJob j cls status detail).fixed = s.fixed := by
  unfold State.failJob
  dsimp only
  (repeat' split) <;> simp

@[simp] theorem State.abortQueue_fixed (s : State) (q self) : (s.abortQueue q self).1.fixed = s.fixed := by simp [State.abortQueue]
@[simp] theorem State.abortRun_fixed (s : State) (j x) : (s.abortRun j x).fixed = s.fixed := by simp [State.abortRun]

@[simp] theorem State.abortStart_fixed (s : State) (j x) : (s.abortStart j x).fixed = s.fixed := by
  unfold State.abortStart
  dsimp only
  (repeat' split) <;> simp

@[simp] theorem execAbortQueue_stays (s : State) (q) : Stays s (execAbortQueue q s) := by simp [execAbortQueue]
@[simp] theorem execOpenContext_stays (s : State) (q) : Stays s (execOpenContext q s) := by simp [execOpenContext]
@[simp] theorem State.closeLeases_fixed (s : State) (j c) : (s.closeLeases j c).fixed = s.fixed := by simp [State.closeLeases]

@[simp] theorem State.closeEnd_fixed (s : State) (j c) : (s.closeEnd j c).fixed = s.fixed := by
  unfold State.closeEnd
  dsimp only
  (repeat' split) <;> simp

@[simp] theorem State.closeRun_fixed (s : State) (j x) : (s.closeRun j x).fixed = s.fixed := by simp [State.closeRun]
@[simp] theorem State.closeStart_fixed (s : State) (j x) : (s.closeStart j x).fixed = s.fixed := by simp [State.closeStart]
@[simp] theorem execCloseContext_stays (s : State) (q) : Stays s (execCloseContext q s) := by simp [execCloseContext]
@[simp] theorem State.waitRun_fixed (s : State) (j x) : (s.waitRun j x).fixed = s.fixed := by simp [State.waitRun]
@[simp] theorem State.endWaits_fixed (s : State) (f) : (s.endWaits f).fixed = s.fixed := by simp [State.endWaits]
@[simp] theorem State.raiseFence_fixed (s : State) (f v) : (s.raiseFence f v).fixed = s.fixed := by simp [State.raiseFence]
@[simp] theorem State.signalRun_fixed (s : State) (j x) : (s.signalRun j x).fixed = s.fixed := by simp [State.signalRun]
@[simp] theorem execFenceSignal_stays (s : State) (q) : Stays s (execFenceSignal q s) := by simp [execFenceSignal]
@[simp] theorem execFenceWait_stays (s : State) (q) : Stays s (execFenceWait q s) := by simp [execFenceWait]
@[simp] theorem State.expireStop_fixed (s : State) (q seq) : (s.expireStop q seq).fixed = s.fixed := by simp [State.expireStop]

@[simp] theorem execFenceWaitExpiry_stays (s : State) (now q) : Stays s (execFenceWaitExpiry now q s) := by
  unfold execFenceWaitExpiry
  dsimp only
  (repeat' split) <;> simp

/-! ### Through the model and its dense sets -/

@[simp] theorem State.remember_fixed (s : State) (j key bs) : (s.remember j key bs).fixed = s.fixed := by simp [State.remember]

@[simp] theorem State.withSource_fixed (s : State) (j w len hint) {k : State → List Byte → State} (hk : ∀ t bs, (k t bs).fixed = t.fixed) (inter) :
    (s.withSource j w len hint k inter).fixed = s.fixed := by
  unfold State.withSource
  dsimp only
  (repeat' split) <;> simp [hk]

@[simp] theorem State.putDva_fixed (s : State) (j dva bs hint) {k : State → State} (hk : ∀ t, (k t).fixed = t.fixed) :
    (s.putDva j dva bs hint k).fixed = s.fixed := by simp [State.putDva, hk]

@[simp] theorem State.withStruct_fixed (s : State) (j dva len) {k : State → List Byte → State} (hk : ∀ t bs, (k t bs).fixed = t.fixed) :
    (s.withStruct j dva len k).fixed = s.fixed := by
  unfold State.withStruct
  dsimp only
  (repeat' split) <;> simp [hk]

@[simp] theorem State.unload_fixed (s : State) : s.unload.fixed = s.fixed := by simp [State.unload]
@[simp] theorem State.unloadRun_fixed (s : State) (j x) : (s.unloadRun j x).fixed = s.fixed := by simp [State.unloadRun]
@[simp] theorem execUnloadModel_stays (s : State) (q) : Stays s (execUnloadModel q s) := by simp [execUnloadModel]

@[simp] theorem State.loadSets_fixed (s : State) (j r sum) (sets : List (Nat × List Byte)) : (s.loadSets j r sum sets).fixed = s.fixed := by
  induction sets generalizing s with
  | nil => simp [State.loadSets]
  | cons x sets ih => exact s.putDva_fixed _ _ _ _ fun t => ih _

@[simp] theorem State.loadData_fixed (s : State) (j x bs) : (s.loadData j x bs).fixed = s.fixed := by
  unfold State.loadData
  dsimp only
  (repeat' split) <;> simp

@[simp] theorem State.loadRun_fixed (s : State) (j x) : (s.loadRun j x).fixed = s.fixed := by simp [State.loadRun]
@[simp] theorem execLoadModel_stays (s : State) (q) : Stays s (execLoadModel q s) := by simp [execLoadModel]
@[simp] theorem State.stageSet_fixed (s : State) (j k) : (s.stageSet j k).fixed = s.fixed := by simp [State.stageSet]

@[simp] theorem State.swapSetRun_fixed (s : State) (j x) : (s.swapSetRun j x).fixed = s.fixed := by
  unfold State.swapSetRun
  (repeat' split) <;> simp

@[simp] theorem execSwapDenseSet_stays (s : State) (q) : Stays s (execSwapDenseSet q s) := by
  rw [execSwapDenseSet, stays_next]
  refine s.runJob_fixed _ _ (fun t j x => ?_) fun t j x => t.swapSetRun_fixed j x
  (repeat' split) <;> simp

/-! ### Through rows read where they are stored -/

@[simp] theorem State.setTable_fixed (s : State) (id f) : (s.setTable id f).fixed = s.fixed := by simp [State.setTable]

@[simp] theorem homeRegion_still {f : Fixed} (ag dva) : Still f (homeRegion ag dva) := (resolve_still ag dva false).bind fun l => by
  split <;> exact still_pure _

@[simp] theorem shardEntry_still {f : Fixed} (ag dir shard) : Still f (shardEntry ag dir shard) := by simp [shardEntry]
@[simp] theorem rowPlace_still {f : Fixed} (ag d dir row) : Still f (rowPlace ag d dir row) := by simp [rowPlace]
@[simp] theorem State.countOverrun_fixed (s : State) (table n) : (s.countOverrun table n).fixed = s.fixed := by simp [State.countOverrun]
@[simp] theorem State.decode_fixed (s : State) (d g body times) : (s.decode d g body times).1.fixed = s.fixed := by simp [State.decode]

@[simp] theorem readStored_still {f : Fixed} (ag d dir row all) : Still f (readStored ag d dir row all) := (rowPlace_still ..).bind fun p => by
  split
  · exact still_pure _
  · exact (readDva_still ..).bind fun _ => (readDva_still ..).bind fun _ => still_pure _

@[simp] theorem readBuffer_still {f : Fixed} (ag first n) : Still f (readBuffer ag first n) := by simp [readBuffer]
@[simp] theorem State.writeBuffer_fixed (s : State) (first n) : (s.writeBuffer first n).fixed = s.fixed := by simp [State.writeBuffer]

@[simp] theorem rowAt_still {f : Fixed} (ag d v row bound all) : Still f (rowAt ag d v row bound all) := .getBind fun s _ => by
  split
  · exact (readBuffer_still ..).bind fun _ => still_pure _
  · exact readStored_still ..

/-! ### Through update records and epochs -/

@[simp] theorem State.updCtr_fixed (s : State) (f) : (s.updCtr f).fixed = s.fixed := by simp [State.updCtr]
@[simp] theorem State.setEpoch_fixed (s : State) (n f) : (s.setEpoch n f).fixed = s.fixed := by simp [State.setEpoch]
@[simp] theorem State.tryClose_fixed (s : State) (n) : (s.tryClose n).fixed = s.fixed := by simp [State.tryClose]
@[simp] theorem holds_still {f : Fixed} (d v row) : Still f (holds d v row) := by simp [holds]

@[simp] theorem keptIn_still {f : Fixed} (t row) : Still f (keptIn t row) := by
  unfold keptIn
  (repeat' split) <;> simp

@[simp] theorem State.keepRec_fixed (s : State) (r) : (s.keepRec r).fixed = s.fixed := by
  unfold State.keepRec
  split
  · simp
  · split
    · rename_i hr
      have ht := (keptIn_still ..).of_go hr
      split <;> simpa using ht
    · simp
    · rename_i hr
      have ht := (keptIn_still ..).of_go hr
      simpa using ht

@[simp] theorem State.unpark_fixed (s : State) : s.unpark.fixed = s.fixed := by simp [State.unpark]
@[simp] theorem State.takeDeclared_fixed (s : State) (e r) : (s.takeDeclared e r).fixed = s.fixed := by simp [State.takeDeclared]

@[simp] theorem State.takeRecord_fixed (s : State) (r) : (s.takeRecord r).fixed = s.fixed := by
  unfold State.takeRecord
  dsimp only
  (repeat' split) <;> simp

@[simp] theorem State.markDeclared_fixed (s : State) (e m) : (s.markDeclared e m).fixed = s.fixed := by simp [State.markDeclared]

@[simp] theorem State.takeMarker_fixed (s : State) (m) : (s.takeMarker m).fixed = s.fixed := by
  unfold State.takeMarker
  (repeat' split) <;> simp

@[simp] theorem State.sendRecs_fixed (s : State) (out) : (s.sendRecs out).fixed = s.fixed := by simp [State.sendRecs]
@[simp] theorem State.countSent_fixed (s : State) (epoch dst) : (s.countSent epoch dst).fixed = s.fixed := by simp [State.countSent]
@[simp] theorem State.routeTo_fixed (s : State) (r dsts) : (s.routeTo r dsts).1.fixed = s.fixed := by simp [State.routeTo]

@[simp] theorem State.intakeOne_fixed (s : State) (me start t r i size) : (s.intakeOne me start t r i size).1.fixed = s.fixed := by
  unfold State.intakeOne
  dsimp only
  (repeat' split) <;> simp

@[simp] theorem State.intake_fixed (s : State) (me start bs i fuel) : (s.intake me start bs i fuel).1.fixed = s.fixed := by
  induction fuel generalizing s i with
  | zero => rfl
  | succ fuel ih =>
    unfold State.intake
    dsimp only
    (repeat' split) <;> simp [ih]

@[simp] theorem State.intakeRun_fixed (s : State) (j bs) : (s.intakeRun j bs).fixed = s.fixed := by
  unfold State.intakeRun
  (repeat' split) <;> simp

@[simp] theorem State.updateRun_fixed (s : State) (j x) : (s.updateRun j x).fixed = s.fixed := by simp [State.updateRun]
@[simp] theorem execUpdateRows_stays (s : State) (q) : Stays s (execUpdateRows q s) := by simp [execUpdateRows]

@[simp] theorem closeStart_fixed (s : State) {k : State → JobRef → Job → State} (hk : ∀ t j x, (k t j x).fixed = t.fixed) (j x) :
    (closeStart k s j x).fixed = s.fixed := by simp [closeStart, hk]

@[simp] theorem State.unready_fixed (s : State) : s.unready.fixed = s.fixed := by simp [State.unready]

@[simp] theorem State.openEpoch_fixed (s : State) (e) : (s.openEpoch e).fixed = s.fixed := by
  unfold State.openEpoch
  dsimp only
  rw [State.relist_fixed, State.sendRecs_fixed, foldl_fst_fixed fun a r => by simp, foldl_fixed fun t m => by split <;> simp,
    foldl_fixed fun t r => by split <;> simp]
  split <;> simp

@[simp] theorem State.declare_fixed (s : State) (j x bs) : (s.declare j x bs).fixed = s.fixed := by simp [State.declare]
@[simp] theorem State.declareRun_fixed (s : State) (j x) : (s.declareRun j x).fixed = s.fixed := by simp [State.declareRun]
@[simp] theorem execCloseEpochDeclare_stays (s : State) (q) : Stays s (execCloseEpochDeclare q s) := by simp [execCloseEpochDeclare]
@[simp] theorem State.sendMarks_fixed (s : State) (j e me) : (s.sendMarks j e me).fixed = s.fixed := by simp [State.sendMarks]

@[simp] theorem State.markEnd_fixed (s : State) (j) : (s.markEnd j).fixed = s.fixed := by
  unfold State.markEnd
  (repeat' split) <;> simp

@[simp] theorem State.markRun_fixed (s : State) (j x) : (s.markRun j x).fixed = s.fixed := by
  unfold State.markRun
  (repeat' split) <;> simp

@[simp] theorem execCloseEpochMark_stays (s : State) (q) : Stays s (execCloseEpochMark q s) := by simp [execCloseEpochMark]

@[simp] theorem execCloseEpochForce_stays (s : State) (q) : Stays s (execCloseEpochForce q s) :=
  (stays_next ..).mpr (s.runOnce_fixed _ _ fun t j x => closeStart_fixed _ (fun _ _ _ => by (repeat' split) <;> simp) _ _)

@[simp] theorem State.awaitRun_fixed (s : State) (j x) : (s.awaitRun j x).fixed = s.fixed := by simp [State.awaitRun]
@[simp] theorem execCloseEpochAwait_stays (s : State) (q) : Stays s (execCloseEpochAwait q s) := by simp [execCloseEpochAwait]

@[simp] theorem execUpdateRecord_stays (s : State) (f rs) : Stays s (execUpdateRecord f rs s) := by
  unfold execUpdateRecord
  dsimp only
  split
  · simp
  · split <;> rename_i hr <;> simp [fst_fixed hr]

@[simp] theorem execEpochClose_stays (s : State) (f r) : Stays s (execEpochClose f r s) := by
  unfold execEpochClose
  split <;> rename_i hr <;> simp [fst_fixed hr]

/-! ### Through overlays -/

@[simp] theorem peeked_still {f : Fixed} {α : Type} (a : α) {m : Acc α} (hm : Still f m) :
    Still f (peeked a m) := .getBind fun _ hs => (hm.tryCatch fun _ => still_pure a).bind fun _ => (Still.set hs).bind fun _ => still_pure _

@[simp] theorem rowRegion_still {f : Fixed} (d dir row) :
    Still f (rowRegion d dir row) :=
  (peeked_still 0 (homeRegion_still ..)).bind fun home => peeked_still home ((rowPlace_still ..).bind fun p => by split <;> simp)

@[simp] theorem headerOnly_still {f : Fixed} (ag x bound) : Still f (headerOnly ag x bound) := forgive_still ag [] (.getBind fun s _ => by
  split
  · exact (readBuffer_still ..).bind fun _ => still_pure _
  · refine (rowPlace_still ..).bind fun p => ?_
    split <;> simp)

@[simp] theorem readRec_still {f : Fixed} (ag r) : Still f (readRec ag r) := .getBind fun s _ => by
  dsimp only
  split
  · exact still_pure _
  · refine (forgive_still ag false ((readBuffer_still ..).bind fun _ => still_pure _)).bind fun ok => ?_
    split
    · exact (Still.modify fun s => by rfl).bind fun _ => still_pure _
    · exact still_pure _

@[simp] theorem rowBase_still {f : Fixed} (ag x bound) : Still f (rowBase ag x bound) := forgive_still ag none ((rowAt_still ..).bind fun b => by
  split <;> exact still_pure _)

@[simp] theorem newBodyOf_still {f : Fixed} (ag x bound) : Still f (newBodyOf ag x bound) := by
  have hcode : ∀ (head : List Byte) (base : List F32), Still f (do
      let s ← get
      let (body, limited) := recode x.desc (s.ctx 0).grid head ((rowVersion head + 1) % 2 ^ 32) (combine base x.recs)
      if limited then set (s.updCtr fun c => { c with escLimited := c.escLimited + 1 })
      return body : Acc (List Byte)) := fun head base => .getBind fun s hs => by
    dsimp only
    split <;> simp [hs]
  refine (rowBase_still ..).bind fun b => ?_
  dsimp only
  split
  · exact .getBind fun s hs => (Still.set (by simpa using hs)).bind fun _ => (hcode _ _).bind fun _ => still_pure _
  · split
    · exact (Still.modify fun s => by rfl).bind fun _ => still_pure _
    · exact (headerOnly_still ..).bind fun _ => (hcode _ _).bind fun _ => still_pure _

@[simp] theorem newBody_still {f : Fixed} (x bound) :
    Still f (newBody x bound) := (rowRegion_still ..).bind fun r => (Still.filterM (readRec_still _) _).bind fun recs => by split <;> simp

@[simp] theorem buildOverlays_still {f : Fixed} (e bound) (xs : List RowUpd) : Still f (buildOverlays e bound xs) := by
  induction xs with
  | nil => exact still_pure []
  | cons x xs ih => exact (newBody_still ..).bind fun b => ih.bind fun os => by split <;> exact still_pure _

@[simp] theorem execEpochReady_stays (s : State) (epoch) : Stays s (execEpochReady epoch s) := by
  unfold execEpochReady
  (repeat' split) <;> simp

@[simp] theorem putRow_still {f : Fixed} (ag a bs) : Still f (putRow ag a bs) := by simp [putRow]

@[simp] theorem storeRow_still {f : Fixed} (d dir row body) :
    Still f (storeRow d dir row body) := (rowRegion_still ..).bind fun r => (forgive_still _ none (rowPlace_still ..)).bind fun p => by
    split
    · exact still_pure _
    · exact (putRow_still ..).bind fun _ => (putRow_still ..).bind fun _ => still_pure _

@[simp] theorem writeOverlay_still {f : Fixed} (o) : Still f (writeOverlay o) := .getBind fun s _ => by
  split
  · exact Still.bind (still_pure _) fun _ => Still.modify fun s => by rfl
  · split
    · exact Still.bind (still_pure _) fun _ => Still.modify fun s => by rfl
    · exact (storeRow_still ..).bind fun _ => Still.modify fun s => by rfl

@[simp] theorem State.freeRecs_fixed (s : State) (epoch) : (s.freeRecs epoch).fixed = s.fixed := by simp [State.freeRecs]

@[simp] theorem execEpochWriteBack_stays (s : State) (epoch) : Stays s (execEpochWriteBack epoch s) := by
  unfold execEpochWriteBack
  split
  · simp
  · split
    · simp
    · exact (stays_next ..).mpr (s.access_fixed _ (.forM (fun o => writeOverlay_still o) _) fun t _ => by simp)

@[simp] theorem rowShade_still {f : Fixed} (x) :
    Still f (rowShade x) := (rowRegion_still ..).bind fun r => (forgive_still _ none (rowPlace_still ..)).bind fun p => by
    split
    · exact still_pure _
    · exact (homeRegion_still ..).bind fun _ => .getBind fun _ _ => still_pure _

@[simp] theorem catchUp_still {f : Fixed} (us) : Still f (catchUp us) := (Still.mapM rowShade_still us).bind fun shades => by
  split
  · exact still_pure _
  · refine (Still.forM (fun x => (newBody_still x 0).bind fun b => ?_) us).bind fun _ => still_pure _
    split
    · exact (storeRow_still ..).bind fun _ => still_pure _
    · exact still_pure _

@[simp] theorem State.beginTracking_fixed (s : State) (id j) : (s.beginTracking id j).fixed = s.fixed := by simp [State.beginTracking]

@[simp] theorem execCatchUpDone_stays (s : State) (table) : Stays s (execCatchUpDone table s) := by
  unfold execCatchUpDone
  (repeat' split) <;> simp

/-! ### Through the tables' commands -/

@[simp] theorem tableStart_fixed (s : State) (ok) {k : State → JobRef → Job → State} (hk : ∀ t j x, (k t j x).fixed = t.fixed) (j x) :
    (tableStart ok k s j x).fixed = s.fixed := by simp [tableStart, hk]

@[simp] theorem State.runTable_fixed (s : State) (q mine ok) {k again : State → JobRef → Job → State} (hk : ∀ t j x, (k t j x).fixed = t.fixed)
    (ha : ∀ t j x, (again t j x).fixed = t.fixed) :
    (s.runJob q mine (tableStart ok k) again).fixed = s.fixed := by
  unfold State.runJob
  (repeat' split) <;> simp [hk, ha]

@[simp] theorem State.define_fixed (s : State) (d row) : (s.define d row).fixed = s.fixed := by simp [State.define]

@[simp] theorem State.defineRun_fixed (s : State) (j x) : (s.defineRun j x).fixed = s.fixed := by
  refine s.withStruct_fixed _ _ _ fun t bs => ?_
  (repeat' split) <;> simp

@[simp] theorem execDefineTable_stays (s : State) (q) : Stays s (execDefineTable q s) := by simp [execDefineTable]

@[simp] theorem readSections_still {f : Fixed} (ag dva n off) : Still f (readSections ag dva n off) := by
  induction n generalizing off with
  | zero => exact still_pure _
  | succ n ih =>
    refine (readDva_still ..).bind fun h => .getBind fun s _ => ?_
    split
    · exact still_pure _
    · split
      · exact still_pure _
      · refine (readDva_still ..).bind fun bs => ?_
        split
        · exact still_pure _
        · exact (ih _).bind fun _ => still_pure _

@[simp] theorem State.stageMap_fixed (s : State) (secs tag) : (s.stageMap secs tag).fixed = s.fixed := by simp [State.stageMap]
@[simp] theorem State.stageMapFor_fixed (s : State) (j secs tag) : (s.stageMapFor j secs tag).fixed = s.fixed := by simp [State.stageMapFor]

@[simp] theorem State.mapRun_fixed (s : State) (j x) : (s.mapRun j x).fixed = s.fixed := by
  refine s.withStruct_fixed _ _ _ fun t bs => ?_
  dsimp only
  split
  · simp
  · refine t.access_fixed _ (readSections_still ..) fun u secs => ?_
    (repeat' split) <;> simp

@[simp] theorem execMapShards_stays (s : State) (q) : Stays s (execMapShards q s) := by simp [execMapShards]
@[simp] theorem fillBlock_still {f : Fixed} (ag v shard block) : Still f (fillBlock ag v shard block) := by simp [fillBlock]

@[simp] theorem State.fillRun_fixed (s : State) (j x) : (s.fillRun j x).fixed = s.fixed := by
  unfold State.fillRun
  split
  · simp
  · dsimp only
    split
    · simp
    · split
      · simp
      · refine s.accessDma_fixed _ (fillBlock_still ..) _ fun t b => ?_
        split
        · simp
        · split
          · rfl
          · refine t.withSource_fixed _ _ _ _ (fun u bs => ?_) _
            exact u.putDva_fixed _ _ _ _ fun v => v.putDva_fixed _ _ _ _ fun w => by simp

@[simp] theorem execFillTable_stays (s : State) (q) : Stays s (execFillTable q s) := by simp [execFillTable]
@[simp] theorem joinShadow_still {f : Fixed} (t v base ks) : Still f (joinShadow t v base ks) := by simp [joinShadow]

@[simp] theorem State.shadowRun_fixed (s : State) (j x) : (s.shadowRun j x).fixed = s.fixed := by
  unfold State.shadowRun
  (repeat' split) <;> simp

@[simp] theorem execBeginShadow_stays (s : State) (q) : Stays s (execBeginShadow q s) := by simp [execBeginShadow]

@[simp] theorem State.swapStart_fixed (s : State) (j x) : (s.swapStart j x).fixed = s.fixed := by
  unfold State.swapStart
  (repeat' split) <;> simp

@[simp] theorem execSwapVersion_stays (s : State) (q) : Stays s (execSwapVersion q s) := by simp [execSwapVersion]

@[simp] theorem execReleaseVersion_stays (s : State) (q) : Stays s (execReleaseVersion q s) :=
  (stays_next ..).mpr (s.runTable_fixed _ _ _ (fun t j x => by (repeat' split) <;> simp) fun _ _ _ => rfl)

@[simp] theorem readSet_still {f : Fixed} (ag dva) :
    Still f (readSet ag dva) :=
  (readDva_still ..).bind fun _ => (readDva_still ..).bind fun _ => (readDva_still ..).bind fun _ => (readDva_still ..).bind fun _ =>
    (Still.mapM (fun _ => (readDva_still ..).bind fun _ => (readDva_still ..).bind fun _ => still_pure _) _).bind fun _ => still_pure _

@[simp] theorem State.reflRun_fixed (s : State) (j x) : (s.reflRun j x).fixed = s.fixed := by simp [State.reflRun]
@[simp] theorem execSetReflections_stays (s : State) (q) : Stays s (execSetReflections q s) := by simp [execSetReflections]

/-! ### Through settings' commands and sequences -/

@[simp] theorem execSetBrim_stays (s : State) (q) : Stays s (execSetBrim q s) := by simp [execSetBrim]
@[simp] theorem State.stageLimits_fixed (s : State) (x) : (s.stageLimits x).fixed = s.fixed := by simp [State.stageLimits]
@[simp] theorem execSetRegionLimits_stays (s : State) (q) : Stays s (execSetRegionLimits q s) := by simp [execSetRegionLimits]
@[simp] theorem State.stagePorts_fixed (s : State) (c) : (s.stagePorts c).fixed = s.fixed := by simp [State.stagePorts]
@[simp] theorem State.portsRun_fixed (s : State) (j x) : (s.portsRun j x).fixed = s.fixed := by simp [State.portsRun]
@[simp] theorem execSetPortConfig_stays (s : State) (q) : Stays s (execSetPortConfig q s) := by simp [execSetPortConfig]
@[simp] theorem execSetDim_stays (s : State) (q) : Stays s (execSetDim q s) := by simp [execSetDim]
@[simp] theorem State.gridRun_fixed (s : State) (j x) : (s.gridRun j x).fixed = s.fixed := by simp [State.gridRun]
@[simp] theorem execSetGrid_stays (s : State) (q) : Stays s (execSetGrid q s) := by simp [execSetGrid]

@[simp] theorem State.recordSeq_fixed (s : State) (j x body list) : (s.recordSeq j x body list).fixed = s.fixed := by
  unfold State.recordSeq
  dsimp only
  (repeat' split) <;> simp

@[simp] theorem State.recordRun_fixed (s : State) (j x) : (s.recordRun j x).fixed = s.fixed := by simp [State.recordRun]
@[simp] theorem execRecordSequence_stays (s : State) (q) : Stays s (execRecordSequence q s) := by simp [execRecordSequence]
@[simp] theorem patched_still {f : Fixed} (ag ws slots) : Still f (patched ag ws slots) := by simp [patched]

@[simp] theorem State.takeEntries_fixed (s : State) (q fuel) : (s.takeEntries q fuel).fixed = s.fixed := by
  induction fuel generalizing s with
  | zero => rfl
  | succ fuel ih =>
    unfold State.takeEntries
    (repeat' split) <;> simp [ih]

@[simp] theorem execRunSequence_stays (s : State) (q) : Stays s (execRunSequence q s) := by
  unfold execRunSequence
  dsimp only
  (repeat' split) <;> simp

/-! ### Through READ_MONITORS -/

@[simp] theorem State.writeResult_fixed (s : State) (j dva bs detail counts) :
    (s.writeResult j dva bs detail counts).fixed = s.fixed := by simp [State.writeResult]

@[simp] theorem State.monitorsRun_fixed (s : State) (words j x) : (State.monitorsRun words s j x).fixed = s.fixed := by simp [State.monitorsRun]
@[simp] theorem execReadMonitors_stays (s : State) (r) : Stays s (execReadMonitors r s) := by simp [execReadMonitors]

/-! ### Through the security engine's commands -/

@[simp] theorem State.readLeaf_fixed (s : State) : s.readLeaf.fixed = s.fixed := by
  unfold State.readLeaf
  dsimp only
  (repeat' split) <;> simp

@[simp] theorem State.writeLeaf_fixed (s : State) (n w) : (s.writeLeaf n w).1.fixed = s.fixed := by
  unfold State.writeLeaf
  (repeat' split) <;> simp

@[simp] theorem State.attestEnd_fixed (s : State) (j status detail) : (s.attestEnd j status detail).fixed = s.fixed := by simp [State.attestEnd]

@[simp] theorem State.attestWrite_fixed (s : State) (j) : (s.attestWrite j).fixed = s.fixed := by
  unfold State.attestWrite
  (repeat' split) <;> simp

@[simp] theorem State.attestSign_fixed (s : State) (j w nonce) : (s.attestSign j w nonce).fixed = s.fixed := by
  unfold State.attestSign
  dsimp only
  split
  · simp
  · split
    · simp
    · split <;> rename_i hw <;> simp [fst_fixed hw]

@[simp] theorem State.attestRun_fixed (s : State) (w j x) : (State.attestRun w s j x).fixed = s.fixed := by simp [State.attestRun]
@[simp] theorem execAttest_stays (s : State) (q w) : Stays s (execAttest q w s) := by simp [execAttest]
@[simp] theorem State.certRun_fixed (s : State) (j x) : (s.certRun j x).fixed = s.fixed := by simp [State.certRun]
@[simp] theorem execGetCertificate_stays (s : State) (q) : Stays s (execGetCertificate q s) := by simp [execGetCertificate]

@[simp] theorem execMrOwnerMapComputed_stays (s : State) : Stays s (execMrOwnerMapComputed s) := by
  unfold execMrOwnerMapComputed
  (repeat' split) <;> simp

@[simp] theorem State.recorderRun_fixed (s : State) (j x) : (s.recorderRun j x).fixed = s.fixed := by simp [State.recorderRun]
@[simp] theorem execReadRecorder_stays (s : State) (q) : Stays s (execReadRecorder q s) := by simp [execReadRecorder]
@[simp] theorem State.clearLog_fixed (s : State) (a copyBOk) : (s.clearLog a copyBOk).fixed = s.fixed := by simp [State.clearLog]
@[simp] theorem State.clearRun_fixed (s : State) (w j x) : (State.clearRun w s j x).fixed = s.fixed := by simp [State.clearRun]
@[simp] theorem execClearRecorder_stays (s : State) (q w) : Stays s (execClearRecorder q w s) := by simp [execClearRecorder]

/-! ### Through ranges that a command releases -/

@[simp] theorem State.releaseRange_fixed (s : State) (ag dva len) : (s.releaseRange ag dva len).fixed = s.fixed := by
  unfold State.releaseRange
  (repeat' split) <;> simp

/-! ### Through DMA_COPY, page retirement and the tests -/

@[simp] theorem State.copyEnd_fixed (s : State) (j x release) : (s.copyEnd j x release).fixed = s.fixed := by simp [State.copyEnd]

@[simp] theorem copyPiece_still {f : Fixed} (ag a n dst hint) : Still f (copyPiece ag a n dst hint) := by
  refine Still.bind (Still.tryCatch (readDva_still ..) fun f => ?_) fun bs =>
    (notingPart_still _ (writeDva_still ..)).bind fun _ => still_pure _
  split
  · exact still_throw _
  · exact still_throw _
  · exact still_throw _
  · exact .getBind fun s _ => (writeDva_still ..).bind fun _ => still_throw _

@[simp] theorem copyPieces_still {f : Fixed} (ag src dst len hint) (ps : List (Nat × Nat)) : Still f (copyPieces ag src dst len hint ps) := by
  induction ps with
  | nil => exact still_pure _
  | cons p ps ih => exact (notingPart_still _ (copyPiece_still ..)).bind fun _ => ih

@[simp] theorem copyWithin_still {f : Fixed} (ag src dst len hint) : Still f (copyWithin ag src dst len hint) := by simp [copyWithin]

@[simp] theorem State.copyRun_fixed (s : State) (j x) : (s.copyRun j x).fixed = s.fixed := by
  unfold State.copyRun
  (repeat' split) <;> simp

@[simp] theorem execDmaCopy_stays (s : State) (q) : Stays s (execDmaCopy q s) := by simp [execDmaCopy]
@[simp] theorem State.withdrawBuffer_fixed (s : State) (page) : (s.withdrawBuffer page).fixed = s.fixed := by simp [State.withdrawBuffer]

@[simp] theorem State.withdrawFrame_fixed (s : State) (page) : (s.withdrawFrame page).fixed = s.fixed := by
  unfold State.withdrawFrame
  dsimp only
  (repeat' split) <;> simp

@[simp] theorem State.withdrawPage_fixed (s : State) (page) : (s.withdrawPage page).fixed = s.fixed := by
  unfold State.withdrawPage
  (repeat' split) <;> simp

@[simp] theorem State.retire_fixed (s : State) (page) : (s.retire page).fixed = s.fixed := by simp [State.retire]

@[simp] theorem State.retireEntry_fixed (s : State) (dpa) : (s.retireEntry dpa).1.fixed = s.fixed := by
  unfold State.retireEntry
  (repeat' split) <;> simp

@[simp] theorem State.retireRun_fixed (s : State) (j x) : (s.retireRun j x).fixed = s.fixed := by simp [State.retireRun]
@[simp] theorem execRetirePages_stays (s : State) (q) : Stays s (execRetirePages q s) := by simp [execRetirePages]
@[simp] theorem State.testEffect_fixed (s : State) (d r) : (s.testEffect d r).fixed = s.fixed := by simp [State.testEffect]

@[simp] theorem State.trafficGo_fixed (s : State) (r) (j d result) : (State.trafficGo r s j d result).fixed = s.fixed := by
  simp [State.trafficGo]

@[simp] theorem State.trafficRun_fixed (s : State) (r) (j x) : (State.trafficRun r s j x).fixed = s.fixed := by
  unfold State.trafficRun
  dsimp only
  split
  · simp
  · split
    · split <;> simp
    · refine s.withStruct_fixed _ _ _ fun t bs => ?_
      split <;> simp

@[simp] theorem execRunTrafficTest_stays (s : State) (q r) : Stays s (execRunTrafficTest q r s) := by simp [execRunTrafficTest]
@[simp] theorem State.linkRun_fixed (s : State) (j x) : (s.linkRun j x).fixed = s.fixed := by simp [State.linkRun]
@[simp] theorem execLinkTest_stays (s : State) (q) : Stays s (execLinkTest q s) := by simp [execLinkTest]
@[simp] theorem State.testSaw_fixed (s : State) (p good) : (s.testSaw p good).fixed = s.fixed := by simp [State.testSaw]

@[simp] theorem execLinkTestFrame_stays (s : State) (f payloadOk) : Stays s (execLinkTestFrame f payloadOk s) := by
  unfold execLinkTestFrame
  dsimp only
  (repeat' split) <;> simp

@[simp] theorem execLinkTestEnd_stays (s : State) (now results) : Stays s (execLinkTestEnd now results s) := by
  unfold execLinkTestEnd
  dsimp only
  (repeat' split) <;> simp

/-! ### Through boot, power and training -/

@[simp] theorem execBootChunk_stays (s : State) : Stays s (execBootChunk s) := by simp [execBootChunk]
@[simp] theorem execBootFinish_stays (s : State) : Stays s (execBootFinish s) := by simp [execBootFinish]
@[simp] theorem execBootDiscard_stays (s : State) : Stays s (execBootDiscard s) := by simp [execBootDiscard]

@[simp] theorem State.writeBoot_stays (s : State) (o size v) : Stays s (s.writeBoot o size v) := by
  unfold State.writeBoot
  (repeat' split) <;> simp

@[simp] theorem execRegisterWrite_stays (s : State) (bar offset size value) : Stays s (execRegisterWrite bar offset size value s) := by
  unfold execRegisterWrite
  (repeat' split) <;> simp

@[simp] theorem State.startFirmware_fixed (s : State) (linked) : (s.startFirmware linked).fixed = s.fixed := by simp [State.startFirmware]

@[simp] theorem execFirmwareVerified_stays (s : State) (now linked) : Stays s (execFirmwareVerified now linked s) := by
  unfold execFirmwareVerified
  dsimp only
  (repeat' split) <;> simp

@[simp] theorem State.afresh_fixed (s : State) (powered) : (s.afresh powered).fixed = s.fixed := by simp [State.afresh]
@[simp] theorem execPowerUp_stays (s : State) : Stays s (execPowerUp s) := by simp [execPowerUp]
@[simp] theorem State.cutWrites_fixed (s : State) : s.cutWrites.fixed = s.fixed := by simp [State.cutWrites]
@[simp] theorem execPowerLoss_stays (s : State) : Stays s (execPowerLoss s) := by simp [execPowerLoss]
@[simp] theorem execPerstAssert_stays (s : State) : Stays s (execPerstAssert s) := by simp [execPerstAssert]

@[simp] theorem execPerstRelease_stays (s : State) (w straps) : Stays s (execPerstRelease w straps s) := by
  unfold execPerstRelease
  (repeat' split) <;> simp

@[simp] theorem execLinkTrained_stays (s : State) (now width rate) : Stays s (execLinkTrained now width rate s) := by simp [execLinkTrained]

@[simp] theorem execStackTrainingDone_stays (s : State) (now failed) :
    Stays s (execStackTrainingDone now failed s) := by simp [execStackTrainingDone]

@[simp] theorem execSelfCheckDone_stays (s : State) (now badPages pcOverLimit) :
    Stays s (execSelfCheckDone now badPages pcOverLimit s) := by simp [execSelfCheckDone]

/-! ### Through fatal reports, temperatures and power -/

@[simp] theorem execFatalSequence_stays (s : State) (now) : Stays s (execFatalSequence now s) := by
  unfold execFatalSequence
  dsimp only
  (repeat' split) <;> simp

@[simp] theorem State.fatalReport_fixed (s : State) (cause) : (s.fatalReport cause).fixed = s.fixed := by simp [State.fatalReport]
@[simp] theorem State.noteEvent_fixed (s : State) (e) : (s.noteEvent e).fixed = s.fixed := by simp [State.noteEvent]
@[simp] theorem execCpLivenessTimeout_stays (s : State) (now) : Stays s (execCpLivenessTimeout now s) := by simp [execCpLivenessTimeout]
@[simp] theorem execSecurityEngineFailure_stays (s : State) : Stays s (execSecurityEngineFailure s) := by simp [execSecurityEngineFailure]
@[simp] theorem execBridgeUncorrectable_stays (s : State) : Stays s (execBridgeUncorrectable s) := by simp [execBridgeUncorrectable]

@[simp] theorem execHbmTempReading_stays (s : State) (now r reading) : Stays s (execHbmTempReading now r reading s) := by
  unfold execHbmTempReading
  (repeat' split) <;> simp

@[simp] theorem State.thermal_fixed (s : State) (r) : (s.thermal r).fixed = s.fixed := by simp [State.thermal]

@[simp] theorem State.reheat_fixed (s : State) (r) : (s.reheat r).fixed = s.fixed := by
  unfold State.reheat
  (repeat' split) <;> simp

@[simp] theorem State.trip_fixed (s : State) : s.trip.fixed = s.fixed := by simp [State.trip]

@[simp] theorem execTempSensorReading_stays (s : State) (now r sensor reading) : Stays s (execTempSensorReading now r sensor reading s) := by
  unfold execTempSensorReading
  (repeat' split) <;> simp

@[simp] theorem State.meter_fixed (s : State) (r current limit) : (s.meter r current limit).fixed = s.fixed := by simp [State.meter]

@[simp] theorem execControlLoop_stays (s : State) (now r paceMre paceGe current limit) :
    Stays s (execControlLoop now r paceMre paceGe current limit s) := by simp [execControlLoop]

@[simp] theorem execRegionWake_stays (s : State) (now r) : Stays s (execRegionWake now r s) := by simp [execRegionWake]
@[simp] theorem execVBaseFound_stays (s : State) (r vBase proc0 proc1) : Stays s (execVBaseFound r vBase proc0 proc1 s) := by simp [execVBaseFound]
@[simp] theorem execRegionSupply_stays (s : State) (now r vmon0 vmon1) : Stays s (execRegionSupply now r vmon0 vmon1 s) := by simp [execRegionSupply]
@[simp] theorem State.countPace_fixed (s : State) (r low) : (s.countPace r low).fixed = s.fixed := by simp [State.countPace]
@[simp] theorem execPaceSample_stays (s : State) (now r) : Stays s (execPaceSample now r s) := by simp [execPaceSample]
@[simp] theorem execHoursTick_stays (s : State) (now) : Stays s (execHoursTick now s) := by simp [execHoursTick]

/-! ### Through the units' faults -/

@[simp] theorem State.unitFault_fixed (s : State) (kind unit i st cause instr operand e0 e1) :
    (s.unitFault kind unit i st cause instr operand e0 e1).fixed = s.fixed := by simp [State.unitFault]

@[simp] theorem execClusterBarrier_stays (s : State) (c) : Stays s (execClusterBarrier c s) := by simp [execClusterBarrier]

/-! ### Through the matrix engine -/

@[simp] theorem State.mreFault_fixed (s : State) (c i st cause m j) : (s.mreFault c i st cause m j).fixed = s.fixed := by simp [State.mreFault]
@[simp] theorem State.mreDone_fixed (s : State) (c t0 chain) : (s.mreDone c t0 chain).fixed = s.fixed := by simp [State.mreDone]

@[simp] theorem execMatmul_stays (s : State) (c) : Stays s (execMatmul c s) := by
  unfold execMatmul
  dsimp only
  (repeat' split) <;> simp

@[simp] theorem execReadAcc_stays (s : State) (c) : Stays s (execReadAcc c s) := by
  unfold execReadAcc
  dsimp only
  (repeat' split) <;> simp

/-! ### Through the vector engines and the reduction unit -/

@[simp] theorem State.setVe_fixed (s : State) (u f) : (s.setVe u f).fixed = s.fixed := by simp [State.setVe]

@[simp] theorem State.veFault_fixed (s : State) (u i st cause operand e) :
    (s.veFault u i st cause operand e).fixed = s.fixed := by simp [State.veFault]

@[simp] theorem State.putEng_fixed (s : State) (u m) : (s.putEng u m).fixed = s.fixed := by simp [State.putEng]
@[simp] theorem State.veNext_fixed (s : State) (u) : (s.veNext u).fixed = s.fixed := by simp [State.veNext]

@[simp] theorem State.veFront_stays (s : State) (op u ok scalar pOk) {k : Nat → Step → VeCtx → Host.Outcome State Fault Refusal}
    (hk : ∀ i st v, Stays s (k i st v)) :
    Stays s (s.veFront op u ok scalar pOk k) := by
  unfold State.veFront
  (repeat' split) <;> simp [hk]

@[simp] theorem State.veEnd_stays {s t : State} (h : t.fixed = s.fixed) (u i st r) : Stays s (t.veEnd u i st r) := by
  unfold State.veEnd
  split <;> simp [h]

@[simp] theorem State.veClash_fixed (s : State) (u i v n bad r) : (s.veClash u i v n bad r).1.fixed = s.fixed := by
  unfold State.veClash
  (repeat' split) <;> simp

@[simp] theorem State.veRun_stays (s : State) (op u ok scalar pOk form value) :
    Stays s (s.veRun op u ok scalar pOk form value) := by simp [State.veRun]

@[simp] theorem State.veUnary_stays (s : State) (op u f) : Stays s (s.veUnary op u f) := by simp [State.veUnary]
@[simp] theorem State.veBinary_stays (s : State) (op u f) : Stays s (s.veBinary op u f) := by simp [State.veBinary]
@[simp] theorem State.veCast_stays (s : State) (op u f) : Stays s (s.veCast op u f) := by simp [State.veCast]
@[simp] theorem execAdd_stays (s : State) (u) : Stays s (execAdd u s) := by simp [execAdd]
@[simp] theorem execSub_stays (s : State) (u) : Stays s (execSub u s) := by simp [execSub]
@[simp] theorem execMul_stays (s : State) (u) : Stays s (execMul u s) := by simp [execMul]
@[simp] theorem execFma_stays (s : State) (u) : Stays s (execFma u s) := by simp [execFma]
@[simp] theorem execMax_stays (s : State) (u) : Stays s (execMax u s) := by simp [execMax]
@[simp] theorem execMin_stays (s : State) (u) : Stays s (execMin u s) := by simp [execMin]
@[simp] theorem execRelu_stays (s : State) (u) : Stays s (execRelu u s) := by simp [execRelu]
@[simp] theorem execExp_stays (s : State) (u) : Stays s (execExp u s) := by simp [execExp]
@[simp] theorem execSigmoid_stays (s : State) (u) : Stays s (execSigmoid u s) := by simp [execSigmoid]
@[simp] theorem execTanh_stays (s : State) (u) : Stays s (execTanh u s) := by simp [execTanh]
@[simp] theorem execRecip_stays (s : State) (u) : Stays s (execRecip u s) := by simp [execRecip]
@[simp] theorem execRsqrt_stays (s : State) (u) : Stays s (execRsqrt u s) := by simp [execRsqrt]
@[simp] theorem execBcastAdd_stays (s : State) (u) : Stays s (execBcastAdd u s) := by simp [execBcastAdd]
@[simp] theorem execBcastMul_stays (s : State) (u) : Stays s (execBcastMul u s) := by simp [execBcastMul]
@[simp] theorem execScale_stays (s : State) (u) : Stays s (execScale u s) := by simp [execScale]
@[simp] theorem execConvert_stays (s : State) (u) : Stays s (execConvert u s) := by simp [execConvert]
@[simp] theorem execQuantise_stays (s : State) (u) : Stays s (execQuantise u s) := by simp [execQuantise]
@[simp] theorem execDequant_stays (s : State) (u) : Stays s (execDequant u s) := by simp [execDequant]
@[simp] theorem execRotate_stays (s : State) (u) : Stays s (execRotate u s) := by simp [execRotate]

@[simp] theorem State.maskEnd_stays (s : State) (u i st k r) : Stays s (s.maskEnd u i st k r) := by
  unfold State.maskEnd
  (repeat' split) <;> simp

@[simp] theorem execCmp_stays (s : State) (u) : Stays s (execCmp u s) := by simp [execCmp]
@[simp] theorem execSelect_stays (s : State) (u) : Stays s (execSelect u s) := by simp [execSelect]
@[simp] theorem execMload_stays (s : State) (u) : Stays s (execMload u s) := by simp [execMload]
@[simp] theorem execMstore_stays (s : State) (u) : Stays s (execMstore u s) := by simp [execMstore]
@[simp] theorem execMove_stays (s : State) (u) : Stays s (execMove u s) := by simp [execMove]
@[simp] theorem execTake_stays (s : State) (u) : Stays s (execTake u s) := by simp [execTake]
@[simp] theorem execTileReduce_stays (s : State) (u) : Stays s (execTileReduce u s) := by simp [execTileReduce]
@[simp] theorem State.ruNext_fixed (s : State) (c) : (s.ruNext c).fixed = s.fixed := by simp [State.ruNext]
@[simp] theorem State.ruStop_fixed (s : State) (c) : (s.ruStop c).fixed = s.fixed := by simp [State.ruStop]
@[simp] theorem State.veStop_fixed (s : State) (u) : (s.veStop u).fixed = s.fixed := by simp [State.veStop]
@[simp] theorem State.ruFault_fixed (s : State) (c i st cause) : (s.ruFault c i st cause).fixed = s.fixed := by simp [State.ruFault]

@[simp] theorem State.pairRun_fixed (s : State) (u i st v x) : (s.pairRun u i st v x).fixed = s.fixed := by
  unfold State.pairRun
  dsimp only
  (repeat' split) <;> simp

@[simp] theorem execReduce_stays (s : State) (u) : Stays s (execReduce u s) := by
  unfold execReduce
  (repeat' split) <;> simp

@[simp] theorem execRuReduce_stays (s : State) (c) : Stays s (execRuReduce c s) := by
  unfold execRuReduce
  dsimp only
  (repeat' split) <;> simp

/-! ### Through the DMA engine's words -/

@[simp] theorem State.dmaBad_fixed (s : State) (c i st) : (s.dmaBad c i st).fixed = s.fixed := by simp [State.dmaBad]
@[simp] theorem State.dmaNext_fixed (s : State) (c t0) : (s.dmaNext c t0).fixed = s.fixed := by simp [State.dmaNext]
@[simp] theorem State.releaseAll_fixed (s : State) (release ag rs) : (s.releaseAll release ag rs).fixed = s.fixed := by simp [State.releaseAll]
@[simp] theorem State.dmaFail_fixed (s : State) (c ag t0 done f) : (s.dmaFail c ag t0 done f).fixed = s.fixed := by simp [State.dmaFail]

@[simp] theorem State.dmaIn_fixed (s : State) (c ag dva len t0 hint) {k : State → State} (hk : ∀ t, (k t).fixed = t.fixed) :
    (s.dmaIn c ag dva len t0 hint k).fixed = s.fixed := by simp [State.dmaIn, hk]

@[simp] theorem execDmaSet_stays (s : State) (c) : Stays s (execDmaSet c s) := by
  unfold execDmaSet
  (repeat' split) <;> simp

@[simp] theorem execDmaRead_stays (s : State) (c ecc) : Stays s (execDmaRead c ecc s) := by
  unfold execDmaRead
  (repeat' split) <;> simp

@[simp] theorem execDmaWrite_stays (s : State) (c) : Stays s (execDmaWrite c s) := by
  unfold execDmaWrite
  (repeat' split) <;> simp

@[simp] theorem gatherOne_still {f : Fixed} (ag table elem h sample) : Still f (gatherOne ag table elem h sample) := by simp [gatherOne]

@[simp] theorem gatherLoop_still {f : Fixed} (ag table elem n h) (ks : List Nat) (done got) :
    Still f (gatherLoop ag table elem n h ks done got) := by
  induction ks generalizing done got with
  | nil => exact still_pure got
  | cons k ks ih => exact (notingPart_still _ (gatherOne_still ..)).bind fun p => ih _ _

@[simp] theorem gatherRead_still {f : Fixed} (ag table elem h samples) : Still f (gatherRead ag table elem h samples) := by simp [gatherRead]

@[simp] theorem execDmaGather_stays (s : State) (c) : Stays s (execDmaGather c s) := by
  unfold execDmaGather
  (repeat' split) <;> simp

/-! ### Through a step's beginning, work and rounds -/

@[simp] theorem State.choose_fixed (s : State) : s.choose.fixed = s.fixed := by simp [State.choose]
@[simp] theorem execRunStep_stays (s : State) (q) : Stays s (execRunStep q s) := by simp [execRunStep]
@[simp] theorem accOf_still {f : Fixed} {α : Type} (ag) {m : Acc α} (hm : Still f m) : Still f (accOf ag m) := ⟨fun s hs => hm.run s hs⟩

@[simp] theorem State.work_fixed {α : Type} (s : State) (i) {m : Work α} (hm : Still s.fixed m) {k : State → α → State}
    (hk : ∀ t a, (k t a).fixed = t.fixed) :
    (s.work i m k).fixed = s.fixed := by
  unfold State.work
  split <;> rename_i hr
  · exact (hk _ _).trans (hm.of_run rfl hr)
  · rw [foldl_fixed fun t c => by simp, State.sendSnoop_fixed]
  all_goals simpa using hm.of_run rfl hr

@[simp] theorem State.gather_still {f : Fixed} (s : State) (i st d) : Still f (s.gather i st d) := by
  unfold State.gather
  (repeat' split) <;> simp

@[simp] theorem State.newReqId_fixed (s : State) : (s.newReqId).1.fixed = s.fixed := by simp [State.newReqId]
@[simp] theorem State.setStep_fixed (s : State) (i f) : (s.setStep i f).fixed = s.fixed := by simp [State.setStep]
@[simp] theorem State.countExhausted_fixed (s : State) (n) : (s.countExhausted n).fixed = s.fixed := by simp [State.countExhausted]
@[simp] theorem State.sendBatch_fixed (s : State) (i st reissue b) : (s.sendBatch i st reissue b).fixed = s.fixed := by simp [State.sendBatch]

@[simp] theorem State.strictCheck_fixed (s : State) (i) : (s.strictCheck i).fixed = s.fixed := by
  unfold State.strictCheck
  dsimp only
  (repeat' split) <;> simp

@[simp] theorem State.releaseRound_fixed (s : State) (i) : (s.releaseRound i).fixed = s.fixed := by
  unfold State.releaseRound
  (repeat' split) <;> simp

@[simp] theorem execRoundRelease_stays (s : State) (slot) : Stays s (execRoundRelease slot s) := by simp [execRoundRelease]
@[simp] theorem State.countHedges_fixed (s : State) (i c n) : (s.countHedges i c n).fixed = s.fixed := by simp [State.countHedges]

@[simp] theorem State.reissue_fixed (s : State) (i c ks) : (s.reissue i c ks).fixed = s.fixed := by
  unfold State.reissue
  (repeat' split) <;> simp

@[simp] theorem State.setReflection_fixed (s : State) (table row f) : (s.setReflection table row f).fixed = s.fixed := by simp [State.setReflection]

@[simp] theorem State.askFill_fixed (s : State) (table row again members) : (s.askFill table row again members).fixed = s.fixed := by
  unfold State.askFill
  dsimp only
  (repeat' split) <;> simp

@[simp] theorem State.beginFill_fixed (s : State) (table row) : (s.beginFill table row).fixed = s.fixed := by
  unfold State.beginFill
  (repeat' split) <;> simp

@[simp] theorem State.nextFill_fixed (s : State) (table row members) : (s.nextFill table row members).fixed = s.fixed := by simp [State.nextFill]

/-! ### Through the lookups of a step -/

@[simp] theorem originOf_still {f : Fixed} (ag st t v row) : Still f (originOf ag st t v row) := by
  unfold originOf
  (repeat' split) <;> simp

@[simp] theorem partSource_still {f : Fixed} (ag st region t v row sample weight pool z) :
    Still f (partSource ag st region t v row sample weight pool z) := (originOf_still ..).bind fun o => by
    dsimp only
    split
    · exact still_pure _
    · split
      · exact still_pure _
      · split <;> exact still_pure _

@[simp] theorem sortIndex_still {f : Fixed} (ag st region di l t idx sample weight z) :
    Still f (sortIndex ag st region di l t idx sample weight z) := by
  unfold sortIndex
  dsimp only
  split
  · exact still_pure _
  · split
    · refine .getBind fun s _ => ?_
      split
      · exact (partSource_still ..).bind fun _ => (partSource_still ..).bind fun _ => still_pure _
      · exact still_pure _
    · exact (partSource_still ..).bind fun _ => still_pure _

@[simp] theorem readBags_still {f : Fixed} (ag st l) : Still f (readBags ag st l) := by simp [readBags]
@[simp] theorem readIndices_still {f : Fixed} (ag st l t ends) : Still f (readIndices ag st l t ends) := by simp [readIndices]
@[simp] theorem reflRow_still {f : Fixed} (ag d r all) : Still f (reflRow ag d r all) := by simp [reflRow]

@[simp] theorem fetchRow_still {f : Fixed} (ag st seq t x) : Still f (fetchRow ag st seq t x) := by
  unfold fetchRow
  split
  · refine (rowPlace_still ..).bind fun p => (rowAt_still ..).bind fun b => ?_
    split <;> exact still_pure _
  · split
    · exact (reflRow_still ..).bind fun _ => still_pure _
    · exact still_pure _
  · exact still_pure _

@[simp] theorem prefetchRow_still {f : Fixed} (ag st seq x) : Still f (prefetchRow ag st seq x) := .getBind fun s hs => by
  split
  · exact still_pure _
  · split
    · exact (Still.set (by simpa using hs)).bind fun _ => still_pure _
    · refine forgive_still _ none ((fetchRow_still ..).bind fun r => ?_)
      split
      · refine (homeRegion_still ..).bind fun r => .getBind fun t ht => ?_
        split
        · exact still_pure _
        · rename_i hroom
          exact (Still.set (by simpa using (makeRoom_fixed hroom).trans ht)).bind fun _ => still_pure _
      · exact still_pure _

@[simp] theorem State.sortStep_still {f : Fixed} (s : State) (i st) : Still f (s.sortStep i st) := by
  refine (Still.forIn (fun p z => ?_) _ _).bind fun _ => still_pure _
  dsimp only
  split
  · simp
  · refine (State.gather_still ..).bind fun r => (accOf_still _ (readBags_still ..)).bind fun _ => ?_
    refine (accOf_still _ (readIndices_still ..)).bind fun _ => ?_
    exact (Still.forIn (fun y z => (accOf_still _ (sortIndex_still ..)).bind fun _ => still_pure _) _ _).bind fun _ => still_pure _

@[simp] theorem State.prefetch_still {f : Fixed} (s : State) (i st seq) : Still f (s.prefetch i st seq) := by
  refine (State.sortStep_still ..).bind fun z => .bind (.forIn (fun x p => ?_) _ _) fun _ => still_pure _
  refine (accOf_still _ (prefetchRow_still ..)).bind fun r => ?_
  split <;> simp

@[simp] theorem State.stallCheck_fixed (s : State) (i) : (s.stallCheck i).fixed = s.fixed := by
  unfold State.stallCheck
  (repeat' split) <;> simp

@[simp] theorem State.expire_fixed (s : State) (i) : (s.expire i).fixed = s.fixed := by
  unfold State.expire
  (repeat' split) <;> simp

@[simp] theorem execLookupBudgetExpiry_stays (s : State) (now slot) : Stays s (execLookupBudgetExpiry now slot s) := by
  unfold execLookupBudgetExpiry
  dsimp only
  (repeat' split) <;> simp

@[simp] theorem State.deadlineCheck_fixed (s : State) (i) : (s.deadlineCheck i).fixed = s.fixed := by
  unfold State.deadlineCheck
  (repeat' split) <;> simp

@[simp] theorem execDeadlinePass_stays (s : State) (now slot) : Stays s (execDeadlinePass now slot s) := by simp [execDeadlinePass]
@[simp] theorem State.enterLookup_fixed (s : State) (i p) : (s.enterLookup i p).fixed = s.fixed := by simp [State.enterLookup]

@[simp] theorem execPrefetchDone_stays (s : State) (slot) : Stays s (execPrefetchDone slot s) := by
  unfold execPrefetchDone
  dsimp only
  (repeat' split) <;> simp

@[simp] theorem localRow_still {f : Fixed} (ag st seq x) : Still f (localRow ag st seq x) := .getBind fun s _ => by
  dsimp only
  split
  · exact still_pure _
  · split
    · split
      · exact rowAt_still ..
      · exact still_pure _
    · split
      · exact (reflRow_still ..).bind fun _ => still_pure _
      · exact still_pure _
    · exact still_pure _

@[simp] theorem decodeFor_still {f : Fixed} (d g body) : Still f (decodeFor d g body) := by
  simp +contextual [decodeFor]

@[simp] theorem sourceVals_still {f : Fixed} (ag st seq x) : Still f (sourceVals ag st seq x) := .getBind fun s _ => by
  have hrow : ∀ (t : Table) (row : Nat), Still f (do
      match ← localRow ag st seq x with
      | some body => decodeFor t.desc st.grid body
      | none => return freeRow t.desc row) := fun t row => (localRow_still ..).bind fun b => by split <;> simp
  split
  · split
    · exact still_pure _
    · exact hrow _ _
  · split
    · exact still_pure _
    · exact hrow _ _
  · exact still_pure _

@[simp] theorem readKept_still {f : Fixed} (ag dva len) : Still f (readKept ag dva len) := by simp [readKept]
@[simp] theorem readDense_still {f : Fixed} (ag dva len) : Still f (readDense ag dva len) := by simp [readDense]

@[simp] theorem State.finishReads_still {f : Fixed} (s : State) (i st) : Still f (s.finishReads i st) := by
  refine (Still.forIn (fun x d => (readDense_still ..).bind fun _ => ?_) _ _).bind fun d => ?_
  · simp
  · exact (Still.forIn (fun x k => (accOf_still _ (sourceVals_still ..)).bind fun _ => still_pure _) _ _).bind fun _ => still_pure _

@[simp] theorem State.enterDense_fixed (s : State) (i st known shares) :
    (s.enterDense i st known shares).fixed = s.fixed := by simp [State.enterDense]

@[simp] theorem execLookupDone_stays (s : State) (slot) : Stays s (execLookupDone slot s) := by
  unfold execLookupDone
  dsimp only
  (repeat' split) <;> simp

/-! ### Through answers to a step and to a fill -/

@[simp] theorem execHedgeThreshold_stays (s : State) (now slot entry) : Stays s (execHedgeThreshold now slot entry s) := by
  unfold execHedgeThreshold
  dsimp only
  (repeat' split) <;> simp

@[simp] theorem State.countLate_fixed (s : State) (n) : (s.countLate n).fixed = s.fixed := by simp [State.countLate]
@[simp] theorem State.countRedundant_fixed (s : State) (n) : (s.countRedundant n).fixed = s.fixed := by simp [State.countRedundant]
@[simp] theorem State.countSkew_fixed (s : State) (i skew) : (s.countSkew i skew).fixed = s.fixed := by simp [State.countSkew]

@[simp] theorem State.rowAnswer_fixed (s : State) (i m row body) : (s.rowAnswer i m row body).fixed = s.fixed := by
  unfold State.rowAnswer
  (repeat' split) <;> simp

@[simp] theorem State.countPartial_fixed (s : State) (dflt answered) : (s.countPartial dflt answered).fixed = s.fixed := by simp [State.countPartial]

@[simp] theorem State.partialAnswer_fixed (s : State) (i m sample version vals) : (s.partialAnswer i m sample version vals).fixed = s.fixed := by
  unfold State.partialAnswer
  (repeat' split) <;> simp

@[simp] theorem State.notHeldAnswer_fixed (s : State) (i m src row) : (s.notHeldAnswer i m src row).1.fixed = s.fixed := by
  unfold State.notHeldAnswer
  (repeat' split) <;> simp

@[simp] theorem State.stepReply_fixed (s : State) (i src m) : (s.stepReply i src m).fixed = s.fixed := by
  unfold State.stepReply
  dsimp only
  rw [State.stallCheck_fixed, State.progressOf_fixed]
  split
  · rw [State.reissue_fixed]
    exact foldl_fst_fixed (fun a e => by split <;> simp) _ _
  · exact foldl_fst_fixed (fun a e => by split <;> simp) _ _

@[simp] theorem State.lateAnswer_fixed (s : State) (m e) : (s.lateAnswer m e).fixed = s.fixed := by
  unfold State.lateAnswer
  (repeat' split) <;> simp

@[simp] theorem State.waitSlot_fixed (s : State) (fill table row g body) :
    (s.waitSlot fill table row g body).fixed = s.fixed := by simp [State.waitSlot]

@[simp] theorem State.writeSlot_fixed (s : State) (fill table row g body) : (s.writeSlot fill table row g body).fixed = s.fixed := by
  unfold State.writeSlot
  split
  · dsimp only
    split
    · simp
    · rename_i hr
      simpa using (writeDva_still ..).of_go hr
    · rename_i hr
      simpa using (writeDva_still ..).of_go hr
  · rfl

@[simp] theorem State.writeFill_fixed (s : State) (table row g body) : (s.writeFill table row g body).fixed = s.fixed := by
  unfold State.writeFill
  (repeat' split) <;> simp

@[simp] theorem State.fillReply_fixed (s : State) (r members m) : (s.fillReply r members m).fixed = s.fixed := by
  refine foldl_fixed (fun t e => ?_) _ _
  (repeat' split) <;> simp

@[simp] theorem State.takeReply_fixed (s : State) (src m) : (s.takeReply src m).fixed = s.fixed := by
  unfold State.takeReply
  (repeat' split) <;> simp

@[simp] theorem execLookupReply_stays (s : State) (f m) : Stays s (execLookupReply f m s) := by
  unfold execLookupReply
  split <;> rename_i hr <;> simp [fst_fixed hr]

@[simp] theorem execPooledReply_stays (s : State) (f m) : Stays s (execPooledReply f m s) := by
  unfold execPooledReply
  split <;> rename_i hr <;> simp [fst_fixed hr]

/-! ### Through rows served and pushed to other devices -/

@[simp] theorem serveRow_still {f : Fixed} (ag t v row) : Still f (serveRow ag t v row) := by
  refine Still.tryCatch ?_ fun f => ?_
  · split
    · exact still_pure _
    · refine (shardEntry_still ..).bind fun e => ?_
      split
      · exact still_pure _
      · refine .getBind fun s _ => ?_
        split
        · exact still_pure _
        · refine (rowAt_still ..).bind fun b => ?_
          split <;> exact still_pure _
  · split
    · exact (Still.modify fun s => by simp).bind fun _ => still_pure _
    · exact still_throw _

@[simp] theorem serveRegion_still {f : Fixed} (ag v) : Still f (serveRegion ag v) := by simp [serveRegion]
@[simp] theorem readRows_still {f : Fixed} (ag t v rows) : Still f (readRows ag t v rows) := by simp [readRows]

@[simp] theorem decodeRows_still {f : Fixed} (d rows) :
    Still f (decodeRows d rows) := Still.mapM (fun r => .getBind fun s hs => (Still.set (by simpa using hs)).bind fun _ => still_pure _) rows

@[simp] theorem State.countServePoison_fixed (s : State) (m read) :
    (s.countServePoison m read).fixed = s.fixed := foldl_fixed (fun t r => by split <;> simp) read s

@[simp] theorem serveTable_still {f : Fixed} (t m) :
    Still f (serveTable t m) := (serveRegion_still ..).bind fun r => (readRows_still ..).bind fun read => by
    dsimp only
    split
    · exact still_pure _
    · exact (Still.modify fun s => by simp).bind fun _ => (decodeRows_still ..).bind fun _ => still_pure _

@[simp] theorem serveMsg_still {f : Fixed} (m) : Still f (serveMsg m) := .getBind fun s _ => by
  split
  · exact serveTable_still ..
  · exact still_pure _

@[simp] theorem State.sendReply_fixed (s : State) (src m a) : (s.sendReply src m a).fixed = s.fixed := by simp [State.sendReply]

@[simp] theorem State.serveAll_fixed (s : State) (blocked) (l : List (Nat × ReqMsg)) : (s.serveAll blocked l).1.fixed = s.fixed := by
  induction l generalizing s blocked with
  | nil => rfl
  | cons x l ih =>
    unfold State.serveAll
    dsimp only
    split
    · exact ih _ _
    · split <;> rename_i hr
      · rw [ih]
        split <;> simpa using (serveMsg_still _).of_go hr
      · simp [ih]
      · simpa [ih] using (serveMsg_still _).of_go hr

@[simp] theorem State.servePump_fixed (s : State) : s.servePump.fixed = s.fixed := by simp [State.servePump]

@[simp] theorem execLookupRequest_stays (s : State) (f m ecc) : Stays s (execLookupRequest f m ecc s) := by
  unfold execLookupRequest
  split <;> rename_i hr <;> simp [fst_fixed hr]

@[simp] theorem State.takePush_fixed (s : State) (table row g body) : (s.takePush table row g body).fixed = s.fixed := by
  unfold State.takePush
  (repeat' split) <;> simp

@[simp] theorem State.slotPump_fixed (s : State) : s.slotPump.fixed = s.fixed := by simp [State.slotPump]

@[simp] theorem execReflectionPush_stays (s : State) (f p) : Stays s (execReflectionPush f p s) := by
  unfold execReflectionPush
  split <;> rename_i hr <;> simp [fst_fixed hr]

@[simp] theorem State.releasePushes_fixed (s : State) (table row) : (s.releasePushes table row).fixed = s.fixed := by simp [State.releasePushes]

@[simp] theorem execPushRelease_stays (s : State) (table row) : Stays s (execPushRelease table row s) := by
  unfold execPushRelease
  (repeat' split) <;> simp

@[simp] theorem pushRow_still {f : Fixed} (t v row seam) : Still f (pushRow t v row seam) := by simp [pushRow]

@[simp] theorem State.pushPump_fixed (s : State) (fuel) : (s.pushPump fuel).fixed = s.fixed := by
  induction fuel generalizing s with
  | zero => rfl
  | succ fuel ih =>
    unfold State.pushPump
    split
    · rfl
    · rename_i table row num seam members rest _
      have hread (f : Fixed) : Still f (match (s.table? table).bind fun t => (t.version? num).map fun v => (t, v) with
          | some (t, v) => pushRow t v row seam
          | none => pure none) := by
        split <;> simp
      dsimp only
      split <;> rename_i hr
      · rw [ih, foldl_fixed fun t d => by split <;> simp]
        simpa using (hread _).of_go hr
      · simpa [ih] using (hread _).of_go hr
      · simp
      · simpa [ih] using (hread _).of_go hr

/-! ### Through what goes on by itself, and status records -/

@[simp] theorem State.goOn_fixed (s : State) (j x) : (s.goOn j x).fixed = s.fixed := by simp [State.goOn]
@[simp] theorem State.goOnAll_fixed (s : State) : s.goOnAll.fixed = s.fixed := foldl_fixed (fun t j => by split <;> simp) _ _
@[simp] theorem State.settle_fixed (s : State) : s.settle.fixed = s.fixed := by simp [State.settle]
@[simp] theorem execBisnpResponse_stays (s : State) (line modified) : Stays s (execBisnpResponse line modified s) := by simp [execBisnpResponse]
@[simp] theorem execAtsCompletion_stays (s : State) (id a) : Stays s (execAtsCompletion id a s) := by simp [execAtsCompletion]

@[simp] theorem State.readBack_fixed (s : State) (r data) : (s.readBack r data).fixed = s.fixed := by
  unfold State.readBack
  (repeat' split) <;> simp

@[simp] theorem State.hostPoison_fixed (s : State) (r) : (s.hostPoison r).fixed = s.fixed := by
  unfold State.hostPoison
  (repeat' split) <;> simp

@[simp] theorem execHostReadCompletion_stays (s : State) (now id back) : Stays s (execHostReadCompletion now id back s) := by
  unfold execHostReadCompletion
  dsimp only
  (repeat' split) <;> simp

@[simp] theorem execLentResponse_stays (s : State) (f lease result tag data) : Stays s (execLentResponse f lease result tag data s) := by
  unfold execLentResponse
  split <;> rename_i hr <;> simp [fst_fixed hr]

@[simp] theorem State.pruneVersions_fixed (s : State) : s.pruneVersions.fixed = s.fixed := by simp [State.pruneVersions]
@[simp] theorem State.freeSlot_fixed (s : State) (i heard) : (s.freeSlot i heard).fixed = s.fixed := by simp [State.freeSlot]
@[simp] theorem State.endSequence_fixed (s : State) (j x) : (s.endSequence j x).fixed = s.fixed := by simp [State.endSequence]

@[simp] theorem State.makeVisible_fixed (s : State) (j x) : (s.makeVisible j x).1.fixed = s.fixed := by
  unfold State.makeVisible
  (repeat' split) <;> simp

@[simp] theorem State.tally_fixed (s : State) (q x) : (s.tally q x).fixed = s.fixed := by
  unfold State.tally
  (repeat' split) <;> simp

@[simp] theorem State.recordDone_fixed (s : State) (q x) : (s.recordDone q x).fixed = s.fixed := by
  unfold State.recordDone
  dsimp only
  (repeat' split) <;> simp

@[simp] theorem State.writeRecord_fixed (s : State) (q x) : (s.writeRecord q x).fixed = s.fixed := by
  unfold State.writeRecord
  dsimp only
  split <;> rename_i hv
  · simp [fst_fixed hv]
  · rename_i t
    have ht : (match t.stepSlot ⟨q, x.seq⟩ with | some i => t.deadlineCheck i | none => t).fixed = s.fixed := by
      split <;> simp [fst_fixed hv]
    split <;> rename_i hr
    · simp [((writeDpa_still ..).of_go hr).trans ht]
    · rw [State.sendSnoop_fixed]
      exact ht
    · simp [((writeDpa_still ..).of_go hr).trans ht]

@[simp] theorem execStatusRecordWrite_stays (s : State) (q) : Stays s (execStatusRecordWrite q s) := by
  unfold execStatusRecordWrite
  dsimp only
  (repeat' split) <;> simp

@[simp] theorem execQcmpSeqAdvance_stays (s : State) (q) : Stays s (execQcmpSeqAdvance q s) := by
  unfold execQcmpSeqAdvance
  dsimp only
  split
  · simp
  · split
    · simp
    · split <;> rename_i hr <;> simp [fst_fixed hr]

/-! ### Through a step's results -/

@[simp] theorem State.endShares_fixed (s : State) (i) : (s.endShares i).fixed = s.fixed := by
  unfold State.endShares
  (repeat' split) <;> simp

@[simp] theorem execDenseDone_stays (s : State) (slot) : Stays s (execDenseDone slot s) := by
  unfold execDenseDone
  dsimp only
  (repeat' split) <;> simp

@[simp] theorem emitWrites_still {f : Fixed} (ag st c out) : Still f (emitWrites ag st c out) := by simp [emitWrites]
@[simp] theorem State.releaseShare_fixed (s : State) (c i) : (s.releaseShare c i).fixed = s.fixed := by simp [State.releaseShare]

@[simp] theorem State.pushShare_fixed (s : State) (c i st out done) : (s.pushShare c i st out done).fixed = s.fixed := by
  unfold State.pushShare
  dsimp only
  (repeat' split) <;> simp

@[simp] theorem execClusterRelease_stays (s : State) (c) : Stays s (execClusterRelease c s) := by
  unfold execClusterRelease
  (repeat' split) <;> simp

@[simp] theorem State.dropShare_fixed (s : State) (c hung) : (s.dropShare c hung).fixed = s.fixed := by simp [State.dropShare]

@[simp] theorem execDiscardDone_stays (s : State) (slot) : Stays s (execDiscardDone slot s) := by
  unfold execDiscardDone
  dsimp only
  (repeat' split) <;> simp

/-! ### Through seams and the steps bound at them -/

@[simp] theorem State.enablePort_fixed (s : State) (p) : (s.enablePort p).fixed = s.fixed := by simp [State.enablePort]

@[simp] theorem State.seamPorts_fixed (s : State) : s.seamPorts.fixed = s.fixed := by
  unfold State.seamPorts
  (repeat' split) <;> simp

@[simp] theorem State.seamDim_fixed (s : State) : s.seamDim.fixed = s.fixed := by simp [State.seamDim]
@[simp] theorem State.seamMap_fixed (s : State) : s.seamMap.fixed = s.fixed := by simp [State.seamMap]
@[simp] theorem State.seamSwap_fixed (s : State) : s.seamSwap.fixed = s.fixed := by simp [State.seamSwap]
@[simp] theorem State.seamRelease_fixed (s : State) : s.seamRelease.fixed = s.fixed := by simp [State.seamRelease]

@[simp] theorem State.seamRefl_fixed (s : State) : s.seamRefl.fixed = s.fixed := by
  unfold State.seamRefl
  (repeat' split) <;> simp

@[simp] theorem State.dropEarly_fixed (s : State) : s.dropEarly.fixed = s.fixed := by simp [State.dropEarly]
@[simp] theorem State.applyEpoch_fixed (s : State) (n e) : (State.applyEpoch n s e).fixed = s.fixed := by simp [State.applyEpoch]
@[simp] theorem State.seamEpochs_fixed (s : State) : s.seamEpochs.fixed = s.fixed := by simp [State.seamEpochs]
@[simp] theorem State.seamValues_fixed (s : State) : s.seamValues.fixed = s.fixed := by simp [State.seamValues]
@[simp] theorem State.mend_fixed (s : State) : s.mend.fixed = s.fixed := by simp [State.mend]
@[simp] theorem State.passSeam_fixed (s : State) : s.passSeam.fixed = s.fixed := by simp [State.passSeam]
@[simp] theorem State.takeCluster_fixed (s : State) (i ctx c) : (s.takeCluster i ctx c).fixed = s.fixed := by simp [State.takeCluster]
@[simp] theorem State.markBound_fixed (s : State) (ids) : (s.markBound ids).fixed = s.fixed := by simp [State.markBound]

@[simp] theorem State.admitStep_fixed (s : State) (rt j i) : (s.admitStep rt j i).fixed = s.fixed := by
  unfold State.admitStep
  (repeat' split) <;> simp

@[simp] theorem State.seamFor_fixed (s : State) (j) : (s.seamFor j).fixed = s.fixed := by simp [State.seamFor]
@[simp] theorem State.setBinding_fixed (s : State) (b) : (s.setBinding b).fixed = s.fixed := by simp [State.setBinding]

@[simp] theorem State.fetchProgram_fixed (s : State) (j) : (s.fetchProgram j).2.fixed = s.fixed := by
  unfold State.fetchProgram
  split
  · rfl
  · split
    · rename_i hr
      exact (readDva_still ..).of_go hr
    · rename_i hr
      exact (readDva_still ..).of_go hr

@[simp] theorem State.bindStep_fixed (s : State) (b) : (s.bindStep b).fixed = s.fixed := by
  have hfetch : ∀ {r t}, s.fetchProgram b.job = (r, t) → t.fixed = s.fixed := fun hr => by
    have ht := s.fetchProgram_fixed b.job
    rwa [hr] at ht
  unfold State.bindStep
  split
  · simp
  · split <;> rename_i hr
    · simp
    · exact hfetch hr
    · simpa using hfetch hr
    · dsimp only
      rw [State.admitStep_fixed]
      split <;> simpa using hfetch hr

@[simp] theorem execSeam_stays (s : State) (now) : Stays s (execSeam now s) := by
  unfold execSeam
  dsimp only
  (repeat' split) <;> simp

@[simp] theorem execIdleStep_stays (s : State) (now) : Stays s (execIdleStep now s) := by simp [execIdleStep]

/-! ### Through peers met and lost -/

@[simp] theorem State.markLoss_fixed (s : State) (dev i) : (s.markLoss dev i).fixed = s.fixed := by simp [State.markLoss]
@[simp] theorem State.lossReissue_fixed (s : State) (dev i) : (s.lossReissue dev i).fixed = s.fixed := by simp [State.lossReissue]

@[simp] theorem State.lossFills_fixed (s : State) (dev) :
    (s.lossFills dev).fixed = s.fixed := foldl_fixed (fun t r => by (repeat' split) <;> simp) _ s

@[simp] theorem State.lossLeases_fixed (s : State) (dev) : (s.lossLeases dev).fixed = s.fixed := by simp [State.lossLeases]
@[simp] theorem State.losePeer_fixed (s : State) (dev inc) : (s.losePeer dev inc).fixed = s.fixed := by simp [State.losePeer]
@[simp] theorem State.meetPeer_fixed (s : State) (dev inc g) : (s.meetPeer dev inc g).fixed = s.fixed := by simp [State.meetPeer]
@[simp] theorem State.replacePeer_fixed (s : State) (p) : (s.replacePeer p).fixed = s.fixed := by simp [State.replacePeer]

@[simp] theorem State.takeGlint_fixed (s : State) (dev inc g) : (s.takeGlint dev inc g).fixed = s.fixed := by
  unfold State.takeGlint
  (repeat' split) <;> simp

@[simp] theorem execGlint_stays (s : State) (f g) : Stays s (execGlint f g s) := by
  unfold execGlint
  split <;> rename_i hr <;> simp [fst_fixed hr]

@[simp] theorem execGlintInterval_stays (s : State) (now) : Stays s (execGlintInterval now s) := by simp [execGlintInterval]
@[simp] theorem State.checkSilence_fixed (s : State) : s.checkSilence.fixed = s.fixed := foldl_fixed (fun t x => by split <;> simp) _ _
@[simp] theorem execLivenessCheck_stays (s : State) (now) : Stays s (execLivenessCheck now s) := by simp [execLivenessCheck]

@[simp] theorem execAck_stays (s : State) (f) : Stays s (execAck f s) := by
  unfold execAck
  split <;> rename_i hr <;> simp [fst_fixed hr]

@[simp] theorem execAckTimer_stays (s : State) (now dev update) : Stays s (execAckTimer now dev update s) := by
  unfold execAckTimer
  dsimp only
  (repeat' split) <;> simp

@[simp] theorem execRetransmitTimer_stays (s : State) (now dev update seq) : Stays s (execRetransmitTimer now dev update seq s) := by
  unfold execRetransmitTimer
  dsimp only
  (repeat' split) <;> simp

@[simp] theorem execWindowProbe_stays (s : State) (now dev update) : Stays s (execWindowProbe now dev update s) := by
  unfold execWindowProbe
  dsimp only
  (repeat' split) <;> simp

@[simp] theorem execForeignFrame_stays (s : State) (p k seen) : Stays s (execForeignFrame p k seen s) := by
  unfold execForeignFrame
  (repeat' split) <;> simp

@[simp] theorem execRegionIdle_stays (s : State) (now r) : Stays s (execRegionIdle now r s) := by simp [execRegionIdle]

/-! ### Through the handling of an error -/

@[simp] theorem execClusterHung_stays (s : State) (now c) : Stays s (execClusterHung now c s) := by
  unfold execClusterHung
  dsimp only
  (repeat' split) <;> simp

@[simp] theorem execRecoveryCheckDone_stays (s : State) (c result) : Stays s (execRecoveryCheckDone c result s) := by simp [execRecoveryCheckDone]

@[simp] theorem State.errorEvent_fixed (s : State) (d) : (s.errorEvent d).fixed = s.fixed := by
  unfold State.errorEvent
  (repeat' split) <;> simp

@[simp] theorem State.tornEvent_fixed (s : State) (d) : (s.tornEvent d).fixed = s.fixed := by simp [State.tornEvent]

@[simp] theorem State.endShare_fixed (s : State) (c d) : (s.endShare c d).fixed = s.fixed := by
  unfold State.endShare
  (repeat' split) <;> simp

@[simp] theorem State.discardFor_fixed (s : State) (d) : (s.discardFor d).fixed = s.fixed := by
  unfold State.discardFor
  (repeat' split) <;> simp

@[simp] theorem State.endFor_fixed (s : State) (d) : (s.endFor d).fixed = s.fixed := by
  unfold State.endFor
  (repeat' split) <;> simp

@[simp] theorem State.loseQueue_fixed (s : State) (q) : (s.loseQueue q).fixed = s.fixed := by simp [State.loseQueue]
@[simp] theorem State.loseContext_fixed (s : State) (c) : (s.loseContext c).fixed = s.fixed := by simp [State.loseContext]
@[simp] theorem State.discardSteps_fixed (s : State) (c) : (s.discardSteps c).fixed = s.fixed := by simp [State.discardSteps]

@[simp] theorem State.resume_fixed (s : State) (d) : (s.resume d).fixed = s.fixed := by
  unfold State.resume
  (repeat' split) <;> simp

@[simp] theorem State.act_fixed (s : State) (d a) : (s.act d a).1.fixed = s.fixed := by
  unfold State.act
  (repeat' split) <;> simp

@[simp] theorem State.overHandled_fixed (s : State) : s.overHandled.fixed = s.fixed := by simp [State.overHandled]

@[simp] theorem State.proceed_fixed (s : State) (x) : (s.proceed x).fixed = s.fixed := by
  unfold State.proceed
  split
  · rfl
  · rename_i a rest _
    dsimp only
    split <;> rename_i hr <;> simp [fst_fixed hr]

@[simp] theorem State.beginHandling_fixed (s : State) (d) : (s.beginHandling d).fixed = s.fixed := by simp [State.beginHandling]

@[simp] theorem State.handleNext_fixed (s : State) : s.handleNext.fixed = s.fixed := by
  unfold State.handleNext
  (repeat' split) <;> simp

@[simp] theorem execErrorHandling_stays (s : State) : Stays s (execErrorHandling s) := by simp [execErrorHandling]

/-! ### Through I3C and the TAP -/

@[simp] theorem execI3cPrivateWrite_stays (s : State) (w) : Stays s (execI3cPrivateWrite w s) := by simp [execI3cPrivateWrite]
@[simp] theorem execI3cPrivateRead_stays (s : State) (r) : Stays s (execI3cPrivateRead r s) := by simp [execI3cPrivateRead]
@[simp] theorem State.assignAddr_fixed (s : State) (addr) : (s.assignAddr addr).fixed = s.fixed := by simp [State.assignAddr]
@[simp] theorem execSetdasa_stays (s : State) (a) : Stays s (execSetdasa a s) := by simp [execSetdasa]
@[simp] theorem execEntdaa_stays (s : State) (addr) : Stays s (execEntdaa addr s) := by simp [execEntdaa]
@[simp] theorem execRstdaa_stays (s : State) : Stays s (execRstdaa s) := by simp [execRstdaa]
@[simp] theorem State.tapLoad_fixed (s : State) (code) : (s.tapLoad code).fixed = s.fixed := by simp [State.tapLoad]
@[simp] theorem State.shiftOut_fixed (s : State) (bits width) : (s.shiftOut bits width).fixed = s.fixed := by simp [State.shiftOut]
@[simp] theorem State.tapBypass_fixed (s : State) (code width din) : (s.tapBypass code width din).fixed = s.fixed := by simp [State.tapBypass]
@[simp] theorem State.tapBoundary_fixed (s : State) (code din lands) : (s.tapBoundary code din lands).fixed = s.fixed := by simp [State.tapBoundary]

@[simp] theorem State.tapDrive_fixed (s : State) : s.tapDrive.fixed = s.fixed := by
  unfold State.tapDrive
  (repeat' split) <;> simp

@[simp] theorem State.tapExtest_fixed (s : State) (code din lands) : (s.tapExtest code din lands).fixed = s.fixed := by simp [State.tapExtest]
@[simp] theorem execTapReset_stays (s : State) : Stays s (execTapReset s) := by simp [execTapReset]
@[simp] theorem execExtest_stays (s : State) (din lands) : Stays s (execExtest din lands s) := by simp [execExtest]
@[simp] theorem execSamplePreload_stays (s : State) (din lands) : Stays s (execSamplePreload din lands s) := by simp [execSamplePreload]
@[simp] theorem execIdcode_stays (s : State) : Stays s (execIdcode s) := by simp [execIdcode]
@[simp] theorem execExtestPulse_stays (s : State) (din lands) : Stays s (execExtestPulse din lands s) := by simp [execExtestPulse]
@[simp] theorem execExtestTrain_stays (s : State) (din lands) : Stays s (execExtestTrain din lands s) := by simp [execExtestTrain]
@[simp] theorem execHighz_stays (s : State) (din) : Stays s (execHighz din s) := by simp [execHighz]
@[simp] theorem execClamp_stays (s : State) (din) : Stays s (execClamp din s) := by simp [execClamp]
@[simp] theorem execBypass_stays (s : State) (code din) : Stays s (execBypass code din s) := by simp [execBypass]

/-! ### Through every instruction -/

/-- Every instruction leaves them, by the lemma of its own. -/
theorem exec_stays (s : State) (i : Instr) : Stays s (exec i s) := by
  cases i <;> simp only [exec] <;> simp

/-- Settles O4, from one lemma for each instruction. -/
theorem fusesNeverChange : Obligations.FusesNeverChange := by
  unfold Obligations.FusesNeverChange
  exact fun c s t h => Prod.mk.inj ((exec_stays s c).next t h)

end Sys2Proof.Machine
end

section
/-! The sideband: the I3C target (R512, R517) and the test access port (R499, R516). And the step at the front of the queue. -/

namespace Sys2Proof.Machine

/-- Settles O1, by the step's definition. -/
theorem stepRunsFront : Obligations.StepRunsFront := by
  unfold Obligations.StepRunsFront
  intro s c rest h
  simp only [step, h]

/-! ### The I3C target -/

theorem State.i3cAnswers_iff (s : State) : s.i3cAnswers = true ↔ s.pkg.powered = true ∧ s.pkg.perstN = true := by
  simp [State.i3cAnswers]

theorem State.i3cAnswers_of_perst {s : State} (h : s.pkg.perstN = false) : s.i3cAnswers = false := by simp [State.i3cAnswers, h]

theorem State.i3cTarget_iff (s : State) (a : BitVec 7) :
    s.i3cTarget a = true ↔ s.i3cAnswers = true ∧ (a.toNat = s.i3cStatic ∨ s.i3c.dyn = some a) := by
  simp [State.i3cTarget]

theorem State.assignAddr_new {s : State} (h : s.i3cAnswers = true) (hd : s.i3c.dyn = none) (d : BitVec 7) :
    s.assignAddr d = { s with i3c := { s.i3c with dyn := some d } } := by
  simp [State.assignAddr, h, hd]

/-- A target that has an address, or does not answer, takes none. -/
theorem State.assignAddr_none {s : State} (h : s.i3cAnswers = false ∨ s.i3c.dyn ≠ none) (d : BitVec 7) : s.assignAddr d = s := by
  obtain h | h := h
  · simp [State.assignAddr, h]
  · simp [State.assignAddr, Option.isNone_iff_eq_none, h]

/-- In FAILED the status bytes are those of the fault; otherwise they are sixteen. -/
theorem State.i3cBytes_length (s : State) : s.i3cBytes.length = 16 ∨ s.err.failed.isSome = true := by
  unfold State.i3cBytes
  split
  case h_1 hf _ => exact .inr (by rw [hf]; rfl)
  case h_2 => exact .inl (by simp [State.liveBytes])

/-- Settles O59, from what the target answers to and how it takes an address. -/
theorem sidebandTarget : Obligations.SidebandTarget := by
  unfold Obligations.SidebandTarget
  refine ⟨fun s a d hw hp => ?_, fun s a => ?_, fun s a b n => ?_, fun s a d hp => ?_, fun s => ⟨s.i3cBytes_length, fun h => ?_⟩⟩
  · have ha := s.i3cAnswers_iff.2 ⟨hw, hp⟩
    refine ⟨fun hd hs => ?_, fun hd => ?_, fun h => ?_, fun hd => ?_, ?_⟩
    · simp only [exec, execSetdasa, if_pos hs, State.assignAddr_new ha hd]
    · simp only [exec, execEntdaa, State.assignAddr_new ha hd]
    · obtain h | hd := h
      · simp only [exec, execSetdasa, if_neg h]
      · simp only [exec, execSetdasa, State.assignAddr_none (.inr hd), ite_self]
    · simp only [exec, execEntdaa, State.assignAddr_none (.inr hd)]
    · simp only [exec, execRstdaa, if_pos ha]
  · rw [State.i3cTarget_iff, State.i3cAnswers_iff, and_assoc]
    rfl
  · refine ⟨fun h => ⟨?_, ?_⟩, fun h => ⟨?_, ?_⟩⟩
    · simp only [exec, execI3cPrivateWrite, if_pos h]
    · simp only [exec, execI3cPrivateRead, if_pos h]
    · simp only [exec, execI3cPrivateWrite, h, Bool.false_eq_true, if_false]
    · simp only [exec, execI3cPrivateRead, h, Bool.false_eq_true, if_false]
  · have ha := State.i3cAnswers_of_perst hp
    refine ⟨?_, ?_, ?_, by simp [State.i3cTarget, ha]⟩
    · simp only [exec, execSetdasa, State.assignAddr_none (.inl ha), ite_self]
    · simp only [exec, execEntdaa, State.assignAddr_none (.inl ha)]
    · simp only [exec, execRstdaa, ha, Bool.false_eq_true, if_false]
  · exact if_pos h

/-! ### The test access port -/

theorem State.shiftOut_low {s : State} (h : s.pkg.perstN = false) (bits width : Nat) : s.shiftOut bits width = s := by
  simp [State.shiftOut, h]

theorem State.shiftOut_high {s : State} (h : s.pkg.perstN = true) (bits width : Nat) :
    s.shiftOut bits width = s.emit (.tdo bits width) := if_pos h

@[simp] theorem State.shiftOut_tap (s : State) (bits width : Nat) : (s.shiftOut bits width).tap = s.tap := by
  unfold State.shiftOut; split <;> rfl

@[simp] theorem State.shiftOut_pkg (s : State) (bits width : Nat) : (s.shiftOut bits width).pkg = s.pkg := by
  unfold State.shiftOut; split <;> rfl

@[simp] theorem State.tapLoad_tap (s : State) (code : BitVec 8) :
    (s.tapLoad code).tap = { s.tap with ir := code, inReset := false } := rfl

@[simp] theorem State.tapLoad_pkg (s : State) (code : BitVec 8) : (s.tapLoad code).pkg = s.pkg := rfl

@[simp] theorem State.tapBypass_tap (s : State) (code : BitVec 8) (width din : Nat) :
    (s.tapBypass code width din).tap = { s.tap with ir := code, inReset := false } := by simp [State.tapBypass]

@[simp] theorem State.tapBypass_pkg (s : State) (code : BitVec 8) (width din : Nat) :
    (s.tapBypass code width din).pkg = s.pkg := by simp [State.tapBypass]

@[simp] theorem State.tapBoundary_tap (s : State) (code : BitVec 8) (din lands : BitVec 43) :
    (s.tapBoundary code din lands).tap = { s.tap with ir := code, inReset := false, update := din } := by simp [State.tapBoundary]

@[simp] theorem State.tapBoundary_pkg (s : State) (code : BitVec 8) (din lands : BitVec 43) :
    (s.tapBoundary code din lands).pkg = s.pkg := by simp [State.tapBoundary]

/-- What TDO gives in a boundary scan: nothing in reset, the captured cells otherwise. -/
theorem State.tapBoundary_out (s : State) (code : BitVec 8) (din lands : BitVec 43) :
    (s.tapBoundary code din lands).out = ((s.tapLoad code).shiftOut ((s.tapLoad code).tapCapture lands).toNat 43).out := rfl

theorem State.tapLands_high {s : State} (h : s.pkg.perstN = true) : s.tapLands = none := by simp [State.tapLands, h]

/-- While PERST_N is low the instructions of a pulse, EXTEST and CLAMP drive the lands from the update register. -/
theorem State.tapLands_driving {s : State} (hw : s.pkg.powered = true) (hp : s.pkg.perstN = false) (hr : s.tap.inReset = false)
    (hi : s.tap.ir ∈ [0x00#8, 0x04#8, 0x05#8, 0x07#8]) : s.tapLands = some (some (s.tap.update &&& tapDriving)) := by
  simp only [List.mem_cons, List.not_mem_nil, or_false] at hi
  obtain h | h | h | h := hi <;> simp [State.tapLands, hw, hp, hr, h]

theorem State.tapDrive_of_lands {s : State} {v : BitVec 43} (h : s.tapLands = some (some v)) :
    s.tapDrive = s.emit (.boundary v) := by simp only [State.tapDrive, h]

theorem State.tapDrive_of_none {s : State} (h : s.tapLands = none) : s.tapDrive = s := by simp only [State.tapDrive, h]

/-- A scan that drives the lands while PERST_N is low. -/
theorem State.tapExtest_low {s : State} (hw : s.pkg.powered = true) (hp : s.pkg.perstN = false) {code : BitVec 8}
    (hc : code ∈ [0x00#8, 0x04#8, 0x05#8, 0x07#8]) (din lands : BitVec 43) :
    s.tapExtest code din lands = (s.tapBoundary code din lands).emit (.boundary (din &&& tapDriving)) := by
  have hl : (s.tapBoundary code din lands).tapLands = some (some (din &&& tapDriving)) := by
    rw [State.tapLands_driving (by simpa using hw) (by simpa using hp) (by simp) (by simpa using hc), State.tapBoundary_tap]
  simp only [State.tapExtest, hw, hp, Bool.not_true, Bool.false_eq_true, if_false, State.tapDrive_of_lands hl]

theorem State.tapExtest_high {s : State} (hw : s.pkg.powered = true) (hp : s.pkg.perstN = true) (code : BitVec 8)
    (din lands : BitVec 43) : s.tapExtest code din lands = s.tapBypass code 43 din.toNat := by
  simp [State.tapExtest, hw, hp]

/-! ### What the boundary cells capture -/

/-- A cell that is set to a level, the others as they were. -/
def cellSet (v : BitVec 43) (i : Nat) (high : Bool) : BitVec 43 :=
  if high then v ||| BitVec.twoPow 43 i else v &&& ~~~ BitVec.twoPow 43 i

/-- A cell of a land that the package may drive. -/
def cellOwn (v : BitVec 43) (i : Nat) : Drive → BitVec 43
  | .released => v
  | .low => cellSet v i false
  | .high => cellSet v i true

theorem cellSet_same (v : BitVec 43) {i : Nat} (hi : i < 43) (high : Bool) : (cellSet v i high).getLsbD i = high := by
  cases high <;> simp [cellSet, hi]

theorem cellSet_ne (v : BitVec 43) {i k : Nat} (h : k ≠ i) (high : Bool) : (cellSet v i high).getLsbD k = v.getLsbD k := by
  cases high
  · simp only [cellSet, Bool.false_eq_true, if_false, BitVec.getLsbD_and, BitVec.getLsbD_not, BitVec.getLsbD_twoPow]
    by_cases hk : k < 43
    · simp [hk, Ne.symm h]
    · simp [BitVec.getLsbD_of_ge v k (by omega)]
  · simp [cellSet, Ne.symm h]

theorem cellOwn_ne (v : BitVec 43) {i k : Nat} (h : k ≠ i) (d : Drive) : (cellOwn v i d).getLsbD k = v.getLsbD k := by
  cases d
  case released => rfl
  case low => exact cellSet_ne v h false
  case high => exact cellSet_ne v h true

/-- What is captured, cell by cell. -/
theorem State.tapCapture_eq (s : State) (lands : BitVec 43) :
    s.tapCapture lands = if s.tapLands.isSome then cellSet lands 32 s.pkg.perstN
      else cellOwn (cellOwn (cellOwn (cellSet lands 32 s.pkg.perstN) 35 s.pkg.faultN) 36 s.pkg.readyPin) 38 s.pkg.thermtripN := by
  unfold State.tapCapture
  generalize s.pkg.faultN = a
  generalize s.pkg.readyPin = b
  generalize s.pkg.thermtripN = c
  cases a <;> cases b <;> cases c <;> rfl

/-- Every cell but those of FAULT_N, READY and THERMTRIP_N captures the lands with PERST_N as it stands. -/
theorem State.tapCapture_ne (s : State) (lands : BitVec 43) {i : Nat} (h1 : i ≠ 35) (h2 : i ≠ 36) (h3 : i ≠ 38) :
    (s.tapCapture lands).getLsbD i = (cellSet lands 32 s.pkg.perstN).getLsbD i := by
  rw [State.tapCapture_eq]
  split
  · rfl
  · rw [cellOwn_ne _ h3, cellOwn_ne _ h2, cellOwn_ne _ h1]

/-- The three cells of the lands that the package drives. -/
theorem State.tapCapture_own {s : State} (h : s.tapLands = none) (lands : BitVec 43) :
    (s.pkg.faultN = .low → (s.tapCapture lands).getLsbD 35 = false) ∧
    (s.pkg.readyPin = .high → (s.tapCapture lands).getLsbD 36 = true) ∧
    (s.pkg.thermtripN = .low → (s.tapCapture lands).getLsbD 38 = false) := by
  rw [State.tapCapture_eq, h, Option.isSome_none, if_neg Bool.false_ne_true]
  refine ⟨fun hf => ?_, fun hr => ?_, fun ht => ?_⟩
  · rw [cellOwn_ne _ (by decide), cellOwn_ne _ (by decide), hf]
    exact cellSet_same _ (by decide) false
  · rw [cellOwn_ne _ (by decide), hr]
    exact cellSet_same _ (by decide) true
  · rw [ht]
    exact cellSet_same _ (by decide) false

/-- The capture reads the lands and the package's levels alone, which loading an instruction leaves while PERST_N is high. -/
theorem State.tapLoad_tapCapture {s : State} (h : s.pkg.perstN = true) (code : BitVec 8) (lands : BitVec 43) :
    (s.tapLoad code).tapCapture lands = s.tapCapture lands := by
  have hl : (s.tapLoad code).tapLands = none := State.tapLands_high h
  rw [State.tapCapture_eq, State.tapCapture_eq, hl, State.tapLands_high h, State.tapLoad_pkg]

/-- Settles O60, from what each scan leaves in the port and which lands it drives. -/
theorem testAccess : Obligations.TestAccess := by
  unfold Obligations.TestAccess
  refine ⟨fun s hw => ⟨?_, ?_⟩, fun s din lands hw => ⟨?_, ?_, ?_⟩, fun s din lands hw hp => ⟨?_, ?_, ?_⟩, fun s din lands hw hp => ?_,
    fun s din hw => ⟨?_, fun hp => ?_, fun hp => ?_, fun hp => ?_⟩, fun s code din hw hc => ?_, fun s hp => State.tapLands_high hp,
    fun s code width n din lands => ⟨fun hp => ⟨?_, ?_⟩, fun hp => ?_⟩, fun s lands => ⟨?_, fun i h32 h35 h36 h38 => ?_, fun h => ?_⟩⟩
  · simp only [exec, execTapReset, if_pos hw]
  · simp only [exec, execIdcode, if_pos hw]
    rfl
  · simp only [exec, execSamplePreload, if_pos hw]
  · rw [State.tapBoundary_tap]
  · simp [State.tapLands]
  · simp only [exec, execExtest, State.tapExtest_low hw hp (by decide : (0x00 : BitVec 8) ∈ _)]
  · simp only [exec, execExtestPulse, State.tapExtest_low hw hp (by decide : (0x04 : BitVec 8) ∈ _)]
  · simp only [exec, execExtestTrain, State.tapExtest_low hw hp (by decide : (0x05 : BitVec 8) ∈ _)]
  · simp only [exec, execExtest, State.tapExtest_high hw hp]
  · simp only [exec, execHighz, if_pos hw]
  · simp [State.tapLands, hw, hp]
  · have hl := State.tapLands_driving (s := s.tapBypass 0x07 1 (b2n din)) (by simpa using hw) (by simpa using hp) (by simp) (by simp)
    simp only [exec, execClamp, if_pos hw, State.tapDrive_of_lands hl, State.tapBypass_tap]
  · have hl : (s.tapBypass 0x07 1 (b2n din)).tapLands = none := State.tapLands_high (by simpa using hp)
    simp only [exec, execClamp, if_pos hw, State.tapDrive_of_none hl]
  · simp only [exec, execBypass, hw, hc, Bool.not_false, Bool.and_self, if_true]
  · rw [State.tapBypass, State.shiftOut_low (by simpa using hp)]
    rfl
  · rw [State.tapBoundary_out, State.shiftOut_low (by simpa using hp)]
    rfl
  · rw [State.tapBoundary_out, State.shiftOut_high (by simpa using hp), State.tapLoad_tapCapture hp]
    rfl
  · rw [State.tapCapture_ne s lands (by decide) (by decide) (by decide), cellSet_same _ (by decide)]
  · rw [State.tapCapture_ne s lands h35 h36 h38, cellSet_ne _ h32]
  · exact State.tapCapture_own h lands

end Sys2Proof.Machine
end

section
/-! The submission queues (15): entries, the ring, fetching and the doorbell (R360 to R369). -/

namespace Sys2Proof.Machine

/-! ### The words of a slot -/

/-- The first word is in the first eight bytes, and the others are the words of the rest. -/
theorem wordsOf_succ (n : Nat) (bs : List Byte) :
    wordsOf (n + 1) bs = BitVec.ofNat 64 (leNat (bs.take 8)) :: wordsOf n (bs.drop 8) := by
  simp [wordsOf, List.range_succ_eq_map, List.drop_drop, Nat.mul_succ, Nat.add_comm]

theorem leNat_replicate (n : Nat) : leNat (List.replicate n 0) = 0 := by
  induction n with
  | zero => rfl
  | succ n ih => simp only [List.replicate_succ, leNat, ih]; rfl

/-- The words of bytes that are all 0. -/
theorem wordsOf_replicate (n k : Nat) : wordsOf n (List.replicate k 0) = List.replicate n 0 := by
  induction n generalizing k with
  | zero => rfl
  | succ n ih => rw [wordsOf_succ, List.take_replicate, List.drop_replicate, leNat_replicate, ih]; rfl

/-- Words written as bytes and read back, after which zeros follow. -/
theorem wordsOf_flatMap (n k : Nat) (ws : List Nat) (h : ws.length ≤ n) :
    wordsOf n (ws.flatMap (leBytes 8) ++ List.replicate k 0) = ws.map (BitVec.ofNat 64) ++ List.replicate (n - ws.length) 0 := by
  induction ws generalizing n with
  | nil => simp only [List.flatMap_nil, List.nil_append, List.map_nil, wordsOf_replicate, List.length_nil, Nat.sub_zero]
  | cons w ws ih =>
    obtain ⟨n, rfl⟩ : ∃ m, n = m + 1 := ⟨n - 1, by simp only [List.length_cons] at h; omega⟩
    have hw : BitVec.ofNat 64 (w % 256 ^ 8) = BitVec.ofNat 64 w := BitVec.eq_of_toNat_eq (by simp)
    rw [wordsOf_succ, List.flatMap_cons, List.append_assoc, List.take_left' (leBytes_length 8 w), List.drop_left' (leBytes_length 8 w),
      leNat_leBytes, hw, ih n (by simpa using h)]
    simp

/-- The words of an encoded slot: the header, the tag, the parameters, and zeros. -/
theorem wordsOf_slotImage (opcode gen ctx : Nat) (barrier : Bool) (tag : Nat) (params : List Word) (h : params.length ≤ 14) :
    wordsOf 16 (slotImage opcode gen ctx barrier tag params) =
      BitVec.ofNat 64 (packFields [(opcode, 16), (gen, 8), (b2n barrier, 1), (0, 7), (ctx, 16), (params.length, 16)]) ::
        BitVec.ofNat 64 tag :: params ++ List.replicate (14 - params.length) 0 := by
  have hp : (params.map (·.toNat)).map (BitVec.ofNat 64) = params := by
    rw [List.map_map]
    exact List.map_id'' (fun w => BitVec.eq_of_toNat_eq (by simp)) params
  have hl : ∀ ws : List Nat, (ws.flatMap (leBytes 8)).length = 8 * ws.length := fun ws => by simp [List.length_flatMap, Nat.mul_comm]
  rw [slotImage, padTo, List.take_of_length_le (by rw [hl]; simp; omega), wordsOf_flatMap _ _ _ (by simp; omega)]
  simp only [List.map_cons, hp, List.length_cons, List.length_map, List.cons_append]
  congr 4
  omega

/-- The header's number, its fields within their widths. -/
theorem packFields_header {opcode gen ctx n : Nat} (b : Bool) (ho : opcode < 2 ^ 16) (hg : gen < 2 ^ 8) (hc : ctx < 2 ^ 16) (hn : n ≤ 14) :
    packFields [(opcode, 16), (gen, 8), (b2n b, 1), (0, 7), (ctx, 16), (n, 16)] =
      opcode + 65536 * gen + 16777216 * b2n b + 4294967296 * ctx + 281474976710656 * n := by
  have hb : b2n b < 2 := by cases b <;> decide
  simp only [packFields]
  omega

/-- The fields of the header's word. -/
theorem header_fields {opcode gen ctx n : Nat} (b : Bool) (ho : opcode < 2 ^ 16) (hg : gen < 2 ^ 8) (hc : ctx < 2 ^ 16) (hn : n ≤ 14)
    {w : Word} (hw : w = BitVec.ofNat 64 (packFields [(opcode, 16), (gen, 8), (b2n b, 1), (0, 7), (ctx, 16), (n, 16)])) :
    w.field 0 16 = opcode ∧ w.field 16 8 = gen ∧ w.getLsbD 24 = b ∧ w.field 32 16 = ctx ∧ w.field 48 16 = n := by
  have hb : b2n b < 2 := by cases b <;> decide
  have hd : decide (b2n b = 1) = b := by cases b <;> rfl
  have hv : w.toNat = opcode + 65536 * gen + 16777216 * b2n b + 4294967296 * ctx + 281474976710656 * n := by
    rw [hw, packFields_header b ho hg hc hn, BitVec.toNat_ofNat]
    omega
  simp only [Word.field, fieldOf, hv, BitVec.getLsbD, Nat.testBit_eq_decide_div_mod_eq]
  refine ⟨by omega, by omega, ?_, by omega, by omega⟩
  conv_rhs => rw [← hd]
  congr 1
  rw [eq_iff_iff]
  omega

/-- Settles O8, from the words of an encoded slot and the fields of its first. -/
theorem entryRoundTrip : Obligations.EntryRoundTrip := by
  unfold Obligations.EntryRoundTrip
  intro opcode gen ctx barrier tag params ho hg hc ht hn
  obtain ⟨h1, h2, h3, h4, h5⟩ := header_fields barrier ho hg hc hn rfl
  rw [wordsOf_slotImage _ _ _ _ _ _ hn]
  refine ⟨?_, h2⟩
  simp only [jobOf, List.cons_append, List.getD_cons_zero, List.getD_cons_succ, List.drop_succ_cons, List.drop_zero, h1, h3, h4, h5,
    List.take_left, BitVec.toNat_ofNat, Nat.mod_eq_of_lt ht]

/-! ### The ring -/

/-- Zeros carry no tag. -/
theorem wordsOf_zeros {bs : List Byte} (h : ∀ b ∈ bs, b = 0) (n : Nat) : wordsOf n bs = List.replicate n 0 := by
  rw [List.eq_replicate_of_mem h, wordsOf_replicate]

/-- Settles O9, by the two cases of the last slot. -/
theorem ringAdvance : Obligations.RingAdvance := by
  unfold Obligations.RingAdvance
  intro x hx
  refine ⟨fun h => ?_, fun h => ?_, fun h1 h2 => ?_⟩
  · simp [Queue.next, Nat.ne_of_lt h]
  · rw [Queue.next, if_pos (by omega)]
    exact ⟨rfl, fun h => if_neg (by omega), fun h => if_pos h⟩
  · have hn : 1 ≤ x.next.gen ∧ x.next.gen ≤ 255 := by
      unfold Queue.next
      split
      · show 1 ≤ (if x.gen = 255 then 1 else x.gen + 1) ∧ (if x.gen = 255 then 1 else x.gen + 1) ≤ 255
        split <;> omega
      · exact ⟨h1, h2⟩
    refine ⟨hn.1, hn.2, fun bs hb => ?_⟩
    rw [wordsOf_zeros hb]
    exact fun h => by simp [Word.field, fieldOf] at h; omega

/-! ### A command taken -/

/-- A command of one slot is taken whole. -/
theorem State.acceptSlot_whole {s : State} {q : Nat} {ws : List Word} (hp : (s.queue q).part = none) (hw : ws.length = 16)
    (hn : slotsOf ((ws.getD 0 0).field 48 16) = 1) :
    s.acceptSlot q ws = ((s.cpActs.setQueue q fun x => { x.next with backoff := none }).setQueue q
      fun x => { x with part := none }).takeCommand q ws := by
  simp only [State.acceptSlot, hp, hn, hw]
  rfl

theorem State.addJob_queue (s : State) (q : Nat) (j : Job) : (s.addJob q j).queue q =
    { s.queue q with nextSeq := (s.queue q).nextSeq + 1, jobs := (s.queue q).jobs ++ [{ j with seq := (s.queue q).nextSeq }] } := by
  simp only [State.addJob, State.queue_setCtx, State.queue_setQueue_same]

theorem State.takeCommand_rejected {s : State} {q : Nat} {ws : List Word} {d : Nat} (h : checkJob q (s.queue q).ctx (jobOf ws) = some d) :
    s.takeCommand q ws = s.addJob q (s.rejected d (jobOf ws)) := by
  simp only [State.takeCommand, h]

theorem State.takeCommand_held {s : State} {q : Nat} {ws : List Word} (h : checkJob q (s.queue q).ctx (jobOf ws) = none)
    (ho : (jobOf ws).opcode = 0x32) :
    s.takeCommand q ws = s.setQueue q fun x => { x with expand := some { jobOf ws with aux := [] } } := by
  simp only [State.takeCommand, h, ho, if_true]

theorem State.takeCommand_numbered {s : State} {q : Nat} {ws : List Word} (h : checkJob q (s.queue q).ctx (jobOf ws) = none)
    (ho : (jobOf ws).opcode ≠ 0x32) : s.takeCommand q ws = s.addJob q { jobOf ws with aux := [] } := by
  simp only [State.takeCommand, h, ho, if_false]

theorem Queue.next_ctx (x : Queue) : x.next.ctx = x.ctx := by unfold Queue.next; split <;> rfl
theorem Queue.next_nextSeq (x : Queue) : x.next.nextSeq = x.nextSeq := by unfold Queue.next; split <;> rfl
theorem Queue.next_jobs (x : Queue) : x.next.jobs = x.jobs := by unfold Queue.next; split <;> rfl

/-- Settles O10, by what a read's completion goes on with and what a whole command leaves in its queue. -/
theorem entryFetched : Obligations.EntryFetched := by
  unfold Obligations.EntryFetched
  refine ⟨fun s t q ecc bs hf hb hr => ?_, fun s s0 t q now k due bs h0 hb hf hd hr => ?_, fun s q ws x hx hp hw hn => ?_⟩
  · simp only [exec, execEntryFetch, hf, hb, Bool.not_true, Option.isSome_none, Bool.or_self, Bool.false_eq_true, if_false,
      State.access_ok hr]
  · subst h0
    simp only [exec, execStaleReread, hb, hf, Bool.not_true, Bool.false_or, decide_eq_true_eq, Nat.not_lt.2 hd, if_false,
      State.access_ok hr]
  · subst hx
    rw [State.acceptSlot_whole hp hw hn]
    set u := (s.cpActs.setQueue q fun x => { x.next with backoff := none }).setQueue q fun x => { x with part := none } with hu
    have hq : u.queue q = { (s.queue q).next with backoff := none, part := none } := by
      rw [hu, State.queue_setQueue_same, State.queue_setQueue_same]
      rfl
    have hc : (u.queue q).ctx = (s.queue q).ctx := by rw [hq]; exact Queue.next_ctx _
    cases h : checkJob q (s.queue q).ctx (jobOf ws) with
    | some d =>
      rw [State.takeCommand_rejected (hc ▸ h), State.addJob_queue, hq]
      simp only [Queue.next_nextSeq, Queue.next_jobs]
      rfl
    | none =>
      by_cases ho : (jobOf ws).opcode = 0x32
      · rw [State.takeCommand_held (hc ▸ h) ho, State.queue_setQueue_same, hq]
        simp only [ho, if_true]
      · rw [State.takeCommand_numbered (hc ▸ h) ho, State.addJob_queue, hq]
        simp only [ho, if_false, Queue.next_nextSeq, Queue.next_jobs]

/-! ### The doorbell -/

theorem Queue.start_clean {x : Queue} (h : x.dirty = false) :
    x.start = { x with st := .running, cause := 0, backoff := none } := by simp [Queue.start, h]

/-- A STOPPED queue whose ring registers were rewritten starts afresh. -/
theorem Queue.start_dirty {x : Queue} (h : x.dirty = true) :
    x.start = { x with st := .running, cause := 0, base := x.qbase, size := x.qsize, cmp := x.qcmpBase, fetch := 0, gen := 1,
                       dirty := false, part := none, backoff := none } := by simp [Queue.start, h]

/-- A doorbell that a bound queue of an OPEN context takes, its ring in order. -/
theorem execQdbTail_rings {s : State} {q : QueueId} {v : BitVec 32} (hs : s.serving = true) (hu : (s.queue q.val).st ≠ .unbound)
    (hc : (s.ctx (s.queue q.val).ctx).st = .opened) (hz : sizeOk (s.queue q.val).ringSize = true)
    (hr : (s.queue q.val).st = .stopped → (s.queue q.val).dirty = true → s.ringsOk (s.queue q.val) = true) :
    execQdbTail q v s = if (s.queue q.val).ringSize ≤ v.toNat % 65536 then
        .next ((s.upset (s.queue q.val).ctx).setQueue q.val
          (Queue.ring (Config.upsetTail q.val (v.toNat % 65536) % (s.queue q.val).ringSize)))
      else .next (s.setQueue q.val (Queue.ring (v.toNat % 65536))) := by
  have hf : fieldOf v.toNat 0 16 = v.toNat % 65536 := by simp [fieldOf]
  have hg : (decide ((s.queue q.val).st = .stopped) && (s.queue q.val).dirty && !s.ringsOk (s.queue q.val)) = false := by
    by_cases h : (s.queue q.val).st = .stopped ∧ (s.queue q.val).dirty = true
    · simp [hr h.1 h.2]
    · simpa [and_assoc] using fun a b => absurd ⟨a, b⟩ h
  simp [execQdbTail, hs, hu, hc, hz, hg, hf]

/-- Settles O11, by the checks of a doorbell and the states of the queue that it rings. -/
theorem doorbell : Obligations.Doorbell := by
  unfold Obligations.Doorbell
  refine ⟨fun s q v x hx hs hu hc hz hr ht => ?_, fun s q v x hx hs hu hc hz hr ht => ?_, fun x n h => ?_, fun x n h hd => ?_,
    fun x n h hd => ?_, fun s q hs hr ht he => ?_⟩
  · subst hx
    exact (execQdbTail_rings hs hu hc hz hr).trans (if_neg (Nat.not_le.2 ht))
  · subst hx
    exact (execQdbTail_rings hs hu hc hz hr).trans (if_pos ht)
  · obtain h | h := h
    · simp only [Queue.ring, h]
    · simp only [Queue.ring, h]
  · simp only [Queue.ring, h, Queue.start_clean hd]
  · simp only [Queue.ring, h, Queue.start_dirty hd]
  · simp [exec, execIdleCommit, hs, hr, ht, he]

end Sys2Proof.Machine
end

section
/-! Jobs that end, wait and fence; contexts; and a RUN_STEP that waits (R378, R379, R390, R391, R404). -/

namespace Sys2Proof.Machine

/-- What every turn of a loop leaves, the loop leaves. -/
theorem foldl_keeps {α β : Type} (view : State → β) {f : State → α → State} (hf : ∀ s x, view (f s x) = view s) (l : List α) (s : State) :
    view (l.foldl f s) = view s :=
  List.foldlRecOn (motive := fun t => view t = view s) l f rfl fun t ht x _ => (hf t x).trans ht

/-! ### Ending a job -/

theorem Job.finish_ended {x : Job} (h : x.ended = true) (status detail counts : Nat) : x.finish status detail counts = x := if_pos h

theorem Job.finish_open {x : Job} (h : x.ended = false) (status detail counts : Nat) : x.finish status detail counts =
    { x with phase := .done, status := status, detail := detail % 2 ^ 32, counts := counts % 2 ^ 64, bulk := none, halted := false } := by
  simp [Job.finish, h]

theorem State.finishJob_job (s : State) (r : JobRef) (status detail counts : Nat) :
    (s.finishJob r status detail counts).job? r = (s.job? r).map (Job.finish status detail counts) :=
  s.job_setJob r _ (Job.finish_seq status detail counts)

/-- Settles O14, by what is left of the job that ends. -/
theorem nopCompletes : Obligations.NopCompletes := by
  unfold Obligations.NopCompletes
  refine ⟨fun s q j h => ?_, fun s r status detail counts x hx => ⟨s.setJob_same r _, fun he => ?_, fun he => ?_⟩⟩
  · simp only [exec, execNop, State.runOnce_starts h]
    rfl
  · rw [State.finishJob_job, hx, Option.map_some, Job.finish_ended he]
  · rw [State.finishJob_job, hx, Option.map_some, Job.finish_open he]

/-! ### Contexts -/

theorem queuesOf_zero {m : Word} (h : m.getLsbD 0 = false) : (queuesOf m).contains 0 = false := by
  simpa [queuesOf] using h

/-- The end of a job leaves the state of every queue. -/
theorem State.finishJob_st (s : State) (r : JobRef) (status detail counts i : Nat) :
    ((s.finishJob r status detail counts).queue i).st = (s.queue i).st := by
  rw [State.finishJob, State.setJob, State.queue_setQueue]
  split <;> rfl

/-- Queues that are unbound one after another: those of the list, and those that were so before. -/
theorem State.unbind_foldl {f : Queue → Queue} (hf : ∀ x, (f x).st = .unbound) (l : List Nat) (s : State) (i : Nat)
    (h : (∃ k ∈ l, ix 64 k = ix 64 i) ∨ (s.queue i).st = .unbound) :
    ((l.foldl (fun s k => s.setQueue k f) s).queue i).st = .unbound := by
  induction l generalizing s with
  | nil => exact h.resolve_left (by simp)
  | cons a l ih =>
    refine ih _ ?_
    rw [State.queue_setQueue]
    by_cases ha : ix 64 i = ix 64 a
    · exact .inr (by rw [if_pos ha, hf])
    · rw [if_neg ha]
      refine h.imp (fun ⟨k, hk, he⟩ => ⟨k, (List.mem_cons.1 hk).resolve_left fun hc => ha (he ▸ hc ▸ rfl), he⟩) id

/-- A bound queue of a context is among its queues. -/
theorem State.mem_queuesFor {s : State} {c i : Nat} (hc : (s.queue i).ctx = c) (hu : (s.queue i).st ≠ .unbound) :
    ∃ k ∈ s.queuesFor c, ix 64 k = ix 64 i := by
  have hk : ix 64 (i % 64) = ix 64 i := Fin.ext (by simp)
  have hq : s.queue (i % 64) = s.queue i := congrArg (s.queues[·]) hk
  exact ⟨i % 64, by simpa [State.queuesFor, hq] using ⟨Nat.mod_lt i (by decide), hu, hc⟩, hk⟩

/-- The queues of a context that closes are unbound. -/
def unboundQueue (x : Queue) : Queue := { x with st := .unbound, cause := 0 }

/-- A context that closes, before the CLOSE_CONTEXT that closed it ends. -/
def State.closed (s : State) (c : Nat) : State :=
  ((s.queuesFor c).foldl (fun s q => s.setQueue q unboundQueue)
    (({ s with seqs := s.seqs.filter (·.ctx ≠ c)
               xlat := { s.xlat with held := s.xlat.held.filter (·.pasid ≠ (s.ctx c).pasid)
                                     atc := s.xlat.atc.filter (·.pasid ≠ (s.ctx c).pasid) } } : State).dropTlb c)).setCtx c
    fun x => { x with st := .closed, gridStaged := none }

/-- The job that closes a context either is gone or ends. -/
theorem State.closeEnd_cases (s : State) (r : JobRef) (c : Nat) :
    s.closeEnd r c = s.closed c ∨ ∃ status detail counts, s.closeEnd r c = (s.closed c).finishJob r status detail counts := by
  have h : s.closeEnd r c = match (s.closed c).job? r with
      | none => s.closed c
      | some x => (s.closed c).finishJob r (if 0 < x.aux.getD 1 0 then stPoisoned else stOk) (x.aux.getD 0 0) (x.aux.getD 1 0) := rfl
  rw [h]
  split
  · exact .inl rfl
  · exact .inr ⟨_, _, _, rfl⟩

theorem State.closed_ctx (s : State) (c : Nat) : ((s.closed c).ctx c).st = .closed := by
  rw [State.closed, State.ctx_setCtx_same]

theorem State.closed_queue {s : State} {c i : Nat} (hc : (s.queue i).ctx = c) (hu : (s.queue i).st ≠ .unbound) :
    ((s.closed c).queue i).st = .unbound := by
  rw [State.closed, State.queue_setCtx]
  exact State.unbind_foldl (fun _ => rfl) _ _ i (.inl (State.mem_queuesFor hc hu))

theorem State.closeEnd_ctx (s : State) (r : JobRef) (c : Nat) : ((s.closeEnd r c).ctx c).st = .closed := by
  obtain h | ⟨status, detail, counts, h⟩ := s.closeEnd_cases r c
  · rw [h, State.closed_ctx]
  · rw [h]
    exact s.closed_ctx c

theorem State.closeEnd_queue {s : State} {c i : Nat} (r : JobRef) (hc : (s.queue i).ctx = c) (hu : (s.queue i).st ≠ .unbound) :
    ((s.closeEnd r c).queue i).st = .unbound := by
  obtain h | ⟨status, detail, counts, h⟩ := s.closeEnd_cases r c
  · rw [h, State.closed_queue hc hu]
  · rw [h, State.finishJob_st, State.closed_queue hc hu]

/-- With no lease, no slot of its own, no error and every record written, the context closes. -/
theorem State.closeRun_done {s : State} {r : JobRef} {x : Job} {c : Nat} (hc : c = (x.p 0).field 0 6)
    (hw : ∀ i ∈ s.queuesFor c, (s.queue i).writtenBelow (s.queue i).nextSeq = true)
    (hs : ∀ i < 8, (s.slot i).phase = .free ∨ (s.slot i).ctx ≠ c) (he : s.errorsOf c 1 = false) (hl : s.leasesOf c = []) :
    s.closeRun r x = s.closeEnd r c := by
  subst hc
  have hj : ((s.queuesFor ((x.p 0).field 0 6)).any fun q => !(s.queue q).writtenBelow (s.queue q).nextSeq) = false := by
    simpa using hw
  have hf : ((List.range 8).any fun i => (s.slot i).phase ≠ .free && (s.slot i).ctx == (x.p 0).field 0 6) = false := by
    simpa [or_iff_not_imp_left] using hs
  have hr : s.closeLeases r ((x.p 0).field 0 6) = s := by rw [State.closeLeases, hl]; rfl
  simp only [State.closeRun, hj, hf, he, hr, hl, Bool.or_self, Bool.false_eq_true, if_false, List.isEmpty_nil, if_true]

/-- Settles O16, by the checks of the two commands and what a context leaves that closes. -/
theorem contextsOpenAndClose : Obligations.ContextsOpenAndClose := by
  unfold Obligations.ContextsOpenAndClose
  refine ⟨fun s s0 q j h h0 hf0 hf1 hc hr hq hs hu => ?_, fun s s0 q j a h h0 hf hc hs ha => ?_, fun s r x c hc hw hs he hl =>
    ⟨State.closeRun_done hc hw hs he hl, s.closeEnd_ctx r c, fun i => State.closeEnd_queue r⟩⟩
  · subst h0
    have hb : ((queuesOf (j.p 2)).any fun i => decide (((s.begun q j).queue i).st ≠ .unbound)) = false := by simpa using hu
    simp only [exec, execOpenContext, State.runOnce_starts h, hf0, hf1, hc, hr, queuesOf_zero hq, hs, hb]
    rfl
  · subst h0 ha
    simp only [exec, execCloseContext, State.runJob_starts h, State.closeStart, hf, hc, hs]
    rfl

/-! ### Fences -/

@[simp] theorem State.waitRun_regs (s : State) (r : JobRef) (x : Job) : (s.waitRun r x).regs = s.regs := by
  unfold State.waitRun
  split <;> rfl

/-- Ending the waits at a fence leaves the fences. -/
theorem State.endWaits_regs (s : State) (f : Nat) : (s.endWaits f).regs = s.regs :=
  foldl_keeps State.regs (fun s _ => foldl_keeps State.regs (fun s x => s.waitRun_regs _ x) _ s) _ s

theorem State.raiseFence_fence (s : State) (f v : Nat) : (s.raiseFence f v).fence f = max (s.fence f) v := by
  unfold State.raiseFence
  split
  case isTrue h =>
    rw [State.fence, State.endWaits_regs, vmod_get_same]
    omega
  case isFalse h => omega

theorem State.raiseFence_other (s : State) {f g : Nat} (v : Nat) (h : ix 256 g ≠ ix 256 f) :
    (s.raiseFence f v).fence g = s.fence g := by
  unfold State.raiseFence
  split
  · rw [State.fence, State.endWaits_regs, vmod_get, if_neg h]
    rfl
  · rfl

theorem execFenceSignal_takes {s s0 : State} {q : QueueId} {j : Job} (h : s.takes q (isOp 0x40) j s0) (hf : fits (j.p 0) [(0, 8)] = true) :
    execFenceSignal q s = .next (s0.signalRun (j.refOn q) j) :=
  congrArg Host.Outcome.next (State.runJob_takes h (if_pos hf))

theorem execFenceWait_takes {s s0 : State} {q : QueueId} {j : Job} (h : s.takes q (isOp 0x41) j s0)
    (hf : fits (j.p 0) [(0, 9), (32, 32)] = true) : execFenceWait q s = .next (s0.waitRun (j.refOn q) j) :=
  congrArg Host.Outcome.next (State.runJob_takes h (if_pos hf))

/-- Settles O17, by the run of a signal and of a wait and what a raised fence leaves. -/
theorem fences : Obligations.Fences := by
  unfold Obligations.Fences
  refine ⟨fun s s0 q j h hf hw => ?_, fun s f v => ⟨s.raiseFence_fence f v, fun g => s.raiseFence_other v⟩, fun s s0 q j h hf hv => ?_,
    fun s s0 q j h hf hv => ?_, fun s s0 q now x h0 ha hx hl hd => ?_⟩
  · rw [exec, execFenceSignal_takes h hf, State.signalRun, if_neg (by simp [hw])]
    rfl
  · rw [exec, execFenceWait_takes h hf, State.waitRun, if_pos hv]
    rfl
  · rw [exec, execFenceWait_takes h hf, State.waitRun, if_neg (Nat.not_le.2 hv)]
  · subst h0
    have hlate : ¬((s.advanceTo now).now - x.since < (x.p 0).field 32 32 * Config.us) := by
      rw [show Config.us = 100 from rfl]
      omega
    have hne : (x.p 0).field 32 32 * Config.us ≠ 0 := Nat.mul_ne_zero hl (by decide)
    simp only [exec, execFenceWaitExpiry, hx, ha, hne, hlate]
    rfl

/-! ### A RUN_STEP that waits for admission -/

/-- A candidate is the queue's first open RUN_STEP without a slot, where it runs and its context is OPEN. -/
theorem State.candidate_iff {s : State} {q : Nat} {j : Job} : s.candidate q = some j ↔
    (s.ctx (s.ctxOf q)).st = .opened ∧ s.nextStep q = some j ∧ j.phase = .running ∧ j.halted = false := by
  unfold State.candidate
  split
  · simp [Option.filter_eq_some_iff, *]
  · simp [*]

theorem State.nextStep_spec {s : State} {q : Nat} {j : Job} (h : s.nextStep q = some j) :
    j ∈ (s.queue q).jobs ∧ j.opcode = 0x30 ∧ j.ended = false ∧ s.stepSlot ⟨q, j.seq⟩ = none := by
  have hj := List.find?_some h
  simp only [Bool.and_eq_true, beq_iff_eq, Bool.not_eq_true', Option.isNone_iff_eq_none] at hj
  obtain ⟨⟨hop, hend⟩, hslot⟩ := hj
  exact ⟨List.mem_of_find?_eq_some h, hop, hend, hslot⟩

/-- Settles O43, by the checks of a RUN_STEP and what a queue's candidate is. -/
theorem stepsWait : Obligations.StepsWait := by
  unfold Obligations.StepsWait
  refine ⟨fun s s0 q j r hs hj h0 hok hm => ?_, fun s q j h => ?_⟩
  · subst h0
    refine ⟨?_, rfl, rfl, rfl, rfl, rfl⟩
    have hst : s.choose.starts q (isOp 0x30) j := ⟨hs, hj⟩
    simp only [exec, execRunStep, State.runOnce_starts hst, hok, hm]
    rfl
  · obtain ⟨hopen, hnext, hphase, hhalted⟩ := State.candidate_iff.1 h
    obtain ⟨hmem, hop, hend, hslot⟩ := State.nextStep_spec hnext
    exact ⟨hmem, hop, hend, hphase, hhalted, hopen, hslot⟩

end Sys2Proof.Machine
end

section
/-! Ending the jobs of a queue: what is left of its jobs, and ABORT_QUEUE and the sequences (15 R374 to R377, R380). -/

namespace Sys2Proof.Machine

/-! ### The roster of a queue: what waits to be expanded, and which jobs have ended -/

/-- A queue's RUN_SEQUENCE that is held, and its jobs' numbers with whether they have ended. -/
def Queue.roster (x : Queue) : Option Job × List (Nat × Bool) := (x.expand, x.jobs.map fun j => (j.seq, j.ended))

/-- The rosters of all queues. -/
def State.rosters (s : State) : Vector (Option Job × List (Nat × Bool)) 64 := s.queues.map Queue.roster

@[simp] theorem State.rosters_fold (s : State) : s.queues.map Queue.roster = s.rosters := rfl

@[simp] theorem State.mk_rosters (pkg boot recorder mram fuses sec regs cxl xlat queues ctxs seqs model tabs lookups strag upd slots cls
    tiers hbm fab dim err regions oes power sched tap i3c out pending) :
    State.rosters ⟨pkg, boot, recorder, mram, fuses, sec, regs, cxl, xlat, queues, ctxs, seqs, model, tabs, lookups, strag, upd, slots, cls,
      tiers, hbm, fab, dim, err, regions, oes, power, sched, tap, i3c, out, pending⟩ = queues.map Queue.roster := rfl

theorem State.rosters_queue (s : State) (q : Nat) : s.rosters[ix 64 q] = (s.queue q).roster :=
  Vector.getElem_map Queue.roster (ix 64 q).isLt

theorem State.rosters_of_queues {s t : State} (h : t.queues = s.queues) : t.rosters = s.rosters := by rw [State.rosters, h]; rfl

/-- A change of one element that a view does not see. -/
theorem vmod_map {α β : Type} {n : Nat} (v : Vector α n) (i : Fin n) {f : α → α} {g : α → β} (h : ∀ x, g (f x) = g x) :
    (vmod v i f).map g = v.map g := by
  ext k hk
  have hv : (vmod v i f)[k] = if (⟨k, hk⟩ : Fin n) = i then f v[k] else v[k] := vmod_get v i ⟨k, hk⟩ f
  rw [Vector.getElem_map, Vector.getElem_map, hv]
  split
  · exact h _
  · rfl

variable (s : State)

/-- A change of a job that neither numbers it again nor ends it. -/
theorem State.setJob_rosters (j : JobRef) {f : Job → Job} (h : ∀ x, (f x).seq = x.seq ∧ (f x).ended = x.ended) :
    (s.setJob j f).rosters = s.rosters := by
  refine vmod_map s.queues (ix 64 j.q) fun x => ?_
  simp only [Queue.roster, Queue.setJob, List.map_map]
  refine Prod.ext rfl (List.map_congr_left fun y _ => ?_)
  simp only [Function.comp]
  split
  · exact Prod.ext (h y).1 (h y).2
  · rfl

@[simp] theorem State.setBulk_rosters (j : JobRef) (f : Bulk → Bulk) : (s.setBulk j f).rosters = s.rosters :=
  s.setJob_rosters j fun _ => ⟨rfl, rfl⟩

/-! ### Transfers that go on leave the rosters -/

@[simp] theorem State.emit_rosters (o : Output) : (s.emit o).rosters = s.rosters := rfl
@[simp] theorem State.xctr_rosters (f : XlatCounters → XlatCounters) : (s.xctr f).rosters = s.rosters := rfl
@[simp] theorem State.newReq_rosters (kind o pasid iova len hpa isWrite) :
    (s.newReq kind o pasid iova len hpa isWrite).1.rosters = s.rosters := rfl
@[simp] theorem State.sendAts_rosters (o pasid iova isWrite) : (s.sendAts o pasid iova isWrite).1.rosters = s.rosters := rfl
@[simp] theorem State.releaseHeld_rosters (j : JobRef) : (s.releaseHeld j).rosters = s.rosters := rfl

@[simp] theorem State.addWait_rosters (tier o addr pasid) : (s.addWait tier o addr pasid).rosters = s.rosters := by
  unfold State.addWait
  split <;> rfl

@[simp] theorem State.atcMiss_rosters (o pasid iova isWrite) : (s.atcMiss o pasid iova isWrite).1.rosters = s.rosters := by
  simp [State.atcMiss]

@[simp] theorem State.readHost_rosters (j t iova len inter) : (s.readHost j t iova len inter).1.rosters = s.rosters := by
  rw [State.readHost, State.addWait_rosters]
  rfl

@[simp] theorem State.writeHost_rosters (j pasid iova hpa bs) : (s.writeHost j pasid iova hpa bs).rosters = s.rosters :=
  State.setJob_rosters _ j fun _ => ⟨rfl, rfl⟩

@[simp] theorem State.dropSpent_rosters (j b) : (s.dropSpent j b).rosters = s.rosters := by
  unfold State.dropSpent
  dsimp only
  split <;> rfl

@[simp] theorem State.bulkRedo_rosters (j b) : (s.bulkRedo j b).rosters = s.rosters := by
  unfold State.bulkRedo
  dsimp only
  split <;> simp

@[simp] theorem State.bulkWindow_rosters (j b) : (s.bulkWindow j b).1.rosters = s.rosters := by
  unfold State.bulkWindow
  dsimp only
  (repeat' split) <;> simp

@[simp] theorem State.interRun_rosters (j b) : (s.interRun j b).rosters = s.rosters := by
  unfold State.interRun
  dsimp only
  (repeat' split) <;> simp

@[simp] theorem State.bulkRun_rosters (j : JobRef) (fuel : Nat) : (s.bulkRun j fuel).rosters = s.rosters := by
  induction fuel generalizing s with
  | zero => rfl
  | succ fuel ih =>
    unfold State.bulkRun
    dsimp only
    (repeat' split) <;> simp [ih]

@[simp] theorem State.bulkPoke_rosters : s.bulkPoke.rosters = s.rosters :=
  foldl_keeps State.rosters (fun s j => s.bulkRun_rosters j _) _ s

@[simp] theorem State.leaveHeld_rosters (j : JobRef) : (s.leaveHeld j).rosters = s.rosters := by
  simp [State.leaveHeld, State.releaseLeaving]

/-! ### So does what an ended job and a discarded step leave behind -/

@[simp] theorem State.closeWaits_rosters (p : TierWait → Bool) : (s.closeWaits p).rosters = s.rosters := by
  obtain ⟨t, h⟩ := s.closeWaits_only p
  rw [h]
  rfl

@[simp] theorem State.dropOwner_rosters (p : Owner → Bool) : (s.dropOwner p).rosters = s.rosters := by
  simp [State.dropOwner, State.endPartials]

@[simp] theorem State.dropWork_rosters (j keep) : (s.dropWork j keep).rosters = s.rosters := by
  unfold State.dropWork
  dsimp only
  split <;> simp

@[simp] theorem State.releaseJob_rosters (j keep) : (s.releaseJob j keep).rosters = s.rosters := by
  simp [State.releaseJob, State.dropSwap, State.unpick]

@[simp] theorem State.setDrain_rosters (b : Bool) : (s.setDrain b).rosters = s.rosters := rfl

@[simp] theorem State.endModelJob_rosters (j : JobRef) : (s.endModelJob j).rosters = s.rosters := by
  unfold State.endModelJob
  dsimp only
  (repeat' split) <;> simp [State.dropReturn]

@[simp] theorem State.movePort_rosters (p new) : (s.movePort p new).rosters = s.rosters :=
  State.rosters_of_queues (congrArg Steady.queues (s.movePort_steady p new))

@[simp] theorem State.endTest_rosters (j : JobRef) : (s.endTest j).rosters = s.rosters := by
  unfold State.endTest
  dsimp only
  split
  · rfl
  · split
    · rfl
    · refine foldl_keeps State.rosters (fun s p => ?_) _ _
      split
      · exact (State.movePort_rosters _ p _).trans rfl
      · rfl

@[simp] theorem State.setSlot_rosters (i f) : (s.setSlot i f).rosters = s.rosters := rfl

@[simp] theorem State.endStall_rosters (i : Nat) : (s.endStall i).rosters = s.rosters := by
  unfold State.endStall
  split <;> rfl

@[simp] theorem State.discardStep_rosters (i : Nat) : (s.discardStep i).rosters = s.rosters := by
  unfold State.discardStep
  dsimp only
  split
  · rfl
  · simp [State.keepLate, State.releaseUses]

/-! ### A job that ends -/

theorem Job.finish_ends (x : Job) (status detail counts : Nat) : (x.finish status detail counts).ended = true := by
  unfold Job.finish
  split
  · assumption
  · rfl

/-- The roster once the job of a number has ended. -/
def endOn (n : Nat) (r : Option Job × List (Nat × Bool)) : Option Job × List (Nat × Bool) :=
  (r.1, r.2.map fun p => (p.1, p.2 || p.1 == n))

theorem State.finishJob_roster (r : JobRef) (status detail counts : Nat) :
    ((s.finishJob r status detail counts).queue r.q).roster = endOn r.seq (s.queue r.q).roster := by
  rw [State.finishJob, State.setJob, State.queue_setQueue_same]
  simp only [Queue.roster, Queue.setJob, endOn, List.map_map]
  refine Prod.ext rfl (List.map_congr_left fun y _ => ?_)
  simp only [Function.comp]
  by_cases h : y.seq = r.seq
  · rw [if_pos h, Job.finish_seq, Job.finish_ends, h, beq_self_eq_true, Bool.or_true]
  · rw [if_neg h, beq_eq_false_iff_ne.2 h, Bool.or_false]

/-- A job that is ended without an error: its queue keeps all but that job's end. -/
theorem State.endJob_roster (r : JobRef) (status detail : Nat) :
    ((s.endJob r status detail).queue r.q).roster = endOn r.seq (s.queue r.q).roster := by
  have h : (s.endJob r status detail).rosters =
      (((s.endModelJob r).endTest r).finishJob r status detail (s.countsOf r)).rosters := by
    unfold State.endJob
    dsimp only
    split <;> simp
  rw [← State.rosters_queue, h, State.rosters_queue, State.finishJob_roster, ← State.rosters_queue, State.endTest_rosters,
    State.endModelJob_rosters, State.rosters_queue]

/-- Jobs of a queue that are ended one after another. -/
theorem State.endJobs_roster (q status detail : Nat) (l : List Nat) :
    ((l.foldl (fun s n => s.endJob ⟨q, n⟩ status detail) s).queue q).roster =
      ((s.queue q).roster.1, (s.queue q).roster.2.map fun p => (p.1, p.2 || l.contains p.1)) := by
  induction l generalizing s with
  | nil => simp
  | cons n l ih =>
    rw [List.foldl_cons, ih, State.endJob_roster s ⟨q, n⟩]
    simp only [endOn, List.map_map]
    refine Prod.ext rfl (List.map_congr_left fun p _ => ?_)
    simp only [Function.comp, List.contains_cons, Bool.or_assoc]

/-- Once the open jobs of a queue but those spared are ended, a job of it that is open is spared. -/
theorem State.endJobs_open {q status detail : Nat} {spare : Nat → Bool} {x : Job}
    (hx : x ∈ ((((s.queue q).openSeqs.filter fun n => !spare n).foldl (fun s n => s.endJob ⟨q, n⟩ status detail) s).queue q).jobs) :
    x.ended = true ∨ spare x.seq = true := by
  set l := (s.queue q).openSeqs.filter fun n => !spare n with hl
  have hr := congrArg Prod.snd (s.endJobs_roster q status detail l)
  have hm : (x.seq, x.ended) ∈ (s.queue q).roster.2.map fun p => (p.1, p.2 || l.contains p.1) :=
    hr.subst (motive := fun r => (x.seq, x.ended) ∈ r) (List.mem_map_of_mem (f := fun j : Job => (j.seq, j.ended)) hx)
  simp only [Queue.roster, List.map_map, List.mem_map, Function.comp, Prod.mk.injEq] at hm
  obtain ⟨y, hy, hseq, hend⟩ := hm
  by_contra hc
  obtain ⟨hopen, hspare⟩ := not_or.1 hc
  rw [← hseq] at hspare
  have hye : y.ended = false := by
    by_contra h
    simp [Bool.eq_true_of_not_eq_false h] at hend
    exact hopen hend
  have hin : y.seq ∈ l := by simpa [hl, Queue.openSeqs, hspare] using ⟨y, ⟨hy, hye⟩, rfl⟩
  exact hopen (by rw [← hend, List.contains_iff_mem.2 hin, Bool.or_true])

/-! ### Expanding a sequence -/

/-- Jobs that are added to a queue one after another. -/
theorem State.addJobs_queue (q : Nat) (l : List Job) : (l.foldl (fun s j => s.addJob q j) s).queue q =
    { s.queue q with nextSeq := (s.queue q).nextSeq + l.length
                     jobs := (s.queue q).jobs ++ l.mapIdx fun i j => { j with seq := (s.queue q).nextSeq + i } } := by
  induction l generalizing s with
  | nil => simp
  | cons j l ih =>
    rw [List.foldl_cons, ih, State.addJob_queue]
    simp [List.mapIdx_cons, Nat.add_assoc, Nat.add_comm 1]

/-- The jobs that a sequence's body becomes. -/
def bodyJobs (r : RecSeq) (parent : Nat) : List Job :=
  r.body.mapIdx fun i ws => { jobOf ws with
    parent := some parent, take := some (ws, (r.patches.filter (·.1 == i)).map fun p => (p.2, r.bodyDva + 128 * i + 8 * p.2)) }

variable {s}

theorem State.expandNow_none {q : Nat} (h : (s.queue q).expand = none) : s.expandNow q = s := by
  simp only [State.expandNow, h]

/-- A RUN_SEQUENCE that names no sequence becomes a job alone. -/
theorem State.expandNow_unknown {q : Nat} {own : Job} (h : (s.queue q).expand = some own) (hr : s.seqOf (s.queue q).ctx own = none) :
    s.expandNow q = (s.setQueue q fun x => { x with expand := none }).addJob q { own with phase := .running } := by
  have hr' : (s.setQueue q fun x => { x with expand := none }).seqOf
      ((s.setQueue q fun x => { x with expand := none }).queue q).ctx own = none := by
    rw [State.queue_setQueue_same]
    exact hr
  simp only [State.expandNow, h, hr']

theorem State.expandNow_known {q : Nat} {own : Job} {r : RecSeq} (h : (s.queue q).expand = some own)
    (hr : s.seqOf (s.queue q).ctx own = some r) :
    s.expandNow q = ((bodyJobs r ((s.queue q).nextSeq + r.body.length)).foldl (fun s j => s.addJob q j)
      (s.setQueue q fun x => { x with expand := none })).addJob q { own with phase := .running, aux := [r.body.length, 0, 0] } := by
  have hr' : (s.setQueue q fun x => { x with expand := none }).seqOf
      ((s.setQueue q fun x => { x with expand := none }).queue q).ctx own = some r := by
    rw [State.queue_setQueue_same]
    exact hr
  have hn : ((s.setQueue q fun x => { x with expand := none }).queue q).nextSeq = (s.queue q).nextSeq := by
    rw [State.queue_setQueue_same]
  simp only [State.expandNow, h, hr', hn]
  rfl

/-- The queue after its sequence has been expanded. -/
theorem State.expandNow_queue {q : Nat} {own : Job} {r : RecSeq} (h : (s.queue q).expand = some own)
    (hr : s.seqOf (s.queue q).ctx own = some r) : (s.expandNow q).queue q = { s.queue q with
      expand := none, nextSeq := (s.queue q).nextSeq + r.body.length + 1
      jobs := (s.queue q).jobs ++
        (bodyJobs r ((s.queue q).nextSeq + r.body.length)).mapIdx (fun i j => { j with seq := (s.queue q).nextSeq + i }) ++
        [{ own with seq := (s.queue q).nextSeq + r.body.length, phase := .running, aux := [r.body.length, 0, 0] }] } := by
  have hl : (bodyJobs r ((s.queue q).nextSeq + r.body.length)).length = r.body.length := List.length_mapIdx
  rw [State.expandNow_known h hr, State.addJob_queue, State.addJobs_queue, State.queue_setQueue_same, hl]

/-- Nothing is held for its expansion after it. -/
theorem State.expandNow_expand (s : State) (q : Nat) : ((s.expandNow q).queue q).expand = none := by
  cases h : (s.queue q).expand with
  | none => rw [State.expandNow_none h, h]
  | some own =>
    cases hr : s.seqOf (s.queue q).ctx own with
    | none => rw [State.expandNow_unknown h hr, State.addJob_queue, State.queue_setQueue_same]
    | some r => rw [State.expandNow_queue h hr]

/-! ### ABORT_QUEUE -/

/-- The state whose queue an abort stops at the end: its open jobs but the abort itself have ended. -/
def State.abortJobs (s : State) (q : Nat) (self : Option Nat) : State :=
  ((s.expandNow q).queue q |>.openSeqs.filter fun n => !decide (some n = self)).foldl
    (fun s n => s.endJob ⟨q, n⟩ stAborted dtEndedByHost) (s.expandNow q)

/-- A queue that an abort leaves STOPPED, unless it is UNBOUND. -/
def Queue.aborted (x : Queue) : Queue := if x.st = .unbound then x else { x.skip with st := .stopped, cause := 2 }

theorem Queue.aborted_st (x : Queue) : x.aborted.st = .stopped ∧ x.aborted.cause = 2 ∨ x.aborted.st = .unbound := by
  unfold Queue.aborted
  split
  · exact .inr ‹_›
  · exact .inl ⟨rfl, rfl⟩

theorem Queue.aborted_expand (x : Queue) : x.aborted.expand = x.expand := by unfold Queue.aborted; split <;> rfl
theorem Queue.aborted_jobs (x : Queue) : x.aborted.jobs = x.jobs := by unfold Queue.aborted; split <;> rfl

theorem State.abortQueue_fst (s : State) (q : Nat) (self : Option Nat) :
    (s.abortQueue q self).1 = (s.abortJobs q self).setQueue q Queue.aborted := by
  simp only [State.abortQueue, State.abortJobs, ne_eq, decide_not]
  rfl

/-- What an abort leaves of the queue that it names (R380). -/
theorem State.abortQueue_leaves {t : State} {q n : Nat} {self : Option Nat} (h : s.abortQueue q self = (t, n)) :
    ((t.queue q).st = .stopped ∧ (t.queue q).cause = 2 ∨ (t.queue q).st = .unbound) ∧ (t.queue q).expand = none ∧
    ∀ x ∈ (t.queue q).jobs, x.ended = true ∨ some x.seq = self := by
  have ht : t.queue q = ((s.abortJobs q self).queue q).aborted := by
    rw [show t = (s.abortQueue q self).1 by rw [h], State.abortQueue_fst, State.queue_setQueue_same]
  have he : ((s.abortJobs q self).queue q).expand = none :=
    (congrArg Prod.fst (State.endJobs_roster _ q _ _ _)).trans (s.expandNow_expand q)
  rw [ht, Queue.aborted_expand, Queue.aborted_jobs]
  refine ⟨Queue.aborted_st _, he, fun x hx => ?_⟩
  exact (State.endJobs_open (spare := fun n => decide (some n = self)) _ hx).imp_right of_decide_eq_true

/-! ### The sequences -/

/-- A body and a list that have come are stored where every check passes (R374, R375). -/
theorem State.recordSeq_stores {r : JobRef} {x : Job} {body list : List Byte} {ps : List (Nat × Nat)}
    (hp : ((List.range ((x.p 0).field 32 13)).mapM fun i => patchAt ((x.p 0).field 16 13) (leNat ((list.drop (4 * i)).take 4))) = some ps)
    (hb : ∀ i < (x.p 0).field 16 13, bodyEntryOk (s.ctxOf r.q) (wordsOf 16 (body.drop (128 * i))) = true)
    (ho : ∀ y ∈ s.seqs, y.id = (x.p 0).field 0 10 → y.ctx = s.ctxOf r.q)
    (hn : s.patchCount ((x.p 0).field 0 10) + (x.p 0).field 32 13 ≤ 65536) :
    s.recordSeq r x body list = ({ s with
      seqs := { id := (x.p 0).field 0 10, ctx := s.ctxOf r.q,
                body := (List.range ((x.p 0).field 16 13)).map fun i => wordsOf 16 (body.drop (128 * i)),
                patches := ps, bodyDva := (x.p 1).toNat } :: s.seqs.filter (·.id ≠ (x.p 0).field 0 10) }).finishJob r 0 0 0 := by
  have hes : (((List.range ((x.p 0).field 16 13)).map fun i => wordsOf 16 (body.drop (128 * i))).all (bodyEntryOk (s.ctxOf r.q))) = true := by
    simpa using hb
  have hown : (s.seqs.any fun y => y.id == (x.p 0).field 0 10 && decide (y.ctx ≠ s.ctxOf r.q)) = false := by
    simpa using ho
  simp only [State.recordSeq, hp, hes, hown, Nat.not_lt.2 hn, Bool.not_true, Bool.false_eq_true, if_false]
  rfl

theorem execRecordSequence_takes {s0 : State} {q : QueueId} {j : Job} (h : s.takes q (isOp 0x31) j s0) (hok : seqOk j = true) :
    execRecordSequence q s = .next (s0.recordRun (j.refOn q) j) :=
  congrArg Host.Outcome.next (State.runJob_takes h (if_pos hok))

/-- The patch list is read where there is one. -/
theorem State.recordRun_reads {s0 t1 t2 : State} {r : JobRef} {x : Job} {body list : List Byte}
    (hb : s0.reads r (x.p 1).toNat (128 * (x.p 0).field 16 13) t1 body)
    (hl : ((x.p 0).field 32 13 = 0 ∧ t2 = t1 ∧ list = []) ∨
      ((x.p 0).field 32 13 ≠ 0 ∧ t1.reads r (x.p 2).toNat (4 * (x.p 0).field 32 13) t2 list)) :
    s0.recordRun r x = t2.recordSeq r x body list := by
  rw [State.recordRun, State.withStruct_ok hb]
  obtain ⟨hz, rfl, rfl⟩ | ⟨hz, hr⟩ := hl
  · exact if_pos hz
  · exact (if_neg hz).trans (State.withStruct_ok hr)

/-- One entry of a sequence is taken with its patches read (R377). -/
theorem State.takeEntries_succ {t : State} {q n : Nat} {j : Job} {ws ws' : List Word} {slots : List (Nat × Nat)}
    (he : s.errorsOf (s.ctxOf q) 2 = false) (hn : (s.queue q).nextEntry = some (j, ws, slots))
    (hp : (patched (fetchAgent (s.ctxOf q)) ws slots).go s = (.ok ws', t)) :
    s.takeEntries q (n + 1) = (t.setJob ⟨q, j.seq⟩ (t.taken q ws')).takeEntries q n := by
  simp only [State.takeEntries, he, hn, Bool.false_eq_true, if_false]
  exact State.access_ok hp

/-- A RUN_SEQUENCE of a running queue of an OPEN context with no error of it left. -/
theorem execRunSequence_runs {q : QueueId} (hs : s.serving = true) (hr : (s.queue q.val).st = .running)
    (hc : (s.ctx (s.ctxOf q.val)).st = .opened) (he : s.errorsOf (s.ctxOf q.val) 2 = false) :
    ((s.queue q.val).expand = none → execRunSequence q s = .next (s.takeEntries q.val 4096)) ∧
    (∀ own, (s.queue q.val).expand = some own → s.seqOf (s.ctxOf q.val) own = none →
      execRunSequence q s = .next ((s.expandNow q.val).abortJob ⟨q.val, (s.queue q.val).nextSeq⟩ (badSequence own))) ∧
    ∀ own r, (s.queue q.val).expand = some own → s.seqOf (s.ctxOf q.val) own = some r →
      execRunSequence q s = .next ((s.expandNow q.val).takeEntries q.val r.body.length) := by
  refine ⟨fun h => ?_, fun own h hq => ?_, fun own r h hq => ?_⟩
  · simp [execRunSequence, hs, hr, hc, he, h]
  · simp [execRunSequence, hs, hr, hc, he, h, hq]
  · simp [execRunSequence, hs, hr, hc, he, h, hq]

/-- An ABORT_QUEUE that its checks let through goes on as a later run would. -/
theorem State.abortStart_runs {t t1 : State} {r : JobRef} {j x : Job} {n : Nat} (hf : fits (j.p 0) [(0, 6)] = true)
    (hq : r.q = 0 ∨ (s.ctxOf ((j.p 0).field 0 6) = s.ctxOf r.q ∧ (s.queue ((j.p 0).field 0 6)).st ≠ .unbound))
    (ha : s.abortQueue ((j.p 0).field 0 6) (if (j.p 0).field 0 6 = r.q then some r.seq else none) = (t, n))
    (ht : t1 = t.setJob r fun x => { x with
      aux := [(j.p 0).field 0 6, n, if (j.p 0).field 0 6 = r.q then r.seq else (t.queue ((j.p 0).field 0 6)).nextSeq] })
    (hx : t1.job? r = some x) : s.abortStart r j = t1.abortRun r x := by
  have hg : (r.q ≠ 0 && s.ctxOf ((j.p 0).field 0 6) ≠ s.ctxOf r.q ||
      (decide (r.q ≠ 0) && decide ((s.queue ((j.p 0).field 0 6)).st = .unbound))) = false := by
    obtain h | ⟨h, h'⟩ := hq
    · simp [h]
    · simp [h, h']
  subst ht
  simp only [State.abortStart, hf, hg, ha, hx, Bool.not_true, Bool.false_eq_true, if_false]

/-- Settles O18, from what an abort leaves of a queue and how a sequence is stored, expanded and taken. -/
theorem abortQueueStops : Obligations.AbortQueueStops := by
  unfold Obligations.AbortQueueStops
  refine ⟨fun s s0 t t1 q j x n h h0 hf hq ha ht hx => ?_, fun s q x hs hn hw hb => ?_, fun s t q n self => State.abortQueue_leaves,
    fun s s0 t1 t2 q j body list ps h hok hb hl hp he ho hc => ?_, fun s q => execRunSequence_runs, fun s q own r x hx hw hr => ?_,
    fun s t q n j ws ws' slots => State.takeEntries_succ⟩
  · subst h0
    rw [exec, execAbortQueue, State.runJob_starts h, State.abortStart_runs hf hq ha ht hx]
  · rw [exec, execAbortQueue, State.runJob_again hs hn hw, State.abortRun, if_pos hb]
    rfl
  · rw [exec, execRecordSequence_takes h hok, State.recordRun_reads hb hl, State.recordSeq_stores hp he ho hc]
  · subst hx
    rw [State.expandNow_queue hw hr]
    exact ⟨by simp only [bodyJobs, List.mapIdx_mapIdx]; rfl, rfl, rfl⟩

end Sys2Proof.Machine
end

section
/-! The model's commands: UNLOAD_MODEL, LOAD_MODEL and SWAP_DENSE_SET (16 R392 to R394). -/

namespace Sys2Proof.Machine

variable {s s0 : State} {q : QueueId} {j : Job}

/-! ### UNLOAD_MODEL -/

/-! Ending the swaps that wait leaves device memory, the contexts and the slots, and so does the rest of an unload. -/

theorem State.unload_hbm (s : State) : s.unload.hbm = s.hbm :=
  foldl_keeps State.hbm (f := fun s (x : Job) => s.abortJob ⟨0, x.seq⟩ dtWrongState) (fun _ _ => rfl) _ s

theorem State.unload_ctxs (s : State) : s.unload.ctxs = s.ctxs :=
  foldl_keeps State.ctxs (f := fun s (x : Job) => s.abortJob ⟨0, x.seq⟩ dtWrongState) (fun _ _ => rfl) _ s

theorem State.unload_slots (s : State) : s.unload.slots = s.slots :=
  foldl_keeps State.slots (f := fun s (x : Job) => s.abortJob ⟨0, x.seq⟩ dtWrongState) (fun _ _ => rfl) _ s


/-- With the contexts closed, or with no model, the command does not wait. -/
theorem State.unloadRun_unloads {r : JobRef} (hm : s.model.res ≠ none) (hc : s.allClosed = true) :
    s.unloadRun r j = (if s.pkg.draining = true then s.setDrain false else s).unload.finishJob r 0 0 0 := by
  simp only [State.unloadRun, Option.isNone_iff_eq_none, hm, hc, Bool.not_true, Bool.false_eq_true, if_false]
  rfl

theorem State.unloadRun_empty {r : JobRef} (hm : s.model.res = none) : s.unloadRun r j = (s.dropTlb 0).finishJob r 0 0 0 := by
  simp only [State.unloadRun, hm]
  rfl

theorem State.unloadRun_waits {r : JobRef} (hm : s.model.res ≠ none) (hc : s.allClosed = false) :
    s.unloadRun r j = if s.pkg.draining = true then s else s.setDrain true := by
  simp only [State.unloadRun, Option.isNone_iff_eq_none, hm, hc, Bool.not_false, if_false, if_true]

theorem execUnloadModel_takes (h : s.takes q (isOp 0x11) j s0) : execUnloadModel q s = .next (s0.unloadRun (j.refOn q) j) :=
  congrArg Host.Outcome.next (State.runJob_takes h rfl)

/-! ### LOAD_MODEL -/

theorem execLoadModel_takes (h : s.takes q (isOp 0x10) j s0) (hok : loadOk j = true) :
    execLoadModel q s = .next (s0.loadRun (j.refOn q) j) :=
  congrArg Host.Outcome.next (State.runJob_takes h (if_pos hok))

/-- A load that need not wait: what was resident is unloaded, the container comes and is stored, and it is checked. -/
theorem State.loadRun_loads {b u t1 t2 : State} {r0 : JobRef} {bs : List Byte} {r : Resident} {sets : List (Nat × List Byte)}
    (hc : s.model.res = none ∨ s.allClosed = true) (hb : b = if s.pkg.draining = true then s.setDrain false else s)
    (hu : u = if b.model.res = none then b else b.unload)
    (hg : ({ u with pkg := { u.pkg with loading := true } }).given r0 (j.p 0) (j.p 1).toNat none t1 bs)
    (hs : t1.stores r0 (j.p 2).toNat bs none t2) (hr : readContainer bs (j.p 2).toNat (j.p 3).toNat = some (r, sets)) :
    s.loadRun r0 j = t2.loadSets r0 r (digest bs) sets := by
  have hwait : (s.model.res.isSome && !s.allClosed) = false := by
    obtain h | h := hc <;> simp [h]
  have hun : (if b.model.res.isSome = true then b.unload else b) = u := by
    rw [hu]
    cases h : b.model.res <;> simp
  simp only [State.loadRun, hwait, Bool.false_eq_true, if_false, ← hb, hun]
  rw [State.withSource_ok hg, State.loadData, State.putDva_ok hs, hr]

/-! ### SWAP_DENSE_SET -/

/-- Without a source the slot is staged as it is. -/
theorem execSwapDenseSet_stages {r : Resident} (h : s.starts q (isOp 0x12) j) (hm : (s.begun q j).model.res = some r)
    (hf : fits (j.p 0) [(0, 4)] = true) (hk : (j.p 0).toNat < r.setSlots) (h1 : j.p 1 = 0) (h2 : j.p 2 = 0) :
    execSwapDenseSet q s = .next ((s.begun q j).stageSet (j.refOn q) (j.p 0).toNat) := by
  have ha : addrOk (0 : Word) = true := by decide
  have hz : fits (0 : Word) [(0, 40)] = true := by decide
  simp only [execSwapDenseSet, State.runJob_starts h, hm, hf, hk, h1, h2, ha, hz]
  rfl

/-- With a source the slot takes its image, and is staged once that is stored. -/
theorem State.swapSetRun_stores {t1 t2 : State} {r0 : JobRef} {r : Resident} {bs : List Byte} (hm : s.model.res = some r)
    (hg : s.given r0 (j.p 1) (j.p 2).toNat none t1 bs) (hb : t1.setBusy (j.p 0).toNat = false)
    (hs : t1.stores r0 (r.slotDva (j.p 0).toNat) bs none t2) :
    s.swapSetRun r0 j = ({ t2 with
      sec := { t2.sec with mrProgram := digest (t2.sec.mrProgram ++ leBytes 1 (j.p 0).toNat ++ digest bs) } }).stageSet r0 (j.p 0).toNat := by
  simp only [State.swapSetRun, hm]
  rw [State.withSource_ok hg, hb, if_neg Bool.false_ne_true, State.putDva_ok hs]

theorem execSwapDenseSet_copies {r : Resident} (h : s.starts q (isOp 0x12) j) (hm : (s.begun q j).model.res = some r)
    (hf : fits (j.p 0) [(0, 4)] = true) (hk : (j.p 0).toNat < r.setSlots) (h1 : j.p 1 ≠ 0) (ha : addrOk (j.p 1) = true)
    (hl : fits (j.p 2) [(0, 40)] = true) (hn : (j.p 2).toNat ≤ r.setBytes) (hb : (s.begun q j).setBusy (j.p 0).toNat = false) :
    execSwapDenseSet q s = .next ((s.begun q j).swapSetRun (j.refOn q) j) := by
  have h1' : j.p 1 ≠ 0#64 := h1
  simp [execSwapDenseSet, State.runJob_starts h, hm, hf, Nat.not_le.2 hk, h1', ha, hl, Nat.not_lt.2 hn, hb]

/-- Settles O19, by the runs of the three commands. -/
theorem modelsLoadAndUnload : Obligations.ModelsLoadAndUnload := by
  unfold Obligations.ModelsLoadAndUnload
  refine ⟨fun s s0 q j h hm hc => ?_, fun s s0 q j h hm => ?_, fun s s0 q j h hm hc => ?_, fun s => ?_,
    fun s s0 b u t1 t2 q j bs r sets h hok hc hb hu hg hs hr => ?_, fun s r0 r sum => ⟨rfl, fun t k b rest hs => ?_⟩,
    fun s s0 q j r h h0 hm hf hk h1 h2 => ?_, fun s s0 t1 t2 q j r bs h h0 hm hf hk h1 ha hl hn hb hg hb1 hs => ?_⟩
  · rw [exec, execUnloadModel_takes h, State.unloadRun_unloads hm hc]
  · rw [exec, execUnloadModel_takes h, State.unloadRun_empty hm]
  · rw [exec, execUnloadModel_takes h, State.unloadRun_waits hm hc]
  · exact ⟨rfl, rfl, rfl, rfl, rfl, rfl, rfl, rfl, s.unload_hbm, s.unload_ctxs, s.unload_slots⟩
  · rw [exec, execLoadModel_takes h hok, State.loadRun_loads hc hb hu hg hs hr]
  · exact State.putDva_ok hs
  · subst h0
    rw [exec, execSwapDenseSet_stages h hm hf hk h1 h2]
    rfl
  · subst h0
    rw [exec, execSwapDenseSet_copies h hm hf hk h1 ha hl hn hb, State.swapSetRun_stores hm hg hb1 hs]

end Sys2Proof.Machine
end

section
/-! Invalidations of translations (14 R353 to R355). -/

namespace Sys2Proof.Machine

/-- The oldest invalidation completes once its transfers have drained, and the next is looked at. -/
theorem State.invDrain_drained {s : State} {v : Invalidate} {rest : List Invalidate} {n : Nat} (h : s.xlat.invs = v :: rest)
    (hd : s.xlat.undrained v = []) : s.invDrain (n + 1) = (s.invComplete v).invDrain n := by
  simp only [State.invDrain, h, hd, List.isEmpty_nil, if_true]

theorem State.invDrain_waits {s : State} {v : Invalidate} {rest : List Invalidate} {n : Nat} (h : s.xlat.invs = v :: rest)
    (hd : s.xlat.undrained v ≠ []) : s.invDrain (n + 1) = s := by
  simp only [State.invDrain, h, List.isEmpty_iff, hd, if_false]

theorem State.invComplete_invs {s : State} {v : Invalidate} {rest : List Invalidate} (h : s.xlat.invs = v :: rest) :
    (s.invComplete v).xlat.invs = rest := by
  show s.xlat.invs.drop 1 = rest
  rw [h]
  rfl

/-- Settles O41, by the three commands' definitions and what a completion leaves. -/
theorem invalidations : Obligations.Invalidations := by
  unfold Obligations.Invalidations
  refine ⟨fun s s0 t now iova len pasid v x h0 ha hn hv hx ht => ?_, fun s s0 now h0 ha => ?_, fun s v rest n h =>
    ⟨fun hd => ⟨State.invDrain_drained h hd, State.invComplete_invs h, rfl⟩, State.invDrain_waits h⟩,
    fun s s0 t now v rest late h0 ha hi hl hne hd ht => ?_⟩
  · subst h0 hv hx ht
    simp only [exec, execInvalidateRequest, ha, Nat.not_le.2 hn, Bool.not_true, Bool.false_or, decide_false, Bool.false_eq_true, if_false]
  · subst h0
    simp only [exec, execInvalidateDrained, ha, if_true]
  · subst h0 hl ht
    have hlate : ¬((s.advanceTo now).now - v.arrived < Config.ms) := Nat.not_lt.2 hd
    simp only [exec, execInvalidateTimeout, hi, ha, hlate, List.isEmpty_eq_false_iff.2 hne, Bool.not_true, decide_false,
      Bool.or_self, Bool.false_eq_true, if_false]
    rfl

end Sys2Proof.Machine
end

section
/-! The boot window (22 R457, R458, R459, R494): chunks, the image, and the checks of the firmware. -/

namespace Sys2Proof.Machine

/-! ### Time passes: the ports' work leaves what the boot ROM and the recorder hold -/

/-- What the boot ROM and the recorder hold. -/
def State.bootPart (s : State) : Boot × Recorder := (s.boot, s.recorder)

variable (s : State)

@[simp] theorem State.setPort_bootPart (p : Nat) (f : Port → Port) : (s.setPort p f).bootPart = s.bootPart := rfl

@[simp] theorem State.startFrame_bootPart (port : Nat) (f : TxFrame) : (s.startFrame port f).bootPart = s.bootPart := by
  unfold State.startFrame
  extract_lets a sent acked first noted
  have hacked : acked.bootPart = s.bootPart := by
    clear_value a
    cases a <;> rfl
  split
  · exact hacked
  · have hnoted : noted.bootPart = s.bootPart := hacked
    split <;> exact hnoted

@[simp] theorem State.runPort_bootPart (port budget fuel : Nat) : (s.runPort port budget fuel).bootPart = s.bootPart := by
  induction fuel generalizing s budget with
  | zero => rfl
  | succ n ih =>
    simp only [State.runPort]
    split
    · rfl
    · split
      · rfl
      · split
        · rfl
        · rw [ih, State.startFrame_bootPart, State.setPort_bootPart]

@[simp] theorem State.runTest_bootPart (port budget fuel : Nat) : (s.runTest port budget fuel).bootPart = s.bootPart := by
  induction fuel generalizing s budget with
  | zero => rfl
  | succ n ih =>
    simp only [State.runTest]
    split
    · rfl
    · split
      · rfl
      · exact (ih _ _).trans ((State.startFrame_bootPart _ port _).trans (s.setPort_bootPart port _))

@[simp] theorem State.runTests_bootPart (dt : Nat) : (s.runTests dt).bootPart = s.bootPart := by
  unfold State.runTests
  split
  · rfl
  · split
    · rfl
    · exact foldl_keeps State.bootPart (fun s p => s.runTest_bootPart p _ _) _ s

variable {s}

/-- Once time has passed in a package that is alive, the boot ROM's copy has ended. -/
theorem State.advance_bootPart {dt : Nat} (ha : s.alive = true) (hd : dt ≠ 0) :
    (s.advance dt).bootPart = (s.boot.endCopy, s.recorder) := by
  have hon : (s.pkg.powered && s.pkg.perstN) = true := by
    simp only [State.alive, Bool.and_eq_true] at ha ⊢
    exact ha.1.1
  unfold State.advance
  extract_lets pkg later drawn
  have hruns : later.alive = true := ha
  rw [if_neg (by simp [hon]), if_neg (by simp [hruns, hd]), foldl_keeps State.bootPart (fun s p => by simp), State.runTests_bootPart]
  rfl

/-- Where none has, or the package is not alive, it goes on. -/
theorem State.advance_bootPart_still {dt : Nat} (h : s.alive = false ∨ dt = 0) : (s.advance dt).bootPart = s.bootPart := by
  unfold State.advance
  extract_lets pkg later drawn
  have hstill : (!later.alive || decide (dt = 0)) = true := by
    obtain h | h := h
    · rw [show later.alive = false from h]
      rfl
    · simp [h]
  rw [if_pos hstill]
  split <;> rfl

theorem State.advance_boot {dt : Nat} (ha : s.alive = true) (hd : dt ≠ 0) : (s.advance dt).boot = s.boot.endCopy :=
  congrArg Prod.fst (State.advance_bootPart ha hd)

/-- Time leaves the recorder. -/
theorem State.advanceTo_recorder (s : State) (now : Nat) : (s.advanceTo now).recorder = s.recorder := by
  by_cases h : s.alive = false ∨ now - s.pkg.elapsed = 0
  · exact congrArg Prod.snd (State.advance_bootPart_still h)
  · obtain ⟨ha, hd⟩ := not_or.1 h
    exact congrArg Prod.snd (State.advance_bootPart (Bool.eq_true_of_not_eq_false ha) hd)

/-! ### The count of cleared records -/

theorem State.raiseFatal_clearCount (s : State) (cause : Nat) (frec : Option FaultRec) :
    (s.raiseFatal cause frec).recorder.clearCount = s.recorder.clearCount := by
  unfold State.raiseFatal
  split <;> rfl

theorem State.recorderWrite_clearCount (s : State) {f : Recorder → Recorder} (hf : ∀ r, (f r).clearCount = r.clearCount) :
    (s.recorderWrite f).recorder.clearCount = s.recorder.clearCount := by
  unfold State.recorderWrite
  dsimp only
  split
  · exact (State.raiseFatal_clearCount _ 9 none).trans (hf _)
  · exact hf _

theorem State.writeSlotAt_clearCount (s : State) (i : Nat) (e : EventRec) :
    (s.writeSlotAt i e).recorder.clearCount = s.recorder.clearCount :=
  s.recorderWrite_clearCount fun _ => rfl

theorem State.checkTorn_clearCount (s : State) : s.checkTorn.recorder.clearCount = s.recorder.clearCount := by
  unfold State.checkTorn
  split
  · rfl
  · dsimp only
    split
    · rfl
    · split
      · rfl
      · exact State.writeSlotAt_clearCount _ _ _

theorem State.recordEvent_clearCount (s : State) (e : Event) :
    (s.recordEvent e).recorder.clearCount = s.recorder.clearCount := by
  unfold State.recordEvent
  split
  · rfl
  · dsimp only
    split
    · exact (State.writeSlotAt_clearCount _ _ _).trans s.checkTorn_clearCount
    · refine (State.recorderWrite_clearCount _ ?_).trans s.checkTorn_clearCount
      exact fun _ => rfl

/-- The firmware that starts: the stage that follows, its memory to be read, and the count of cleared records as it was. -/
theorem State.startFirmware_starts (s : State) (linked : Nat) :
    (s.startFirmware linked).pkg.stage = .hbmTraining ∧ (s.startFirmware linked).pkg.memInfoValid = true ∧
      (s.startFirmware linked).recorder.clearCount = s.recorder.clearCount := by
  unfold State.startFirmware
  dsimp only
  refine ⟨by rw [State.recordEvent_pkg], by rw [State.recordEvent_pkg], ?_⟩
  rw [State.recordEvent_clearCount]
  show (State.advanceTo _ linked).recorder.clearCount = _
  rw [State.advanceTo_recorder, State.checkTorn_clearCount]

/-! ### A chunk in image memory -/

theorem memGet_append_left {l m : List Host.Cell} {a : Nat} (h : ∀ c ∈ m, a < c.1) : memGet (l ++ m) a = memGet l a := by
  induction l with
  | nil => exact memGet_of_lt h
  | cons c l ih => simp only [List.cons_append, memGet, ih]

theorem memGet_append_right {l m : List Host.Cell} {a : Nat} (h : ∀ c ∈ l, c.1 < a) : memGet (l ++ m) a = memGet m a := by
  induction l with
  | nil => rfl
  | cons c l ih =>
    have hc := h c (List.mem_cons_self ..)
    rw [List.cons_append, memGet, if_neg (Nat.ne_of_lt hc), if_neg (Nat.not_lt.2 hc.le), ih fun d hd => h d (List.mem_cons_of_mem _ hd)]

/-- Memory that stands at an offset. -/
theorem memGet_shift (m : List Host.Cell) (o k : Nat) : memGet (m.map fun c => (c.1 + o, c.2)) (o + k) = memGet m k := by
  induction m with
  | nil => rfl
  | cons c r ih =>
    have heq : c.1 + o = o + k ↔ c.1 = k := by omega
    have hlt : o + k < c.1 + o ↔ k < c.1 := by omega
    simp only [List.map_cons, memGet, ih, heq, hlt]

/-- A chunk is in image memory at its offset, and the rest is as it was. -/
theorem Boot.takeChunk_image {b : Boot} (hi : memWf b.image = true) (hc : memWf b.chunkBuf = true) (a : Nat) :
    memGet b.takeChunk.image a =
      if b.imageAddr ≤ a ∧ a < b.imageAddr + 32768 then memGet b.chunkBuf (a - b.imageAddr) else memGet b.image a := by
  set o := b.imageAddr
  set cells := (b.chunkBuf.filter (·.1 < 32768)).map fun c => (c.1 + o, c.2) with hcells
  have himg : b.takeChunk.image = b.image.filter (·.1 < o) ++ cells ++ b.image.filter fun c => o + 32768 ≤ c.1 := rfl
  have hlow : ∀ c ∈ b.image.filter (·.1 < o), c.1 < o := fun c hm => by simpa using (List.mem_filter.1 hm).2
  have hmid : ∀ c ∈ cells, o ≤ c.1 ∧ c.1 < o + 32768 := fun c hm => by
    obtain ⟨d, hd, rfl⟩ := List.mem_map.1 hm
    have : d.1 < 32768 := by simpa using (List.mem_filter.1 hd).2
    exact ⟨Nat.le_add_left .., by omega⟩
  have hhigh : ∀ c ∈ b.image.filter fun c => o + 32768 ≤ c.1, o + 32768 ≤ c.1 := fun c hm => by simpa using (List.mem_filter.1 hm).2
  rw [himg]
  obtain hlt | hle := Nat.lt_or_ge a o
  · rw [if_neg (by omega), List.append_assoc, memGet_append_left (fun c hm => ?_), memGet_filter (fun k => decide (k < o)) hi,
      if_pos (by simpa using hlt)]
    obtain hm | hm := List.mem_append.1 hm
    · exact Nat.lt_of_lt_of_le hlt (hmid c hm).1
    · exact Nat.lt_of_lt_of_le (by omega) (hhigh c hm)
  · obtain hin | hout := Nat.lt_or_ge a (o + 32768)
    · obtain ⟨k, rfl⟩ := Nat.exists_eq_add_of_le hle
      rw [if_pos ⟨hle, hin⟩, memGet_append_left (fun c hm => Nat.lt_of_lt_of_le hin (hhigh c hm)),
        memGet_append_right (fun c hm => Nat.lt_of_lt_of_le (hlow c hm) hle), hcells, memGet_shift,
        memGet_filter (fun k => decide (k < 32768)) hc, if_pos (by simp; omega), Nat.add_sub_cancel_left]
    · rw [if_neg (by omega), memGet_append_right (fun c hm => ?_), memGet_filter (fun k => decide (o + 32768 ≤ k)) hi,
        if_pos (by simpa using hout)]
      obtain hm | hm := List.mem_append.1 hm
      · exact Nat.lt_of_lt_of_le (hlow c hm) hle
      · exact Nat.lt_of_lt_of_le (hmid c hm).2 hout

/-! ### The checks of an image -/

theorem Boot.complete_iff (b : Boot) : b.complete = true ↔ ∀ k < ceilDiv b.latchedLen 32768, k ∈ b.received := by
  simp [Boot.complete]

/-- The reason by the checks in their order (R457). -/
theorem State.bootReason_cases (s : State) :
    (s.boot.complete = false ∧ s.bootReason = 2) ∨
    (s.boot.complete = true ∧ s.boot.formed = false ∧ s.bootReason = 1) ∨
    (s.boot.complete = true ∧ s.boot.formed = true ∧ digest s.boot.key ≠ s.fuses.fwKeyHash ∧ s.bootReason = 4) ∨
    (s.boot.complete = true ∧ s.boot.formed = true ∧ digest s.boot.key = s.fuses.fwKeyHash ∧ s.boot.signatureOk = false ∧
      s.bootReason = 3) ∨
    (s.boot.complete = true ∧ s.boot.formed = true ∧ digest s.boot.key = s.fuses.fwKeyHash ∧ s.boot.signatureOk = true ∧
      s.bootReason = 0) := by
  cases hc : s.boot.complete with
  | false => exact .inl ⟨rfl, by simp [State.bootReason, hc]⟩
  | true =>
    cases hf : s.boot.formed with
    | false => exact .inr (.inl ⟨rfl, rfl, by simp [State.bootReason, hc, hf]⟩)
    | true =>
      by_cases hk : digest s.boot.key = s.fuses.fwKeyHash
      · cases hs : s.boot.signatureOk with
        | false => exact .inr (.inr (.inr (.inl ⟨rfl, rfl, hk, rfl, by simp [State.bootReason, hc, hf, hk, hs]⟩)))
        | true => exact .inr (.inr (.inr (.inr ⟨rfl, rfl, hk, rfl, by simp [State.bootReason, hc, hf, hk, hs]⟩)))
      · exact .inr (.inr (.inl ⟨rfl, rfl, hk, by simp [State.bootReason, hc, hf, hk]⟩))

theorem State.bootReason_two (s : State) :
    s.bootReason = 2 ↔ ∃ k < ceilDiv s.boot.latchedLen 32768, k ∉ s.boot.received := by
  have hc : s.boot.complete = false ↔ ∃ k < ceilDiv s.boot.latchedLen 32768, k ∉ s.boot.received := by
    rw [← Bool.not_eq_true, Boot.complete_iff]
    simp
  rw [← hc]
  obtain ⟨h, hr⟩ | ⟨h, -, hr⟩ | ⟨h, -, -, hr⟩ | ⟨h, -, -, -, hr⟩ | ⟨h, -, -, -, hr⟩ := s.bootReason_cases <;> simp [h, hr]

theorem State.bootReason_zero (s : State) : s.bootReason = 0 ↔
    s.boot.complete = true ∧ s.boot.formed = true ∧ digest s.boot.key = s.fuses.fwKeyHash ∧ s.boot.signatureOk = true := by
  obtain ⟨h, hr⟩ | ⟨-, h, hr⟩ | ⟨-, -, h, hr⟩ | ⟨-, -, -, h, hr⟩ | ⟨h1, h2, h3, h4, hr⟩ := s.bootReason_cases
  · simp [h, hr]
  · simp [h, hr]
  · simp [h, hr]
  · simp [h, hr]
  · exact ⟨fun _ => ⟨h1, h2, h3, h4⟩, fun _ => hr⟩

theorem State.bootReason_three {s : State} (hc : s.boot.complete = true) (hf : s.boot.formed = true)
    (hk : digest s.boot.key = s.fuses.fwKeyHash) (hs : s.boot.signatureOk = false) : s.bootReason = 3 := by
  simp [State.bootReason, hc, hf, hk, hs]

/-! ### The commands of the window -/

/-- The window is closed to writes while it reads BUSY. -/
theorem State.bootOpen_busy {s : State} (h : s.boot.state = .busy) : s.bootOpen = false := by simp [State.bootOpen, h]

theorem State.writeBoot_busy {s : State} (h : s.boot.state = .busy) (o size : Nat) (v : Word) : s.writeBoot o size v = .next s := by
  have hopen := State.bootOpen_busy h
  unfold State.writeBoot
  split
  · split
    · simp [execBootChunk, hopen]
    · simp [execBootFinish, hopen]
    · simp [execBootDiscard, hopen, h]
    · rfl
  · simp [hopen]

theorem State.bootOpen_state {s : State} (h : s.bootOpen = true) : s.boot.state = .waiting ∨ s.boot.state = .chunkTaken := by
  simpa using (Bool.and_eq_true_iff.1 h).2

/-- A verification that ends: the firmware starts, or the image is rejected. -/
theorem execFirmwareVerified_verifying {s : State} {now linked : Nat} (ha : (s.advanceTo now).alive = true)
    (hv : (s.advanceTo now).boot.state = .verifying) :
    execFirmwareVerified now linked s = .next (if (s.advanceTo now).bootReason = 0 then
        ({ s.advanceTo now with
          boot := { (s.advanceTo now).boot with state := .verified, reason := 0, fwVersion := (s.advanceTo now).boot.num 12 4 }
          sec := { (s.advanceTo now).sec with mrFirmware := digest (s.advanceTo now).boot.signed } } : State).startFirmware linked
      else { s.advanceTo now with boot := (s.advanceTo now).boot.reject (s.advanceTo now).bootReason }) := by
  simp only [execFirmwareVerified, ha, hv, Bool.not_true, ne_eq, not_true_eq_false, decide_false, Bool.or_self, Bool.false_eq_true,
    if_false]
  split
  · rename_i h0
    rw [if_pos h0]
  · rename_i h0
    rw [if_neg h0]

/-- Settles O33, by the window's commands, the copy of a chunk, and the checks in their order. -/
theorem bootWindow : Obligations.BootWindow := by
  unfold Obligations.BootWindow
  refine ⟨fun s ho ha hl => ?_, fun s ho h => ?_, fun s o size v hw hb ho hs hm => ?_, fun s now ha hb hn => ?_,
    fun b hi hc => Boot.takeChunk_image hi hc, fun s ho => ?_, fun s ho hr => ?_, fun s hw ha hr => ?_, fun s s0 now linked h0 ha hv => ?_,
    fun s b hb => ?_, fun s linked => s.startFirmware_starts linked⟩
  · have hin : s.boot.imageAddr < 16777216 := hl
    simp [exec, execBootChunk, ho, ha, Nat.not_le.2 hin]
  · have hbad : (decide (s.boot.imageAddr % 32768 ≠ 0) || decide (2 ^ 24 ≤ s.boot.imageAddr)) = true := by simpa using h
    simp only [exec, execBootChunk, ho, hbad, Bool.not_true, Bool.false_eq_true, if_false, if_true]
    rfl
  · have hacc : windowAccess o size = true := by
      obtain rfl | rfl := hs <;> simp [windowAccess, hm]
    simp only [exec, execRegisterWrite, hw, hacc, Nat.not_le.2 ho, Bool.not_true, decide_false, Bool.or_self, Bool.false_eq_true, if_false,
      State.writeBoot_busy hb]
  · have hd : now - s.pkg.elapsed ≠ 0 := Nat.sub_ne_zero_of_lt hn
    rw [State.advanceTo, State.advance_boot ha hd, Boot.endCopy, if_pos hb]
  · simp [exec, execBootFinish, ho]
  · obtain h | h := State.bootOpen_state ho <;> simp [exec, execBootDiscard, ho, h, b2n]
  · simp [exec, execBootDiscard, hw, ha, hr, b2n]
  · subst h0
    rw [exec, execFirmwareVerified_verifying ha hv]
    rfl
  · subst hb
    exact ⟨s.bootReason_two, s.bootReason_zero, State.bootReason_three⟩

end Sys2Proof.Machine
end
